-- ==== Sys2Proof/Word.lean ====
section
/-! DEFINITION. The plainest value types of the model: bytes, 32-bit register words, 64-bit words, and the sparse
table (a list of key and value pairs) that every numbered collection of the device is held in. -/

namespace Sys2Proof

/-- One byte. -/
abbrev Byte := BitVec 8

/-- Every register is 32 bits wide (R12). -/
abbrev Word := BitVec 32

/-- A 64-bit field: an IOVA, a counter, a RESULT. -/
abbrev DWord := BitVec 64

/-- A sparse table by number, kept in ascending key order by the operation that writes it. -/
abbrev Tab (α : Type) := List (Nat × α)

end Sys2Proof
end

