-- ==== Sys2Proof/Syntax.lean ====
section
/-! DEFINITION. The commands of the KY-4800, one constructor for each row of spec/opcode_table.json, and the data
that the commands bring with them from outside the device (a written value, the bytes of a completed host read, a
received frame, a sampled measurement). No row of the table gives bits, so the operands are the model's own: each
names what the row's rule says arrives with the step. -/

namespace Sys2Proof

/-- How one host DMA read ended (R357). -/
inductive ReadFailure where
  | unsupportedRequest
  | completerAbort
  | poisoned
  | completionTimeout
  | protectionRefusal
  deriving DecidableEq, Repr

/-- The outcome of a host DMA read. -/
inductive ReadResult where
  | ok (bytes : List Byte)
  | failed (why : ReadFailure)
  deriving DecidableEq, Repr

/-- The kind of an access that a protection unit checks (R391). -/
inductive AccessKind where
  | read
  | write
  | fetch
  | atomic
  deriving DecidableEq, Repr

/-- One access on the interconnect: address, kind and length in bytes (R391, R398). -/
structure Access where
  addr : Nat
  kind : AccessKind
  len  : Nat
  deriving DecidableEq, Repr

/-- What a completed host DMA read was for (R356). -/
inductive DmaTarget where
  /-- A descriptor fetch of one SQ slot of a queue pair. -/
  | fetch (fn qp slot : Nat)
  /-- Input bytes of an item, read from an IOVA. -/
  | item (id : Nat) (iova : DWord)
  /-- The recovery image of R451. -/
  | recovery
  deriving DecidableEq, Repr

/-- What went on inside the device while the read ran: the engine's own access to device memory, an HBM
uncorrectable error at an address, and how many single-bit errors were corrected (R383, R391). -/
structure DmaInner where
  access : Option Access
  hbmUe  : Option Nat
  hbmCe  : Nat
  deriving DecidableEq, Repr

/-- Results of the physical steps that the boot ROM performs (R447): the ROM self-test and the PUF, which may
fail. -/
structure BootProbe where
  romOk : Bool
  pufOk : Bool
  deriving DecidableEq, Repr

/-- The destination of a received frame, relative to the sub-port's address (step 3 of R247). -/
inductive FrameDst where
  | own
  | broadcastOrMulticast
  | other
  deriving DecidableEq, Repr

/-- What kind of frame arrived, as steps 2 to 4 of R247 tell them apart. -/
inductive FrameKind where
  | eapolMka
  | pauseOrPfc
  | malformed
  | otherWellFormed
  | udp
  deriving DecidableEq, Repr

/-- A frame received on a sub-port. The header fields are those that the ingress steps test. `payload` is the UDP
payload; `raw` is the frame without its FCS, as the exception ring stores it (R269). -/
structure EthFrame where
  port      : Nat
  subPort   : Nat
  fcsOk     : Bool
  macsecOk  : Bool
  dst       : FrameDst
  kind      : FrameKind
  ipv6      : Bool
  srcAddr   : List Byte
  dstAddr   : List Byte
  udpSport  : BitVec 16
  udpDport  : BitVec 16
  checksumsOk : Bool
  udpLen    : Nat
  payload   : List Byte
  raw       : List Byte
  deriving DecidableEq, Repr

/-- One slot of the injection ring as the device reads it (R269). -/
structure InjectSlot where
  port    : Nat
  subPort : Nat
  udpSrc  : Option (List Byte × BitVec 16)
  frame   : List Byte
  deriving DecidableEq, Repr

/-- One monitor sample of a Sentinel tick (R408): the instance, the value in the units of R412, and whether the
instance's occurrence condition arose (a glitch, an open loop, a mismatch, a unit's own event). -/
structure Sample where
  cls    : Nat
  inst   : Nat
  value  : BitVec 32
  occurs : Bool
  tenant : Option Byte
  deriving DecidableEq, Repr

/-- One reserve measurement (R428): VRES in mV, C in µF already reduced by its uncertainty, ESR in mΩ. -/
structure ReserveReading where
  vresMv : Nat
  capUf  : Nat
  esrMohm : Nat
  deriving DecidableEq, Repr

/-- What a card port receives (R463 to R473). -/
inductive CardReply where
  /-- An ATR: readable or not, class C excluded, T=1 offered, specific mode, TA1, the parameters of R460 and R465
  acceptable, and the historical bytes. -/
  | atr (readable excludesC offersT1 specificMode : Bool) (ta1 : Byte) (paramsOk : Bool) (historical : List Byte)
  /-- No ATR arrived in the window. -/
  | noAtr
  /-- A PPS response that accepts or rejects the proposal. -/
  | pps (accepted : Bool)
  /-- The last character of a command has been sent. -/
  | commandSent
  /-- The first character of a response. -/
  | firstCharacter
  /-- The application selection response with the officer ID and the officer's public key. -/
  | selected (officer : Word) (pubKey : List Byte)
  /-- The PIN verification response. -/
  | pin (correct : Bool)
  /-- The signature response: the card's usage counter, r and s, and a released key component. -/
  | signed (counter : Word) (signature : List Byte) (component : Option (List Byte))
  /-- C_IO rises: busy ends (R466). -/
  | busyEnd
  /-- The card broke one of the limits of R465. -/
  | protocolError
  deriving DecidableEq, Repr

/-- The header of a ring frame and its body, with the result of the tag check (R496). -/
structure RingFrame where
  kind    : Nat
  origin  : Nat
  hops    : Nat
  refused : Bool
  epoch   : DWord
  counter : DWord
  tagOk   : Bool
  generation : Word
  salt    : List Byte
  body    : List Byte
  deriving DecidableEq, Repr

/-- An IDE_KM message (R360): program or stop the keys of a stream; stream 16 is the link stream. -/
inductive IdeMessage where
  | keyProg (stream : Nat) (rid : Nat)
  | keySetGo (stream : Nat)
  | keySetStop (stream : Nat)
  deriving DecidableEq, Repr

/-- A command to the device: one constructor per row of spec/opcode_table.json, in its order. An `item` operand is
the device's number of a consumed item. -/
inductive Instr where
  | powerStable
  | coldResetRelease
  | supplyLoss
  | perstFall
  | perstRise
  | glbSoftReset (value : Word)
  | warmResetStoresDone
  | resetHoldEnd
  | pllLockLost
  | mainPowerLost (detector : Nat) (vresMv : Nat)
  | holdUpStoresEnded
  | mainPowerRestored
  | reserveSpent
  | bootStart (probe : BootProbe)
  | bootOtpWriteAdmitted
  | entStartupDone (first again : BitVec 32) (knownAnswersOk : Bool)
  | bootResumeEntReady
  | memoryKeyLoad
  | hbmInitSweepDone
  | lcbRecGo (value : Word)
  | glbPlanGo (value : Word)
  | planWaitTimeout
  | planImageReadDone (image : ReadResult)
  | mirrorEpochCompare
  | qpEnable (fn qp : Nat) (value : Word)
  | qpDisable (fn qp : Nat) (value : Word)
  | sqDoorbell (fn qp : Nat) (value : Word)
  | pushWrite (fn qp : Nat) (bytes : List Byte) (oneTlp : Bool)
  | cqDoorbell (fn qp : Nat) (value : Word)
  | descriptorConsume (fn qp : Nat)
  | dispatch (core : Nat)
  | keyFillDone (handle : Word) (tagOk : Bool)
  | itemResume (item : Nat)
  | coreWatchdog (core : Nat)
  | recordRelease (item : Nat) (cqWriteOk : Bool)
  | coalTimeout (fn qp : Nat)
  | quiesce (item : Nat)
  | resume (item : Nat)
  | planStage (item : Nat)
  | planAmend (item : Nat)
  | amendDeadline
  | drainFramesElapsed
  | unitScrubDone (unit : Nat)
  | sluiceCheckDone
  | sluiceSwap
  | gcmEnc (item : Nat)
  | gcmDec (item : Nat)
  | ctrEnc (item : Nat)
  | ctrDec (item : Nat)
  | cbcEnc (item : Nat)
  | cbcDec (item : Nat)
  | cmacGen (item : Nat)
  | cmacVer (item : Nat)
  | xtsEnc (item : Nat)
  | xtsDec (item : Nat)
  | hash (item : Nat)
  | hmacGen (item : Nat)
  | hmacVer (item : Nat)
  | furrowMismatch (furrow ctx : Nat) (kind : BitVec 2)
  | maskReseedRequest (furrow pipe : Nat)
  | maskWaitStop (furrow pipe : Nat)
  | maskSeedArrive (furrow pipe : Nat)
  | furrowReadmit (furrow : Nat) (testOk : Bool)
  | hashLaneParityError (lane share : Nat)
  | hashLaneReadmit (lane : Nat) (testOk : Bool)
  | objSeal (item : Nat)
  | objOpen (item : Nat)
  | objEpochKey (item : Nat)
  | objEpochFetch (item : Nat)
  | epochBoundary (tenant : Byte)
  | epochClose (item : Nat)
  | sealIdleTimeout (item : Nat)
  | verifyFragments (item : Nat)
  | repair (item : Nat)
  | spreadCheckFail (su share : Nat) (kind : BitVec 2)
  | spreadUnitReadmit (su : Nat) (testOk : Bool)
  | fragGetTimeout (item frag : Nat)
  | ethFrameReceive (frame : EthFrame)
  | ethLinkChange (port subPort : Nat) (up : Bool)
  | eapolMka (port subPort : Nat) (installsSak : Bool)
  | sakRekeyThreshold (port subPort : Nat)
  | submit (chan : Nat)
  | retrieve (chan : Nat)
  | fragPutAck (chan : Nat)
  | fragData (chan : Nat)
  | nack (chan : Nat)
  | credit (chan : Nat)
  | ping (chan : Nat)
  | ackTimer (chan : Nat)
  | retransmitTimeout (chan : Nat) (seq : Word)
  | zeroWindowProbe (chan : Nat)
  | zeroWindowTimeout (chan : Nat)
  | syncPingTimer (chan : Nat)
  | syncTimeout (chan : Nat)
  | epochQuarantineEnd (chan : Nat)
  | putackTimeout (chan : Nat) (xid : Word)
  | packetTransmit (chan : Nat)
  | chanRead
  | chanOpen
  | chanReset
  | chanClose
  | portCfgWrite (port : Nat) (value : Word)
  | injectFrame (prod : Word) (slots : List InjectSlot)
  | pkSign (item : Nat)
  | pkVerify (item : Nat)
  | pkAgree (item : Nat)
  | pkProgram (item : Nat)
  | pkAbort (item : Nat)
  | pkValidationWindowEnd (item : Nat)
  | pkYieldPoint (engine : Nat)
  | pkJobComplete (engine : Nat)
  | pkEndCheckFail (engine : Nat) (kind : BitVec 4)
  | pkEngineReadmit (engine : Nat) (testOk : Bool)
  | pinTranslate (item : Nat)
  | pinVerify (item : Nat)
  | macGen (item : Nat)
  | macVer (item : Nat)
  | arqcVerify (item : Nat)
  | keyblockImport (item : Nat)
  | keyblockExport (item : Nat)
  | keyGenerate (item : Nat)
  | keyImport (item : Nat)
  | keyExport (item : Nat)
  | keyDerive (item : Nat)
  | keyRetire (item : Nat)
  | keyPurge (item : Nat)
  | keyFree (item : Nat)
  | keyInfo (item : Nat)
  | keyPublic (item : Nat)
  | keyAttest (item : Nat)
  | keyDeviceCert (item : Nat)
  | keyTemplate (item : Nat)
  | revocationScanDone (item : Nat)
  | storeCommit (store : Nat)
  | goodBoot
  | random (item : Nat)
  | randomReseed (item : Nat)
  | entropyBlock (source : Nat) (samples : List Byte)
  | sourceRetest (source : Nat)
  | sourceRetestDone (source : Nat) (passed : Bool)
  | mainDrbgReseed
  | mainDrbgStop
  | tenantReseedRequest (tenant : Byte)
  | tenantReseed (tenant : Byte)
  | vfFlr (vf : Nat)
  | pfFlr
  | flrDone (fn : Nat)
  | dmaReadComplete (target : DmaTarget) (result : ReadResult) (inner : DmaInner)
  | pcieLinkTrain (speed : BitVec 4) (width : BitVec 6) (flit : Bool)
  | ideKm (msg : IdeMessage)
  | ideCheckFail (stream : Nat)
  | lockInterface (vf : Nat)
  | startInterface (vf : Nat)
  | stopInterface (vf : Nat)
  | vfDirtyStart (item : Nat)
  | vfDirtySwap (item : Nat)
  | vfDirtyStop (item : Nat)
  | vfSuspend (item : Nat)
  | vfResume (item : Nat)
  | vfStateSave (item : Nat)
  | vfStateRestore (item : Nat)
  | vfMigAck (vf : Nat) (value : Word)
  | memPuSyncWrite (value : Word)
  | memPuSyncRead
  | memViolPop (group : Nat) (value : Word)
  | allocationZeroed (alloc : Nat)
  | alarmRaise (samples : List Sample)
  | zeroiseVerify (regionMatches : Bool)
  | bistRotation
  | bistTestDone (cls inst : Nat) (passed : Bool)
  | reserveMeasure (reading : ReserveReading)
  | senLogRead (item : Nat)
  | senBist (item : Nat)
  | senFence (item : Nat)
  | senReadmit (item : Nat)
  | senReserve (item : Nat) (reading : ReserveReading)
  | lcTransition (item : Nat)
  | lcDebugOpen (item : Nat)
  | tokenOpenScopes
  | tokenVendorTransition
  | extest (drive : List Bool)
  | idcode
  | samplePreload (levels : List Bool)
  | dbgToken (bytes : List Byte)
  | dbgAccess (access : Access) (data : List Byte)
  | bypass (ir : Byte)
  | cerOpen (item : Nat)
  | cerCard (item : Nat)
  | cerClose (item : Nat)
  | cerApply (item : Nat)
  | ceremonyLimit
  | cardInsert (port : Nat)
  | cardRemove (port : Nat)
  | cardResponse (port : Nat) (reply : CardReply)
  | cardWaitTimeout (port : Nat)
  | cardClassRetry (port : Nat)
  | cardOvercurrent (port : Nat)
  | approvalOpen (item : Nat)
  | approvalSign (item : Nat)
  | rosterSet (item : Nat)
  | approvalTimeout (tenant : Byte) (session : Word)
  | ringAssemble (item : Nat)
  | heartbeatTimer
  | heartbeat (frame : RingFrame)
  | presenceTimeout (position : Nat)
  | token (frame : RingFrame)
  | tokenLossTimeout
  | prepare (frame : RingFrame)
  | commit (frame : RingFrame)
  | abort (frame : RingFrame)
  | prepareTimeout
  | stagedDiscardTimeout
  | syncReq (frame : RingFrame)
  | syncData (frame : RingFrame)
  | zeroizeFrame (frame : RingFrame)
  | keyExchangeFrame (frame : RingFrame)
  | ringPhyLock (locked : Bool)
  | culvertOpen
  | smbMode
  | smbLcs
  | smbTemp
  | smbTempLimit
  | smbPower (quarterWatts : BitVec 16)
  | smbVres
  | smbEuse
  | smbAlarm
  | smbLogseq
  | smbIdent
  | alertResponse
  | registerWrite (fn : Nat) (offset : Nat) (value : Word)
  | quiesceTimeout (item : Nat)
  | vfSuspendTimeout (item : Nat)
  | ringFormTimeout (item : Nat)
  | cisternPoolZeroed (engine firstSlot count : Nat)
  | dirtyBitmapMerge (vf : Nat) (accessOk : Bool)
  | cardBusyDetect (port : Nat)
  | srIovVfEnable (enable : Bool) (numVfs : Nat)
  | spdmRequest (establishesSession : Bool)
  | vddAonRise
  | vddIoRise (addr0 addr1 : Bool) (reading : ReserveReading)
  deriving DecidableEq, Repr

end Sys2Proof
end

