-- ==== Sys2Proof/Config.lean ====
section
/-! DEFINITION. What the spec leaves open and what it takes from other standards without restating it: open values
(random bits, faults of the implementation) and the cryptographic primitives that it names. Each is a constant with no
body, so that nothing can be proved from its value. -/

namespace Sys2Proof.Config

/-- Byte `i` of the `k`-th open value of a run: random bits drawn from a DRBG, and every value that the spec leaves
open. -/
opaque freeByte : Nat → Nat → Byte

/-- The `k`-th open choice of a run, where the spec leaves the choice between alternatives open. -/
opaque freeChoice : Nat → Nat

/-- Byte `i` of one block of a keyed block cipher (AES by key length; `enc` false deciphers). FIPS 197. -/
opaque aesByte : (enc : Bool) → (key block : List Byte) → (i : Nat) → Byte

/-- Byte `i` of one 8-byte block of DES under an 8-byte key. -/
opaque desByte : (enc : Bool) → (key block : List Byte) → (i : Nat) → Byte

/-- Byte `i` of a digest; `alg` is the HASH code of R175 (0x01 SHA-256, 0x02 SHA-384, 0x03 SHA-512, 0x11 SHA3-256,
0x12 SHA3-512). -/
opaque digestByte : (alg : Nat) → (msg : List Byte) → (i : Nat) → Byte

/-- Byte `i` of the device root that the PUF reconstructs with its helper data (R447). -/
opaque rootByte : (puf helper : List Byte) → (i : Nat) → Byte

/-- Byte `i` of the SHA-384 digest of vendor key `n` that the ROM holds (R449). -/
opaque vendorDigestByte : (n i : Nat) → Byte

/-- The device public key (raw, 96 bytes) of a certificate chain that leads to an Eloaval root whose digest the ROM
holds; none for any other chain (R494). -/
opaque chainKey : (certs : List (List Byte)) → Option (List Byte)

/-- Device serial and other values that each part is given in manufacture. -/
opaque partSerial : DWord

end Sys2Proof.Config
end

