-- ==== Sys2Proof/Machine/Bytes.lean ====
section
/-! DEFINITION. Byte strings, fields, sparse tables and the cryptographic primitives as byte-string functions. -/

namespace Sys2Proof.Machine

/-! ## Sparse tables -/

/-- The entry of a table at a number. -/
def tabGet {α : Type} : Tab α → Nat → Option α
  | [], _ => none
  | (k', v) :: r, k => if k' = k then some v else tabGet r k

/-- A table with its entry at a number replaced or added, keys ascending. -/
def tabSet {α : Type} : Tab α → Nat → α → Tab α
  | [], k, v => [(k, v)]
  | (k', v') :: r, k, v =>
    if k < k' then (k, v) :: (k', v') :: r
    else if k = k' then (k, v) :: r
    else (k', v') :: tabSet r k v

/-- A table without its entry at a number. -/
def tabErase {α : Type} (t : Tab α) (k : Nat) : Tab α := t.filter fun p => p.1 ≠ k

/-- A table with a function applied to one of its entries, if it has it. -/
def tabModify {α : Type} (t : Tab α) (k : Nat) (f : α → α) : Tab α :=
  match tabGet t k with
  | some v => tabSet t k (f v)
  | none => t

/-- An entry, or a default where the table has none. -/
def tabGetD {α : Type} (t : Tab α) (k : Nat) (d : α) : α := (tabGet t k).getD d

/-- The lowest number below `n` that satisfies a test. -/
def lowest (n : Nat) (p : Nat → Bool) : Option Nat := (List.range n).find? p

/-! ## Byte strings -/

/-- A number as `n` bytes, least significant first (R11). -/
def leBytes (n v : Nat) : List Byte := (List.range n).map fun i => BitVec.ofNat 8 (v / 256 ^ i)

/-- A number as `n` bytes, most significant first. -/
def beBytes (n v : Nat) : List Byte := (leBytes n v).reverse

/-- The number that bytes spell, least significant first. -/
def ofLe : List Byte → Nat
  | [] => 0
  | b :: r => b.toNat + 256 * ofLe r

/-- The number that bytes spell, most significant first. -/
def ofBe (bs : List Byte) : Nat := ofLe bs.reverse

/-- `n` bytes from an offset. -/
def slice (bs : List Byte) (off n : Nat) : List Byte := (bs.drop off).take n

/-- The little-endian number in `n` bytes at an offset. -/
def leAt (bs : List Byte) (off n : Nat) : Nat := ofLe (slice bs off n)

/-- The big-endian number in `n` bytes at an offset. -/
def beAt (bs : List Byte) (off n : Nat) : Nat := ofBe (slice bs off n)

/-- The byte at an offset, zero past the end. -/
def byteAt (bs : List Byte) (i : Nat) : Byte := bs.getD i 0

/-- `n` zero bytes. -/
def zeros (n : Nat) : List Byte := List.replicate n 0

/-- Bytes padded with zeros, or cut, to a length. -/
def padTo (n : Nat) (bs : List Byte) : List Byte := (bs ++ zeros n).take n

/-- Every byte from `lo` to before `hi` is zero. -/
def zeroRange (bs : List Byte) (lo hi : Nat) : Bool := (slice bs lo (hi - lo)).all (· == 0)

/-- A byte string with `new` written over it at an offset. -/
def overlay (bs : List Byte) (off : Nat) (new : List Byte) : List Byte :=
  bs.take off ++ new ++ bs.drop (off + new.length)

/-- Bytes combined by exclusive or, as long as the shorter. -/
def xorBytes (a b : List Byte) : List Byte := List.zipWith (· ^^^ ·) a b

/-- Bytes cut into pieces of `n`, with fuel for as many pieces as there are bytes. -/
def chunksFuel (n : Nat) : Nat → List Byte → List (List Byte)
  | 0, _ => []
  | _ + 1, [] => []
  | f + 1, bs => bs.take n :: chunksFuel n f (bs.drop n)

/-- Bytes cut into pieces of `n`; the last may be shorter. -/
def chunks (n : Nat) (bs : List Byte) : List (List Byte) := chunksFuel n bs.length bs

/-- The bits [lo + len − 1 : lo] of a number. -/
def bits (v lo len : Nat) : Nat := v / 2 ^ lo % 2 ^ len

/-- One bit of a number. -/
def bit (v i : Nat) : Bool := v.testBit i

/-- A Bool as a bit of a number. -/
def b2n (b : Bool) : Nat := if b then 1 else 0

/-- The ASCII bytes of a label. -/
def ascii (s : String) : List Byte := s.toList.map fun c => BitVec.ofNat 8 c.toNat

/-! ## Primitives of other standards, as byte-string functions -/

/-- One AES block. -/
def aesBlock (enc : Bool) (key block : List Byte) : List Byte :=
  (List.range 16).map (Config.aesByte enc key block)

/-- One DES block; the parity bits of the key are ignored (R306). -/
def desBlock (enc : Bool) (key block : List Byte) : List Byte :=
  (List.range 8).map (Config.desByte enc (key.map (· &&& 0xFE)) block)

/-- Digest length in bytes by HASH code (R175). -/
def digestLen (alg : Nat) : Nat :=
  if alg = 0x01 then 32 else if alg = 0x02 then 48 else if alg = 0x03 then 64 else if alg = 0x11 then 32
  else if alg = 0x12 then 64 else 0

/-- A digest by HASH code. -/
def digest (alg : Nat) (msg : List Byte) : List Byte :=
  (List.range (digestLen alg)).map (Config.digestByte alg msg)

/-- SHA-384. -/
def sha384 (msg : List Byte) : List Byte := digest 0x02 msg

/-- SHA-256. -/
def sha256 (msg : List Byte) : List Byte := digest 0x01 msg

/-- A DER length. -/
def derLen (n : Nat) : List Byte :=
  if n < 128 then leBytes 1 n else if n < 256 then 0x81 :: leBytes 1 n else 0x82 :: beBytes 2 n

/-- A DER element. -/
def der (tag : Byte) (body : List Byte) : List Byte := tag :: derLen body.length ++ body

/-- A DER INTEGER that is not negative. -/
def derInt (v : Nat) : List Byte := der 0x02 (beBytes (v.log2 / 8 + 1 + (if v.log2 % 8 = 7 then 1 else 0)) v)

/-- A little-endian byte string read as big-endian. -/
def flip (bs : List Byte) : List Byte := bs.reverse

/-- The DER SubjectPublicKeyInfo of a public part by ALG (R130): an uncompressed EC point (RFC 5480), 32 raw bytes
(RFC 8410), or an RSA modulus and exponent (RFC 8017). -/
def spki (alg : Nat) (pub : List Byte) : List Byte :=
  let key := fun (algId bitsBody : List Byte) => der 0x30 (der 0x30 algId ++ der 0x03 (0x00 :: bitsBody))
  let ecOid : List Byte := [0x06, 0x07, 0x2a, 0x86, 0x48, 0xce, 0x3d, 0x02, 0x01]
  let point := fun (f : Nat) => 0x04 :: flip (slice pub 0 f) ++ flip (slice pub f f)
  if alg = 0x20 then key (ecOid ++ [0x06, 0x08, 0x2a, 0x86, 0x48, 0xce, 0x3d, 0x03, 0x01, 0x07]) (point 32)
  else if alg = 0x21 then key (ecOid ++ [0x06, 0x05, 0x2b, 0x81, 0x04, 0x00, 0x22]) (point 48)
  else if alg = 0x22 then key (ecOid ++ [0x06, 0x05, 0x2b, 0x81, 0x04, 0x00, 0x23]) (point 66)
  else if alg = 0x28 then key [0x06, 0x03, 0x2b, 0x65, 0x70] pub
  else if alg = 0x29 then key [0x06, 0x03, 0x2b, 0x65, 0x6e] pub
  else
    let k := pub.length - 8
    key [0x06, 0x09, 0x2a, 0x86, 0x48, 0x86, 0xf7, 0x0d, 0x01, 0x01, 0x01, 0x05, 0x00]
      (der 0x30 (derInt (ofLe (pub.take k)) ++ derInt (leAt pub k 8)))

/-- The public part of an ALG whose SubjectPublicKeyInfo is `d`, if there is one; `n` is the length of the public part. -/
def spkiParse (alg n : Nat) (d : List Byte) : Option (List Byte) :=
  let cand :=
    if alg = 0x20 ∨ alg = 0x21 ∨ alg = 0x22 then
      let p := d.drop (d.length - n)
      [flip (p.take (n / 2)) ++ flip (p.drop (n / 2))]
    else if alg = 0x28 ∨ alg = 0x29 then [d.drop (d.length - n)]
    else (List.range 9).map fun i =>
      let e := flip (d.drop (d.length - (i + 1)))
      let m := flip (slice d (d.length - (i + 3) - (n - 8)) (n - 8))
      m ++ padTo 8 e
  cand.find? fun pub => spki alg pub == d

/-- A fingerprint (R18): the first 8 bytes of the SHA-384 digest of the DER SubjectPublicKeyInfo. -/
def fingerprint (alg : Nat) (pub : List Byte) : List Byte := (sha384 (spki alg pub)).take 8

end Sys2Proof.Machine
end

