-- ==== Sys2Proof/Machine/StatePlan.lean ====
section
/-! DEFINITION. State of chapters 0 and 1: the operating mode, the running plan, the sluice crossbar and a live
amendment. -/

namespace Sys2Proof.Machine

/-- The part of the operating mode that excludes every other part (R4, R6). Service, Ceremony, Degraded and Quiesce
share the phase `service`; R5 says which of them GLB_MODE reports. -/
inductive Phase where
  | off
  | reset
  | boot
  | planLoad
  | mirrorSync
  | service
  | alarmHold
  | holdUp
  | diagnostic
  deriving DecidableEq, Repr

/-- The three product variants of R545. -/
inductive Variant where
  | ky4800A
  | ky4800N
  | ky4200A
  deriving DecidableEq, Repr

/-- STATE of a furrow, spread unit or hash lane, as CFB_SLU_UNITn reports it (R61). -/
inductive UnitState where
  | unassigned
  | owned
  | leaving
  | draining
  | scrubbing
  | scrubbed
  | fenced
  deriving DecidableEq, Repr

/-- One unit of CFB_SLU_UNITn: 0 to 19 are F0 to F19, 20 to 23 SU0 to SU3, 24 to 39 H0 to H15 (R61). `assigned`
says whether the plan gives the unit an owner: what a fenced unit returns to. -/
structure SluUnit where
  owner    : Byte
  role     : Byte
  assigned : Bool
  state    : UnitState
  deriving DecidableEq, Repr

/-- A TENANTS entry (R29), with the defaults of its zero fields already filled in. -/
structure TenantEntry where
  tenant         : Byte
  storage        : Bool
  payment        : Bool
  programs       : Bool
  remoteOfficers : Bool
  vfFirst        : Nat
  vfCount        : Nat
  epochUs        : Nat
  flowFirst      : Nat
  flowCount      : Nat
  keyrecQuota    : Nat
  sessionQuota   : Nat
  channelQuota   : Nat
  segMax         : Nat
  gcmMax         : Nat
  deriving DecidableEq, Repr

/-- A UNITS entry (R31), its unit numbered as CFB_SLU_UNITn. -/
structure UnitEntry where
  unitNo : Nat
  owner  : Byte
  role   : Byte
  deriving DecidableEq, Repr

/-- An engine entry of the PKE section (R33). -/
structure PkeEntry where
  engine : Nat
  pinned : Bool
  fused  : Bool
  owner  : Byte
  slotL  : Nat
  longOk : Bool
  deriving DecidableEq, Repr

/-- A window entry of the PKE section (R33). -/
structure PkeWindow where
  engine    : Nat
  tenant    : Byte
  firstSlot : Nat
  slotCount : Nat
  deriving DecidableEq, Repr

/-- An HBM entry (R35). -/
structure HbmEntry where
  base     : Nat
  sizeLog2 : Nat
  owner    : Byte
  purpose  : Nat
  deriving DecidableEq, Repr

/-- A HEADGATES entry (R37). -/
structure Headgate where
  index   : Nat
  port    : Nat
  subPort : Nat
  ipv6    : Bool
  enabled : Bool
  dstAddr : List Byte
  dport   : Nat
  tenant  : Byte
  cls     : Nat
  chan    : Nat
  weir    : Option Nat
  deriving DecidableEq, Repr

/-- A WEIRS entry (R37). -/
structure Weir where
  index     : Nat
  perChan   : Bool
  tenant    : Byte
  rateMbps  : Nat
  burst     : Nat
  chan      : Nat
  deriving DecidableEq, Repr

/-- A DSPCLASS entry (R39). -/
structure DspClass where
  cls       : Nat
  listFirst : Nat
  listCount : Nat
  weight    : Nat
  coreCap   : Nat
  deriving DecidableEq, Repr

/-- A protection-unit region (R391). -/
structure Region where
  base     : Nat
  sizeLog2 : Nat
  permR    : Bool
  permW    : Bool
  permX    : Bool
  permA    : Bool
  tag      : Byte
  tagValid : Bool
  valid    : Bool
  deriving DecidableEq, Repr

/-- A PUREGIONS entry (R40). -/
structure PuEntry where
  coreSet : Bool
  who     : Nat
  region  : Nat
  value   : Region
  deriving DecidableEq, Repr

/-- A SENTINEL entry (R42); instance 0xFF means every instance. -/
structure SentinelEntry where
  cls      : Nat
  inst     : Nat
  param    : Nat
  value    : Nat
  deriving DecidableEq, Repr

/-- The running plan (R43, R44) as Plan Load applied it and amendments changed it. -/
structure Plan where
  tenants   : List TenantEntry
  pke       : List PkeEntry
  windows   : List PkeWindow
  hbm       : List HbmEntry
  headgates : List Headgate
  weirs     : List Weir
  classes   : List DspClass
  regions   : List PuEntry
  sentinel  : List SentinelEntry
  deriving DecidableEq, Repr

/-- The header, directory and sections of a parsed plan image (R24 to R27). A section is absent (`none`) where the
directory holds no entry of its type; `dirIndex` gives the directory index of each present type. -/
structure Image where
  kind          : Nat
  serial        : DWord
  amendSeq      : Word
  opkeyFp       : List Byte
  deviceId      : DWord
  drainFrames   : Nat
  drainTimeout  : Nat
  digest        : List Byte
  dirIndex      : List (Nat × Nat)
  tenants       : List TenantEntry
  units         : Option (List UnitEntry)
  pke           : List PkeEntry
  windows       : List PkeWindow
  hbm           : List HbmEntry
  headgates     : List Headgate
  weirs         : List Weir
  classes       : Option (List DspClass)
  regions       : List PuEntry
  sentinel      : List SentinelEntry
  sluice        : List (BitVec 16)
  sluiceDrain   : Option (List (BitVec 16))
  deriving DecidableEq, Repr

/-- The installed-plan record of the vault store (R18). -/
structure PlanRecord where
  serial      : DWord
  digest      : List Byte
  fingerprint : List Byte
  deriving DecidableEq, Repr

/-- The plan registers of GLB and the running plan (R60). -/
structure PlanState where
  running    : Plan
  serial     : DWord
  digest     : List Byte
  result     : BitVec 4
  empty      : Bool
  waiting    : Bool
  failSection : Byte
  failEntry  : Word
  amendSeq   : Word
  /-- An image read that GLB_PLAN_GO started is outstanding (R43). -/
  reading    : Bool
  deriving DecidableEq, Repr

/-- How far a live amendment has come (R56, R57). -/
inductive AmendStage where
  | waitClaims
  | drainCheck
  | drainSwap
  | drainFrames
  | waitBusy
  | scrubbing
  | finalCheck
  | finalSwap
  | rollbackCheck
  | rollbackSwap
  deriving DecidableEq, Repr

/-- The owner and role that an amendment takes a unit from and gives it (R56). -/
structure UnitChange where
  unitNo   : Nat
  oldOwner : Byte
  oldRole  : Byte
  newOwner : Byte
  newRole  : Byte
  deriving DecidableEq, Repr

/-- The amendment in progress (R56): its item, its image, the changed units, the table that a rollback restores,
whether the drain table has gone live, and the status that a rollback completes with. -/
structure Amendment where
  item       : Nat
  image      : Image
  changes    : List UnitChange
  stage      : AmendStage
  drainLive  : Bool
  preTable   : List (BitVec 16)
  failStatus : BitVec 16
  deriving DecidableEq, Repr

/-- The sluice crossbar (R45 to R53, R61). A bank is the list of its 32,768 entries; the empty list stands for a bank
filled with 0x003F. `frameBase` is the tick at which bank A became active at Plan Load. -/
structure SluiceState where
  bankA       : List (BitVec 16)
  bankB       : List (BitVec 16)
  activeB     : Bool
  checking    : Bool
  swapPending : Bool
  halted      : Bool
  frameBase   : Nat
  swaps       : Word
  units       : List SluUnit
  /-- Units that a rollback left in scrubbing (R57, R58): they become owned when their scrub ends. -/
  lateScrubs  : List Nat
  amend       : Option Amendment
  deriving DecidableEq, Repr

end Sys2Proof.Machine
end

