-- ==== Sys2Proof/Machine/StateCore.lean ====
section
/-! DEFINITION. State of chapters 2, 3, 12 and 13: queue pairs, items, the dispatcher, the host port, device memory
and the protection units. -/

namespace Sys2Proof.Machine

/-- What a yielded item waits for (R100, R102). -/
inductive WaitFor where
  | engine
  | data
  | store
  | reserve
  | card
  | quorum
  | drained
  | suspension
  | amendment
  | ring
  | test
  | keyCommit
  deriving DecidableEq, Repr

/-- The states of an item (chapter 3, "From consumption to a core"). `resumable` is a yielded item whose wait has
ended: it stands in the resume queue (R101). `dropped` is an item that a function-level reset discarded and whose
sequence number has not reached the head of its flow (R109). -/
inductive ItemPhase where
  | parked
  | ready
  | running (core : Nat)
  | yielded (why : WaitFor)
  | resumable
  | done
  | dropped
  deriving DecidableEq, Repr

/-- A kind of claimed resource, by its claim order (R96). -/
inductive ClaimKind where
  | keyCache
  | cistern
  | share
  | egress
  deriving DecidableEq, Repr

/-- A key that an item fetched at its claim and keeps until it completes (R134). -/
structure HeldKey where
  handle      : Word
  attr        : DWord
  noncePrefix : Word
  material    : List Byte
  pubOnly     : Bool
  deriving DecidableEq, Repr

/-- What an item holds (R96): pinned keys, a run of Cistern slots (engine, first, count), context shares of units (unit
as CFB_SLU_UNITn, context or share number), a GCM_DEC staging allocation with the host DMA region that covers it (R386, R394), and bytes of weir credit. -/
structure Claim where
  keys    : List HeldKey
  cistern : Option (Nat × Nat × Nat)
  shares  : List (Nat × Nat)
  staging : Option (Nat × Nat × Nat)
  egress  : Nat
  deriving DecidableEq, Repr

/-- The outcome of an item: the STATUS and bytes 8 to 31 of its completion record (R76). -/
structure Outcome where
  status  : BitVec 16
  origin1 : Bool
  body    : List Byte
  deriving DecidableEq, Repr

/-- Where an item came from: a queue pair, a headgate channel, or the device itself (the epoch items of R217). -/
inductive ItemSource where
  | queue (fn qp slot : Nat)
  | headgate (chan : Nat)
  | internal
  deriving DecidableEq, Repr

/-- An item from its consumption until its record is written. `desc` holds the 64 descriptor bytes; `bufs` the host
data read for it so far, by IOVA; `written` the output buffers written so far, for the zeroing of R183. -/
structure Item where
  id        : Nat
  source    : ItemSource
  desc      : List Byte
  tenant    : Option Byte
  opcode    : Nat
  cls       : Nat
  ready     : Nat
  inFlow    : Option Nat
  seq       : Word
  fence     : Bool
  notify    : Bool
  traceOn   : Bool
  phase     : ItemPhase
  general   : Bool
  failed    : Bool
  checked   : Bool
  claimed   : Bool
  claimFails : Nat
  lacked    : List ClaimKind
  claim     : Claim
  /-- Progress of the opcode through its own waits: 0 before its command, then as the opcode's meaning counts. -/
  stage     : Nat
  /-- Bytes that the opcode keeps between its waits. -/
  scratch   : List Byte
  bufs      : List (DWord × List Byte)
  readFailed : Bool
  written   : List (DWord × Nat)
  outcome   : Outcome
  deriving DecidableEq, Repr

/-- One queue pair (R63 to R74, R89): what its registers do not hold themselves. -/
structure Qp where
  enabled   : Bool
  draining  : Bool
  error     : Bool
  errCode   : BitVec 4
  sqHead    : Nat
  sqTail    : Nat
  cqTail    : Nat
  cqPhase   : Bool
  cqHead    : Nat
  /-- CQ entries reserved by consumed items and by written, unreleased records (R68). -/
  reserved  : Nat
  inflight  : Nat
  /-- Descriptors fetched or pushed, by SQ slot, that are not yet consumed. -/
  fetched   : List (Nat × List Byte)
  /-- Counted records not yet signalled (R87). -/
  counted   : Nat
  /-- Records of a queue pair whose completion write failed are discarded (R73). -/
  discard   : Bool
  deriving DecidableEq, Repr

/-- One service core (R93, R111). -/
structure ServiceCore where
  fenced : Bool
  item   : Option Nat
  resets : List Nat
  /-- Tenant whose core set fills regions 16 to 31 (R110); none for Kyobin's administrative set. -/
  setOf  : Option Byte
  deriving DecidableEq, Repr

/-- One ready list (R91, R98). -/
structure ReadyList where
  items   : List Nat
  barrier : Bool
  deriving DecidableEq, Repr

/-- Flow state (R103): NEXT_SEQ and HEAD_SEQ. HEAD_DONE, DONE and HELD follow from the flow's items, and TENANT from
the flow's range. -/
structure Flow where
  nextSeq : Word
  headSeq : Word
  deriving DecidableEq, Repr

/-- A trace ring: PROD and LOST (R116 to R118); the other registers stand in the register file. -/
structure TraceRing where
  prod : Nat
  lost : Word
  deriving DecidableEq, Repr

/-- The dispatcher and the Steward (chapter 3). -/
structure DspState where
  items     : Tab Item
  nextItem  : Nat
  consumed  : Word
  cores     : List ServiceCore
  lists     : List ReadyList
  resumeQ   : List Nat
  credits   : List Nat
  /-- Round-robin pointer of each class over its lists (R94). -/
  rrNext    : List Nat
  /-- Flow state by flow number; 2^22 is the PF's internal flow (R79). -/
  flows     : Tab Flow
  /-- Flows whose state stands in the flow cache. -/
  flowCached : List Nat
  flowHit   : Word
  flowMiss  : Word
  coreResets : Word
  claimFails : Word
  stewardState : BitVec 2
  stewardFails : Byte
  /-- Tick of the first Steward mismatch still inside its 10 s window (R423). -/
  stewardAt : Option Nat
  /-- A HALT or ZEROIZE response stopped the taking of items (R112). -/
  halted    : Bool
  /-- The classes of an amendment that have not yet been applied stand in the amendment. -/
  traces    : Tab TraceRing
  /-- Tags of the service cores' scratch lines, by 64-byte line of the scratch space (R110). -/
  scratchTags : Tab Byte
  deriving DecidableEq, Repr

/-- TDI states (R362). -/
inductive TdiState where
  | configUnlocked
  | configLocked
  | run
  | error
  deriving DecidableEq, Repr

/-- A dirty-page log (R371 to R374). The page lists hold the pages whose bits the device has set. -/
structure DirtyLog where
  pageLog2 : Nat
  pages    : Nat
  base     : Nat
  bitmap   : DWord
  marked   : List Nat
  /-- Set bits that are still on die (R374). -/
  unmerged : List Nat
  outside  : Word
  failed   : Bool
  /-- The new bitmap of a swap in progress, with its bits and its count of outside writes. -/
  swapTo   : Option (DWord × List Nat × Word)
  deriving DecidableEq, Repr

/-- One virtual function (chapter 12). -/
structure Vf where
  suspended  : Bool
  stale      : Bool
  outcome    : BitVec 2
  flrBusy    : Bool
  tdi        : TdiState
  dirty      : Option DirtyLog
  /-- Interrupts held in the Pending Bit Array (R365, R86). -/
  pba        : List Nat
  deriving DecidableEq, Repr

/-- The host port (chapter 12). -/
structure HostState where
  linkSpeed  : BitVec 4
  linkWidth  : BitVec 6
  linkFlit   : Bool
  linkUp     : Bool
  numVfs     : Nat
  vfEnable   : Bool
  ideKeysSet : List Nat
  ideSecure  : List Nat
  /-- Routing ID (as a function number) that each selective stream covers, by stream. -/
  ideRid     : Tab Nat
  ideFail    : Word
  spdmSession : Bool
  vfs        : Tab Vf
  pfFlrBusy  : Bool
  pfPba      : List Nat
  bootId     : DWord
  bootBlobKey : List Byte
  blobRejects : Word
  flrs       : Word
  dmaErrors  : List Nat
  /-- AER Uncorrectable Internal Errors logged (R361). -/
  aerInternal : Nat
  deriving DecidableEq, Repr

/-- A write to host memory by the device, as its function's Requester ID carries it. -/
structure HostWrite where
  fn    : Nat
  iova  : DWord
  bytes : List Byte
  deriving DecidableEq, Repr

/-- A violation record (R401) before it is laid out in bytes. -/
structure Violation where
  addr     : Nat
  kind     : AccessKind
  master   : Nat
  region   : Nat
  tenant   : Option Byte
  split    : Bool
  locked   : Bool
  onTag    : Bool
  onPerm   : Bool
  align    : Bool
  len      : Nat
  stamp    : Nat
  function : Nat
  deriving DecidableEq, Repr

/-- The violation FIFO of one unit group (R402). -/
structure ViolFifo where
  records : List Violation
  lost    : Word
  deriving DecidableEq, Repr

/-- A staging or table allocation that is being zeroed after it was freed (R387), or is held. -/
structure StagingAlloc where
  id     : Nat
  offset : Nat
  size   : Nat
  /-- Host DMA engine whose region covers it, and that region (R394). -/
  engine : Nat
  region : Nat
  zeroing : Bool
  deriving DecidableEq, Repr

/-- Memory, interconnect and protection units (chapter 13). `cells` holds HBM, staging SRAM, core scratch and the
Cisterns' interconnect view by interconnect address (R378). -/
structure MemState where
  cells      : List Host.Cell
  keyLoaded  : Bool
  memKey     : List Byte
  sweepDone  : Bool
  /-- Granules initialised by a write before the sweep reached them (R382). -/
  initMap    : List Nat
  hbm0Ok     : Bool
  hbm1Ok     : Bool
  ce         : Word
  ue         : Word
  ueAddr     : DWord
  /-- Lines that keep failing until they are next written in full (R383). -/
  ueLines    : List Nat
  decodeErr  : Word
  /-- Regions of every master, by 32 × master ID + region (R391). -/
  regions    : Tab Region
  /-- Regions 16 to 31 of each tenant core set, by 32 × tenant + region (R40). -/
  coreSets   : Tab Region
  stewardLocked : Bool
  fifos      : List ViolFifo
  irqPending : BitVec 6
  /-- PF vector 24 and the others, see the output log. -/
  allocs     : List StagingAlloc
  nextAlloc  : Nat
  /-- Writes and reads of MEM_PU_SYNC that have synchronised. -/
  syncs      : Nat
  deriving DecidableEq, Repr

/-- What the device has sent outside, newest first. -/
inductive Output where
  /-- A posted write to host memory. -/
  | host (w : HostWrite)
  /-- An MSI-X message of a function's vector. -/
  | msix (fn vector : Nat)
  /-- A UDP packet of a channel, or a frame without channel, on a port: header and payload. -/
  | packet (port subPort : Nat) (chan : Nat) (bytes : List Byte)
  /-- A whole frame of the injection ring. -/
  | frame (port subPort : Nat) (bytes : List Byte)
  /-- A ring frame (R496): header, body and tag. -/
  | ring (bytes : List Byte)
  /-- A command to an officer card. -/
  | card (port : Nat) (bytes : List Byte)
  /-- An answer on the SMBus sideband. -/
  | smbus (bytes : List Byte)
  /-- A shifted-out JTAG value. -/
  | jtag (bytes : List Byte)
  /-- The response or read data of a synchronising register access. -/
  | response (value : Word)
  deriving DecidableEq, Repr

end Sys2Proof.Machine
end

