-- ==== Sys2Proof/Machine/StateVault.lean ====
section
/-! DEFINITION. State of chapter 4: the vault store, the session table, the key cache, counters and stores in
progress. -/

namespace Sys2Proof.Machine

/-- A persistent key record (R135). `blobs` holds the material of a bound key, by MTAG (R144); `material` that of any
other key. `pubOnly` marks a key imported as a public key (R130). -/
structure KeyRecord where
  attr        : DWord
  parent      : Word
  gen         : Byte
  depth       : Nat
  noncePrefix : Word
  material    : List Byte
  pubOnly     : Bool
  blobs       : List (List Byte × List Byte)
  heapBlocks  : Nat
  retired     : Bool
  sealsClosed : Bool
  deriving DecidableEq, Repr

/-- A derivation template (R143): a parent handle, a LABEL and an output key specification. -/
structure Template where
  attr     : DWord
  parent   : Word
  gen      : Byte
  depth    : Nat
  label    : List Byte
  outClass : Nat
  outPrefix : Word
  retired  : Bool
  deriving DecidableEq, Repr

/-- A session table entry (R123). -/
structure SessionEntry where
  gen         : Byte
  live        : Bool
  depth       : Nat
  parent      : Word
  writeSerial : DWord
  attr        : DWord
  counter     : DWord
  noncePrefix : Word
  material    : List Byte
  pubOnly     : Bool
  deriving DecidableEq, Repr

/-- One key-cache entry (R125, R126). `pins` counts the claims that hold it; `lastUse` orders evictions. -/
structure CacheEntry where
  handle  : Word
  lines   : Nat
  pins    : Nat
  stale   : Bool
  lastUse : Nat
  deriving DecidableEq, Repr

/-- The counter of a persistent key on die, and the ceiling that the vault store holds (R149). -/
structure Counter where
  value   : DWord
  ceiling : DWord
  /-- End of the range that this device has reserved (R149, R497). -/
  limit   : DWord
  /-- The first request after boot has been made, so the value is live. -/
  live    : Bool
  /-- A commit of a higher ceiling is under way. -/
  raising : Bool
  /-- The last commit of a higher ceiling was refused on the ring, and no request has seen it. -/
  refused : Bool
  deriving DecidableEq, Repr

/-- One key fill in progress (R126): the key and the items whose claims wait for it. -/
structure KeyFill where
  handle  : Word
  waiters : List Nat
  started : Bool
  deriving DecidableEq, Repr

/-- The carry-over record (R145, R146). -/
structure CarryOver where
  measurement : List Byte
  complete    : Bool
  /-- The promotion of a good boot has begun (R146). -/
  promoted    : Bool
  deriving DecidableEq, Repr

/-- One officer of the roster (R471). -/
structure Officer where
  officer : Word
  pubKey  : List Byte
  deriving DecidableEq, Repr

/-- What a store writes when it commits (R121): every record change of the device that goes through the store. -/
inductive StoreAction where
  /-- A new persistent record at an index (R135). -/
  | putRecord (index : Nat) (r : KeyRecord)
  /-- A new template at an index. -/
  | putTemplate (index : Nat) (t : Template)
  /-- RETIRED of a persistent record or template (R137). -/
  | retire (handle : Word)
  /-- SEALS_CLOSED of a root (R136). -/
  | closeSeals (handle : Word)
  /-- Generation-array byte and erasure (R137). -/
  | purge (handle : Word)
  /-- A counter ceiling (R149). -/
  | ceiling (index : Nat) (value : DWord)
  /-- The installed-plan record (R18). -/
  | planRecord (r : PlanRecord)
  /-- The operator key (OPERATOR_KEY_CHANGE). -/
  | operatorKey (pubKey : List Byte)
  /-- A roster change: the whole new roster and its quorum (R471). -/
  | roster (threshold : Nat) (officers : List Officer)
  /-- A tenant approval roster change (R483). -/
  | tenantRoster (tenant : Byte) (threshold : Nat) (handles : List Word)
  /-- The migration key (R367). -/
  | migrationKey (key : List Byte)
  /-- The ring key with the member's place in the ring (R492 to R495). -/
  | ringKey (key : List Byte) (position : Nat) (serials : List DWord) (ringId : DWord) (zprop : Bool)
  /-- The ring key and the mirror state erased (R493). -/
  | ringLeave
  /-- A MACsec CAK of a sub-port, by PORT code, with its CKN (R481). -/
  | cak (port : Nat) (ckn key : List Byte)
  /-- The carry-over record (R145); none clears it. -/
  | carryOver (c : Option CarryOver)
  /-- The blob of a bound record for another measurement (R145, R146). -/
  | blob (index : Nat) (blobs : List (List Byte × List Byte))
  /-- The boot-control record (R450). -/
  | bootControl (preferB : Bool) (tries : Nat)
  /-- An OTP store that records a transition in a slot (R444). -/
  | otpSlot (slot : Nat) (intent tag : Word)
  /-- An OTP store of a slot's COMMIT word (R445). -/
  | otpCommit (slot : Nat)
  /-- An OTP store that programs every bit of the PUF helper data to 1 (R443). -/
  | otpHelper
  /-- An OTP store that programs MIN_SVN up to a version (R450). -/
  | otpMinSvn (svn : Nat)
  deriving DecidableEq, Repr

/-- A store in progress (R121, R429): its number, the item that waits for it, what it commits, whether the reserve has
admitted it, and whether its mirror commit is still outstanding. -/
structure Store where
  id       : Nat
  item     : Option Nat
  action   : StoreAction
  admitted : Bool
  mirror   : Bool
  deriving DecidableEq, Repr

/-- A revocation scan in progress (R139): the revoked handle and the item that completes after it. -/
structure RevScan where
  item   : Nat
  handle : Word
  result : Byte
  deriving DecidableEq, Repr

/-- The key vault (chapter 4). -/
structure VaultState where
  ready       : Bool
  formatted   : Bool
  storeEpoch  : Word
  salt        : Option (List Byte)
  deviceRoot  : List Byte
  certArea    : List (List Byte)
  planRecord  : Option PlanRecord
  operatorKey : Option (List Byte)
  spdmKey     : List Byte
  migrationKey : Option (List Byte)
  ringKey     : Option (List Byte)
  carryOver   : Option CarryOver
  promoting   : Bool
  records     : Tab KeyRecord
  templates   : Tab Template
  /-- Generation array of persistent indices; an unlisted byte is zero. -/
  genArray    : Tab Byte
  tmplGen     : Tab Byte
  counters    : Tab Counter
  sessions    : Tab SessionEntry
  sessionKey  : List Byte
  writeSerial : DWord
  /-- First index and length of each tenant's session range (R549). -/
  sessRanges  : List (Byte × Nat × Nat)
  cache       : List CacheEntry
  fills       : List KeyFill
  useClock    : Nat
  cacheHit    : Word
  cacheMiss   : Word
  kdfCount    : Word
  sessTagFail : Word
  /-- Measurement of the running Kyobin image; its first 8 bytes are MTAG. -/
  measurement : List Byte
  stores      : List Store
  nextStore   : Nat
  scans       : List RevScan
  /-- Keys whose retirement store was refused for lack of reserve (R147). -/
  retryRetire : List Word
  dak         : List Byte
  deriving DecidableEq, Repr

end Sys2Proof.Machine
end

