-- ==== Sys2Proof/Machine/StateSen.lean ====
section
/-! DEFINITION. State of chapter 14: the Sentinel's monitors, alarm log, zeroisation and reserve supply. -/

namespace Sys2Proof.Machine

/-- A response level (R416, R425). -/
inductive Level where
  | notice
  | fence
  | halt
  | zeroize
  deriving DecidableEq, Repr

/-- One monitor instance (R408 to R410, R414): the ticks of its events still kept, newest first. -/
structure Monitor where
  events     : List Nat
  failed     : Bool
  value      : Word
  lastEntry  : Option Nat
  sinceEntry : Nat
  deriving DecidableEq, Repr

/-- One alarm log entry (R425), its fields before they are laid out in 32 bytes. -/
structure LogEntry where
  tick    : Nat
  cls     : Nat
  inst    : Nat
  level   : Level
  applied : Level
  moot    : Bool
  bist    : Bool
  holdUp  : Bool
  escalated : Bool
  again   : Bool
  tenant  : Option Byte
  mode    : BitVec 4
  unit    : BitVec 16
  value   : Word
  count   : Word
  seq     : Word
  boot    : BitVec 16
  deriving DecidableEq, Repr

/-- ZSTATE of the log store header (R421, R422). -/
inductive ZState where
  | none
  | pending
  | verified
  deriving DecidableEq, Repr

/-- A SEN_BIST item in progress (R413): instances still to test, and the tallies so far. -/
structure BistRun where
  item   : Option Nat
  todo   : List (Nat × Nat)
  tested : Nat
  failed : Nat
  deriving DecidableEq, Repr

/-- The Sentinel and the reserve supply (chapter 14). -/
structure SenState where
  monitors   : Tab Monitor
  /-- The log ring, newest first, at most 2,040 entries (R424). -/
  log        : List LogEntry
  logNext    : Word
  zstate     : ZState
  zeroDone   : Bool
  /-- Attempts made by the zeroisation in progress (R421). -/
  zeroTries  : Nat
  /-- The zeroisation in progress repeats an interrupted one (R422). -/
  zeroRepeat : Bool
  /-- Device-wide response in force: none, HALT or ZEROIZE. -/
  level      : Option Level
  /-- A HALT of an alarm sampled in Reset, carried forward to Boot (R418). -/
  carried    : Option Level
  /-- A warm reset is due after an S alarm (R423). -/
  steward2nd : Bool
  irqPending : Bool
  bist       : Option BistRun
  bistQueue  : List Nat
  rotation   : Nat
  underTest  : Option (Nat × Nat)
  /-- Units fenced by SEN_FENCE, numbered as UNIT of R425. -/
  operatorFenced : List Nat
  /-- Units whose third fence locked them out. -/
  lockedOut  : List Nat
  /-- Ticks of each unit's error fences, by UNIT number, for the lock-out windows. -/
  fenceTicks : Tab (List Nat)
  /-- Units under re-admission by the Steward, by UNIT number, with the SEN_READMIT item if any. -/
  readmits   : List (Nat × Option Nat)
  mainPower  : Bool
  holdUpTick : Nat
  holdUpLogged : Nat
  holdUpDone : Bool
  vresMv     : Nat
  capUf      : Nat
  esrMohm    : Nat
  measured   : Bool
  refusals   : Word
  boots      : BitVec 16
  deriving DecidableEq, Repr

end Sys2Proof.Machine
end

