-- ==== Sys2Proof/Machine/StateSys.lean ====
section
/-! DEFINITION. State of chapters 0, 19 and 20: mode bookkeeping, clocks, power, resets, pins and the sideband. -/

namespace Sys2Proof.Machine

/-- What requested a warm reset (R525). -/
inductive WarmCause where
  | perst
  | softReset
  | steward
  deriving DecidableEq, Repr

/-- The mode, the clocks, the rails and the pins. -/
structure SysState where
  phase      : Phase
  /-- The administrative quiesce condition (R5, R84). -/
  quiesce    : Bool
  prevMode   : BitVec 4
  changes    : Byte
  variant    : Variant
  stepping   : BitVec 4
  serial     : DWord
  /-- The Sentinel tick (R407) and its value at the last reset. -/
  tick       : Nat
  resetTick  : Nat
  aonUp      : Bool
  ioUp       : Bool
  /-- Bit r: rail r of R410 in its operating range. -/
  railsOk    : Byte
  pllLock    : Bool
  refSenref  : Bool
  pllLosses  : BitVec 16
  pwrfailN   : Bool
  perstHigh  : Bool
  /-- The reset in progress, or the last one: CAUSE of GLB_RESET_CAUSE (R529), as it will be written at Boot. -/
  nextCause  : BitVec 3
  nextDeferred : Bool
  cause      : BitVec 3
  deferred   : Bool
  warmCount  : BitVec 16
  /-- A warm reset has been requested and waits for steps 2 and 3 of R525. -/
  warmReq    : Option WarmCause
  /-- The reset hold has ended while PERST# was low (R524). -/
  resetOver  : Bool
  /-- The address straps sampled when VDD_IO rose (R540): SMB_ADDR1, SMB_ADDR0. -/
  strap1     : Bool
  strap0     : Bool
  /-- Conditions of R542 that the last alert-response read released. -/
  alertSeen  : List Nat
  /-- Boot has read the OTP since the last cold reset (R541). -/
  otpRead    : Bool
  deriving DecidableEq, Repr

end Sys2Proof.Machine
end

