-- ==== Sys2Proof/Machine/StateEnt.lean ====
section
/-! DEFINITION. State of chapter 11: entropy sources, the conditioner's pool and the DRBGs. -/

namespace Sys2Proof.Machine

/-- One jitter source (R331, R334, R335): the ticks of its failures still kept, newest first. -/
structure EntSource where
  healthy : Bool
  fenced  : Bool
  locked  : Bool
  fences  : Nat
  fails   : List Nat
  last    : Nat
  /-- The repetition count test's current sample value and how often it has repeated (R332). -/
  run     : Option (Byte × Nat)
  /-- The Steward's re-test is running (R335). -/
  testing : Bool
  deriving DecidableEq, Repr

/-- The working state of a CTR_DRBG with AES-256 (R338): Key, V and the generate requests since it was seeded. -/
structure Drbg where
  key   : List Byte
  v     : List Byte
  since : Nat
  deriving DecidableEq, Repr

/-- A tenant instance (R342 to R344): its DRBG, whether a background reseed is asked for, and the items that wait. -/
structure TenantDrbg where
  drbg   : Drbg
  asked  : Bool
  waiting : List Nat
  deriving DecidableEq, Repr

/-- The entropy unit (chapter 11). -/
structure EntState where
  ready      : Bool
  fenced     : Bool
  fault      : Bool
  mainServing : Bool
  /-- Start-up tests have passed and the main DRBG waits for VLT_MTAG (R340). -/
  awaitMtag  : Bool
  sources    : List EntSource
  /-- Conditioned outputs in the order of acceptance, at most 4 (R337). -/
  pool       : List (List Byte)
  main       : Option Drbg
  mainReseeds : Word
  tenants    : Tab TenantDrbg
  blkOk      : DWord
  blkFail    : Word
  rctFail    : Word
  aptFail    : Word
  /-- A HALT or ZEROIZE response has erased the working states (R346). -/
  erased     : Bool
  deriving DecidableEq, Repr

end Sys2Proof.Machine
end

