-- ==== Sys2Proof/Machine/StateCfb.lean ====
section
/-! DEFINITION. State of chapter 5: furrows and hash lanes. -/

namespace Sys2Proof.Machine

/-- One mask generator (R161 to R163): whether it holds a seed, the blocks since, an outstanding request, and whether
it has stopped at 2^22 blocks. -/
structure MaskGen where
  seeded  : Bool
  blocks  : Nat
  asked   : Bool
  stopped : Bool
  deriving DecidableEq, Repr

/-- One furrow (R159 to R170). Its contexts are the claims on it. -/
structure Furrow where
  genA    : MaskGen
  genB    : MaskGen
  fences  : Nat
  blocks  : DWord
  reseeds : Word
  deriving DecidableEq, Repr

/-- One hash lane (R171, R172). -/
structure HashLane where
  fences : Nat
  bytes  : DWord
  deriving DecidableEq, Repr

/-- The cipher fabric (chapter 5). -/
structure CfbState where
  furrows    : List Furrow
  lanes      : List HashLane
  mismatches : Word
  mmUnit     : Nat
  mmKind     : BitVec 2
  mmContext  : Nat
  mmTenant   : Byte
  mmTick     : Nat
  /-- A HALT or ZEROIZE response has erased every key and mask register: no block is accepted before the next reset
  (R168). -/
  erased     : Bool
  deriving DecidableEq, Repr

end Sys2Proof.Machine
end

