-- ==== Sys2Proof/Machine/StateObj.lean ====
section
/-! DEFINITION. State of chapters 6 and 7: running seals, opens and repairs, seal epochs, and the spread units. -/

namespace Sys2Proof.Machine

/-- A running seal (R203): its keys and what it has sealed, striped and sent so far. `gate` is the gateway's channel and
XID of a network seal. -/
structure SealRun where
  item     : Nat
  gate     : Option (Nat × Nat)
  params   : List Byte
  ctr      : DWord
  objRoot  : Word
  frgRoot  : Word
  objKey   : List Byte
  frgKey   : List Byte
  /-- Object data received and not yet encrypted. -/
  data     : List Byte
  segsDone : Nat
  /-- Sealed stream not yet striped. -/
  stream   : List Byte
  stripesDone : Nat
  /-- The byte string of each fragment so far (R255), and how much of it has been handed to its channel. -/
  strings  : List (List Byte)
  sent     : List Nat
  /-- Fragments whose FRAG_PUT_ACK is awaited. -/
  unacked  : List Nat
  manifest : List Byte
  deriving DecidableEq, Repr

/-- Object data of a SUBMIT stream that has arrived (R254), by item; `ended` says that LAST has arrived. -/
structure SubmitStream where
  item     : Nat
  chan     : Nat
  xid      : Nat
  received : Nat
  data     : List Byte
  ended    : Bool
  deriving DecidableEq, Repr

/-- A running open (R206 to R208). -/
structure OpenRun where
  item      : Nat
  gate      : Option (Nat × Nat)
  manifest  : List Byte
  segNext   : Nat
  segEnd    : Nat
  objKey    : List Byte
  stripe    : Nat
  /-- Fragments asked for in this stripe, the units that have arrived, and the fragments missing from it. -/
  asked     : List Nat
  units     : List (Nat × List Byte)
  missing   : List Nat
  /-- Sealed stream decoded so far, from the first byte of stripe `streamFrom` on. -/
  stream    : List Byte
  streamFrom : Nat
  used      : Nat
  discarded : Nat
  written   : Nat
  deriving DecidableEq, Repr

/-- A running REPAIR or VERIFY_FRAGMENTS (R234, R237). -/
structure RepairRun where
  item     : Nat
  manifest : List Byte
  places   : List (Nat × Nat)
  frgKey   : List Byte
  cand     : List Nat
  targets  : List Nat
  surv     : List Nat
  corrupt  : List Nat
  missing  : List Nat
  passes   : Nat
  stripe   : Nat
  asked    : List Nat
  /-- Byte string received in this pass, by fragment, and the tags that came with the last records. -/
  strings  : List (Nat × List Byte)
  tags     : List (Nat × List Byte)
  /-- Byte string rebuilt in this pass, by target, and how much of it has been handed to its channel. -/
  rebuilt  : List (Nat × List Byte)
  sent     : List (Nat × Nat)
  unacked  : List Nat
  deriving DecidableEq, Repr

/-- A closed epoch that awaits OBJ_EPOCH_FETCH, or whose epoch item has not yet written its record (R211, R213). -/
structure ClosedEpoch where
  epoch     : DWord
  slot      : Nat
  count     : Nat
  firstTick : Nat
  lastTick  : Nat
  root      : List Byte
  prevRoot  : List Byte
  item      : Nat
  record    : Option (List Byte)
  deriving DecidableEq, Repr

/-- Epoch state and object counters of a storage tenant (R209 to R218). -/
structure TenantObj where
  drawn     : List Byte
  number    : Word
  t0        : Nat
  firstTick : Nat
  slot      : Nat
  leaves    : List (List Byte)
  waiting   : List ClosedEpoch
  overdue   : Bool
  prevRoot  : List Byte
  signKey   : Option Word
  seals     : Word
  stopped   : Word
  discards  : Word
  deriving DecidableEq, Repr

/-- Object sealing (chapter 6). -/
structure ObjState where
  seals    : List SealRun
  submits  : List SubmitStream
  opens    : List OpenRun
  repairs  : List RepairRun
  tenants  : Tab TenantObj
  deriving DecidableEq, Repr

/-- One spread unit (R224 to R227). -/
structure SpreadUnit where
  fences : Nat
  bytes  : DWord
  deriving DecidableEq, Repr

/-- One tenant's partition of the schedule cache (R229): slot numbers within it, most recently used first. -/
structure SchedPart where
  tenant : Byte
  first  : Nat
  size   : Nat
  order  : List Nat
  deriving DecidableEq, Repr

/-- The spread engine (chapter 7). -/
structure SprState where
  units      : List SpreadUnit
  mismatches : Word
  mmUnit     : Nat
  mmShare    : Nat
  mmTenant   : Byte
  mmKind     : BitVec 2
  mmTick     : Nat
  schedHit   : Word
  schedMiss  : Word
  crcFail    : Word
  parts      : List SchedPart
  repairs    : Word
  abandoned  : Word
  deriving DecidableEq, Repr

end Sys2Proof.Machine
end

