-- ==== Sys2Proof/Machine/StateHwk.lean ====
section
/-! DEFINITION. State of chapter 8: Ethernet ports, MACsec, weirs, channels and their exchanges, and the exception and
injection rings. -/

namespace Sys2Proof.Machine

/-- A lateral transport packet as received, its header fields and body (R253). -/
structure RxPacket where
  typ    : Nat
  flags  : Nat
  epoch  : Byte
  seq    : Nat
  ack    : Nat
  sack   : Nat
  window : Nat
  xid    : Nat
  body   : List Byte
  /-- Tenant and class of the headgate that admitted it, and its weir (R251, R266). -/
  tenant : Byte
  cls    : Nat
  weir   : Option Nat
  deriving DecidableEq, Repr

/-- A packet that the device sends: `sends` counts its transmissions, `covered` says that SACK covers it (R263). -/
structure TxPacket where
  seq     : Nat
  typ     : Nat
  flags   : Nat
  xid     : Nat
  body    : List Byte
  weir    : Option Nat
  sends   : Nat
  covered : Bool
  deriving DecidableEq, Repr

/-- The kinds of exchange (R266). -/
inductive ExchangeKind where
  | submit
  | retrieve
  | put (frag : Nat)
  | get (frag offset len : Nat)
  deriving DecidableEq, Repr

/-- An open exchange of a channel: who opened it, the item it serves, and the data of a FRAG_GET so far. -/
structure Exchange where
  xid    : Nat
  mine   : Bool
  kind   : ExchangeKind
  item   : Nat
  weir   : Option Nat
  got    : List Byte
  /-- The FRAG_PUT stream's tagged record has been acknowledged (R267). -/
  tagged : Bool
  deriving DecidableEq, Repr

/-- STATE of HWK_CHAN_RESULT (R270). -/
inductive ChanState where
  | synchronising
  | opened
  | unreachable
  deriving DecidableEq, Repr

/-- An active channel (R258 to R267). Sequence numbers are below 2^32. -/
structure Channel where
  entry     : List Byte
  state     : ChanState
  /-- The reset's EPOCH value is still in quarantine (R265). -/
  quarantined : Bool
  epoch     : Byte
  /-- Tick at which each EPOCH value was last synchronised. -/
  epochTicks : Tab Nat
  rxNext    : Nat
  /-- Accepted packets beyond a gap. -/
  held      : List RxPacket
  /-- Accepted packets in SEQ order that their exchange has not yet taken, and unsequenced ones. -/
  inbox     : List RxPacket
  control   : List RxPacket
  txNext    : Nat
  ackPeer   : Nat
  winPeer   : Nat
  unsent    : List TxPacket
  sent      : List TxPacket
  exchanges : List Exchange
  nextXid   : Nat
  ackOwed   : Bool
  deriving DecidableEq, Repr

/-- One sub-port: link, MACsec SAK and packet number (R244 to R246). -/
structure SubPort where
  link    : Bool
  sak     : Option (List Byte)
  pn      : Nat
  /-- Kyobin has requested a new SAK (R246). -/
  rekey   : Bool
  deriving DecidableEq, Repr

/-- One port: its 8 sub-ports and its ten counters in the order of R270. -/
structure Port where
  subs     : List SubPort
  counters : List Word
  deriving DecidableEq, Repr

/-- A weir's content in bits, and the tick at which it was last brought up to date (R251). -/
structure WeirLevel where
  content : Int
  tick    : Nat
  deriving DecidableEq, Repr

/-- The headworks (chapter 8). -/
structure HwkState where
  ports    : List Port
  chans    : Tab Channel
  weirs    : Tab WeirLevel
  /-- Channel whose OPEN has not yet answered: BUSY. -/
  opening  : Option Nat
  result   : BitVec 16
  /-- A READ has completed: HWK_CHAN_DATA shows the entry that it copied. -/
  readDone : Bool
  retx     : Word
  resets   : Word
  excProd  : Nat
  injCons  : Nat
  injLost  : Word
  deriving DecidableEq, Repr

end Sys2Proof.Machine
end

