-- ==== Sys2Proof/Machine/StatePke.lean ====
section
/-! DEFINITION. State of chapters 9 and 10: public-key engines and their jobs, and the payment counters. -/

namespace Sys2Proof.Machine

/-- A job of an item on an engine (R280): SHORT or LONG, its engine time in PKE cycles, and whether it has come to its
end on the engine. -/
structure PkJob where
  item   : Nat
  long   : Bool
  cycles : Nat
  deriving DecidableEq, Repr

/-- One engine, or a fused pair under its even number (R272 to R288). `ahead` holds the SHORT jobs that waited when the
LONG job parked (R281); `zeroing` the slot runs that are being cleared (R278). -/
structure PkEngine where
  running : Option PkJob
  parked  : Option PkJob
  ahead   : List Nat
  shortQ  : List PkJob
  longQ   : List PkJob
  zeroing : List (Nat × Nat)
  fenced  : Bool
  testing : Bool
  locked  : Bool
  fences  : Nat
  busy    : DWord
  jobs    : Word
  parks   : Word
  deriving DecidableEq, Repr

/-- Where an item of a public-key opcode stands (R285, R296): in its validation window, on an engine, or with its job
complete. -/
inductive PkStage where
  | window
  | queued
  | complete
  deriving DecidableEq, Repr

/-- A public-key item in progress: what its validation decided, and what it will deliver (status, output, completion
body). -/
structure PkWork where
  item   : Nat
  engine : Nat
  stage  : PkStage
  status : BitVec 16
  out    : List Byte
  body   : List Byte
  jobs   : Nat
  cycles : Nat
  deriving DecidableEq, Repr

/-- The public-key engines (chapter 9). -/
structure PkeState where
  engines  : List PkEngine
  work     : List PkWork
  faults   : Word
  mmEngine : Nat
  mmKind   : BitVec 4
  mmTenant : Byte
  mmTick   : Nat
  aborts   : Word
  valFail  : Word
  /-- A HALT or ZEROIZE response has zeroed the Cisterns: no job before the next reset (R288). -/
  erased   : Bool
  deriving DecidableEq, Repr

/-- The payment counters (R329). -/
structure PayState where
  pinErr    : Word
  verFail   : Word
  ksnRej    : Word
  kbRej     : Word
  done      : DWord
  approvals : Word
  /-- Items completed with NAS set, in all and by tenant (R515). -/
  nas       : DWord
  nasTenant : Tab Word
  deriving DecidableEq, Repr

end Sys2Proof.Machine
end

