-- ==== Sys2Proof/Machine/StateLcb.lean ====
section
/-! DEFINITION. State of chapter 15: OTP, the firmware store, the boot ROM, debug tokens and the TAP. -/

namespace Sys2Proof.Machine

/-- One 16-byte life-cycle slot (R440). -/
structure LcSlot where
  premark : Word
  intent  : Word
  commit  : Word
  tag     : Word
  deriving DecidableEq, Repr

/-- Life cycle, boot and debug (chapter 15). -/
structure LcbState where
  /-- The life-cycle record: 32 slots. -/
  slots      : List LcSlot
  minSvn     : BitVec 64
  revoked    : Word
  /-- PUF helper data is written, or has been programmed to all ones by a scrap wipe (R443). -/
  helper     : Option (List Byte)
  helperGone : Bool
  /-- A scrap wipe has been performed on this part. -/
  puf        : List Byte
  /-- Images of firmware slots A and B: header, body and trailer. -/
  slotA      : List Byte
  slotB      : List Byte
  prefer     : Bool
  tries      : Nat
  /-- Boot as it stands (R447). -/
  stage      : BitVec 4
  stopped    : Bool
  invalid    : Bool
  torn       : Bool
  runSlot    : Bool
  fallback   : Bool
  noImage    : Bool
  pufFail    : Bool
  romFail    : Bool
  /-- Boot waits for the reserve to admit an OTP write (R445): STAGE reads 0x3. -/
  waitOtp    : Bool
  /-- The wipe of the slot that Boot resolves has been performed in this boot (R445). -/
  wiped      : Bool
  /-- Slot that Boot has selected and whose TRIES increment is under way (R450); true for B. -/
  selected   : Option Bool
  /-- Boot waits for one full measurement before it tries the increment again (R450). -/
  waitTries  : Bool
  probeOk    : Bool
  runSvn     : Nat
  version    : DWord
  meas       : List Byte
  /-- OTP writes admitted and not committed, with the slot to write (R444). -/
  recStat    : BitVec 16
  recBusy    : Bool
  scopes     : BitVec 3
  dbgOpen    : Bool
  tokenStat  : BitVec 16
  /-- Levels that the boundary-scan register drives, and its captured levels (R454). -/
  boundary   : List Bool
  extest     : Bool
  deriving DecidableEq, Repr

end Sys2Proof.Machine
end

