-- ==== Sys2Proof/Machine/StateCtl.lean ====
section
/-! DEFINITION. State of chapters 16 and 17: card ports, ceremony sessions, tenant approvals and the cluster ring. -/

namespace Sys2Proof.Machine

/-- What a card port waits for within its step (R462 to R466, R473). -/
inductive CardWait where
  | none
  | atr
  | pps (fallback : Bool)
  | classRetry
  | select
  | pin
  | sign
  deriving DecidableEq, Repr

/-- One card port (R460 to R470, R486). `busy` says that C_IO is held low (R466); `first` that the first response
character has arrived. -/
structure CardPort where
  present  : Bool
  powered  : Bool
  classB   : Bool
  protoT1  : Bool
  phase    : BitVec 3
  lesengo  : Bool
  ta1      : Byte
  clkKhz   : Nat
  removals : Word
  errors   : Word
  lastStatus : BitVec 16
  lastPhase  : BitVec 3
  /-- Item of the step that runs on the port, and those that wait for it in consumption order. -/
  step     : Option Nat
  queue    : List Nat
  wait     : CardWait
  warm     : Bool
  busy     : Bool
  officer  : Word
  pubKey   : List Byte
  deriving DecidableEq, Repr

/-- A ceremony session (R475 to R478). -/
structure Ceremony where
  session  : Word
  kind     : Nat
  aux      : Nat
  subject  : List Byte
  nonce    : List Byte
  opened   : Nat
  limitS   : Nat
  counted  : List Word
  /-- Every officer whose step passed, with the key it verified under and its counter (R481). -/
  passed   : List Officer
  components : List (Word × List Byte)
  isOpen   : Bool
  deriving DecidableEq, Repr

/-- A tenant's roster (R483). -/
structure TenantRoster where
  m       : Nat
  handles : List Word
  deriving DecidableEq, Repr

/-- A tenant approval session (R484). -/
structure Approval where
  session : Word
  subject : List Byte
  nonce   : List Byte
  opened  : Nat
  counted : List Word
  deriving DecidableEq, Repr

/-- Card ports, ceremonies and approvals (chapter 16). The roster of officers is a device record. -/
structure CtlState where
  ports      : List CardPort
  irqInsert  : BitVec 4
  irqRemove  : BitVec 4
  roster     : List Officer
  rosterM    : Nat
  session    : Option Ceremony
  nextSession : Word
  tenantRosters : Tab TenantRoster
  approvals  : List (Byte × Approval)
  nextApproval : Tab Nat
  /-- MACsec CAKs by PORT code: CKN and CAK (R245, R481). -/
  caks       : Tab (List Byte × List Byte)
  deriving DecidableEq, Repr

/-- What another member of the ring is known to be (R489, R496): the tick of its last HEARTBEAT, its BOOT_SALT and its
epoch. -/
structure RingPeer where
  lastBeat : Nat
  salt     : List Byte
  epoch    : DWord
  deriving DecidableEq, Repr

/-- How far a mirror commit that this member originates has come (R498): its PREPARE has been sent, its COMMIT has been
sent, or its COMMIT has returned. -/
inductive MirrorStage where
  | prepared
  | committed
  | returned
  deriving DecidableEq, Repr

/-- A record staged by another member's PREPARE (R498). -/
structure Staged where
  origin : Nat
  epoch  : DWord
  body   : List Byte
  deriving DecidableEq, Repr

/-- RING_ASSEMBLE in progress (R493, R494): its item, the descriptor, the ephemeral key and the peers that have
passed. -/
structure RingForm where
  item   : Nat
  desc   : List Byte
  serials : List DWord
  ringId : DWord
  zprop  : Bool
  position : Nat
  ephemeral : List Byte
  passed : List Nat
  ringKey : List Byte
  peerKeys : Tab (List Byte)
  deriving DecidableEq, Repr

/-- The cluster ring (chapter 17). -/
structure RingState where
  member   : Bool
  position : Nat
  serials  : List DWord
  ringId   : DWord
  zprop    : Bool
  culvertOpen : Bool
  locked   : Bool
  token    : Bool
  /-- Epoch that the token carries while the device holds it. -/
  tokenEpoch : DWord
  generation : Word
  epoch    : DWord
  top      : DWord
  peers    : Tab RingPeer
  bootSalt : List Byte
  counter  : DWord
  lastToken : Nat
  /-- The store whose mirror commit is under way, and its stage. -/
  commit   : Option (Nat × MirrorStage)
  staged   : Option Staged
  /-- 300 µs with the culvert open have passed in this Plan Load (R500). -/
  compared : Bool
  /-- Member from which a Mirror Sync was requested, and the parts received. -/
  syncFrom : Option Nat
  form     : Option RingForm
  commits  : Word
  aborts   : Word
  badFrame : Word
  zOrigin  : BitVec 4
  zSeen    : Bool
  /-- A ZEROIZE frame was sent or relayed and no own one may follow (R501). -/
  zSent    : Bool
  deriving DecidableEq, Repr

end Sys2Proof.Machine
end

