-- ==== Sys2Proof/Machine/State.lean ====
section
/-! DEFINITION. The whole state of the device, the reasons a command may stop, and the state right after a cold
reset. -/

namespace Sys2Proof.Machine

/-- Reasons for which a command faults. No command of this device faults (every condition that the spec names is a
status, an alarm or an ignored event), so the type has one constructor that nothing raises: safe. -/
inductive Fault where
  /-- Raised by nothing. -/
  | unreachable
  deriving DecidableEq, Repr

/-- Reasons for which a command is refused. -/
inductive Refusal where
  /-- A command whose meaning the model does not hold yet: safe. -/
  | notModelled (mnemonic : String)
  deriving DecidableEq, Repr

/-- The state of the KY-4800. -/
structure State where
  /-- Commands that wait, first in, first out. -/
  pending : List Instr
  /-- How many open values the machine has taken: the model's own counter, not the spec's. -/
  fresh   : Nat
  sys     : SysState
  plan    : PlanState
  sluice  : SluiceState
  /-- Registers that software reads and writes, by 2^26 × function + offset; an unlisted one holds its reset value. A _HI half
  that a read of its _LO register has latched stands here too. -/
  regs    : Tab Word
  host    : HostState
  qps     : Tab Qp
  dsp     : DspState
  vault   : VaultState
  mem     : MemState
  sen     : SenState
  ent     : EntState
  cfb     : CfbState
  obj     : ObjState
  spr     : SprState
  hwk     : HwkState
  pke     : PkeState
  pay     : PayState
  lcb     : LcbState
  ctl     : CtlState
  ring    : RingState
  /-- What the device has sent, newest first. -/
  out     : List Output
  deriving DecidableEq, Repr

/-! ## The state right after reset: a cold reset from Off has just been released and Boot begins -/

/-- The plan in force before Plan Load: nothing, with the dispatcher classes of the empty plan (R44). -/
def Plan.none : Plan :=
  { tenants := [], pke := [], windows := [], hbm := [], headgates := [], weirs := [],
    classes := (List.range 8).map fun c => { cls := c, listFirst := 8 * c, listCount := 8, weight := 1, coreCap := 0 },
    regions := [], sentinel := [] }

def SysState.reset : SysState :=
  { phase := .boot, quiesce := false, prevMode := 0x1, changes := 0, variant := .ky4800A, stepping := 0x1,
    serial := Config.partSerial, tick := 0, resetTick := 0, aonUp := true, ioUp := true, railsOk := 0xFF, pllLock := true,
    refSenref := false, pllLosses := 0, pwrfailN := true, perstHigh := true, nextCause := 0, nextDeferred := false,
    cause := 0, deferred := false, warmCount := 0, warmReq := none, resetOver := false, strap1 := false, strap0 := false,
    alertSeen := [], otpRead := false }

def PlanState.reset : PlanState :=
  { running := Plan.none, serial := 0, digest := List.replicate 48 0, result := 0xF, empty := false, waiting := false,
    failSection := 0xFF, failEntry := 0xFFFF_FFFF, amendSeq := 0, reading := false }

def SluiceState.reset : SluiceState :=
  { bankA := [], bankB := [], activeB := false, checking := false, swapPending := false, halted := false, frameBase := 0,
    swaps := 0,
    units := List.replicate 40 { owner := 0, role := 0, assigned := false, state := .unassigned },
    lateScrubs := [], amend := none }

def HostState.reset : HostState :=
  { linkSpeed := 0, linkWidth := 0, linkFlit := false, linkUp := false, numVfs := 0, vfEnable := false, ideKeysSet := [],
    ideSecure := [], ideRid := [], ideFail := 0, spdmSession := false, vfs := [], pfFlrBusy := false, pfPba := [],
    bootId := 0, bootBlobKey := [], blobRejects := 0, flrs := 0, dmaErrors := List.replicate 8 0, aerInternal := 0 }

def DspState.reset : DspState :=
  { items := [], nextItem := 0, consumed := 0,
    cores := List.replicate 64 { fenced := false, item := none, resets := [], setOf := none },
    lists := List.replicate 64 { items := [], barrier := false }, resumeQ := [], credits := List.replicate 8 0,
    rrNext := List.replicate 8 0, flows := [], flowCached := [], flowHit := 0, flowMiss := 0, coreResets := 0,
    claimFails := 0, stewardState := 0, stewardFails := 0, stewardAt := none, halted := false, traces := [],
    scratchTags := [] }

def VaultState.reset : VaultState :=
  { ready := false, formatted := false, storeEpoch := 0, salt := none, deviceRoot := [], certArea := [], planRecord := none,
    operatorKey := none, spdmKey := [], migrationKey := none, ringKey := none, carryOver := none, promoting := false,
    records := [], templates := [], genArray := [], tmplGen := [], counters := [], sessions := [], sessionKey := [],
    writeSerial := 0, sessRanges := [], cache := [], fills := [], useClock := 0, cacheHit := 0, cacheMiss := 0,
    kdfCount := 0, sessTagFail := 0, measurement := List.replicate 48 0, stores := [], nextStore := 0, scans := [],
    retryRetire := [], dak := [] }

def MemState.reset : MemState :=
  { cells := [], keyLoaded := false, memKey := [], sweepDone := false, initMap := [], hbm0Ok := false, hbm1Ok := false,
    ce := 0, ue := 0, ueAddr := 0, ueLines := [], decodeErr := 0, regions := [], coreSets := [], stewardLocked := false,
    fifos := List.replicate 6 { records := [], lost := 0 }, irqPending := 0, allocs := [], nextAlloc := 0, syncs := 0 }

def SenState.reset : SenState :=
  { monitors := [], log := [], logNext := 0, zstate := .none, zeroDone := false, zeroTries := 0, zeroRepeat := false, level := none,
    carried := none, steward2nd := false, irqPending := false, bist := none, bistQueue := [], rotation := 0,
    underTest := none, operatorFenced := [], lockedOut := [], fenceTicks := [], readmits := [], mainPower := true,
    holdUpTick := 0, holdUpLogged := 0, holdUpDone := false, vresMv := 0, capUf := 0, esrMohm := 0, measured := false,
    refusals := 0, boots := 0 }

def EntState.reset : EntState :=
  { ready := false, fenced := false, fault := false, mainServing := false, awaitMtag := false,
    sources := List.replicate 32 { healthy := false, fenced := false, locked := false, fences := 0, fails := [], last := 0,
                                    run := none, testing := false },
    pool := [], main := none, mainReseeds := 0, tenants := [], blkOk := 0, blkFail := 0, rctFail := 0, aptFail := 0,
    erased := false }

def CfbState.reset : CfbState :=
  { furrows := List.replicate 20
      { genA := { seeded := false, blocks := 0, asked := false, stopped := false },
        genB := { seeded := false, blocks := 0, asked := false, stopped := false }, fences := 0, blocks := 0, reseeds := 0 },
    lanes := List.replicate 16 { fences := 0, bytes := 0 }, mismatches := 0, mmUnit := 0, mmKind := 0, mmContext := 0,
    mmTenant := 0, mmTick := 0, erased := false }

def ObjState.reset : ObjState := { seals := [], submits := [], opens := [], repairs := [], tenants := [] }

def SprState.reset : SprState :=
  { units := List.replicate 4 { fences := 0, bytes := 0 }, mismatches := 0, mmUnit := 0, mmShare := 0, mmTenant := 0,
    mmKind := 0, mmTick := 0, schedHit := 0, schedMiss := 0, crcFail := 0, parts := [], repairs := 0, abandoned := 0 }

def HwkState.reset : HwkState :=
  { ports := List.replicate 4
      { subs := List.replicate 8 { link := false, sak := none, pn := 0, rekey := false }, counters := List.replicate 10 0 },
    chans := [], weirs := [], opening := none, result := 0, readDone := false, retx := 0, resets := 0, excProd := 0,
    injCons := 0, injLost := 0 }

def PkEngine.reset : PkEngine :=
  { running := none, parked := none, ahead := [], shortQ := [], longQ := [], zeroing := [], fenced := false,
    testing := false, locked := false, fences := 0, busy := 0, jobs := 0, parks := 0 }

def PkeState.reset : PkeState :=
  { engines := List.replicate 8 PkEngine.reset, work := [], faults := 0, mmEngine := 0, mmKind := 0, mmTenant := 0,
    mmTick := 0, aborts := 0, valFail := 0, erased := false }

def PayState.reset : PayState := { pinErr := 0, verFail := 0, ksnRej := 0, kbRej := 0, done := 0, approvals := 0, nas := 0, nasTenant := [] }

/-- The life-cycle record as wafer test leaves it (R440): slot 0 committed to BLANK. -/
def LcbState.reset : LcbState :=
  { slots := { premark := 0x3C3C_3C3C, intent := 0x0F0F_0F0F, commit := 0xC3C3_C3C3, tag := 0 } ::
      List.replicate 31 { premark := 0, intent := 0, commit := 0, tag := 0 },
    minSvn := 0, revoked := 0, helper := none, helperGone := false, puf := [], slotA := [], slotB := [], prefer := false,
    tries := 0, stage := 0x1, stopped := false, invalid := false, torn := false, runSlot := false, fallback := false,
    noImage := false, pufFail := false, romFail := false, waitOtp := false, wiped := false, selected := none, waitTries := false, probeOk := false, runSvn := 0, version := 0,
    meas := List.replicate 48 0, recStat := 0, recBusy := false, scopes := 0, dbgOpen := false, tokenStat := 0,
    boundary := [], extest := false }

def CardPort.reset : CardPort :=
  { present := false, powered := false, classB := false, protoT1 := false, phase := 0, lesengo := false, ta1 := 0x11,
    clkKhz := 0, removals := 0, errors := 0, lastStatus := 0, lastPhase := 0, step := none, queue := [], wait := .none,
    warm := false, busy := false, officer := 0, pubKey := [] }

def CtlState.reset : CtlState :=
  { ports := List.replicate 4 CardPort.reset, irqInsert := 0, irqRemove := 0, roster := [], rosterM := 0, session := none,
    nextSession := 1, tenantRosters := [], approvals := [], nextApproval := [], caks := [] }

def RingState.reset : RingState :=
  { member := false, position := 0, serials := [], ringId := 0, zprop := false, culvertOpen := false, locked := false,
    token := false, tokenEpoch := 0, generation := 0, epoch := 0, top := 0, peers := [], bootSalt := [], counter := 0, lastToken := 0,
    commit := none, staged := none, compared := false, syncFrom := none, form := none, commits := 0, aborts := 0, badFrame := 0, zOrigin := 0,
    zSeen := false, zSent := false }

/-- The device right after a cold reset from Off: Boot begins (R4, R524). -/
def State.reset : State :=
  { pending := [], fresh := 0, sys := SysState.reset, plan := PlanState.reset, sluice := SluiceState.reset, regs := [],
    host := HostState.reset, qps := [], dsp := DspState.reset, vault := VaultState.reset, mem := MemState.reset,
    sen := SenState.reset, ent := EntState.reset, cfb := CfbState.reset, obj := ObjState.reset, spr := SprState.reset,
    hwk := HwkState.reset, pke := PkeState.reset, pay := PayState.reset, lcb := LcbState.reset, ctl := CtlState.reset,
    ring := RingState.reset, out := [] }

end Sys2Proof.Machine
end

