-- ==== Sys2Proof/Machine/Status.lean ====
section
/-! DEFINITION. The master status-code table (R85) and the encodings of operating modes and states. -/

namespace Sys2Proof.Machine

/-- A STATUS of a completion record. -/
abbrev Status := BitVec 16

abbrev stOk : Status := 0x0000
abbrev stBadOpcode : Status := 0x0101
abbrev stBadField : Status := 0x0102
abbrev stBadAlignment : Status := 0x0103
abbrev stAccessDenied : Status := 0x0104
abbrev stKeyNotFound : Status := 0x0201
abbrev stKeyRevoked : Status := 0x0202
abbrev stKeyUsage : Status := 0x0203
abbrev stKeyEngine : Status := 0x0204
abbrev stKeySlotUsed : Status := 0x0205
abbrev stNonceExhausted : Status := 0x0206
abbrev stKeyStale : Status := 0x0207
abbrev stLengthLimit : Status := 0x0301
abbrev stPartialBlock : Status := 0x0302
abbrev stInputRange : Status := 0x0303
abbrev stInvalidPoint : Status := 0x0304
abbrev stGeometry : Status := 0x0305
abbrev stTagMismatch : Status := 0x0401
abbrev stFragmentCorrupt : Status := 0x0402
abbrev stTooFewFragments : Status := 0x0403
abbrev stPinFormat : Status := 0x0404
abbrev stVerifyFail : Status := 0x0405
abbrev stTimeout : Status := 0x0501
abbrev stAborted : Status := 0x0502
abbrev stNoResource : Status := 0x0503
abbrev stFaultDetected : Status := 0x0601
abbrev stAlarmHalt : Status := 0x0602
abbrev stQuiesced : Status := 0x0603
abbrev stNotServing : Status := 0x0604
abbrev stPeerUnreachable : Status := 0x0701
abbrev stChannelReset : Status := 0x0702
abbrev stCardRemoved : Status := 0x0801
abbrev stCardProtocol : Status := 0x0802
abbrev stQuorumMissing : Status := 0x0803
abbrev stReserveLow : Status := 0x0804

end Sys2Proof.Machine
end

