-- ==== Sys2Proof/Machine/Ops.lean ====
section
/-! DEFINITION. The operations that the commands' meanings share: the register file, the operating mode, open values,
outputs, items and their claims, host data, device memory and protection, fencing, and stores. -/

namespace Sys2Proof.Machine

/-! ## Open values -/

/-- Take one open value of `n` bytes: random bits, or bytes that the spec leaves open. -/
def State.freeBytes (s : State) (n : Nat) : List Byte × State :=
  ((List.range n).map (Config.freeByte s.fresh), { s with fresh := s.fresh + 1 })

/-- Take one open choice. -/
def State.choose (s : State) : Nat × State := (Config.freeChoice s.fresh, { s with fresh := s.fresh + 1 })

/-! ## CTR_DRBG (R338): SP 800-90A with AES-256, no derivation function -/

/-- V plus `n`, as a 128-bit big-endian number. -/
def drbgV (v : List Byte) (n : Nat) : List Byte := beBytes 16 ((ofBe v + n) % 2 ^ 128)

/-- `n` output blocks from V + 1 on. -/
def drbgBlocks (key v : List Byte) (n : Nat) : List Byte :=
  ((List.range n).map fun i => aesBlock true key (drbgV v (i + 1))).flatten

/-- CTR_DRBG_Update with 48 bytes of provided data. -/
def Drbg.update (d : Drbg) (data : List Byte) : Drbg :=
  let t := xorBytes (drbgBlocks d.key d.v 3) data
  { d with key := t.take 32, v := t.drop 32 }

/-- Instantiate from 48 bytes of seed and a 48-byte personalisation string. -/
def Drbg.instantiate (seed pers : List Byte) : Drbg :=
  ({ key := zeros 32, v := zeros 16, since := 0 } : Drbg).update (xorBytes seed pers)

/-- Reseed from 48 bytes with 48 bytes of additional input. -/
def Drbg.reseed (d : Drbg) (seed addin : List Byte) : Drbg := { d.update (xorBytes seed addin) with since := 0 }

/-- One generate request of `n` bytes with 48 bytes of additional input; all zeros mean none (R348). -/
def Drbg.generate (d : Drbg) (n : Nat) (addin : List Byte) : List Byte × Drbg :=
  let d := if addin.all (· == 0) then d else d.update addin
  let blocks := (n + 15) / 16
  let out := (drbgBlocks d.key d.v blocks).take n
  let d' := ({ d with v := drbgV d.v blocks }).update addin
  (out, { d' with since := d.since + 1 })

/-- One request of at most 48 bytes to the main DRBG (R339). -/
def State.mainRequest (s : State) (n : Nat) : List Byte × State :=
  match s.ent.main with
  | some d =>
    let r := d.generate n (zeros 48)
    (r.1, { s with ent := { s.ent with main := some r.2 } })
  | none => s.freeBytes n

/-- Draw `n` bytes from the main DRBG as requests of at most `per` bytes each (R339). -/
def State.drawRequests (s : State) (per : Nat) : Nat → Nat → List Byte × State
  | 0, _ => ([], s)
  | f + 1, n =>
    if n = 0 then ([], s)
    else
      let r := s.mainRequest (min n per)
      let r' := r.2.drawRequests per f (n - min n per)
      (r.1 ++ r'.1, r'.2)

/-- Draw `n` bytes from the main DRBG. -/
def State.draw (s : State) (n : Nat) : List Byte × State := s.drawRequests 48 (n / 48 + 1) n

/-! ## Registers (R12 to R14, R89) -/

/-- Where a function's register stands in the register file. -/
def regKey (fn off : Nat) : Nat := fn * 2 ^ 26 + off

/-- A queue-page offset of a function: the PF's queue page begins at PF BAR0 offset 0x0028_0000 (R89). -/
def queueOff (fn off : Nat) : Nat := if fn = 0 then 0x0028_0000 + off else off

/-- Reset values of the software-written registers whose reset value is not zero, by queue-page offset for a queue
register and by PF BAR0 offset for any other. -/
def regReset (fn off : Nat) : Word :=
  let q := if fn = 0 then off - 0x0028_0000 else off
  if (fn ≠ 0 ∨ (0x0028_0000 ≤ off ∧ off < 0x0029_0000)) ∧ 0x0100 ≤ q ∧ q < 0x0500 then
    match q % 0x40 with
    | 0x10 => 0x0000_0404
    | 0x14 => 0x0000_0100
    | 0x18 => 0x0000_0001
    | _ => 0
  else if fn ≠ 0 ∧ off = 0x3008 then 8
  else if fn = 0 ∧ (off = 0x0040_0408 ∨ off = 0x0010_0A08 ∨ off = 0x0010_0A28) then 8
  else if fn = 0 ∧ off = 0x00C0_0010 then 0x0000_1400
  else if (fn ≠ 0 ∧ 0x8000 ≤ off ∧ off < 0x8110 ∨ fn = 0 ∧ 0x0029_0000 ≤ off ∧ off < 0x0029_0400) ∧ off % 16 = 12 then 1
  else 0

/-- The value of a software-written register. -/
def State.reg (s : State) (fn off : Nat) : Word := tabGetD s.regs (regKey fn off) (regReset fn off)

/-- A software-written register set. -/
def State.setReg (s : State) (fn off : Nat) (v : Word) : State :=
  { s with regs := tabSet s.regs (regKey fn off) v }

/-- A queue-pair register of a function by its offset for n = 0. -/
def State.qpReg (s : State) (fn qp off : Nat) : Word := s.reg fn (queueOff fn (off + 0x40 * qp))

/-- Two registers as one 64-bit value. -/
def State.reg64 (s : State) (fn lo hi : Nat) : Nat := (s.reg fn lo).toNat + 2 ^ 32 * (s.reg fn hi).toNat

/-! ## Mode (R4 to R6) -/

/-- The number that UNIT of a log entry gives a unit (R425): 0 to 39 sluice units, 0x40 + n PK engines, 0x80 + n
service cores, 0xC0 the vault, 0xC1 the entropy unit. -/
abbrev UnitNo := Nat

/-- A unit is fenced: UNITS_FENCED counts furrows, hash lanes, spread units, PK engines, service cores and the entropy
unit. -/
def State.sluFenced (s : State) (u : Nat) : Bool :=
  match s.sluice.units[u]? with
  | some x => x.state == .fenced
  | none => false

/-- At least one unit is fenced (UNITS_FENCED of R4). -/
def State.anyFenced (s : State) : Bool :=
  s.sluice.units.any (·.state == .fenced) || s.dsp.cores.any (·.fenced) || s.pke.engines.any (·.fenced) ||
    s.ent.fenced

/-- A quorum session is open (CEREMONY_OPEN of R4). -/
def State.ceremonyOpen (s : State) : Bool := s.ctl.session.any (·.isOpen)

/-- The mode that MODE reports (R4), of those that hold together the first of Quiesce, Ceremony, Degraded, Service
(R5). -/
def State.mode (s : State) : BitVec 4 :=
  match s.sys.phase with
  | .off => 0x0
  | .reset => 0x1
  | .boot => 0x2
  | .planLoad => 0x3
  | .mirrorSync => 0x4
  | .service =>
    if s.sys.quiesce then 0x7 else if s.ceremonyOpen then 0x6 else if s.anyFenced then 0x8 else 0x5
  | .alarmHold => 0x9
  | .holdUp => 0xA
  | .diagnostic => 0xB

/-- PREV_MODE and CHANGES brought up to date after a change that may have changed the mode (R4). -/
def State.noteMode (before after : State) : State :=
  if after.mode = before.mode then after
  else { after with sys := { after.sys with prevMode := before.mode, changes := after.sys.changes + 1 } }

/-- Another phase. Leaving `service` ends Quiesce. -/
def State.enterPhase (s : State) (p : Phase) : State :=
  s.noteMode { s with sys := { s.sys with phase := p, quiesce := s.sys.quiesce && p == .service } }

/-- ns since the last reset. -/
def State.uptimeNs (s : State) : Nat := 1000 * (s.sys.tick - s.sys.resetTick)

/-- The host link is served: in Off, Reset and Hold-up it is not (R10, R426). -/
def State.hostServed (s : State) : Bool :=
  s.host.linkUp && match s.sys.phase with
    | .off | .reset | .holdUp => false
    | _ => true

/-! ## Functions, tenants and the plan -/

/-- A VF's state; an unlisted one is in its reset state. -/
def Vf.fresh : Vf :=
  { suspended := false, stale := false, outcome := 0, flrBusy := false, tdi := .configUnlocked,
    dirty := none, pba := [] }

def State.vf (s : State) (n : Nat) : Vf := tabGetD s.host.vfs n Vf.fresh

def State.setVf (s : State) (n : Nat) (v : Vf) : State :=
  { s with host := { s.host with vfs := tabSet s.host.vfs n v } }

/-- The tenant whose TENANTS entry covers a VF (R63). -/
def State.vfTenant (s : State) (fn : Nat) : Option TenantEntry :=
  s.plan.running.tenants.find? fun t => decide (t.vfFirst ≤ fn) && decide (fn < t.vfFirst + t.vfCount)

def State.tenantEntry (s : State) (t : Byte) : Option TenantEntry :=
  s.plan.running.tenants.find? (·.tenant == t)

/-- A function exists: the PF, and VFs 1 to NumVFs while VF Enable is set (R354). -/
def State.fnExists (s : State) (fn : Nat) : Bool := fn == 0 || (s.host.vfEnable && decide (fn ≤ s.host.numVfs))

/-- Host DMA engine of a function (R356). -/
def dmaEngine (fn : Nat) : Nat := fn % 8

/-! ## Outputs -/

def State.emit (s : State) (o : Output) : State := { s with out := o :: s.out }

/-- The bit of an MSI-X vector's mask in the function's MSI-X table (R86). -/
def State.vectorMasked (s : State) (fn v : Nat) : Bool :=
  (s.reg fn ((if fn = 0 then 0x0029_0000 else 0x8000) + 16 * v + 12)).getLsbD 0

/-- Send an MSI-X vector of a function, or hold it in the Pending Bit Array while it is masked or the VF is suspended
(R86, R365). Nothing is sent while the host link is not served. -/
def State.sendVector (s : State) (fn v : Nat) : State :=
  if !s.hostServed then s
  else if fn = 0 then
    if s.vectorMasked 0 v then { s with host := { s.host with pfPba := s.host.pfPba.insert v } }
    else s.emit (.msix 0 v)
  else
    let x := s.vf fn
    if s.vectorMasked fn v || x.suspended then s.setVf fn { x with pba := x.pba.insert v }
    else s.emit (.msix fn v)

/-- Pages of a dirty log that a write of `len` bytes at an IOVA touches (R371, R372), within the log. -/
def DirtyLog.pagesOf (d : DirtyLog) (iova len : Nat) : List Nat :=
  let lo := iova - d.base
  let hi := iova + len - 1 - d.base
  if len = 0 ∨ iova < d.base then []
  else ((List.range (hi / 2 ^ d.pageLog2 - lo / 2 ^ d.pageLog2 + 1)).map (· + lo / 2 ^ d.pageLog2)).filter
    fun p => decide (p < d.pages)

/-- A write passes the log tap of its VF (R372, R373). -/
def DirtyLog.mark (d : DirtyLog) (iova len : Nat) : DirtyLog :=
  let ps := d.pagesOf iova len
  let new := ps.filter fun p => !d.marked.contains p
  let outside := if ps.isEmpty ∧ len ≠ 0 then d.outside + 1 else d.outside
  { d with marked := d.marked ++ new, unmerged := d.unmerged ++ new, outside := outside,
           swapTo := d.swapTo.map fun (a, qs, o) =>
             (a, qs ++ ps.filter (fun p => !qs.contains p), if ps.isEmpty ∧ len ≠ 0 then o + 1 else o) }

/-- A posted memory write to the host with a function's Requester ID. -/
def State.hostWrite (s : State) (fn : Nat) (iova : Nat) (bytes : List Byte) : State :=
  let s := s.emit (.host { fn := fn, iova := BitVec.ofNat 64 iova, bytes := bytes })
  if fn = 0 then s
  else
    let v := s.vf fn
    match v.dirty with
    | some d => s.setVf fn { v with dirty := some (d.mark iova bytes.length) }
    | none => s

/-! ## Items -/

def State.item (s : State) (id : Nat) : Option Item := tabGet s.dsp.items id

def State.setItem (s : State) (it : Item) : State :=
  { s with dsp := { s.dsp with items := tabSet s.dsp.items it.id it } }

/-- Every item with its number, oldest first. -/
def State.itemList (s : State) : List Item := s.dsp.items.map (·.2)

/-- The function that an item was submitted through: 0 for the PF; 0xFFFF for a headgate or internal item. -/
def Item.fn (it : Item) : Nat :=
  match it.source with
  | .queue fn _ _ => fn
  | _ => 0xFFFF

def Item.isPf (it : Item) : Bool := it.fn == 0

/-- The core that runs an item. -/
def Item.core? (it : Item) : Option Nat :=
  match it.phase with
  | .running c => some c
  | _ => none

def Item.isRunning (it : Item) : Bool := it.core?.isSome

def Item.isYielded (it : Item) : Bool :=
  match it.phase with
  | .yielded _ | .resumable => true
  | _ => false

def Item.isDone (it : Item) : Bool := it.phase == .done

/-- Fields of the descriptor (R75). -/
def Item.cookie (it : Item) : List Byte := slice it.desc 12 4
def Item.key (it : Item) : Word := BitVec.ofNat 32 (leAt it.desc 8 4)
def Item.flags (it : Item) : Nat := (byteAt it.desc 2).toNat
def Item.le (it : Item) (off n : Nat) : Nat := leAt it.desc off n
def Item.byte (it : Item) (off : Nat) : Nat := (byteAt it.desc off).toNat

/-- The tenant of an item as a byte; zero for a PF item. -/
def Item.tenantByte (it : Item) : Byte := it.tenant.getD 0

/-- Bytes of a completed host read of an item, if they have arrived (R356). A length of zero needs no read. -/
def Item.hostBytes (it : Item) (iova len : Nat) : Option (List Byte) :=
  if len = 0 then some []
  else
    (it.bufs.find? fun b => decide (b.1.toNat ≤ iova) && decide (iova + len ≤ b.1.toNat + b.2.length)).map
      fun b => slice b.2 (iova - b.1.toNat) len

/-- A key that the item fetched at its claim (R134). -/
def Item.held (it : Item) (h : Word) : Option HeldKey := it.claim.keys.find? fun k => k.handle == h

/-- The material of a fetched key. -/
def Item.material (it : Item) (h : Word) : List Byte := ((it.held h).map (·.material)).getD []

/-- A claim of nothing. -/
def Claim.none : Claim := { keys := [], cistern := Option.none, shares := [], staging := Option.none, egress := 0 }

/-- The kinds of resource that a claim holds. -/
def Claim.kinds (c : Claim) : List ClaimKind :=
  (if c.keys = [] then [] else [ClaimKind.keyCache]) ++ (if c.cistern.isSome then [ClaimKind.cistern] else []) ++
  (if c.shares = [] ∧ c.staging.isNone then [] else [ClaimKind.share]) ++
  (if c.egress = 0 then [] else [ClaimKind.egress])

/-- Shares of a unit in use by every claim. -/
def State.sharesUsed (s : State) (u : Nat) : Nat :=
  (s.itemList.map fun it => (it.claim.shares.filter (·.1 == u)).length).sum

/-- Share or context `c` of a unit is claimed. -/
def State.shareTaken (s : State) (u c : Nat) : Bool := s.itemList.any fun it => it.claim.shares.contains (u, c)

/-- The item that holds share or context `c` of a unit. -/
def State.shareHolder (s : State) (u c : Nat) : Option Item := s.itemList.find? fun it => it.claim.shares.contains (u, c)

/-- The lowest free shares of a unit, as many as asked for, if it has them. -/
def State.freeShares (s : State) (u total want : Nat) : Option (List (Nat × Nat)) :=
  let free := (List.range total).filter fun c => !s.shareTaken u c
  if want ≤ free.length then some ((free.take want).map fun c => (u, c)) else none

/-! ### Trace (R114 to R116) -/

/-- The trace ring of a function: 0 is the operator trace, n the tenant trace of VF n. -/
def State.traceRing (s : State) (n : Nat) : TraceRing := tabGetD s.dsp.traces n { prod := 0, lost := 0 }

/-- A trace record (R114, R115). -/
def traceRecord (tenantTrace : Bool) (stamp event detail core : Nat) (it : Item) (status : Status) : List Byte :=
  let t := if tenantTrace then stamp / 1000 * 1000 else stamp
  let flow := match it.inFlow with
    | some f => f + 2 ^ 31
    | none => if bit it.flags 0 then it.le 4 4 % 2 ^ 22 + 2 ^ 31 else it.le 4 4 % 2 ^ 22
  let qp := match it.source with
    | .queue _ q _ => q
    | _ => 0xFF
  leBytes 8 t ++ leBytes 1 event ++ leBytes 1 detail ++ leBytes 1 (if tenantTrace then 0xFF else core) ++
  leBytes 1 it.cls ++ leBytes 4 flow ++ leBytes 4 it.seq.toNat ++
  leBytes 1 (match it.tenant with | some t => t.toNat | none => 0xFF) ++
  leBytes 1 (b2n it.isPf + 2 * b2n tenantTrace) ++ leBytes 2 it.fn ++ it.cookie ++ leBytes 2 status.toNat ++
  leBytes 1 qp ++ [0]

/-- Write one record to one trace at index PROD and advance PROD, or count it in LOST when PROD would meet CONS
(R116). -/
def State.pushTrace (s : State) (n : Nat) (rec : List Byte) : State :=
  let fn := n
  let base := if n = 0 then s.reg64 0 0x0040_0400 0x0040_0404 else s.reg64 n 0x3000 0x3004
  let log2 := (if n = 0 then s.reg 0 0x0040_0408 else s.reg n 0x3008).toNat % 32
  let cons := (if n = 0 then s.reg 0 0x0040_0414 else s.reg n 0x3014).toNat
  let r := s.traceRing n
  let next := (r.prod + 1) % 2 ^ log2
  if next = cons then
    { s with dsp := { s.dsp with traces := tabSet s.dsp.traces n { r with lost := r.lost + 1 } } }
  else
    ({ s with dsp := { s.dsp with traces := tabSet s.dsp.traces n { r with prod := next } } }).hostWrite fn
      (base + 32 * r.prod) rec

/-- Write the trace records of one event of an item (R115). -/
def State.trace (s : State) (event detail : Nat) (it : Item) (status : Status) : State :=
  let core := it.core?.getD 0xFF
  let s := if (s.reg 0 0x0040_040C).getLsbD 0 && ((s.reg 0 0x0040_040C).getLsbD 1 || it.traceOn) then
      s.pushTrace 0 (traceRecord false s.uptimeNs event detail core it status) else s
  if it.traceOn && it.fn != 0 && it.fn != 0xFFFF && (s.reg it.fn 0x300C).getLsbD 0 then
    s.pushTrace it.fn (traceRecord true s.uptimeNs event detail core it status)
  else s

/-! ### Cores and claims -/

def State.modifyCore (s : State) (c : Nat) (f : ServiceCore → ServiceCore) : State :=
  { s with dsp := { s.dsp with cores := s.dsp.cores.modify c f } }

/-- A core gives up its item and becomes idle (R110). A fence that waits for the record of the item it runs stays. -/
def State.freeCore (s : State) (it : Item) : State :=
  match it.phase with
  | .running c => s.modifyCore c fun k => { k with item := none }
  | _ => s

/-- Pins of a claim's keys released in the key cache (R126). -/
def unpin (cache : List CacheEntry) (keys : List Word) : List CacheEntry :=
  cache.map fun e => if keys.contains e.handle then { e with pins := e.pins - 1 } else e

/-- Items that lacked a released kind of resource may be offered again (R98). -/
def State.wakeLacking (s : State) (kinds : List ClaimKind) : State :=
  let wake := fun (p : Nat × Item) =>
    if (p.2.lacked.any fun k => kinds.contains k) then (p.1, { p.2 with lacked := [] }) else p
  { s with dsp := { s.dsp with items := s.dsp.items.map wake } }

/-- The engine, when free, proceeds as R281 gives: a parked LONG job whose waiting SHORT jobs have all started, the oldest
SHORT job, the parked job, the oldest LONG job. A fenced engine starts nothing. -/
def PkEngine.pick (k : PkEngine) : PkEngine :=
  if k.fenced ∨ k.testing ∨ k.running.isSome then k
  else
    match k.parked with
    | some l =>
      if k.ahead = [] then { k with running := some l, parked := none }
      else
        match k.shortQ with
        | j :: r => { k with running := some j, shortQ := r, ahead := k.ahead.erase j.item }
        | [] => { k with running := some l, parked := none, ahead := [] }
    | none =>
      match k.shortQ with
      | j :: r => { k with running := some j, shortQ := r }
      | [] =>
        match k.longQ with
        | j :: r => { k with running := some j, longQ := r }
        | [] => k

/-- An item's job leaves an engine, wherever it stands (R289); the engine proceeds. -/
def PkEngine.drop (k : PkEngine) (item : Nat) : PkEngine :=
  PkEngine.pick
    { k with
      running := if k.running.any (·.item == item) then none else k.running
      parked := if k.parked.any (·.item == item) then none else k.parked
      ahead := k.ahead.erase item
      shortQ := k.shortQ.filter (·.item != item)
      longQ := k.longQ.filter (·.item != item) }

/-- Change one sluice unit. -/
def State.modifyUnit (s : State) (u : Nat) (f : SluUnit → SluUnit) : State :=
  { s with sluice := { s.sluice with units := s.sluice.units.modify u f } }

/-- The inactive bank, and another content for it (R50). -/
def State.inactiveBank (s : State) : List (BitVec 16) := if s.sluice.activeB then s.sluice.bankA else s.sluice.bankB

def State.writeInactive (s : State) (t : List (BitVec 16)) : State :=
  { s with sluice := if s.sluice.activeB then { s.sluice with bankA := t } else { s.sluice with bankB := t } }

/-- A unit is held by some claim. -/
def State.unitHeld (s : State) (u : Nat) : Bool := s.itemList.any fun it => it.claim.shares.any (·.1 == u)

/-- An amendment that waits for claims goes on once none holds a leaving unit: the drain table is written to the inactive
bank and its check begins (R56). -/
def State.amendWake (s : State) : State :=
  match s.sluice.amend with
  | none => s
  | some a =>
    if a.stage ≠ .waitClaims ∨ a.changes.any fun c => s.unitHeld c.unitNo then s
    else
      let s := s.writeInactive (a.image.sluiceDrain.getD [])
      { s with sluice := { s.sluice with checking := true, amend := some { a with stage := .drainCheck } } }

/-- Release the whole claim of an item (R99): pins, Cistern slots, shares, egress credit and the staging allocation,
whose region is first cleared and which is then zeroed (R394, R387). -/
def State.releaseClaim (s : State) (it : Item) : State :=
  let s := { s with vault := { s.vault with cache := unpin s.vault.cache (it.claim.keys.map HeldKey.handle) } }
  let s := match it.claim.staging with
    | some (allocId, engine, region) =>
      { s with mem := { s.mem with
          regions := tabModify s.mem.regions (32 * (0x48 + engine) + region) fun r => { r with valid := false },
          allocs := s.mem.allocs.map fun (a : StagingAlloc) => if a.id = allocId then { a with zeroing := true } else a } }
    | none => s
  let s := match it.claim.cistern with
    | some (e, first, n) =>
      let s := { s with pke := { s.pke with engines := s.pke.engines.modify e fun k => k.drop it.id } }
      if s.plan.running.windows.any fun w => w.engine == e && w.firstSlot == first then s
      else { s with pke := { s.pke with engines := s.pke.engines.modify e fun (k : PkEngine) =>
        { k with zeroing := k.zeroing ++ [(first, n)] } } }
    | none => s
  let s := s.setItem { it with claim := Claim.none }
  (s.wakeLacking it.claim.kinds).amendWake

/-- Take an item off whatever ready list or resume queue it stands in. -/
def State.unlist (s : State) (id : Nat) : State :=
  { s with dsp := { s.dsp with
      lists := s.dsp.lists.map fun l =>
        { l with items := l.items.erase id, barrier := l.barrier && !(l.items.head? == some id) },
      resumeQ := s.dsp.resumeQ.erase id } }

/-- The body of a completion record (bytes 8 to 31): RESULT and the bytes from 16 on. -/
def okBody (result : Nat) (rest : List Byte) : List Byte := leBytes 8 result ++ padTo 16 rest

/-- The counters of seals, repairs, payment items and non-approved services that an ending item moves (R218, R239, R329,
R515). -/
def State.noteEnd (s : State) (it : Item) (o : Outcome) : State :=
  let ok := o.status == stOk
  let pay := decide (0x0401 ≤ it.opcode) && decide (it.opcode ≤ 0x0407)
  let nas := ok && (pay || (decide (0x0301 ≤ it.opcode) && decide (it.opcode ≤ 0x0304))) && (byteAt o.body 23).getLsbD 0
  let s := if it.opcode = 0x0201 ∧ s.obj.seals.any (·.item == it.id) then
      { s with obj := { s.obj with tenants := tabModify s.obj.tenants it.tenantByte.toNat fun t =>
        if ok then { t with seals := t.seals + 1 } else { t with stopped := t.stopped + 1 } } }
    else if it.opcode = 0x0211 ∧ ok then { s with spr := { s.spr with repairs := s.spr.repairs + 1 } }
    else s
  let p := s.pay
  let p := if pay then
      { p with done := p.done + 1, pinErr := if o.status = stPinFormat then p.pinErr + 1 else p.pinErr,
               verFail := if o.status = stVerifyFail ∨ o.status = stTagMismatch then p.verFail + 1 else p.verFail }
    else p
  let p := if nas then
      { p with nas := p.nas + 1, nasTenant := tabSet p.nasTenant it.tenantByte.toNat
                                   (tabGetD p.nasTenant it.tenantByte.toNat 0 + 1) }
    else p
  { s with pay := p }

/-- SEAL_CTR in the record of a failed OBJ_SEAL: the value taken, or all ones (R199). -/
def State.endBody (s : State) (it : Item) (o : Outcome) : Outcome :=
  if it.opcode = 0x0201 ∧ o.status ≠ stOk ∧ !o.origin1 then
    let ctr := ((s.obj.seals.find? (·.item == it.id)).map (·.ctr.toNat)).getD (2 ^ 64 - 1)
    { o with body := padTo 24 (zeros 8 ++ leBytes 8 ctr) }
  else o

/-- An item ends with a status: its core's registers are cleared, its claim is released and its record is ready
(R99, R110). Nothing happens to an item whose record is already ready. -/
def State.finish (s : State) (id : Nat) (o : Outcome) : State :=
  match s.item id with
  | none => s
  | some it =>
    if it.phase = .done then s
    else
      let o := s.endBody it o
      let s := s.noteEnd it o
      let s := s.freeCore it
      let s := s.unlist id
      let s := s.releaseClaim it
      let it' := { it with phase := .done, outcome := o, claim := Claim.none, claimed := false, bufs := [], scratch := [] }
      (s.setItem it').trace 0x03 0 it' o.status

/-- An item ends with a status of its opcode: ORIGIN 0. -/
def State.complete (s : State) (id : Nat) (st : Status) (body : List Byte) : State :=
  s.finish id { status := st, origin1 := false, body := padTo 24 body }

/-- A status of the opcode that carries no result. -/
def State.failItem (s : State) (id : Nat) (st : Status) : State := s.complete id st []

/-- A mode status or the failure of a common check: ORIGIN 1 with FIELD_OFFSET (R76, R550). -/
def State.reject (s : State) (id : Nat) (st : Status) (fieldOffset : Nat) : State :=
  s.finish id { status := st, origin1 := true, body := padTo 24 (zeros 8 ++ leBytes 2 fieldOffset) }

/-- A running item yields its core, keeping its claim (R100). DETAIL of its trace record is 0 for an engine and 1 for
data. -/
def State.yieldItem (s : State) (id : Nat) (why : WaitFor) : State :=
  match s.item id with
  | none => s
  | some it =>
    let s := s.freeCore it
    let s := s.setItem { it with phase := .yielded why }
    s.trace 0x05 (match why with | .engine => 0 | _ => 1) it 0

/-- The wait of a yielded item has ended: it joins the resume queue (R101). -/
def State.endWait (s : State) (id : Nat) : State :=
  match s.item id with
  | none => s
  | some it =>
    match it.phase with
    | .yielded _ =>
      let s := s.setItem { it with phase := .resumable }
      { s with dsp := { s.dsp with resumeQ := s.dsp.resumeQ ++ [id] } }
    | _ => s

/-- The wait of a yielded item ends and its record is ready: it resumes and completes with a status. -/
def State.endWaitWith (s : State) (id : Nat) (o : Outcome) : State :=
  match s.item id with
  | none => s
  | some it =>
    match it.phase with
    | .yielded _ =>
      let s := s.setItem { it with phase := .resumable, stage := 0xFF, outcome := o }
      { s with dsp := { s.dsp with resumeQ := s.dsp.resumeQ ++ [id] } }
    | _ => s.finish id o

/-- Apply a function to an item that is running; any other item is left alone. -/
def State.onRunning (s : State) (id : Nat) (f : Item → State) : State :=
  match s.item id with
  | some it => if it.isRunning then f it else s
  | none => s

/-- Write output of an item to a host buffer, remembering where (R71, R183). -/
def State.writeOut (s : State) (id : Nat) (iova : Nat) (bytes : List Byte) : State :=
  match s.item id with
  | none => s
  | some it =>
    if bytes = [] then s
    else
      let s := s.setItem { it with written := it.written ++ [(BitVec.ofNat 64 iova, bytes.length)] }
      s.hostWrite it.fn iova bytes

/-- Overwrite with zeros every output byte that an item has written (R183, R208). -/
def State.zeroOutputs (s : State) (id : Nat) : State :=
  match s.item id with
  | none => s
  | some it =>
    let s := it.written.foldl (fun s w => s.hostWrite it.fn w.1.toNat (zeros w.2)) s
    s.setItem { it with written := [] }

/-! ## Card ports (R468, R470) -/

/-- A card port deactivates. -/
def CardPort.deactivate (p : CardPort) : CardPort :=
  { p with powered := false, phase := 0, clkKhz := 0, wait := .none, busy := false, warm := false, step := none }

/-- The step of a port, if one runs, has ended with a status. -/
def CardPort.ends (p : CardPort) (st : Status) : CardPort :=
  if p.step.isSome then { p with lastStatus := st, lastPhase := p.phase } else p

/-- A CER_CARD item still waits for its card. -/
def State.waitsCard (s : State) (id : Nat) : Bool := (s.item id).any (·.phase == .yielded .card)

/-- Steps whose items have been ended otherwise end too, and their ports deactivate. -/
def State.dropSteps (s : State) (st : Status) : State :=
  { s with ctl := { s.ctl with ports := s.ctl.ports.map fun p =>
    if (p.step.map s.waitsCard).getD true then { p with queue := p.queue.filter s.waitsCard }
    else { (p.ends st).deactivate with queue := p.queue.filter s.waitsCard } } }

/-! ## Device memory -/

/-- One byte of device memory: an unlisted byte reads zero (R382 for HBM). -/
def memByte (cells : List Host.Cell) (a : Nat) : Byte :=
  match cells with
  | [] => 0
  | (k, b) :: r => if k = a then b else memByte r a

/-- Write one byte, keeping addresses strictly rising and no entry zero. -/
def memPut : List Host.Cell → Nat → Byte → List Host.Cell
  | [], a, b => if b = 0 then [] else [(a, b)]
  | (k, c) :: r, a, b =>
    if a < k then (if b = 0 then (k, c) :: r else (a, b) :: (k, c) :: r)
    else if a = k then (if b = 0 then r else (a, b) :: r)
    else (k, c) :: memPut r a b

/-- Write bytes at ascending addresses. -/
def memWrite (cells : List Host.Cell) (a : Nat) : List Byte → List Host.Cell
  | [] => cells
  | b :: r => memWrite (memPut cells a b) (a + 1) r

/-- Read bytes at ascending addresses. -/
def memRead (cells : List Host.Cell) (a n : Nat) : List Byte := (List.range n).map fun i => memByte cells (a + i)

/-- The canonical form of the memory list: addresses strictly rising, no entry equal to what an unlisted address reads
as. -/
def Memory.wf : List Host.Cell → Bool
  | [] => true
  | (k, b) :: r => b != 0 && (match r with | [] => true | (k', _) :: _ => decide (k < k')) && Memory.wf r

/-- Erase every byte in an address range. -/
def memErase (cells : List Host.Cell) (lo hi : Nat) : List Host.Cell :=
  cells.filter fun c => !(decide (lo ≤ c.1) && decide (c.1 < hi))

/-- Write to device memory in a state. Until the sweep has passed a 64 KiB granule of HBM, a write initialises it
(R382). -/
def State.memStore (s : State) (a : Nat) (bytes : List Byte) : State :=
  let granules := if a < 0xC_0000_0000 ∧ !s.mem.sweepDone ∧ bytes ≠ [] then
      (List.range ((a + bytes.length - 1) / 65536 - a / 65536 + 1)).map (· + a / 65536)
    else []
  { s with mem := { s.mem with
      cells := memWrite s.mem.cells a bytes
      initMap := granules.foldl (fun m g => if m.contains g then m else m ++ [g]) s.mem.initMap } }

/-- Set the region of a master (R393). -/
def State.setRegion (s : State) (master region : Nat) (r : Region) : State :=
  { s with mem := { s.mem with regions := tabSet s.mem.regions (32 * master + region) r } }

/-! ## Timing of the tick -/

/-- Events that count at `now` in a window of `w` ticks (R409). -/
def inWindow (now w : Nat) (events : List Nat) : List Nat := events.filter fun t => decide (now - t < w)

end Sys2Proof.Machine
end

