-- ==== Sys2Proof/Machine/Chan.lean ====
section
/-! DEFINITION. Shared operations of the lateral transport: sending on ports and channels, weirs, acknowledgement, and
the reset of a channel (R251 to R265). -/

namespace Sys2Proof.Machine

/-! ## Ports -/

/-- HWK_PORTn_CFG (R270). -/
def State.portCfg (s : State) (port : Nat) : Word := s.reg 0 (0x0010_0100 + 0x40 * port)

/-- Sub-ports of a split mode (R242). -/
def splitPorts (split : Nat) : Nat := 2 ^ split

/-- SECURE bits of a port. -/
def State.portSecure (s : State) (port : Nat) : Nat := bits (s.portCfg port).toNat 8 8

/-- The port exists in the variant, ENABLE is 1, and at most 4 sub-ports are secured (R244, R270, R546). -/
def State.portEnabled (s : State) (port : Nat) : Bool :=
  decide (port < 4) && !(s.sys.variant == .ky4200A && decide (2 ≤ port)) && (s.portCfg port).getLsbD 0 &&
    decide (((List.range 8).filter fun b => bit (s.portSecure port) b).length ≤ 4)

def State.subPort (s : State) (port sub : Nat) : SubPort :=
  ((s.hwk.ports[port]?.bind fun (p : Port) => p.subs[sub]?)).getD { link := false, sak := none, pn := 0, rekey := false }

def State.modifySub (s : State) (port sub : Nat) (f : SubPort → SubPort) : State :=
  { s with hwk := { s.hwk with ports := s.hwk.ports.modify port fun p => { p with subs := p.subs.modify sub f } } }

/-- Counters of a port, in the order of R270. -/
abbrev ctFcs : Nat := 0
abbrev ctMacsec : Nat := 1
abbrev ctHdr : Nat := 2
abbrev ctChan : Nat := 3
abbrev ctWin : Nat := 4
abbrev ctExc : Nat := 5
abbrev ctRx : Nat := 6
abbrev ctTx : Nat := 7
abbrev ctPnStop : Nat := 9

def State.countPort (s : State) (port k : Nat) : State :=
  { s with hwk := { s.hwk with ports := s.hwk.ports.modify port fun p => { p with counters := p.counters.modify k (· + 1) } } }

/-- SerDes are powered (R250). -/
def State.serdesOn (s : State) : Bool :=
  match s.sys.phase with
  | .off | .reset | .holdUp => false
  | _ => true

/-- The mode sends frames other than MKA (R250). -/
def State.sendsFrames (s : State) : Bool :=
  match s.sys.phase with
  | .mirrorSync | .diagnostic | .service => true
  | _ => false

/-- Whether some MACsec furrow of a port is in state owned (R188). -/
def State.macsecServed (s : State) (port : Nat) : Bool :=
  (s.sluice.units.take 20).any fun u => u.role == BitVec.ofNat 8 (0x10 + port) && u.state == .owned

/-- The PN at which a sub-port stops (R246). -/
def State.pnLimit (s : State) (port : Nat) : Nat :=
  if (s.portCfg port).getLsbD 3 then 2 ^ 64 - 1 else 2 ^ 32 - 1

/-- Send one frame on a sub-port: protected and numbered where the sub-port is secured (R187, R246). -/
def State.portSend (s : State) (port sub : Nat) (o : Output) : State :=
  if !s.sendsFrames || !s.portEnabled port || !(s.subPort port sub).link then s
  else if bit (s.portSecure port) sub then
    let x := s.subPort port sub
    if x.sak.isNone || !s.macsecServed port then s
    else if s.pnLimit port ≤ x.pn then s.countPort port ctPnStop
    else ((s.modifySub port sub fun y => { y with pn := y.pn + 1 }).countPort port ctTx).emit o
  else (s.countPort port ctTx).emit o

/-! ## Channels -/

def State.chan (s : State) (c : Nat) : Option Channel := tabGet s.hwk.chans c

def State.setChan (s : State) (c : Nat) (x : Channel) : State :=
  { s with hwk := { s.hwk with chans := tabSet s.hwk.chans c x } }

/-- Fields of a channel entry (R258). -/
def Channel.tenant (x : Channel) : Byte := byteAt x.entry 0
def Channel.port (x : Channel) : Nat := bits (byteAt x.entry 1).toNat 0 2
def Channel.sub (x : Channel) : Nat := bits (byteAt x.entry 1).toNat 2 3
def Channel.ipv6 (x : Channel) : Bool := bit (byteAt x.entry 2).toNat 0
def Channel.chunk (x : Channel) : Nat :=
  match (byteAt x.entry 3).toNat with
  | 0 => 1024
  | 1 => 2048
  | _ => 8192

/-- A channel is active, open and of a tenant. -/
def State.chanOpen (s : State) (c : Nat) : Bool := (s.chan c).any (·.state == .opened)
def State.chanOf (s : State) (t : Byte) (c : Nat) : Bool := (s.chan c).any (·.tenant == t)

/-- Message types (R254). -/
abbrev ltSubmit : Nat := 0x01
abbrev ltSubmitAck : Nat := 0x02
abbrev ltFragPut : Nat := 0x03
abbrev ltFragPutAck : Nat := 0x04
abbrev ltFragGet : Nat := 0x05
abbrev ltFragData : Nat := 0x06
abbrev ltRetrieve : Nat := 0x07
abbrev ltRetrieveData : Nat := 0x08
abbrev ltNack : Nat := 0x09
abbrev ltCredit : Nat := 0x0A
abbrev ltPing : Nat := 0x0B

/-- FLAGS (R253). -/
abbrev flFirst : Nat := 1
abbrev flLast : Nat := 2
abbrev flRetx : Nat := 4
abbrev flAckReq : Nat := 8
abbrev flSync : Nat := 16

/-- Sequence numbers differ modulo 2^32. -/
def seqDiff (a b : Nat) : Nat := (a + 2 ^ 32 - b % 2 ^ 32) % 2 ^ 32

/-- SACK: bit i says that packet ACK + 1 + i has been accepted. -/
def Channel.sackBits (x : Channel) : Nat :=
  ((List.range 64).map fun i => if x.held.any (fun p => p.seq == (x.rxNext + 1 + i) % 2 ^ 32) then 2 ^ i else 0).sum

/-- The bytes of a packet (R253). -/
def Channel.packetBytes (x : Channel) (c typ flags seq xid : Nat) (body : List Byte) : List Byte :=
  [1, BitVec.ofNat 8 typ, BitVec.ofNat 8 flags, x.epoch] ++ beBytes 4 c ++ beBytes 4 seq ++ beBytes 4 x.rxNext ++
  beBytes 8 x.sackBits ++ beBytes 2 256 ++ beBytes 2 body.length ++ beBytes 4 xid ++ body

/-- Put a packet on the wire; it carries the acknowledgement that is owed (R262). -/
def State.transmit (s : State) (c typ flags seq xid : Nat) (body : List Byte) : State :=
  match s.chan c with
  | none => s
  | some x =>
    let s := s.setChan c { x with ackOwed := false }
    s.portSend x.port x.sub (.packet x.port x.sub c (x.packetBytes c typ flags seq xid body))

/-- An unsequenced packet: CREDIT or PING (R254). -/
def State.transmitUnseq (s : State) (c typ flags : Nat) (body : List Byte) : State :=
  s.transmit c typ flags (((s.chan c).map (·.txNext)).getD 0) 0 body

/-- Queue a sequenced packet on a channel that is open: it takes the next SEQ (R251, R263). -/
def State.chanSend (s : State) (c typ flags xid : Nat) (body : List Byte) (weir : Option Nat) : State :=
  match s.chan c with
  | none => s
  | some x =>
    if x.state ≠ .opened then s
    else s.setChan c { x with
      txNext := (x.txNext + 1) % 2 ^ 32
      unsent := x.unsent ++ [{ seq := x.txNext, typ := typ, flags := flags, xid := xid, body := body, weir := weir,
                               sends := 0, covered := false }] }

/-- A NACK body (R254). -/
def nackBody (refType : Nat) (reason : Status) (objectId ctr : List Byte) (index : Nat) : List Byte :=
  leBytes 1 refType ++ [0] ++ leBytes 2 reason.toNat ++ zeros 4 ++ padTo 16 objectId ++ padTo 8 ctr ++ leBytes 1 index ++ zeros 7

/-- Answer an exchange with NACK (R266, R267). -/
def State.sendNack (s : State) (c refType xid : Nat) (reason : Status) : State :=
  s.chanSend c ltNack 0 xid (nackBody refType reason [] [] 0) none

/-- Open an exchange of the device on a channel: its XID is the next one (R266). -/
def State.openExchange (s : State) (c : Nat) (kind : ExchangeKind) (item : Nat) (weir : Option Nat) : Nat × State :=
  match s.chan c with
  | none => (0, s)
  | some x =>
    (x.nextXid, s.setChan c { x with
      nextXid := (x.nextXid + 1) % 2 ^ 32
      exchanges := x.exchanges ++ [{ xid := x.nextXid, mine := true, kind := kind, item := item, weir := weir, got := [],
                                     tagged := false }] })

def State.closeExchange (s : State) (c xid : Nat) (mine : Bool) : State :=
  match s.chan c with
  | none => s
  | some x => s.setChan c { x with exchanges := x.exchanges.filter fun e => !(e.xid == xid && e.mine == mine) }

/-- Drop every exchange of an item that the device opened, on every channel. -/
def State.dropExchanges (s : State) (item : Nat) : State :=
  { s with hwk := { s.hwk with chans := s.hwk.chans.map fun p =>
      (p.1, { p.2 with exchanges := p.2.exchanges.filter fun e => !(e.item == item && e.mine) }) } }

/-! ## Weirs (R251, R252) -/

/-- Content of a weir in bits now: RATE in Mbit/s fills RATE bits each microsecond, up to BURST. -/
def State.weirNow (s : State) (w : Weir) : Int :=
  match tabGet s.hwk.weirs w.index with
  | none => 8 * (w.burst : Int)
  | some l => min (8 * (w.burst : Int)) (l.content + (w.rateMbps * (s.sys.tick - l.tick) : Nat))

/-- Weirs that govern a packet on a channel (R251). -/
def State.weirsOf (s : State) (c : Nat) (extra : Option Nat) : List Weir :=
  let t := (s.chan c).map (·.tenant)
  s.plan.running.weirs.filter fun w =>
    (!w.perChan && some w.tenant == t) || (w.perChan && w.chan == c) || some w.index == extra

def State.chargeWeir (s : State) (w : Weir) (bytes : Nat) : State :=
  let l : WeirLevel := { content := s.weirNow w - 8 * (bytes : Int), tick := s.sys.tick }
  { s with hwk := { s.hwk with weirs := tabSet s.hwk.weirs w.index l } }

/-- Wire bytes of a packet with a body of `n` bytes (R251, R257). -/
def State.wireBytes (s : State) (x : Channel) (n : Nat) : Nat :=
  38 + (if x.ipv6 then 40 else 20) + 8 + 32 + n + (if bit (leAt x.entry 14 2) 15 then 4 else 0) +
  (if bit (s.portSecure x.port) x.sub then 32 else 0)

/-- Wire bytes of a first output unit that a weir governs; a unit is a list of channels, wire bytes and the weir that a
headgate names. -/
def State.weirShare (s : State) (units : List (Nat × Nat × Option Nat)) (w : Weir) : Nat :=
  (units.map fun u => if (s.weirsOf u.1 u.2.2).any (·.index == w.index) then u.2.1 else 0).sum

/-- Egress credit of a first output unit (R252): every governing weir holds min(B, BURST), and it is deducted; none where
a weir lacks it. The number is the unit's wire bytes. -/
def State.takeEgress (s : State) (units : List (Nat × Nat × Option Nat)) : Option (State × Nat) :=
  let ws := s.plan.running.weirs.filter fun w => s.weirShare units w ≠ 0
  let amount := fun (w : Weir) => min (s.weirShare units w) w.burst
  if ws.all fun w => decide (8 * (amount w : Int) ≤ s.weirNow w) then
    some (ws.foldl (fun s w => s.chargeWeir w (amount w)) s, (units.map (·.2.1)).sum)
  else none

/-! ## Sending and acknowledgement (R262, R263) -/

/-- The head of a channel's queue may leave now: window, weirs and state. -/
def State.headMayLeave (s : State) (c : Nat) (x : Channel) (p : TxPacket) : Bool :=
  x.state == .opened && decide (seqDiff p.seq x.ackPeer < min 256 x.winPeer) &&
    (s.weirsOf c p.weir).all fun w => decide (0 < s.weirNow w)

/-- The item that a packet serves. -/
def Channel.itemOf (x : Channel) (p : TxPacket) : Option Nat := (x.exchanges.find? (·.xid == p.xid)).map (·.item)

/-- Use up to `n` bytes of the credit that an item's claim deducted for its first output unit (R252): the bytes that are
left to charge. -/
def State.useCredit (s : State) (item : Option Nat) (n : Nat) : Nat × State :=
  match item.bind s.item with
  | none => (n, s)
  | some it => (n - it.claim.egress, s.setItem { it with claim := { it.claim with egress := it.claim.egress - n } })

/-- Send the head of a channel's queue if it may leave. -/
def State.sendHead (s : State) (c : Nat) : State :=
  match s.chan c with
  | none => s
  | some x =>
    match x.unsent with
    | [] => s
    | p :: rest =>
      if s.headMayLeave c x p then
        let (n, s) := s.useCredit (x.itemOf p) (s.wireBytes x p.body.length)
        let s := (s.weirsOf c p.weir).foldl (fun s w => s.chargeWeir w n) s
        let s := s.setChan c { x with unsent := rest, sent := x.sent ++ [{ p with sends := 1 }] }
        s.transmit c p.typ p.flags p.seq p.xid p.body
      else s

/-- Acknowledgement fields of a received packet (R262, R263): covered packets leave, SACK covers others, and a tagged
FRAG_PUT record that leaves starts the wait for its FRAG_PUT_ACK (R267). -/
def Channel.acknowledge (x : Channel) (ack sack window : Nat) : Channel :=
  let gone := fun (p : TxPacket) => decide (seqDiff p.seq x.ackPeer < seqDiff ack x.ackPeer)
  let sacked := fun (p : TxPacket) =>
    let d := seqDiff p.seq ack
    decide (1 ≤ d) && decide (d ≤ 64) && bit sack (d - 1)
  let done := x.sent.filter gone
  { x with
    ackPeer := if seqDiff ack x.ackPeer < 2 ^ 31 then ack else x.ackPeer
    winPeer := window
    sent := (x.sent.filter fun p => !gone p).map fun p => if sacked p then { p with covered := true } else p
    exchanges := x.exchanges.map fun e =>
      if e.mine && (done.any fun p => p.typ == ltFragPut && bit p.flags 1 && p.xid == e.xid) then { e with tagged := true }
      else e }

/-! ## Missing fragments and reset (R235, R264, R265) -/

/-- A fragment asked for by an open or a repair is missing (R207, R235): its item goes on without it. -/
def State.fragMissing (s : State) (item frag : Nat) : State :=
  let opens := s.obj.opens.map fun r =>
    if r.item = item ∧ r.asked.contains frag then
      { r with missing := r.missing.insert frag, asked := r.asked.erase frag, units := r.units.filter (·.1 != frag) } else r
  let repairs := s.obj.repairs.map fun r =>
    if r.item = item ∧ r.asked.contains frag then { r with missing := r.missing.insert frag, asked := r.asked.erase frag }
    else r
  { s with obj := { s.obj with opens := opens, repairs := repairs } }.endWait item

/-- t_EPOCHQ in ticks (R271). -/
abbrev epochQuarantine : Nat := 1000000

/-- Start synchronisation under the channel's EPOCH, unless that value is still in quarantine (R260, R265). -/
def State.synchronise (s : State) (c : Nat) : State :=
  match s.chan c with
  | none => s
  | some x =>
    let wait := match tabGet x.epochTicks x.epoch.toNat with
      | some t => decide (s.sys.tick - t < epochQuarantine)
      | none => false
    if wait then s.setChan c { x with state := .synchronising, quarantined := true }
    else
      let s := s.setChan c { x with state := .synchronising, quarantined := false,
                                    epochTicks := tabSet x.epochTicks x.epoch.toNat s.sys.tick }
      s.transmit c ltPing flSync 0 0 (zeros 8 ++ leBytes 8 s.uptimeNs)

/-- Placement channels of a seal (R196). -/
def SealRun.channels (r : SealRun) : List Nat :=
  (List.range ((byteAt r.params 32).toNat + (byteAt r.params 33).toNat)).map fun j => leAt r.params (64 + 16 * j) 3

/-- End, or deprive of a fragment, every item with an exchange or a placement on a channel that resets (R264). -/
def State.endExchanges (s : State) (c : Nat) (x : Channel) : State :=
  let seals := (s.obj.seals.filter fun r => r.channels.contains c && r.unacked ≠ []).map (·.item)
  let s := seals.foldl (fun s i => s.failItem i stChannelReset) s
  x.exchanges.foldl (fun s e =>
    match e.kind with
    | .submit | .retrieve | .put _ => s.failItem e.item stChannelReset
    | .get f _ _ => s.fragMissing e.item f) s

/-- Channel reset (R264, R265). -/
def State.resetChan (s : State) (c : Nat) : State :=
  match s.chan c with
  | none => s
  | some x =>
    let s := { s with hwk := { s.hwk with resets := s.hwk.resets + 1 } }
    let s := s.setChan c { x with
      state := .synchronising, epoch := x.epoch + 1, rxNext := 0, held := [], inbox := [], control := [], txNext := 0,
      ackPeer := 0, winPeer := 256, unsent := [], sent := [], exchanges := [], ackOwed := false }
    (s.endExchanges c x).synchronise c

/-! ## Answers to gateways (R254, R266) -/

/-- The exchange of a gateway that an item answers. -/
def State.gateExchange (s : State) (c item : Nat) : Option Exchange :=
  (s.chan c).bind fun x => x.exchanges.find? fun e => e.item == item && !e.mine

/-- Answer the gateway whose exchange created an item: SUBMIT_ACK, or the RETRIEVE_DATA that ends the reply. An item
whose exchange is gone sends nothing (R264). -/
def State.answerGateway (s : State) (c : Nat) (it : Item) : State :=
  match s.gateExchange c it.id with
  | none => s
  | some e =>
    let st := it.outcome.status
    let b := it.outcome.body
    let body := if it.opcode = 0x0201 then
        let man := if st = stOk then ((s.obj.seals.find? (·.item == it.id)).map (·.manifest)).getD [] else []
        let ctr := if it.outcome.origin1 then leBytes 8 (2 ^ 64 - 1) else slice b 8 8
        leBytes 2 st.toNat ++ zeros 2 ++ (if st = stOk then slice b 16 4 else zeros 4) ++ ctr ++ leBytes 4 man.length ++
          zeros 4 ++ man
      else
        leBytes 2 st.toNat ++ zeros 2 ++ slice b 8 6 ++ zeros 2 ++ slice b 16 4 ++ slice b 0 8
    let typ := if it.opcode = 0x0201 then ltSubmitAck else ltRetrieveData
    (s.chanSend c typ flLast e.xid body e.weir).closeExchange c e.xid false

end Sys2Proof.Machine
end

