-- ==== Sys2Proof/Machine/Curve.lean ====
section
/-! DEFINITION. The public-key arithmetic of the standards that chapter 9 names (R292, R293): ECDSA on the NIST P-curves,
Ed25519, X25519, and RSA with its PKCS #1 v1.5 and PSS encodings, over natural numbers. -/

namespace Sys2Proof.Machine

/-! ## Modular arithmetic -/

/-- b^e mod m by square and multiply. -/
def powMod (b e m : Nat) : Nat :=
  (List.range (Nat.log2 e + 1)).reverse.foldl
    (fun acc i => let sq := acc * acc % m
                  if e.testBit i then sq * b % m else sq) (1 % m)

/-- Inverse modulo a prime. -/
def invMod (x p : Nat) : Nat := powMod (x % p) (p - 2) p

/-- a − b modulo p. -/
def subMod (a b p : Nat) : Nat := (a + p - b % p) % p

/-! ## The P-curves: y² = x³ − 3x + b -/

/-- A short Weierstrass curve of FIPS 186-5: prime, coefficient b, base point, order, bits of the order, and field length
in bytes. -/
structure Curve where
  p    : Nat
  b    : Nat
  gx   : Nat
  gy   : Nat
  n    : Nat
  nLen : Nat
  f    : Nat
  deriving DecidableEq, Repr

def p256 : Curve :=
  { p := 0xffffffff00000001000000000000000000000000ffffffffffffffffffffffff
    b := 0x5ac635d8aa3a93e7b3ebbd55769886bc651d06b0cc53b0f63bce3c3e27d2604b
    gx := 0x6b17d1f2e12c4247f8bce6e563a440f277037d812deb33a0f4a13945d898c296
    gy := 0x4fe342e2fe1a7f9b8ee7eb4a7c0f9e162bce33576b315ececbb6406837bf51f5
    n := 0xffffffff00000000ffffffffffffffffbce6faada7179e84f3b9cac2fc632551
    nLen := 256
    f := 32 }

def p384 : Curve :=
  { p := 2 ^ 384 - 2 ^ 128 - 2 ^ 96 + 2 ^ 32 - 1
    b := 0xb3312fa7e23ee7e4988e056be3f82d19181d9c6efe8141120314088f5013875ac656398d8a2ed19d2a85c8edd3ec2aef
    gx := 0xaa87ca22be8b05378eb1c71ef320ad746e1d3b628ba79b9859f741e082542a385502f25dbf55296c3a545e3872760ab7
    gy := 0x3617de4a96262c6f5d9e98bf9292dc29f8f41dbd289a147ce9da3113b5f0b8c00a60b1ce1d7e819d7a431d7c90ea0e5f
    n := 0xffffffffffffffffffffffffffffffffffffffffffffffffc7634d81f4372ddf581a0db248b0a77aecec196accc52973
    nLen := 384
    f := 48 }

def p521 : Curve :=
  { p := 2 ^ 521 - 1
    b := 0x51953eb9618e1c9a1f929a21a0b68540eea2da725b99b315f3b8b489918ef109e156193951ec7e937b1652c0bd3bb1bf073573df883d2c34f1ef451fd46b503f00
    gx := 0xc6858e06b70404e9cd9e3ecb662395b4429c648139053fb521f828af606b4d3dbaa14b5e77efe75928fe1dc127a2ffa8de3348b3c1856a429bf97e7e31c2e5bd66
    gy := 0x11839296a789a3bc0045c8a5fb42c7d1bd998f54449579b446817afbd17273e662c97ee72995ef42640c550b9013fad0761353c7086a272c24088be94769fd16650
    n := 0x1fffffffffffffffffffffffffffffffffffffffffffffffffffffffffffffffffa51868783bf2f966b7fcc0148f709a5d03bb5c9b8899c47aebb6fb71e91386409
    nLen := 521
    f := 66 }

/-- The curve of an ECC ALG (R130). -/
def curveOf (alg : Nat) : Curve := if alg = 0x21 then p384 else if alg = 0x22 then p521 else p256

/-- A point is on the curve and its coordinates are below p (R285). -/
def Curve.valid (c : Curve) (x y : Nat) : Bool :=
  decide (x < c.p) && decide (y < c.p) && decide (y * y % c.p = (x * x * x + (c.p - 3) * x + c.b) % c.p)

/-- Point addition; none is the point at infinity. -/
def Curve.add (c : Curve) : Option (Nat × Nat) → Option (Nat × Nat) → Option (Nat × Nat)
  | none, q => q
  | q, none => q
  | some (x1, y1), some (x2, y2) =>
    if x1 = x2 ∧ (y1 + y2) % c.p = 0 then none
    else
      let l := if x1 = x2 then (3 * x1 * x1 + c.p - 3) * invMod (2 * y1) c.p % c.p
        else subMod y2 y1 c.p * invMod (subMod x2 x1 c.p) c.p % c.p
      let x3 := subMod (l * l) (x1 + x2) c.p
      some (x3, subMod (l * subMod x1 x3 c.p) y1 c.p)

/-- Scalar multiplication. -/
def Curve.mul (c : Curve) (k : Nat) (q : Option (Nat × Nat)) : Option (Nat × Nat) :=
  (List.range (Nat.log2 k + 1)).reverse.foldl
    (fun acc i => let d := c.add acc acc
                  if k.testBit i then c.add d q else d) none

/-- A digest as a number, truncated to the length of the order (R292). -/
def Curve.digestNum (c : Curve) (dig : List Byte) : Nat :=
  let bitsIn := 8 * dig.length
  let e := ofBe dig
  if c.nLen < bitsIn then e / 2 ^ (bitsIn - c.nLen) else e

/-- ECDSA r and s of a digest with private scalar `d` and nonce `k`. -/
def Curve.sign (c : Curve) (d k : Nat) (dig : List Byte) : Nat × Nat :=
  match c.mul k (some (c.gx, c.gy)) with
  | none => (0, 0)
  | some (x, _) =>
    let r := x % c.n
    (r, invMod k c.n * (c.digestNum dig + r * d) % c.n)

/-- ECDSA verification: r and s in 1 to n − 1, and the equation (R285, R292). -/
def Curve.verify (c : Curve) (x y : Nat) (dig : List Byte) (r s : Nat) : Bool :=
  if r = 0 ∨ s = 0 ∨ c.n ≤ r ∨ c.n ≤ s then false
  else
    let w := invMod s c.n
    match c.add (c.mul (c.digestNum dig * w % c.n) (some (c.gx, c.gy))) (c.mul (r * w % c.n) (some (x, y))) with
    | none => false
    | some (px, _) => px % c.n == r

/-! ## Curve25519 -/

def q25519 : Nat := 2 ^ 255 - 19
def l25519 : Nat := 2 ^ 252 + 27742317777372353535851937790883648493
def d25519 : Nat := 0x52036cee2b6ffe738cc740797779e89800700a4d4141d8ab75eb4dca135978a3
def sqrtM1 : Nat := powMod 2 ((q25519 - 1) / 4) q25519

/-- Addition on the twisted Edwards curve of RFC 8032. -/
def edAdd (a b : Nat × Nat) : Nat × Nat :=
  let m := d25519 * a.1 * b.1 % q25519 * (a.2 * b.2) % q25519
  ((a.1 * b.2 + b.1 * a.2) * invMod (1 + m) q25519 % q25519,
   (a.2 * b.2 + a.1 * b.1) * invMod (subMod 1 m q25519) q25519 % q25519)

def edMul (k : Nat) (a : Nat × Nat) : Nat × Nat :=
  (List.range (Nat.log2 k + 1)).reverse.foldl
    (fun acc i => let d := edAdd acc acc
                  if k.testBit i then edAdd d a else d) (0, 1)

/-- The x-coordinate of a point of the Edwards curve, if there is one with the given sign. -/
def edRecover (y sign : Nat) : Option Nat :=
  if q25519 ≤ y then none
  else
    let x2 := subMod (y * y) 1 q25519 * invMod (d25519 * y * y + 1) q25519 % q25519
    let x := powMod x2 ((q25519 + 3) / 8) q25519
    let x := if x * x % q25519 = x2 then x else x * sqrtM1 % q25519
    if x * x % q25519 ≠ x2 then none
    else if x = 0 ∧ sign = 1 then none
    else some (if x % 2 = sign then x else q25519 - x)

/-- Decoding of a 32-byte point (RFC 8032). -/
def edDecode (bs : List Byte) : Option (Nat × Nat) :=
  let v := ofLe bs
  (edRecover (v % 2 ^ 255) (v / 2 ^ 255 % 2)).map fun x => (x, v % 2 ^ 255)

def edEncode (a : Nat × Nat) : List Byte := leBytes 32 (a.2 + 2 ^ 255 * (a.1 % 2))

def edBase : Nat × Nat :=
  (0x216936d3cd6e53fec0a4e231fdd6dc5c692cc7609525a7b2c9562d608f25d51a,
   0x6666666666666666666666666666666666666666666666666666666666666658)

/-- A 32-byte scalar clamped as RFC 7748 and RFC 8032 clamp it. -/
def clamp25519 (bs : List Byte) : Nat :=
  let v := ofLe (bs.take 32) % 2 ^ 254
  v - v % 8 + 2 ^ 254

/-- Ed25519 public key of a 32-byte seed. -/
def edPublic (seed : List Byte) : List Byte := edEncode (edMul (clamp25519 ((digest 0x03 seed).take 32)) edBase)

/-- Ed25519 signature (RFC 8032 PureEdDSA). -/
def edSign (seed pub msg : List Byte) : List Byte :=
  let h := digest 0x03 seed
  let r := ofLe (digest 0x03 (h.drop 32 ++ msg)) % l25519
  let rb := edEncode (edMul r edBase)
  let k := ofLe (digest 0x03 (rb ++ pub ++ msg)) % l25519
  rb ++ leBytes 32 ((r + k * clamp25519 (h.take 32)) % l25519)

/-- Ed25519 verification: S below L, R and the public key decodable, and the equation of RFC 8032. -/
def edVerify (pub msg sig : List Byte) : Bool :=
  let s := ofLe (sig.drop 32)
  match edDecode (sig.take 32), edDecode pub with
  | some r, some a =>
    let k := ofLe (digest 0x03 (sig.take 32 ++ pub ++ msg)) % l25519
    decide (s < l25519) && decide (edMul (8 * s) edBase = edAdd (edMul 8 r) (edMul (8 * k) a))
  | _, _ => false

/-- One step of the Montgomery ladder of RFC 7748 on (x2, z2, x3, z3). -/
def ladderStep (u : Nat) (v : Nat × Nat × Nat × Nat) (one : Bool) : Nat × Nat × Nat × Nat :=
  let p := q25519
  let (x2, z2, x3, z3) := if one then (v.2.2.1, v.2.2.2, v.1, v.2.1) else v
  let a := (x2 + z2) % p
  let b := subMod x2 z2 p
  let aa := a * a % p
  let bb := b * b % p
  let e := subMod aa bb p
  let da := subMod x3 z3 p * a % p
  let cb := (x3 + z3) * b % p
  let r := (aa * bb % p, e * (aa + 121665 * e) % p, (da + cb) * (da + cb) % p,
            u * (subMod da cb p * subMod da cb p % p) % p)
  if one then (r.2.2.1, r.2.2.2, r.1, r.2.1) else r

/-- X25519 of a clamped scalar and a u-coordinate with bit 255 cleared. -/
def x25519 (scalar u : List Byte) : List Byte :=
  let k := clamp25519 scalar
  let x := ofLe (u.take 32) % 2 ^ 255 % q25519
  let v := (List.range 255).reverse.foldl (fun v i => ladderStep x v (k.testBit i)) (1, 0, x, 1)
  leBytes 32 (v.1 * invMod v.2.1 q25519 % q25519)

/-- u-coordinates of points of order 1, 2, 4 or 8 on the curve or its twist (R285). -/
def lowOrderU : List Nat :=
  [0, 1, q25519 - 1, 325606250916557431795983626356110631294008115727848805560023387167927233504,
   39382357235489614581723060781553021112529911719440698176882885853963445705823]

/-! ## RSA -/

/-- MGF1 over a HASH code. -/
def mgf1 (alg : Nat) (seed : List Byte) (n : Nat) : List Byte :=
  (((List.range (n / digestLen alg + 1)).map fun i => digest alg (seed ++ beBytes 4 i)).flatten).take n

/-- The DER DigestInfo prefix of a HASH code (RFC 8017). -/
def digestInfo (alg : Nat) : List Byte :=
  [0x30, BitVec.ofNat 8 (17 + digestLen alg), 0x30, 0x0d, 0x06, 0x09, 0x60, 0x86, 0x48, 0x01, 0x65, 0x03, 0x04, 0x02,
   BitVec.ofNat 8 alg, 0x05, 0x00, 0x04, BitVec.ofNat 8 (digestLen alg)]

/-- EMSA-PKCS1-v1_5 of a digest for a modulus of `k` bytes. -/
def emsaPkcs1 (alg k : Nat) (dig : List Byte) : List Byte :=
  let t := digestInfo alg ++ dig
  [0x00, 0x01] ++ List.replicate (k - t.length - 3) 0xFF ++ [0x00] ++ t

/-- EMSA-PSS of a digest with a salt as long as the digest, for a modulus of `k` bytes with its top bit set. -/
def emsaPss (alg k : Nat) (dig salt : List Byte) : List Byte :=
  let h := digest alg (zeros 8 ++ dig ++ salt)
  let db := zeros (k - h.length - salt.length - 2) ++ [0x01] ++ salt
  let masked := xorBytes db (mgf1 alg h db.length)
  [byteAt masked 0 &&& 0x7F] ++ masked.drop 1 ++ h ++ [0xBC]

/-- PSS verification of an encoded message. -/
def pssOk (alg : Nat) (dig em : List Byte) : Bool :=
  let hl := digestLen alg
  let k := em.length
  let masked := em.take (k - hl - 1)
  let h := slice em (k - hl - 1) hl
  let db := xorBytes masked (mgf1 alg h masked.length)
  let salt := db.drop (db.length - hl)
  decide (em.getLast? = some 0xBC) && decide (byteAt em 0 < 0x80) && decide (2 * hl + 2 ≤ k) &&
    decide (emsaPss alg k dig salt = em)

/-- Parts of RSA material (R130): n, a 64-bit e, p, q, dp, dq and qinv, little-endian; `k` is the length of n. -/
def rsaN (k : Nat) (m : List Byte) : Nat := leAt m 0 k
def rsaE (k : Nat) (m : List Byte) : Nat := leAt m k 8
def rsaPart (k i : Nat) (m : List Byte) : Nat := leAt m (k + 8 + k / 2 * i) (k / 2)

/-- RSASP1 by CRT with Garner recombination (R284). -/
def rsaPrivate (k : Nat) (m : List Byte) (x : Nat) : Nat :=
  let p := rsaPart k 0 m
  let q := rsaPart k 1 m
  let sp := powMod (x % p) (rsaPart k 2 m) p
  let sq := powMod (x % q) (rsaPart k 3 m) q
  sq + q * (rsaPart k 4 m * subMod sp sq p % p)

/-- Components of an imported RSA key are consistent (R285). -/
def rsaConsistent (k : Nat) (m : List Byte) : Bool :=
  let p := rsaPart k 0 m
  let q := rsaPart k 1 m
  let e := rsaE k m
  decide (p * q = rsaN k m) && decide (e % 2 = 1) && decide (3 ≤ e) && decide (e * rsaPart k 2 m % (p - 1) = 1)

/-! ## Signatures by SCHEME (R292) -/

/-- Modulus length in bytes of an RSA ALG. -/
def rsaLen (alg : Nat) : Nat :=
  if alg = 0x31 then 384 else if alg = 0x32 then 512 else if alg = 0x33 then 1024 else if alg = 0x34 then 2048 else 256

/-- The message representative of an RSA scheme: 0x03 PKCS #1 v1.5, 0x04 PSS, 0x05 raw (little-endian). -/
def rsaRep (scheme hash k : Nat) (msg salt : List Byte) : Nat :=
  if scheme = 0x03 then ofBe (emsaPkcs1 hash k msg)
  else if scheme = 0x04 then ofBe (emsaPss hash k msg salt)
  else ofLe msg

/-- A signature under private material: `msg` is the digest, for Ed25519 the message, for raw RSA the representative;
`rnd` holds the nonce material or the salt. Numbers are little-endian at fixed length. -/
def signature (scheme hash alg : Nat) (material msg rnd : List Byte) : List Byte :=
  if scheme = 0x01 then
    let c := curveOf alg
    let k := ofLe rnd % 2 ^ (c.nLen + 64) % (c.n - 1) + 1
    let rs := c.sign (leAt material 0 c.f) k msg
    leBytes c.f rs.1 ++ leBytes c.f rs.2
  else if scheme = 0x02 then edSign (material.take 32) (slice material 32 32) msg
  else
    let k := rsaLen alg
    leBytes k (rsaPrivate k material (rsaRep scheme hash k msg rnd))

/-- Whether a signature verifies under public material (R285, R292). -/
def verifySig (scheme hash alg : Nat) (pub msg sig : List Byte) : Bool :=
  if scheme = 0x01 then
    let c := curveOf alg
    c.verify (leAt pub 0 c.f) (leAt pub c.f c.f) msg (leAt sig 0 c.f) (leAt sig c.f c.f)
  else if scheme = 0x02 then edVerify pub msg sig
  else
    let k := rsaLen alg
    let n := rsaN k pub
    let s := ofLe sig
    if n ≤ s then false
    else
      let em := powMod s (rsaE k pub) n
      if scheme = 0x03 then em == ofBe (emsaPkcs1 hash k msg) else pssOk hash msg (beBytes k em)

/-- Random input of one signature in bytes: ECDSA nonce material of bitlen(n) + 64 bits (R284), the PSS salt. -/
def signRandom (scheme hash alg : Nat) : Nat :=
  if scheme = 0x01 then ((curveOf alg).nLen + 64 + 7) / 8 else if scheme = 0x04 then digestLen hash else 0

/-- Public part of ECC, Ed25519 or X25519 private material. -/
def publicFrom (alg : Nat) (material : List Byte) : List Byte :=
  if alg = 0x28 then edPublic (material.take 32)
  else if alg = 0x29 then x25519 (material.take 32) (leBytes 32 9)
  else
    let c := curveOf alg
    match c.mul (leAt material 0 c.f) (some (c.gx, c.gy)) with
    | some (x, y) => leBytes c.f x ++ leBytes c.f y
    | none => zeros (2 * c.f)

/-- A public point of an ECC or Ed25519 key is valid (R285). X25519 takes every 32 bytes. -/
def pointValid (alg : Nat) (pub : List Byte) : Bool :=
  if alg = 0x28 then (edDecode pub).isSome
  else if alg = 0x29 then true
  else
    let c := curveOf alg
    c.valid (leAt pub 0 c.f) (leAt pub c.f c.f)

/-- The shared secret Z (R293) of a private scalar and a peer's public part: x as f big-endian bytes, or the X25519
output. -/
def sharedSecret (alg : Nat) (material peer : List Byte) : List Byte :=
  if alg = 0x29 then x25519 (material.take 32) peer
  else
    let c := curveOf alg
    match c.mul (leAt material 0 c.f) (some (leAt peer 0 c.f, leAt peer c.f c.f)) with
    | some (x, _) => beBytes c.f x
    | none => zeros c.f

end Sys2Proof.Machine
end

