-- ==== Sys2Proof/Machine/Keys.lean ====
section
/-! DEFINITION. Key handles, the attribute word, the checks on a handle (R17) and on the use of a key (R133), and key
derivation (R140). -/

namespace Sys2Proof.Machine

/-! ## Handles (R16) and attribute words (R129) -/

def hClass (h : Word) : Nat := bits h.toNat 28 4
def hIndex (h : Word) : Nat := bits h.toNat 8 20
def hGen (h : Word) : Byte := BitVec.ofNat 8 h.toNat
def mkHandle (cls idx : Nat) (gen : Byte) : Word := BitVec.ofNat 32 (cls * 2 ^ 28 + idx * 2 ^ 8 + gen.toNat)

/-- No parent (R123, R151). -/
abbrev noHandle : Word := 0xFFFF_FFFF

def attrEngine (a : DWord) : Nat := bits a.toNat 0 6
def attrUsage (a : DWord) : Nat := bits a.toNat 8 11
def attrOrigin (a : DWord) : Bool := a.getLsbD 24
def attrExport (a : DWord) : Bool := a.getLsbD 25
def attrBound (a : DWord) : Bool := a.getLsbD 26
def attrTenant (a : DWord) : Byte := BitVec.ofNat 8 (bits a.toNat 32 8)
def attrAlg (a : DWord) : Nat := bits a.toNat 40 8

/-- ENGINE bits (R129). -/
abbrev engFur : Nat := 0
abbrev engPayFur : Nat := 1
abbrev engHash : Nat := 2
abbrev engKdf : Nat := 3
abbrev engPke : Nat := 4
abbrev engWrap : Nat := 5

/-- USAGE bits, counted from bit 8 of the attribute word (R129). -/
abbrev useEnc : Nat := 0
abbrev useDec : Nat := 1
abbrev useMacGen : Nat := 2
abbrev useMacVer : Nat := 3
abbrev useWrap : Nat := 4
abbrev useUnwrap : Nat := 5
abbrev useDerive : Nat := 6
abbrev useSign : Nat := 7
abbrev useVerify : Nat := 8
abbrev usePin : Nat := 9
abbrev useFragTag : Nat := 10

/-! ## Reading the vault -/

/-- What the vault holds of a live key. -/
structure KeyView where
  handle      : Word
  attr        : DWord
  parent      : Word
  depth       : Nat
  noncePrefix : Word
  material    : List Byte
  pubOnly     : Bool
  sealsClosed : Bool
  deriving DecidableEq, Repr

/-- MTAG: the first 8 bytes of the running measurement. -/
def State.mtag (s : State) : List Byte := s.vault.measurement.take 8

/-- The material of a persistent record for the running measurement (R144). -/
def State.recordMaterial (s : State) (r : KeyRecord) : Option (List Byte) :=
  if attrBound r.attr then (r.blobs.find? (·.1 == s.mtag)).map (·.2) else some r.material

/-- A session entry; an unlisted one is free at generation 0. -/
def SessionEntry.free : SessionEntry :=
  { gen := 0, live := false, depth := 0, parent := noHandle, writeSerial := 0, attr := 0, counter := 0,
    noncePrefix := 0, material := [], pubOnly := false }

def State.session (s : State) (i : Nat) : SessionEntry := tabGetD s.vault.sessions i SessionEntry.free

/-- The current generation of the slot that a handle names (R137, R138). -/
def State.currentGen (s : State) (h : Word) : Byte :=
  if hClass h = 1 then
    match tabGet s.vault.records (hIndex h) with
    | some r => if r.retired then r.gen + 1 else r.gen
    | none => tabGetD s.vault.genArray (hIndex h) 0
  else if hClass h = 2 then (s.session (hIndex h)).gen
  else
    match tabGet s.vault.templates (hIndex h) with
    | some t => if t.retired then t.gen + 1 else t.gen
    | none => tabGetD s.vault.tmplGen (hIndex h) 0

/-- The attribute word of the slot that a handle names, if the slot holds a record or entry, and whether it is
retired. -/
def State.slotAttr (s : State) (h : Word) : Option (DWord × Bool) :=
  if hClass h = 1 then (tabGet s.vault.records (hIndex h)).map fun r => (r.attr, r.retired)
  else if hClass h = 2 then
    let e := s.session (hIndex h)
    if e.live then some (e.attr, false) else none
  else (tabGet s.vault.templates (hIndex h)).map fun t => (t.attr, t.retired)

/-- Index range of a handle class (R128). -/
def classSize (c : Nat) : Nat :=
  if c = 1 then 65536 else if c = 2 then 1048576 else if c = 3 then 4096 else 0

/-- The handle check of R17 for a tenant: none where every rule passes. -/
def State.checkHandle (s : State) (tenant : Byte) (h : Word) : Option Status :=
  if classSize (hClass h) ≤ hIndex h then some stKeyNotFound
  else
    match s.slotAttr h with
    | none => some stKeyNotFound
    | some (a, retired) =>
      if attrTenant a ≠ tenant then some stKeyNotFound
      else if hGen h ≠ s.currentGen h then some stKeyRevoked
      else if retired then some stKeyNotFound
      else none

/-- A handle is stale after a restore until it is acknowledged (R369): class 0x2 after OUTCOME 1, every class after
OUTCOME 2. -/
def State.staleHandle (s : State) (fn : Nat) (h : Word) : Bool :=
  fn != 0 && fn != 0xFFFF &&
    (let v := s.vf fn
     v.stale && (v.outcome == 2 || (v.outcome == 1 && hClass h == 2)))

/-- The handle check as an item makes it (R17, R369). -/
def State.itemHandle (s : State) (it : Item) (h : Word) : Option Status :=
  if s.staleHandle it.fn h then some stKeyRevoked else s.checkHandle it.tenantByte h

/-- What the vault holds of the live key that a handle names; bound material may be missing for the running
measurement (R144). -/
def State.keyView (s : State) (h : Word) : Option KeyView :=
  if hClass h = 1 then
    match tabGet s.vault.records (hIndex h) with
    | some r =>
      if r.retired || r.gen != hGen h then none
      else some { handle := h, attr := r.attr, parent := r.parent, depth := r.depth, noncePrefix := r.noncePrefix,
                  material := (s.recordMaterial r).getD [], pubOnly := r.pubOnly, sealsClosed := r.sealsClosed }
    | none => none
  else if hClass h = 2 then
    let e := s.session (hIndex h)
    if e.live && e.gen == hGen h then
      some { handle := h, attr := e.attr, parent := e.parent, depth := e.depth, noncePrefix := e.noncePrefix,
             material := e.material, pubOnly := e.pubOnly, sealsClosed := false }
    else none
  else none

/-- The parent of the slot that a handle names. -/
def State.parentOf (s : State) (h : Word) : Word :=
  if hClass h = 1 then ((tabGet s.vault.records (hIndex h)).map (·.parent)).getD noHandle
  else if hClass h = 2 then (s.session (hIndex h)).parent
  else ((tabGet s.vault.templates (hIndex h)).map (·.parent)).getD noHandle

/-- Step 1 of R133: every ancestor's current generation equals the generation recorded in its child, over at most
`n` ancestors. -/
def State.ancestorsOk (s : State) : Nat → Word → Bool
  | 0, _ => true
  | n + 1, h =>
    let p := s.parentOf h
    p == noHandle || (s.currentGen p == hGen p && (s.slotAttr p).isSome && s.ancestorsOk n p)

/-- A handle is a descendant of another, over at most `n` generations (R139). -/
def State.descends (s : State) (anc : Word) : Nat → Word → Bool
  | 0, _ => false
  | n + 1, h => s.parentOf h == anc || s.descends anc n (s.parentOf h)

/-- The nonce counter of a key (R147, R149): before the first request after boot, that of a persistent key stands at its
stored ceiling. -/
def State.counterOf (s : State) (h : Word) : DWord :=
  if hClass h = 1 then
    match tabGet s.vault.counters (hIndex h) with
    | some c => if c.live then c.value else c.ceiling
    | none => 0
  else (s.session (hIndex h)).counter

/-- Whether a counter has `n` values left (R147). -/
def counterServes (c : DWord) (n : Nat) : Bool := decide (c.toNat + n ≤ 2 ^ 64 - 1)

/-- The checks of R133 on the use of a key: required USAGE bits, permitted ENGINE bits, and nonce values needed. -/
def State.useCheck (s : State) (h : Word) (usage : List Nat) (engines : List Nat) (nonces : Nat) : Option Status :=
  match s.keyView h with
  | none => some stKeyNotFound
  | some k =>
    if !s.ancestorsOk 3 h then some stKeyRevoked
    else if !(usage.all fun u => bit (attrUsage k.attr) u) then some stKeyUsage
    else if !(engines.any fun e => bit (attrEngine k.attr) e) then some stKeyEngine
    else if attrBound k.attr && hClass h == 1 &&
      (((tabGet s.vault.records (hIndex h)).bind s.recordMaterial).isNone) then some stKeyStale
    else if nonces ≠ 0 ∧ !counterServes (s.counterOf h) nonces then some stNonceExhausted
    else none

/-! ## The ALG table (R130) -/

/-- One row of the ALG table: classes, material sizes (least, greatest, public), cache lines, ENGINE and USAGE
permitted. -/
structure AlgRow where
  alg       : Nat
  persistentOnly : Bool
  matMin    : Nat
  matMax    : Nat
  pubLen    : Nat
  lines     : Nat
  engines   : Nat
  usages    : Nat
  deriving DecidableEq, Repr

def algRows : List AlgRow := [
  ⟨0x01, false, 16, 16, 0, 1, 0x03, 0x24F⟩,
  ⟨0x02, false, 32, 32, 0, 1, 0x2B, 0x27F⟩,
  ⟨0x08, false, 16, 16, 0, 1, 0x22, 0x23F⟩,
  ⟨0x09, false, 24, 24, 0, 1, 0x22, 0x23F⟩,
  ⟨0x10, false, 16, 64, 0, 1, 0x04, 0x00C⟩,
  ⟨0x20, false, 96, 96, 64, 2, 0x10, 0x1C0⟩,
  ⟨0x21, false, 144, 144, 96, 3, 0x10, 0x1C0⟩,
  ⟨0x22, false, 198, 198, 132, 4, 0x10, 0x1C0⟩,
  ⟨0x28, false, 64, 64, 32, 1, 0x10, 0x180⟩,
  ⟨0x29, false, 64, 64, 32, 1, 0x10, 0x040⟩,
  ⟨0x30, true, 904, 904, 264, 15, 0x10, 0x180⟩,
  ⟨0x31, true, 1352, 1352, 392, 22, 0x10, 0x180⟩,
  ⟨0x32, true, 1800, 1800, 520, 29, 0x10, 0x180⟩,
  ⟨0x33, true, 3592, 3592, 1032, 57, 0x10, 0x180⟩,
  ⟨0x34, true, 7176, 7176, 2056, 113, 0x10, 0x180⟩,
  ⟨0x60, true, 32, 32, 0, 1, 0x08, 0x040⟩,
  ⟨0x61, true, 32, 32, 0, 1, 0x08, 0x040⟩]

def algRow (alg : Nat) : Option AlgRow := algRows.find? (·.alg == alg)

def algIsEcc (alg : Nat) : Bool := alg == 0x20 || alg == 0x21 || alg == 0x22
def algIsRsa (alg : Nat) : Bool := decide (0x30 ≤ alg) && decide (alg ≤ 0x34)
def algIsAsym (alg : Nat) : Bool := algIsEcc alg || algIsRsa alg || alg == 0x28 || alg == 0x29
def algIsAes (alg : Nat) : Bool := alg == 0x01 || alg == 0x02
def algIsTdes (alg : Nat) : Bool := alg == 0x08 || alg == 0x09

/-! ## AES-CMAC, triple DES and the KDF -/

/-- A block shifted left by one bit, as GF(2^n) doubling does, with the constant of the block size. -/
def cmacDouble (rb : Nat) (b : List Byte) : List Byte :=
  let v := ofBe b * 2
  let n := 8 * b.length
  beBytes b.length (if v / 2 ^ n = 1 then Nat.xor (v % 2 ^ n) rb else v % 2 ^ n)

/-- CMAC (SP 800-38B) over a block cipher of `bs` bytes. -/
def cmacWith (ciph : List Byte → List Byte) (bs rb : Nat) (msg : List Byte) : List Byte :=
  let k1 := cmacDouble rb (ciph (zeros bs))
  let k2 := cmacDouble rb k1
  let n := if msg.length = 0 then 0 else (msg.length - 1) / bs
  let last := msg.drop (n * bs)
  let lastBlock := if last.length = bs then xorBytes last k1 else xorBytes (padTo bs (last ++ [0x80])) k2
  let state := (chunks bs (msg.take (n * bs))).foldl (fun x b => ciph (xorBytes x b)) (zeros bs)
  ciph (xorBytes state lastBlock)

/-- AES-CMAC. -/
def aesCmac (key msg : List Byte) : List Byte := cmacWith (aesBlock true key) 16 0x87 msg

/-- One block of triple DES with a 2-key (16-byte) or 3-key (24-byte) key. -/
def tdesBlock (enc : Bool) (key block : List Byte) : List Byte :=
  let k1 := slice key 0 8
  let k2 := slice key 8 8
  let k3 := if key.length = 24 then slice key 16 8 else k1
  if enc then desBlock true k3 (desBlock false k2 (desBlock true k1 block))
  else desBlock false k1 (desBlock true k2 (desBlock false k3 block))

/-- The KDF of R140: SP 800-108 in counter mode with AES-256-CMAC; `bitsOut` is L. -/
def kdf (parent label context : List Byte) (bitsOut : Nat) : List Byte :=
  let prf := fun i => aesCmac parent (beBytes 4 (i + 1) ++ label ++ [0] ++ context ++ beBytes 4 bitsOut)
  (((List.range ((bitsOut + 127) / 128)).map prf).flatten).take (bitsOut / 8)

/-- HMAC with a digest by HASH code. -/
def hmac (alg : Nat) (key msg : List Byte) : List Byte :=
  let bs := if alg = 0x01 then 64 else 128
  let k := padTo bs (if bs < key.length then digest alg key else key)
  digest alg (k.map (· ^^^ 0x5C) ++ digest alg (k.map (· ^^^ 0x36) ++ msg))

/-- The public part of asymmetric material (R130): it follows the private scalar, or is n and e of an RSA key. -/
def publicPart (alg : Nat) (pubOnly : Bool) (m : List Byte) : List Byte :=
  if pubOnly then m
  else if algIsRsa alg then m.take ((algRow alg).map (·.pubLen) |>.getD 0)
  else m.drop (m.length - ((algRow alg).map (·.pubLen) |>.getD 0))

/-- KCV of symmetric material (R151). -/
def kcv (alg : Nat) (m : List Byte) : List Byte :=
  if algIsAes alg || alg == 0x60 || alg == 0x61 then (aesCmac m (zeros 16)).take 8
  else if algIsTdes alg then tdesBlock true m (zeros 8)
  else (hmac 0x01 m []).take 8

/-- KEY_ID of the attestation report (R151): 48 bytes. -/
def keyId (alg : Nat) (pubOnly : Bool) (m : List Byte) : List Byte :=
  if algIsAsym alg then sha384 (spki alg (publicPart alg pubOnly m)) else padTo 48 (kcv alg m)

/-- KEY_ID8 (R153). -/
def keyId8 (alg : Nat) (pubOnly : Bool) (m : List Byte) : List Byte := (keyId alg pubOnly m).take 8

/-! ## Signatures and agreement by name of another standard -/

/-- Length of a signature of an ALG (R292). -/
def sigLen (alg : Nat) : Nat :=
  if alg = 0x20 then 64 else if alg = 0x21 then 96 else if alg = 0x22 then 132 else if alg = 0x28 then 64
  else if alg = 0x30 then 256 else if alg = 0x31 then 384 else if alg = 0x32 then 512 else if alg = 0x33 then 1024
  else if alg = 0x34 then 2048 else 0

/-- A signature under private material, its random input drawn from the main DRBG (R284). -/
def State.signWith (s : State) (scheme hash alg : Nat) (material msg : List Byte) : List Byte × State :=
  let r := s.draw (signRandom scheme hash alg)
  (signature scheme hash alg material msg r.1, r.2)

/-! ## Revocation and retirement -/

/-- The revocation scan (R139): STALE on every cache entry of the key or that descends from it. -/
def State.revScan (s : State) (h : Word) : State :=
  let mark := fun (e : CacheEntry) => if s.descends h 3 e.handle || e.handle == h then { e with stale := true } else e
  { s with vault := { s.vault with cache := s.vault.cache.map mark } }

/-- Free a session entry: its generation goes up by one (R138). -/
def State.freeSession (s : State) (i : Nat) : State :=
  let e := s.session i
  { s with vault := { s.vault with
      sessions := tabSet s.vault.sessions i { SessionEntry.free with gen := e.gen + 1, writeSerial := s.vault.writeSerial + 1 },
      writeSerial := s.vault.writeSerial + 1,
      cache := s.vault.cache.filter fun c => c.handle ≠ mkHandle 2 i e.gen || c.pins ≠ 0 } }

end Sys2Proof.Machine
end

