-- ==== Sys2Proof/Machine/Release.lean ====
section
/-! DEFINITION. Shared operations of the queues and the dispatcher: enqueueing and unparking of items, completion
records and their release in flow order, interrupts, queue errors and the drain condition. -/

namespace Sys2Proof.Machine

/-! ## Queue pairs -/

def qpKey (fn qp : Nat) : Nat := 16 * fn + qp

/-- A queue pair at reset. -/
def Qp.idle : Qp :=
  { enabled := false, draining := false, error := false, errCode := 0, sqHead := 0, sqTail := 0, cqTail := 0,
    cqPhase := false, cqHead := 0, reserved := 0, inflight := 0, fetched := [], counted := 0, discard := false }

def State.qp (s : State) (fn qp : Nat) : Qp := tabGetD s.qps (qpKey fn qp) Qp.idle

def State.setQp (s : State) (fn qp : Nat) (q : Qp) : State := { s with qps := tabSet s.qps (qpKey fn qp) q }

/-- Entries of the SQ and the CQ (R64, R89). -/
def State.sqSize (s : State) (fn qp : Nat) : Nat := 2 ^ ((s.qpReg fn qp 0x110).toNat % 32)
def State.cqSize (s : State) (fn qp : Nat) : Nat := 2 ^ ((s.qpReg fn qp 0x110).toNat / 256 % 32)
def State.sqBase (s : State) (fn qp : Nat) : Nat := (s.qpReg fn qp 0x100).toNat + 2 ^ 32 * (s.qpReg fn qp 0x104).toNat
def State.cqBase (s : State) (fn qp : Nat) : Nat := (s.qpReg fn qp 0x108).toNat + 2 ^ 32 * (s.qpReg fn qp 0x10C).toNat
def State.irqEn (s : State) (fn qp : Nat) : Bool := (s.qpReg fn qp 0x114).getLsbD 1
def State.qpVector (s : State) (fn qp : Nat) : Nat := bits (s.qpReg fn qp 0x114).toNat 8 6

/-- A queue error (R73): ERROR, ERR_CODE, the VF_EVENT bit and vector 0. -/
def State.queueError (s : State) (fn qp : Nat) (code : BitVec 4) : State :=
  let s := s.setQp fn qp { s.qp fn qp with error := true, errCode := code }
  let s := s.setReg fn (queueOff fn 4) (s.reg fn (queueOff fn 4) ||| BitVec.ofNat 32 (2 ^ qp))
  s.sendVector fn 0

/-! ## Flows and parking (R92, R104) -/

/-- The PF's internal flow (R79). -/
abbrev pfFlowNo : Nat := 2 ^ 22

def State.flow (s : State) (f : Nat) : Flow := tabGetD s.dsp.flows f { nextSeq := 0, headSeq := 0 }

def State.setFlow (s : State) (f : Nat) (x : Flow) : State :=
  { s with dsp := { s.dsp with flows := tabSet s.dsp.flows f x } }

/-- An item is the head of its flow (R104). -/
def State.isHead (s : State) (it : Item) : Bool :=
  match it.inFlow with
  | some f => it.seq == (s.flow f).headSeq
  | none => false

/-- General window entries of a flow in use: HELD (R103). -/
def State.flowHeld (s : State) (f : Nat) : Nat :=
  (s.itemList.filter fun it => it.inFlow == some f && it.general).length

/-- Ready records held behind the head of a flow: DONE (R103). -/
def State.flowDone (s : State) (f : Nat) : Nat :=
  (s.itemList.filter fun it => it.inFlow == some f && it.general && it.isDone).length

/-- Every earlier consumed item of the same SQ has had its record written (FENCE of R80). -/
def State.fenceClear (s : State) (it : Item) : Bool :=
  match it.source with
  | .queue fn qp _ => !(s.itemList.any fun o => decide (o.id < it.id) && o.phase != .dropped &&
      (match o.source with | .queue f q _ => f == fn && q == qp | _ => false))
  | _ => true

/-- The conditions under which an item may leave Parked (R92, R104). -/
def State.mayUnpark (s : State) (it : Item) : Bool :=
  (!it.fence || it.failed || s.fenceClear it) &&
    match it.inFlow with
    | none => true
    | some f => s.isHead it || decide (s.flowHeld f < 255)

/-- Put an item at the tail of its ready list (R91); one whose common checks failed is done instead (R105). -/
def State.enqueue (s : State) (it : Item) (detail : Nat) : State :=
  let general := it.inFlow.isSome && !s.isHead it
  if it.failed then (s.setItem { it with phase := .done, general := general }).trace 0x03 0 it it.outcome.status
  else
    let it' := { it with phase := .ready, general := general }
    let s := s.setItem it'
    let s := { s with dsp := { s.dsp with lists := s.dsp.lists.modify it.ready fun l => { l with items := l.items ++ [it.id] } } }
    s.trace 0x01 detail it' 0

/-- Unpark one parked item if its condition has ended. -/
def State.unparkOne (s : State) (id : Nat) : State :=
  match s.item id with
  | some it => if it.phase == .parked && s.mayUnpark it then s.enqueue it 0x03 else s
  | none => s

/-- An item that has become the head of its flow gives its general entry back (R104). -/
def State.freeHeadEntry (s : State) (id : Nat) : State :=
  match s.item id with
  | some it => if it.general && s.isHead it then s.setItem { it with general := false } else s
  | none => s

/-- Give back the general entries of new heads, then unpark every item that may leave Parked, oldest first. -/
def State.unpark (s : State) : State :=
  let ids := s.itemList.map (·.id)
  let s := ids.foldl State.freeHeadEntry s
  ids.foldl State.unparkOne s

/-! ## Completion records (R70, R76, R87) -/

/-- A completion record (R76). -/
def completionRecord (it : Item) (phase : Bool) : List Byte :=
  leBytes 2 it.outcome.status.toNat ++ leBytes 1 (b2n phase + 2 * b2n it.outcome.origin1) ++ [0] ++ it.cookie ++
  padTo 24 it.outcome.body

/-- An item leaves the device: with it go its run, its stream and the exchanges that the device opened for it. -/
def State.removeItem (s : State) (id : Nat) : State :=
  let s := s.dropExchanges id
  { s with dsp := { s.dsp with items := tabErase s.dsp.items id },
           obj := { s.obj with
             seals := s.obj.seals.filter (·.item != id), submits := s.obj.submits.filter (·.item != id),
             opens := s.obj.opens.filter (·.item != id), repairs := s.obj.repairs.filter (·.item != id) },
           pke := { s.pke with work := s.pke.work.filter (·.item != id) } }

/-- Count a record toward its queue pair's interrupt and send the vector when COAL.COUNT is reached (R87). -/
def State.countRecord (s : State) (fn qp : Nat) (it : Item) : State :=
  if it.notify && s.irqEn fn qp then
    let q := s.qp fn qp
    let limit := max 1 (bits (s.qpReg fn qp 0x118).toNat 0 8)
    if limit ≤ q.counted + 1 then (s.setQp fn qp { q with counted := 0 }).sendVector fn (s.qpVector fn qp)
    else s.setQp fn qp { q with counted := q.counted + 1 }
  else s

/-- A queue pair that was disabled reads ENABLED 0 once nothing is in flight (R74). -/
def Qp.settle (q : Qp) : Qp := if q.draining ∧ q.inflight = 0 then { q with draining := false } else q

/-- The 64-byte lines of a dirty bitmap that hold the given pages, with every bit set so far (R371): line offset and
content. -/
def DirtyLog.lines (d : DirtyLog) (pages : List Nat) : List (Nat × List Byte) :=
  let offs := (pages.map fun p => p / 512).dedup
  offs.map fun l => (64 * l, (List.range 64).map fun b =>
    BitVec.ofNat 8 ((List.range 8).map fun i => if d.marked.contains (512 * l + 8 * b + i) then 2 ^ i else 0).sum)

/-- Merge the pending bits of a log into its bitmap, with the PF's Requester ID (R356, R373). -/
def State.mergeDirty (s : State) (d : DirtyLog) : State :=
  (d.lines d.unmerged).foldl (fun s l => s.hostWrite 0 (d.bitmap.toNat + l.1) l.2) s

/-- The end of a VF_DIRTY_SWAP or VF_DIRTY_STOP (R373, R374): as its completion record is about to be issued, the
pending old bits are merged, PAGES_SET and OUTSIDE are taken, and the new bitmap alone, or no log, remains. -/
def State.closeSwap (s : State) (it : Item) : State × Item :=
  if (it.opcode = 0x0751 ∨ it.opcode = 0x0752) ∧ it.outcome.status = stOk then
    let n := it.le 16 2
    let v := s.vf n
    match v.dirty with
    | none => (s, it)
    | some d =>
      if d.failed then
        (s.setVf n { v with dirty := none },
         { it with outcome := { status := stAccessDenied, origin1 := false, body := zeros 24 } })
      else
        let s := s.mergeDirty d
        let next := d.swapTo.map fun (a, qs, o) =>
          { d with bitmap := a, marked := qs, unmerged := qs, outside := o, swapTo := none }
        (s.setVf n { s.vf n with dirty := if it.opcode = 0x0752 then none else next },
         { it with outcome := { it.outcome with
             body := okBody d.bitmap.toNat (leBytes 4 d.marked.length ++ leBytes 4 d.outside.toNat) } })
  else (s, it)

/-- Write one completion record to the CQ slot at CQ_TAIL (R70), or discard it (R73), and remove the item. -/
def State.writeRecord (s0 : State) (it0 : Item) (ok : Bool) : State :=
  let (s, it) := s0.closeSwap it0
  let s := match it.source with
    | .queue fn qp _ =>
      let q := s.qp fn qp
      if q.discard then s.setQp fn qp ({ q with inflight := q.inflight - 1, reserved := q.reserved - 1 }).settle
      else
        let size := s.cqSize fn qp
        let rec' := completionRecord it q.cqPhase
        let wrap := decide (q.cqTail + 1 = size)
        let s := s.hostWrite fn (s.cqBase fn qp + 32 * q.cqTail) rec'
        let s := s.setQp fn qp ({ q with
          cqTail := if wrap then 0 else q.cqTail + 1,
          cqPhase := if wrap then !q.cqPhase else q.cqPhase,
          inflight := q.inflight - 1 }).settle
        if ok then s.countRecord fn qp it
        else (s.setQp fn qp { s.qp fn qp with discard := true }).queueError fn qp 0x4
    | .headgate c => s.answerGateway c it
    | .internal => s
  (s.trace 0x04 0 it it.outcome.status).removeItem it.id

/-- Release the items at the head of a flow while their records are ready, or while they were dropped (R106, R109).
The fuel bounds the loop by the number of items. -/
def State.releaseFlow (ok : Bool) (f : Nat) : Nat → State → State
  | 0, s => s
  | n + 1, s =>
    match s.itemList.find? fun it => it.inFlow == some f && s.isHead it && (it.isDone || it.phase == .dropped) with
    | none => s
    | some it =>
      let fl := s.flow f
      let s := if it.phase == .dropped then (s.trace 0x07 0 it it.outcome.status).removeItem it.id else s.writeRecord it ok
      State.releaseFlow ok f n (s.setFlow f { fl with headSeq := fl.headSeq + 1 })

/-! ## The drain condition and mode-wide completions -/

/-- The drain condition of R551: no unreleased item consumed from a queue pair or created by a headgate, QUIESCE items
apart. -/
def State.drainHolds (s : State) : Bool :=
  s.itemList.all fun it => it.source == .internal || (it.opcode == 0x0701 && it.isPf)

/-- QUIESCE items that wait for DRAINED end their wait once it holds (R84). -/
def State.wakeQuiesce (s : State) : State :=
  if s.mode = 0x7 ∧ s.drainHolds then
    (s.itemList.map (·.id)).foldl (fun s id =>
      match s.item id with
      | some it => if it.phase = .yielded .drained then
          s.endWaitWith id { status := stOk, origin1 := false, body := zeros 24 } else s
      | none => s) s
  else s

/-- Every queue pair of a VF has nothing in flight (R365). -/
def State.vfDrained (s : State) (n : Nat) : Bool := (List.range 16).all fun q => (s.qp n q).inflight == 0

/-- VF_SUSPEND items whose VF has drained complete (R365). -/
def State.wakeSuspend (s : State) : State :=
  (s.itemList.map (·.id)).foldl (fun s id =>
    match s.item id with
    | some it => if it.phase = .yielded .suspension ∧ s.vfDrained (it.le 16 2) then
        s.endWaitWith id { status := stOk, origin1 := false, body := zeros 24 } else s
    | none => s) s

/-- What follows the release of any item: parked items are unparked and drain waits end. -/
def State.afterRelease (s : State) : State := (s.unpark.wakeQuiesce).wakeSuspend

/-- Complete with a mode status every item that satisfies a test (R550). -/
def State.modeStatusAll (s : State) (st : Status) (p : Item → Bool) : State :=
  ((s.itemList.filter p).map (·.id)).foldl (fun s id => s.reject id st 0xFFFF) s

/-- A PF administrative item (R10). -/
def Item.isAdmin (it : Item) : Bool := it.isPf && decide (0x0700 ≤ it.opcode) && decide (it.opcode < 0x0800)

/-- Entry into Quiesce (R81): items consumed but not dispatched complete with ST_QUIESCED, administrative ones apart. -/
def State.enterQuiesce (s : State) : State :=
  let s' := s.noteMode { s with sys := { s.sys with quiesce := true } }
  s'.modeStatusAll stQuiesced fun it =>
    !it.isAdmin && it.source != .internal && (it.phase == .parked || it.phase == .ready) && !it.failed

end Sys2Proof.Machine
end

