-- ==== Sys2Proof/Machine/Amend.lean ====
section
/-! DEFINITION. The rollback of a live amendment (R57 to R59), which a deadline, a refused swap or a fence of a
leaving unit starts. -/

namespace Sys2Proof.Machine

/-- Completion body of PLAN_AMEND and PLAN_STAGE (R21): RESULT, FAIL_SECTION, FAIL_ENTRY. -/
def planBody (result secNo entry : Nat) : List Byte :=
  padTo 24 (leBytes 8 result ++ leBytes 2 secNo ++ zeros 2 ++ leBytes 4 entry)

/-- The body of a plan opcode whose failure names no section. -/
def planNoBody : List Byte := planBody 0 0xFFFF 0xFFFFFFFF

/-- One changed unit returns to its old owner and role (R57). A unit that is still scrubbing stays so until its scrub
completes; a fenced one stays fenced. -/
def State.returnUnit (s : State) (c : UnitChange) : State :=
  let back := fun (x : SluUnit) =>
    match x.state with
    | .fenced | .scrubbing => { x with owner := c.oldOwner, role := c.oldRole }
    | _ => { x with owner := c.oldOwner, role := c.oldRole, state := if x.assigned then .owned else .unassigned }
  let scrubs : Bool := (s.sluice.units[c.unitNo]?).any (·.state == .scrubbing)
  let s := s.modifyUnit c.unitNo back
  if scrubs then { s with sluice := { s.sluice with lateScrubs := s.sluice.lateScrubs.insert c.unitNo } } else s

/-- The amendment in progress ends; its item completes with a status (R56). -/
def State.endAmend (s : State) (st : Status) (body : List Byte) : State :=
  match s.sluice.amend with
  | none => s
  | some a =>
    let s := { s with sluice := { s.sluice with amend := none, checking := false, swapPending := false } }
    s.endWaitWith a.item { status := st, origin1 := false, body := body }

/-- Roll the amendment in progress back (R57). Once the drain table has gone live, the pre-amendment table is checked
and swapped in before the amendment completes. -/
def State.rollback (s : State) (st : Status) : State :=
  match s.sluice.amend with
  | none => s
  | some a =>
    match a.stage with
    | .rollbackCheck | .rollbackSwap => s
    | _ =>
      let s := a.changes.foldl State.returnUnit s
      if a.drainLive then
        let s := s.writeInactive a.preTable
        { s with sluice := { s.sluice with
            checking := true
            swapPending := false
            amend := some { a with stage := .rollbackCheck, failStatus := st } } }
      else s.endAmend st planNoBody

end Sys2Proof.Machine
end

