-- ==== Sys2Proof/Machine/LifeCycle.lean ====
section
/-! DEFINITION. The life-cycle record (R438 to R441): codewords, slot classes and the current state. -/

namespace Sys2Proof.Machine

/-- OTP codewords of the states, by encoding (R438): BLANK, VENDOR_TEST, PERSONALISED, DEPLOYED, DIAGNOSTIC, RETURNED,
SCRAPPED. -/
def lcCodewords : List Word :=
  [0x0F0F_0F0F, 0x0F0F_F0F0, 0x0FF0_0FF0, 0x0FF0_F00F, 0xF00F_0FF0, 0xF00F_F00F, 0xF0F0_F0F0]

abbrev lcBlank : Nat := 0
abbrev lcVendorTest : Nat := 1
abbrev lcPersonalised : Nat := 2
abbrev lcDeployed : Nat := 3
abbrev lcDiagnostic : Nat := 4
abbrev lcReturned : Nat := 5
abbrev lcScrapped : Nat := 6

/-- Classes of a slot (R440). -/
inductive SlotClass where
  | vacant
  | committed (target : Nat)
  | pending (target : Nat)
  | torn
  | void
  deriving DecidableEq, Repr

/-- The class of a slot (R440). -/
def LcSlot.class' (x : LcSlot) : SlotClass :=
  if x.premark = 0 ∧ x.intent = 0 ∧ x.commit = 0 ∧ x.tag = 0 then .vacant
  else if x.premark ≠ 0x3C3C_3C3C then .void
  else if lcCodewords.contains x.intent then
    (if x.commit = 0xC3C3_C3C3 then .committed (lcCodewords.idxOf x.intent) else .pending (lcCodewords.idxOf x.intent))
  else if x.commit = 0xC3C3_C3C3 then .void
  else .torn

/-- Targets of the committed slots, with their numbers. -/
def State.committedSlots (s : State) : List (Nat × Nat) :=
  s.lcb.slots.zipIdx.filterMap fun p => match p.1.class' with
    | .committed t => some (p.2, t)
    | _ => none

/-- The record is invalid (R441). -/
def State.recordInvalid (s : State) : Bool :=
  (match s.lcb.slots.head? with
   | some x => x.class' != .committed lcBlank
   | none => true) ||
  s.lcb.slots.zipIdx.any fun p => match p.1.class' with
    | .pending _ => s.committedSlots.any fun c => decide (p.2 < c.1)
    | _ => false

/-- The life-cycle state (R440, R441): the target of the highest committed slot, SCRAPPED for an invalid record. -/
def State.lcs (s : State) : Nat :=
  if s.recordInvalid then lcScrapped else ((s.committedSlots.getLast?).map (·.2)).getD lcScrapped

/-- The highest slot that is not empty. -/
def State.topSlot (s : State) : Option (Nat × LcSlot) :=
  (s.lcb.slots.zipIdx.reverse.find? fun p => p.1.class' != .vacant).map fun p => (p.2, p.1)

/-- A pending transition and its target (R444). -/
def State.lcPending (s : State) : Option Nat :=
  match s.topSlot with
  | some (_, x) => match x.class' with
    | .pending t => some t
    | _ => none
  | none => none

/-- The lowest empty slot above every non-empty one (R440). -/
def State.nextSlot (s : State) : Nat := ((s.topSlot).map (·.1 + 1)).getD 0

/-- Write a slot; OTP bits only go from 0 to 1 (R438). -/
def State.writeSlot (s : State) (n : Nat) (x : LcSlot) : State :=
  { s with lcb := { s.lcb with slots := s.lcb.slots.modify n fun y =>
    { premark := y.premark ||| x.premark, intent := y.intent ||| x.intent, commit := y.commit ||| x.commit,
      tag := y.tag ||| x.tag } } }

/-- A slot's COMMIT word is written (R445). -/
def State.commitSlot (s : State) (n : Nat) : State :=
  s.writeSlot n { premark := 0, intent := 0, commit := 0xC3C3_C3C3, tag := 0 }

/-- MIN_SVN as a number: the 1 bits of its thermometer code (R439). -/
def State.minSvn (s : State) : Nat := ((List.range 64).filter fun i => s.lcb.minSvn.getLsbD i).length

/-- A vendor key is revoked (R439). -/
def State.keyRevoked (s : State) (n : Nat) : Bool := bits s.lcb.revoked.toNat (8 * n) 8 == 0xFF

end Sys2Proof.Machine
end

