-- ==== Sys2Proof/Machine/Gcm.lean ====
section
/-! DEFINITION. Modes of operation of AES (SP 800-38A, 38D, 38E, 38F) over the block function. -/

namespace Sys2Proof.Machine

/-- Product in GF(2^128) with GCM's bit order: `x` and `y` as big-endian numbers. The fuel counts the bits of `x` from
the most significant. -/
def gfMulLoop : Nat → Nat → Nat → Nat → Nat
  | 0, _, _, z => z
  | n + 1, x, v, z =>
    gfMulLoop n x (if v.testBit 0 then Nat.xor (v / 2) (0xE1 * 2 ^ 120) else v / 2)
      (if x.testBit n then Nat.xor z v else z)

def gfMul (x y : List Byte) : List Byte := beBytes 16 (gfMulLoop 128 (ofBe x) (ofBe y) 0)

/-- GHASH over whole 16-byte blocks. -/
def ghash (h data : List Byte) : List Byte :=
  (chunks 16 data).foldl (fun y b => gfMul (xorBytes y (padTo 16 b)) h) (zeros 16)

/-- Bytes padded with zeros to a multiple of 16. -/
def pad16 (bs : List Byte) : List Byte := padTo ((bs.length + 15) / 16 * 16) bs

/-- A counter block plus `n`, its last `w` bits wrapping (R179). -/
def ctrAdd (w : Nat) (block : List Byte) (n : Nat) : List Byte :=
  let v := ofBe block
  beBytes 16 (v / 2 ^ w * 2 ^ w + (v + n) % 2 ^ w)

/-- CTR mode with a counter of `w` bits. -/
def ctrMode (w : Nat) (key block data : List Byte) : List Byte :=
  (((chunks 16 data).zipIdx).map fun (b, i) => xorBytes b (aesBlock true key (ctrAdd w block i))).flatten

/-- J0 for a 96-bit nonce. -/
def gcmJ0 (nonce : List Byte) : List Byte := nonce ++ [0, 0, 0, 1]

/-- The full GCM tag over additional data and ciphertext. -/
def gcmTag (key nonce aad ct : List Byte) : List Byte :=
  let h := aesBlock true key (zeros 16)
  let s := ghash h (pad16 aad ++ pad16 ct ++ beBytes 8 (8 * aad.length) ++ beBytes 8 (8 * ct.length))
  xorBytes s (aesBlock true key (gcmJ0 nonce))

/-- GCM encryption without the tag; decryption is the same function. -/
def gcmCrypt (key nonce data : List Byte) : List Byte := ctrMode 32 key (ctrAdd 32 (gcmJ0 nonce) 1) data

/-- CBC encryption of whole blocks. -/
def cbcEnc (ciph : List Byte → List Byte) (bs : Nat) (iv data : List Byte) : List Byte :=
  ((chunks bs data).foldl (fun (acc : List Byte × List Byte) b =>
    let c := ciph (xorBytes acc.1 b)
    (c, acc.2 ++ c)) (iv, [])).2

/-- CBC decryption of whole blocks. -/
def cbcDec (deciph : List Byte → List Byte) (bs : Nat) (iv data : List Byte) : List Byte :=
  ((chunks bs data).foldl (fun (acc : List Byte × List Byte) b =>
    (b, acc.2 ++ xorBytes acc.1 (deciph b))) (iv, [])).2

/-- Doubling of an XTS tweak, little-endian (IEEE 1619). -/
def xtsDouble (t : List Byte) : List Byte :=
  let v := ofLe t * 2
  leBytes 16 (if v / 2 ^ 128 = 1 then Nat.xor (v % 2 ^ 128) 0x87 else v % 2 ^ 128)

/-- The blocks of one XTS data unit from a running tweak, with ciphertext stealing for a last partial block. -/
def xtsBlocks (enc : Bool) (key : List Byte) : Nat → List Byte → List Byte → List Byte
  | 0, _, _ => []
  | f + 1, t, data =>
    let one := fun (t b : List Byte) => xorBytes (aesBlock enc key (xorBytes b t)) t
    if data.length = 0 then []
    else if data.length < 32 ∧ data.length ≠ 16 then
      let m := data.length - 16
      let t2 := xtsDouble t
      let cc := one (if enc then t else t2) (data.take 16)
      let tail := data.drop 16
      one (if enc then t2 else t) (tail ++ cc.drop m) ++ cc.take m
    else one t (data.take 16) ++ xtsBlocks enc key f (xtsDouble t) (data.drop 16)

/-- One XTS data unit under its data and tweak keys. -/
def xtsUnit (enc : Bool) (k1 k2 tweak data : List Byte) : List Byte :=
  xtsBlocks enc k1 (data.length + 1) (aesBlock true k2 tweak) data

/-- One step of the AES key-wrap permutation (SP 800-38F): `t` counts from 1. -/
def kwStep (key : List Byte) (a r : List Byte) (t : Nat) : List Byte × List Byte :=
  let b := aesBlock true key (a ++ r)
  (xorBytes (b.take 8) (beBytes 8 t), b.drop 8)

def kwUnstep (key : List Byte) (a r : List Byte) (t : Nat) : List Byte × List Byte :=
  let b := aesBlock false key (xorBytes a (beBytes 8 t) ++ r)
  (b.take 8, b.drop 8)

/-- The wrap function W over a first semiblock and the others. -/
def kwWrap (key a : List Byte) (rs : List (List Byte)) : List Byte × List (List Byte) :=
  let n := rs.length
  (List.range (6 * n)).foldl (fun (st : List Byte × List (List Byte)) i =>
    let r := kwStep key st.1 (st.2.getD (i % n) []) (i + 1)
    (r.1, st.2.set (i % n) r.2)) (a, rs)

def kwUnwrap (key a : List Byte) (rs : List (List Byte)) : List Byte × List (List Byte) :=
  let n := rs.length
  (List.range (6 * n)).foldl (fun (st : List Byte × List (List Byte)) i =>
    let j := n - 1 - i % n
    let r := kwUnstep key st.1 (st.2.getD j []) (6 * n - i)
    (r.1, st.2.set j r.2)) (a, rs)

/-- KWP wrapping (R154). -/
def kwpWrap (key plain : List Byte) : List Byte :=
  let a := [0xA6, 0x59, 0x59, 0xA6] ++ beBytes 4 plain.length
  let p := padTo ((plain.length + 7) / 8 * 8) plain
  if p.length = 8 then aesBlock true key (a ++ p)
  else
    let r := kwWrap key a (chunks 8 p)
    r.1 ++ r.2.flatten

/-- KWP unwrapping: none where the integrity check fails. -/
def kwpUnwrap (key wrapped : List Byte) : Option (List Byte) :=
  if wrapped.length < 16 ∨ wrapped.length % 8 ≠ 0 then none
  else
    let (a, p) := if wrapped.length = 16 then
        let b := aesBlock false key wrapped
        (b.take 8, b.drop 8)
      else
        let r := kwUnwrap key (wrapped.take 8) (chunks 8 (wrapped.drop 8))
        (r.1, r.2.flatten)
    let n := beAt a 4 4
    if a.take 4 = [0xA6, 0x59, 0x59, 0xA6] ∧ p.length < n + 8 ∧ n ≤ p.length ∧ (p.drop n).all (· == 0) then
      some (p.take n)
    else none

end Sys2Proof.Machine
end

