-- ==== Sys2Proof/Machine/RingCore.lean ====
section
/-! DEFINITION. Shared operations of the cluster ring (R489, R496 to R500): frames, presence, and the records that a
mirror commit carries. -/

namespace Sys2Proof.Machine

/-! ## Frame types (R496) -/

abbrev rfHeartbeat : Nat := 0x01
abbrev rfToken : Nat := 0x02
abbrev rfPrepare : Nat := 0x03
abbrev rfCommit : Nat := 0x04
abbrev rfAbort : Nat := 0x05
abbrev rfSyncReq : Nat := 0x06
abbrev rfSyncData : Nat := 0x07
abbrev rfZeroize : Nat := 0x08
abbrev rfKeyShare : Nat := 0x09
abbrev rfReport : Nat := 0x0A
abbrev rfRingKey : Nat := 0x0B

/-! ## Frames on the wire -/

/-- The frame key of an origin with its BOOT_SALT (R496). -/
def State.frameKey (s : State) (origin : Nat) (salt : List Byte) : List Byte :=
  kdf (s.vault.ringKey.getD []) [0x52, 0x46, 0x4B] (leBytes 8 (s.ring.serials.getD origin 0).toNat ++ salt) 256

/-- The 24-byte header (R496). -/
def ringHeader (f : RingFrame) : List Byte :=
  leBytes 1 f.kind ++ leBytes 1 f.origin ++ leBytes 1 f.hops ++ leBytes 1 (b2n f.refused) ++ leBytes 4 f.body.length ++
  leBytes 8 f.epoch.toNat ++ leBytes 8 f.counter.toNat

/-- BOOT_SALT of a frame's origin as far as the device knows it. -/
def State.saltOf (s : State) (f : RingFrame) : List Byte :=
  if f.kind = rfHeartbeat then f.salt
  else if f.origin = s.ring.position then s.ring.bootSalt
  else ((tabGet s.ring.peers f.origin).map (·.salt)).getD []

/-- Header, body and tag of a frame (R496). A HEARTBEAT's body is in clear under the tag; a key-exchange frame precedes
the ring key and carries its body in clear with a tag of zeros. -/
def State.ringWire (s : State) (f : RingFrame) : List Byte :=
  let h := ringHeader f
  let aad := overlay h 3 [0]
  let nonce := padTo 12 (leBytes 8 f.counter.toNat)
  if rfKeyShare ≤ f.kind then h ++ f.body ++ zeros 16
  else
    let key := s.frameKey f.origin (s.saltOf f)
    if f.kind = rfHeartbeat then h ++ f.body ++ gcmTag key nonce (aad ++ f.body) []
    else
      let ct := gcmCrypt key nonce f.body
      h ++ ct ++ gcmTag key nonce aad ct

/-- Originate a frame, while the culvert is open (R490, R496). -/
def State.sendRing (s : State) (kind : Nat) (epoch : DWord) (body : List Byte) : State :=
  if !s.ring.culvertOpen then s
  else
    let f : RingFrame :=
      { kind := kind, origin := s.ring.position, hops := 0, refused := false, epoch := epoch, counter := s.ring.counter,
        tagOk := true, generation := s.ring.generation, salt := s.ring.bootSalt, body := body }
    { s.emit (.ring (s.ringWire f)) with ring := { s.ring with counter := s.ring.counter + 1 } }

/-- Relay a frame that another member originated, with HOPS one higher (R489). -/
def State.relayRing (s : State) (f : RingFrame) : State :=
  if f.origin = s.ring.position then s else s.emit (.ring (s.ringWire { f with hops := f.hops + 1 }))

/-! ## Presence (R489) -/

/-- Members of the ring. -/
def State.ringSize (s : State) : Nat := s.ring.serials.length

/-- A position is present to this member. -/
def State.ringPresent (s : State) (p : Nat) : Bool :=
  (p == s.ring.position && s.ring.culvertOpen) || match tabGet s.ring.peers p with
    | some x => decide (s.sys.tick - x.lastBeat < 300)
    | none => false

/-- The nearest upstream present member whose epoch is the highest in the heartbeats (R500). -/
def State.syncSource (s : State) : Option Nat :=
  let n := s.ringSize
  ((List.range (n - 1)).map fun i => (s.ring.position + n - 1 - i) % n).find? fun p =>
    s.ringPresent p && (tabGet s.ring.peers p).any (·.epoch == s.ring.top)

/-- The own mirror epoch is behind the ring's. -/
def State.behind (s : State) : Bool := s.ring.member && decide (s.ring.epoch.toNat < s.ring.top.toNat)

/-- Send SYNC_REQ to that member; its body names the position (R500). -/
def State.requestSync (s : State) : State :=
  match s.syncSource with
  | some p =>
    let s := s.sendRing rfSyncReq s.ring.epoch (leBytes 1 p)
    { s with ring := { s.ring with syncFrom := some p } }
  | none => { s with ring := { s.ring with syncFrom := none } }

/-! ## Mirrored records (R497) -/

/-- A store whose record is mirrored. -/
def StoreAction.mirrored : StoreAction → Bool
  | .putRecord .. | .putTemplate .. | .retire _ | .closeSeals _ | .purge _ | .ceiling .. | .operatorKey _ | .roster ..
  | .tenantRoster .. | .migrationKey _ => true
  | .planRecord _ | .ringKey .. | .ringLeave | .cak .. | .carryOver _ | .blob .. | .bootControl .. | .otpSlot ..
  | .otpCommit _ | .otpHelper | .otpMinSvn _ => false

/-- Bytes preceded by their number. -/
def lenBytes (bs : List Byte) : List Byte := leBytes 4 bs.length ++ bs

/-- Bytes preceded by their number, taken off the front. -/
def lenTake (bs : List Byte) : List Byte × List Byte := (slice bs 4 (leAt bs 0 4), bs.drop (4 + leAt bs 0 4))

/-- A key record for the ring: its material for the running measurement (R497). -/
def State.recordWire (s : State) (r : KeyRecord) : List Byte :=
  leBytes 8 r.attr.toNat ++ leBytes 4 r.parent.toNat ++ [r.gen] ++ leBytes 1 r.depth ++ leBytes 4 r.noncePrefix.toNat ++
  leBytes 1 (b2n r.pubOnly + 2 * b2n r.retired + 4 * b2n r.sealsClosed) ++ leBytes 4 r.heapBlocks ++
  lenBytes ((s.recordMaterial r).getD [])

/-- A key record from the ring, kept under the own store key, and under the own measurement where it is bound (R497). -/
def State.recordParse (s : State) (b : List Byte) : KeyRecord :=
  let attr : DWord := BitVec.ofNat 64 (leAt b 0 8)
  let m := (lenTake (b.drop 23)).1
  { attr := attr, parent := BitVec.ofNat 32 (leAt b 8 4), gen := byteAt b 12, depth := (byteAt b 13).toNat,
    noncePrefix := BitVec.ofNat 32 (leAt b 14 4), material := if attrBound attr then [] else m,
    pubOnly := bit (byteAt b 18).toNat 0, blobs := if attrBound attr then [(s.mtag, m)] else [],
    heapBlocks := leAt b 19 4, retired := bit (byteAt b 18).toNat 1, sealsClosed := bit (byteAt b 18).toNat 2 }

def templateWire (t : Template) : List Byte :=
  leBytes 8 t.attr.toNat ++ leBytes 4 t.parent.toNat ++ [t.gen] ++ leBytes 1 t.depth ++ leBytes 1 t.outClass ++
  leBytes 4 t.outPrefix.toNat ++ leBytes 1 (b2n t.retired) ++ lenBytes t.label

def templateParse (b : List Byte) : Template :=
  { attr := BitVec.ofNat 64 (leAt b 0 8), parent := BitVec.ofNat 32 (leAt b 8 4), gen := byteAt b 12,
    depth := (byteAt b 13).toNat, label := (lenTake (b.drop 20)).1, outClass := (byteAt b 14).toNat,
    outPrefix := BitVec.ofNat 32 (leAt b 15 4), retired := byteAt b 19 != 0 }

/-- The record of a PREPARE: the change that a store makes. A store that is not mirrored has none. -/
def State.actionWire (s : State) : StoreAction → List Byte
  | .putRecord i r => [1] ++ leBytes 4 i ++ s.recordWire r
  | .putTemplate i t => [2] ++ leBytes 4 i ++ templateWire t
  | .retire h => [3] ++ leBytes 4 h.toNat
  | .closeSeals h => [4] ++ leBytes 4 h.toNat
  | .purge h => [5] ++ leBytes 4 h.toNat
  | .ceiling i v => [6] ++ leBytes 4 i ++ leBytes 8 v.toNat
  | .operatorKey k => [7] ++ k
  | .roster m os => [8] ++ leBytes 1 m ++ os.flatMap fun o => leBytes 4 o.officer.toNat ++ o.pubKey
  | .tenantRoster t m hs => [9] ++ [t] ++ leBytes 1 m ++ hs.flatMap fun h => leBytes 4 h.toNat
  | .migrationKey k => [10] ++ k
  | .planRecord _ | .ringKey .. | .ringLeave | .cak .. | .carryOver _ | .blob .. | .bootControl .. | .otpSlot ..
  | .otpCommit _ | .otpHelper | .otpMinSvn _ => []

/-- The change that a record from the ring makes. -/
def State.actionParse (s : State) (b : List Byte) : Option StoreAction :=
  let w : Word := BitVec.ofNat 32 (leAt b 1 4)
  match (byteAt b 0).toNat with
  | 1 => some (.putRecord w.toNat (s.recordParse (b.drop 5)))
  | 2 => some (.putTemplate w.toNat (templateParse (b.drop 5)))
  | 3 => some (.retire w)
  | 4 => some (.closeSeals w)
  | 5 => some (.purge w)
  | 6 => some (.ceiling w.toNat (BitVec.ofNat 64 (leAt b 5 8)))
  | 7 => some (.operatorKey (b.drop 1))
  | 8 => some (.roster (byteAt b 1).toNat ((chunks 68 (b.drop 2)).map fun o =>
      { officer := BitVec.ofNat 32 (leAt o 0 4), pubKey := o.drop 4 }))
  | 9 => some (.tenantRoster (byteAt b 1) (byteAt b 2).toNat ((chunks 4 (b.drop 3)).map fun h => BitVec.ofNat 32 (ofLe h)))
  | 10 => some (.migrationKey (b.drop 1))
  | _ => none

end Sys2Proof.Machine
end

