-- ==== Sys2Proof/Machine/Stores.lean ====
section
/-! DEFINITION. Stores: the reserve's usable energy and the admission of stores (R428, R429), what a commit writes
(R121), and nonce counters with their ceilings (R147 to R149). -/

namespace Sys2Proof.Machine

/-! ## The reserve (R428, R429) -/

/-- E_use in mJ, rounded down; zero until the first full measurement. -/
def State.eUse (s : State) : Nat :=
  if !s.sen.measured then 0
  else
    let v := (100 * s.sen.vresMv) ^ 2
    let e := (300000 + 133 * s.sen.esrMohm) ^ 2
    45 * s.sen.capUf * (v - e) / 10 ^ 15

/-- Budget of a store in mJ (R429), without its mirror commit. -/
def storeBudget : StoreAction → Nat
  | .otpSlot .. | .otpCommit _ | .otpHelper | .otpMinSvn _ => 200
  | .putRecord .. | .putTemplate .. | .retire _ | .closeSeals _ | .purge _ | .ceiling .. | .planRecord _ | .operatorKey _
  | .roster .. | .tenantRoster .. | .migrationKey _ | .ringKey .. | .ringLeave | .cak .. | .carryOver _ | .blob ..
  | .bootControl .. => 5

/-- Budget of a mirror commit (R429). -/
abbrev mirrorBudget : Nat := 10

/-- What one store holds of RESERVED. -/
def Store.held (st : Store) : Nat :=
  if st.admitted then storeBudget st.action + (if st.mirror then mirrorBudget else 0) else 0

/-- RESERVED in mJ (R429); a record staged for another member holds 10 mJ of it (R498). -/
def State.reserved (s : State) : Nat :=
  20 + (s.vault.stores.map Store.held).sum + (if s.ring.staged.isSome then mirrorBudget else 0)

/-- Stores are admitted: no warm reset is requested, and the device is not in Hold-up, Reset or Off (R429). -/
def State.storesOpen (s : State) : Bool :=
  s.sys.warmReq.isNone && (match s.sys.phase with | .off | .reset | .holdUp => false | _ => true)

/-- The reserve admits a budget (R429). -/
def State.reserveCovers (s : State) (budget : Nat) : Bool := decide (s.reserved + budget ≤ s.eUse)

/-- How the admission of a store ended. -/
inductive StoreAsk where
  | admitted (s : State)
  | refused (s : State)
  | held (s : State)

/-- Put a store on the list of stores. -/
def State.addStore (s : State) (item : Option Nat) (a : StoreAction) (ok mirror : Bool) : State :=
  { s with vault := { s.vault with
      stores := s.vault.stores ++ [{ id := s.vault.nextStore, item := item, action := a, admitted := ok, mirror := mirror }]
      nextStore := s.vault.nextStore + 1 } }

/-- One more refusal for lack of energy (R429). -/
def State.countRefusal (s : State) : State := { s with sen := { s.sen with refusals := s.sen.refusals + 1 } }

/-- A store ends without a commit, and its item, if any, completes with a status. A counter whose ceiling it was to raise
may ask again. -/
def State.failStore (s : State) (st : Store) (status : Status) : State :=
  let s := { s with vault := { s.vault with stores := s.vault.stores.filter (·.id != st.id) } }
  let s := match st.action with
    | .ceiling i _ => { s with vault := { s.vault with counters := tabModify s.vault.counters i fun c =>
        { c with raising := false, refused := true } } }
    | .retire h | .closeSeals h =>
      if st.item.isNone then { s with vault := { s.vault with retryRetire := s.vault.retryRetire.insert h } } else s
    | _ => s
  match st.item with
  | some id => s.endWaitWith id { status := status, origin1 := false, body := zeros 24 }
  | none => s

/-! ### Mirror commits (R498) -/

/-- The change that a waiting store makes now: a ceiling rises from the one that the ring has committed last (R497). -/
def State.mirrorAction (s : State) (a : StoreAction) : StoreAction :=
  match a with
  | .ceiling i _ =>
    let c := ((tabGet s.vault.counters i).map (·.ceiling)).getD 0
    .ceiling i (BitVec.ofNat 64 (min (c.toNat + 2 ^ 20) (2 ^ 64 - 1)))
  | a => a

/-- Start one waiting mirror commit, if the device holds the token at its own epoch and none is under way: admit it and
send its PREPARE, or end it with ST_RESERVE_LOW. -/
def State.mirrorTry (s : State) (st : Store) : State :=
  if s.ring.commit.isSome || !s.ring.token || s.ring.epoch != s.ring.tokenEpoch || !s.storesOpen then s
  else
    let a := s.mirrorAction st.action
    if s.reserveCovers (storeBudget a + mirrorBudget) then
      let s := { s with
        vault := { s.vault with stores := s.vault.stores.map fun (x : Store) =>
          if x.id = st.id then { x with admitted := true, action := a } else x }
        ring := { s.ring with commit := some (st.id, .prepared) } }
      s.sendRing rfPrepare (s.ring.epoch + 1) (s.actionWire a)
    else (s.countRefusal).failStore st stReserveLow

/-- Mirror commits that wait for the token, oldest first. -/
def State.mirrorWaiting (s : State) : List Store := s.vault.stores.filter fun st => st.mirror && !st.admitted

/-- Start the first waiting mirror commit that can start. -/
def State.mirrorGo (s : State) : State := s.mirrorWaiting.foldl State.mirrorTry s

/-- Pass the token on, unless a mirror commit is under way (R498). -/
def State.passToken (s : State) : State :=
  if s.ring.token && s.ring.commit.isNone then
    let s := s.sendRing rfToken s.ring.tokenEpoch (leBytes 4 s.ring.generation.toNat)
    { s with ring := { s.ring with token := false, lastToken := s.sys.tick } }
  else s

/-- Ask for a store (R429): admitted, refused for lack of energy, or left unadmitted while none is admitted. On a ring
member the store of a mirrored record waits for the token (R498). -/
def State.askStore (s : State) (item : Option Nat) (a : StoreAction) : StoreAsk :=
  if s.ring.member && a.mirrored then .held (s.addStore item a false true).mirrorGo
  else if !s.storesOpen then .held (s.addStore item a false false)
  else if s.reserveCovers (storeBudget a) then .admitted (s.addStore item a true false)
  else .refused s.countRefusal

/-- An item asks for its store: it yields until the commit (R102), or completes with ST_RESERVE_LOW. `o` is the outcome
with which it completes after the commit. -/
def State.storeFor (s : State) (id : Nat) (a : StoreAction) (o : Outcome) : State :=
  match s.item id with
  | none => s
  | some it =>
    if !(s.ring.member && a.mirrored) && s.storesOpen && !s.reserveCovers (storeBudget a) then
      s.countRefusal.failItem id stReserveLow
    else
      match ((s.setItem { it with outcome := o, stage := 0xFE }).yieldItem id .store).askStore (some id) a with
      | .refused s | .admitted s | .held s => s

/-! ## Heap blocks and free indices (R135) -/

def heapTotal : Nat := 78592

/-- Blocks that all records hold. -/
def State.heapUsed (s : State) : Nat := (s.vault.records.map fun p => p.2.heapBlocks).sum

/-- The lowest free persistent index whose generation byte is below 0xFF (R135); stores in progress hold theirs. -/
def State.freeRecordIndex (s : State) : Option Nat :=
  lowest 65536 fun i => (tabGet s.vault.records i).isNone && decide ((tabGetD s.vault.genArray i 0).toNat < 0xFF) &&
    !(s.vault.stores.any fun st => match st.action with | .putRecord j _ => j == i | _ => false)

def State.freeTemplateIndex (s : State) : Option Nat :=
  lowest 4096 fun i => (tabGet s.vault.templates i).isNone && decide ((tabGetD s.vault.tmplGen i 0).toNat < 0xFF) &&
    !(s.vault.stores.any fun st => match st.action with | .putTemplate j _ => j == i | _ => false)

/-! ## What a commit writes (R121, R136, R137, R149) -/

/-- A counter that has not been used since boot. -/
def Counter.fresh : Counter := { value := 0, ceiling := 0, limit := 0, live := false, raising := false, refused := false }

/-- A ceiling commit: the range from the old ceiling on belongs to the member that committed it (R149, R497). -/
def Counter.commit (k : Counter) (own : Bool) (c : DWord) : Counter :=
  if own then
    { value := if k.live && k.limit == k.ceiling then k.value else k.ceiling
      ceiling := c
      limit := c
      live := true
      raising := false
      refused := false }
  else { k with ceiling := c }

/-- Apply a committed store; `own` says that this device made it, and not another member of the ring. -/
def State.applyStore (s : State) (a : StoreAction) (own : Bool) : State :=
  let v := s.vault
  match a with
  | .putRecord i r =>
    { s with vault := { v with
        records := tabSet v.records i r
        counters := tabSet v.counters i Counter.fresh } }
  | .putTemplate i t => { s with vault := { v with templates := tabSet v.templates i t } }
  | .retire h =>
    if hClass h = 1 then
      { s with vault := { v with records := tabModify v.records (hIndex h) fun r => { r with retired := true } } }
    else { s with vault := { v with templates := tabModify v.templates (hIndex h) fun t => { t with retired := true } } }
  | .closeSeals h =>
    { s with vault := { v with records := tabModify v.records (hIndex h) fun r => { r with sealsClosed := true } } }
  | .purge h =>
    if hClass h = 1 then
      { s with vault := { v with
          genArray := tabSet v.genArray (hIndex h) (hGen h + 1)
          records := tabErase v.records (hIndex h)
          counters := tabErase v.counters (hIndex h) } }
    else
      { s with vault := { v with
          tmplGen := tabSet v.tmplGen (hIndex h) (hGen h + 1)
          templates := tabErase v.templates (hIndex h) } }
  | .ceiling i c =>
    { s with vault := { v with counters := tabSet v.counters i ((tabGetD v.counters i Counter.fresh).commit own c) } }
  | .planRecord r => { s with vault := { v with planRecord := some r } }
  | .operatorKey k => { s with vault := { v with operatorKey := some k } }
  | .migrationKey k => { s with vault := { v with migrationKey := some k } }
  | .roster m os => { s with ctl := { s.ctl with roster := os, rosterM := m } }
  | .tenantRoster t m hs =>
    { s with ctl := { s.ctl with tenantRosters := tabSet s.ctl.tenantRosters t.toNat { m := m, handles := hs } } }
  | .ringKey k pos serials id z =>
    { s with
      vault := { v with ringKey := some k }
      ring := { s.ring with
        member := true, position := pos, serials := serials, ringId := id, zprop := z, epoch := if pos = 0 then 1 else 0
        top := 0, peers := [], token := false, generation := 0 } }
  | .ringLeave =>
    { s with
      vault := { v with ringKey := none }
      ring := { s.ring with
        member := false, position := 0, serials := [], ringId := 0, zprop := false, epoch := 0, top := 0, peers := []
        token := false, generation := 0, culvertOpen := false } }
  | .cak p ckn key => { s with ctl := { s.ctl with caks := tabSet s.ctl.caks p (ckn, key) } }
  | .carryOver c => { s with vault := { v with carryOver := c } }
  | .blob i b => { s with vault := { v with records := tabModify v.records i fun r => { r with blobs := b } } }
  | .bootControl p n => { s with lcb := { s.lcb with prefer := p, tries := n } }
  | .otpSlot n i tag => s.writeSlot n { premark := 0x3C3C_3C3C, intent := i, commit := 0, tag := tag }
  | .otpCommit n => s.commitSlot n
  | .otpHelper => { s with lcb := { s.lcb with helperGone := true, helper := s.lcb.helper.map fun h => List.replicate h.length 0xFF } }
  | .otpMinSvn n => { s with lcb := { s.lcb with minSvn := s.lcb.minSvn ||| BitVec.ofNat 64 (2 ^ n - 1) } }

/-- An OTP store that is cut short leaves some of its bits unwritten: whole words in the order of R444, then a part of the
next (R438, R430). -/
def State.tearOtp (s : State) (a : StoreAction) : State :=
  let c := s.choose
  let words := c.1 % 4
  let part : Word := BitVec.ofNat 32 (c.1 / 4)
  let upTo (k : Nat) (w : Word) : Word := if k < words then w else if k = words then w &&& part else 0
  match a with
  | .otpSlot n i tag => c.2.writeSlot n { premark := upTo 1 0x3C3C_3C3C, intent := upTo 2 i, commit := 0, tag := upTo 0 tag }
  | .otpCommit n => c.2.writeSlot n { premark := 0, intent := 0, commit := 0xC3C3_C3C3 &&& part, tag := 0 }
  | .otpMinSvn n =>
    { c.2 with lcb := { c.2.lcb with minSvn := c.2.lcb.minSvn ||| (BitVec.ofNat 64 (2 ^ n - 1) &&& BitVec.ofNat 64 c.1) } }
  | _ => s

/-! ## Nonce counters (R147, R149) -/

/-- The answer of the vault to a request for counter values. -/
inductive NonceAsk where
  /-- The first value taken. -/
  | taken (c : DWord) (s : State)
  /-- The request waits for a ceiling commit. -/
  | waits (s : State)
  | refused (st : Status) (s : State)

/-- The counter of a persistent key; unlisted, it has not been used since boot. -/
def State.counter (s : State) (i : Nat) : Counter :=
  tabGetD s.vault.counters i Counter.fresh

def State.setCounter (s : State) (i : Nat) (c : Counter) : State :=
  { s with vault := { s.vault with counters := tabSet s.vault.counters i c } }

/-- A ceiling 2^20 higher, saturating (R149). -/
def raiseCeiling (c : DWord) : DWord := BitVec.ofNat 64 (min (c.toNat + 2 ^ 20) (2 ^ 64 - 1))

/-- Ask for the commit of a higher ceiling (R149). -/
def State.raise (s : State) (i : Nat) : StoreAsk :=
  let c := s.counter i
  (s.setCounter i { c with raising := true, refused := false }).askStore none (.ceiling i (raiseCeiling c.ceiling))

/-- A counter that refuses (R147, R148): it goes to 2^64 − 1, and the key is retired: a session key is freed, an
object root gets SEALS_CLOSED, any other persistent key RETIRED; a refused retirement store is tried again later. -/
def State.exhaust (s : State) (h : Word) (root : Bool) : State :=
  if hClass h = 2 then (s.freeSession (hIndex h)).revScan h
  else
    let s := s.setCounter (hIndex h) { s.counter (hIndex h) with value := BitVec.allOnes 64, live := true }
    match s.askStore none (if root then .closeSeals h else .retire h) with
    | .admitted s | .held s => s
    | .refused s => { s with vault := { s.vault with retryRetire := s.vault.retryRetire.insert h } }

/-- The retirement stores that the reserve refused are asked for again at a full measurement (R147). -/
def State.retryRetirements (s : State) : State :=
  s.vault.retryRetire.foldl (fun s h =>
    let root := hClass h == 1 && (tabGet s.vault.records (hIndex h)).any fun r => attrAlg r.attr == 0x60
    match s.askStore none (if root then .closeSeals h else .retire h) with
    | .refused s => s
    | .admitted s | .held s => { s with vault := { s.vault with retryRetire := s.vault.retryRetire.erase h } }) s

/-- A request that needs a higher ceiling waits for its commit, or ends where the reserve refused it. -/
def State.awaitRaise (s : State) (i : Nat) : NonceAsk :=
  let c := s.counter i
  if c.refused then .refused stReserveLow (s.setCounter i { c with refused := false })
  else if c.raising then .waits s
  else match s.raise i with
    | .refused s => .refused stReserveLow (s.setCounter i { s.counter i with raising := false })
    | .admitted s | .held s => .waits s

/-- One indivisible request for `n` counter values of a key (R147, R149). -/
def State.takeNonce (s : State) (h : Word) (n : Nat) (root : Bool) : NonceAsk :=
  if hClass h = 2 then
    let e := s.session (hIndex h)
    if counterServes e.counter n then
      .taken e.counter { s with vault := { s.vault with
        sessions := tabSet s.vault.sessions (hIndex h)
          { e with counter := e.counter + BitVec.ofNat 64 n, writeSerial := s.vault.writeSerial + 1 }
        writeSerial := s.vault.writeSerial + 1 } }
    else .refused stNonceExhausted (s.exhaust h root)
  else
    let i := hIndex h
    let c := s.counter i
    if !c.live then
      s.awaitRaise i
    else if !counterServes c.value n then .refused stNonceExhausted (s.exhaust h root)
    else if c.limit.toNat < c.value.toNat + n ∧ c.limit ≠ BitVec.allOnes 64 then
      s.awaitRaise i
    else
      let s := s.setCounter i { c with value := c.value + BitVec.ofNat 64 n }
      if c.limit.toNat ≤ c.value.toNat + n + 2 ^ 19 ∧ !c.raising ∧ c.limit ≠ BitVec.allOnes 64 then
        match s.raise i with
        | .refused s => .taken c.value (s.setCounter i { s.counter i with raising := false })
        | .admitted s | .held s => .taken c.value s
      else .taken c.value s

end Sys2Proof.Machine
end

