-- ==== Sys2Proof/Machine/Alarm.lean ====
section
/-! DEFINITION. The Sentinel's shared operations: thresholds and windows, the fencing of units, the erasures of a HALT,
the combination of one tick's alarms and the alarm log (R408 to R426), and the request of a warm reset (R525). -/

namespace Sys2Proof.Machine

/-! ## Parameters of the monitors (R412) -/

/-- Nominal voltage of a rail in mV, by rail number of R410. -/
def railNominal : List Nat := [750, 850, 900, 1100, 1800, 800, 1200, 1800]

/-- Vendor default of a parameter of a monitor instance: 0 low threshold, 1 high threshold, 2 window, 3 count, 4 response
(R412). Negative values are two's complement words. -/
def senDefault (cls inst param : Nat) : Nat :=
  let nom := railNominal.getD (inst / 2) 0
  match cls, param with
  | 0x0, 0 => nom * 92 / 100
  | 0x0, 1 => nom * 108 / 100
  | 0x1, 0 => 20000
  | 0x1, 1 => 20000
  | 0x1, 2 => 10
  | 0x2, 0 => 2 ^ 32 - 50
  | 0x2, 1 => 115
  | 0x2, 2 => 1000
  | 0x3, 1 => 4
  | 0x7, 2 => if inst < 32 then 100000 else 1
  | 0x7, 3 => if inst < 32 then 8 else 1
  | 0x9, 0 => 4400
  | 0x9, 1 => 5800
  | 0x9, 2 => if inst < 2 then 10 else 1
  | 0x0, 4 => 2
  | 0x1, 4 => 2
  | 0x2, 4 => 2
  | 0x3, 4 => 3
  | 0x4, 4 => 3
  | 0x5, 4 => 2
  | 0x6, 4 => if inst < 48 then 1 else 0
  | 0x7, 4 => if inst < 32 then 0 else 1
  | 0x8, 4 => 2
  | 0xA, 4 => if inst = 0 then 0 else if inst = 1 then 1 else 3
  | _, 2 => 1
  | _, 3 => 1
  | _, _ => 0

/-- Instances of a class (R410). -/
def instances (cls : Nat) : Nat := [16, 4, 8, 16, 8, 8, 49, 33, 2, 4, 4].getD cls 0

/-- A parameter of an instance: the plan's last entry for it, else the vendor default. -/
def State.senParam (s : State) (cls inst param : Nat) : Nat :=
  match (s.plan.running.sentinel.reverse.find? fun e => e.cls == cls && (e.inst == inst || e.inst == 0xFF) && e.param == param) with
  | some e => e.value
  | none => senDefault cls inst param

/-- A response level by its code. -/
def levelOf (n : Nat) : Level := if n = 0 then .notice else if n = 1 then .fence else if n = 2 then .halt else .zeroize

def Level.rank : Level → Nat
  | .notice => 0
  | .fence => 1
  | .halt => 2
  | .zeroize => 3

def Level.max (a b : Level) : Level := if a.rank < b.rank then b else a

/-- LEVEL of an instance. -/
def State.levelFor (s : State) (cls inst : Nat) : Level := levelOf (s.senParam cls inst 4)

def monKey (cls inst : Nat) : Nat := 256 * cls + inst

def Monitor.fresh : Monitor := { events := [], failed := false, value := 0, lastEntry := none, sinceEntry := 0 }

def State.monitor (s : State) (cls inst : Nat) : Monitor := tabGetD s.sen.monitors (monKey cls inst) Monitor.fresh

def State.setMonitor (s : State) (cls inst : Nat) (m : Monitor) : State :=
  { s with sen := { s.sen with monitors := tabSet s.sen.monitors (monKey cls inst) m } }

/-- A two's complement word as an integer. -/
def signed (n : Nat) : Int := (BitVec.ofNat 32 n).toInt

/-- The condition of a sampled instance holds (R408, R410, R412). -/
def State.condition (s : State) (x : Sample) : Bool :=
  let lo := s.senParam x.cls x.inst 0
  let hi := s.senParam x.cls x.inst 1
  let v := x.value.toNat
  if x.cls = 0x0 then decide (v < lo) || decide (hi < v) || x.occurs
  else if x.cls = 0x9 then decide (v < lo) || decide (hi < v)
  else if x.cls = 0x1 then decide (x.value.toInt < -(lo : Int)) || decide ((hi : Int) < x.value.toInt)
  else if x.cls = 0x2 then decide (x.value.toInt < signed lo) || decide (signed hi < x.value.toInt)
  else if x.cls = 0x3 then decide (8 * hi ≤ v)
  else x.occurs

/-- Conditions that give no event once main power is lost (R411, R518). -/
def State.mutedInHoldUp (s : State) (x : Sample) : Bool :=
  s.sys.phase == .holdUp &&
    ((x.cls == 0x1 && decide (2 ≤ x.inst)) ||
     (((x.cls == 0x0 && x.inst != 10 && x.inst != 11) || (x.cls == 0x9 && decide (x.inst < 2))) &&
        decide (x.value.toNat ≤ s.senParam x.cls x.inst 1) && !x.occurs))

/-! ## Fencing a unit (R165, R172, R226, R286, R336, R434) -/

/-- UNIT of a D or E instance (R425). -/
def unitOfInstance (cls inst : Nat) : UnitNo :=
  if cls = 0x6 then (if inst < 40 then inst else if inst < 48 then 0x40 + (inst - 40) else 0xC0)
  else if cls = 0x7 then 0xC1 else 0xFFFF

/-- A unit is fenced already. -/
def State.unitFenced (s : State) (u : UnitNo) : Bool :=
  if u < 40 then s.sluFenced u
  else if 0x40 ≤ u ∧ u < 0x48 then (s.pke.engines[u - 0x40]?).any (·.fenced)
  else if 0x80 ≤ u ∧ u < 0xC0 then (s.dsp.cores[u - 0x80]?).any (·.fenced)
  else u == 0xC1 && s.ent.fenced

/-- A mask generator without a seed (R163). -/
def MaskGen.empty : MaskGen := { seeded := false, blocks := 0, asked := false, stopped := false }

/-- The items that satisfy a test complete with ST_NO_RESOURCE (R166, R286, R434). -/
def State.endHolders (s : State) (p : Item → Bool) : State :=
  ((s.itemList.filter fun it => p it && !it.isDone).map (·.id)).foldl (fun s id => s.failItem id stNoResource) s

/-- The erasures of a fenced sluice unit's chapter, and its fence count. -/
def State.eraseUnit (s : State) (u : Nat) (counts : Bool) : State :=
  let one := if counts then 1 else 0
  if u < 20 then
    { s with cfb := { s.cfb with furrows := s.cfb.furrows.modify u fun f =>
        ({ f with genA := MaskGen.empty
                  genB := MaskGen.empty
                  fences := f.fences + one }) } }
  else if u < 24 then
    { s with spr := { s.spr with units := s.spr.units.modify (u - 20) fun x => { x with fences := x.fences + one } } }
  else { s with cfb := { s.cfb with lanes := s.cfb.lanes.modify (u - 24) fun x => { x with fences := x.fences + one } } }

/-- Error fences of a unit since the last reset. -/
def State.fencesOf (s : State) (u : UnitNo) : Nat :=
  if u < 20 then ((s.cfb.furrows[u]?).map (·.fences)).getD 0
  else if u < 24 then ((s.spr.units[u - 20]?).map (·.fences)).getD 0
  else if u < 40 then ((s.cfb.lanes[u - 24]?).map (·.fences)).getD 0
  else ((s.pke.engines[u - 0x40]?).map (·.fences)).getD 0

/-- A third error fence since the last reset locks a unit out (R167, R227, R287). -/
def State.noteLockOut (s : State) (u : UnitNo) : State :=
  if 3 ≤ s.fencesOf u then { s with sen := { s.sen with lockedOut := s.sen.lockedOut.insert u } } else s

/-- Interconnect address of a word of an engine's Cistern (R378): 64 KiB for each engine. -/
def cisternBase (engine : Nat) : Nat := 0x12_0000_0000 + 0x1_0000 * engine

/-- Zero the whole Cistern of an engine; a fused pair's covers both halves (R275, R278). -/
def State.zeroCistern (s : State) (e : Nat) : State :=
  let n := if s.plan.running.pke.any fun x => x.engine == e && x.fused then 2 else 1
  { s with mem := { s.mem with cells := memErase s.mem.cells (cisternBase e) (cisternBase e + 0x1_0000 * n) } }

/-- An engine stops, and its Cistern is zeroed (R286). -/
def State.fenceEngine (s : State) (e : Nat) (counts : Bool) : State :=
  let s := { s with pke := { s.pke with engines := s.pke.engines.modify e fun k =>
    ({ k with running := none
              parked := none
              ahead := []
              shortQ := []
              longQ := []
              zeroing := []
              fenced := true
              fences := if counts then k.fences + 1 else k.fences }) } }
  let s := s.zeroCistern e
  s.endHolders fun it => match it.claim.cistern with
    | some (k, _, _) => k == e
    | none => false

/-- Fence one unit and end the items that hold it. `counts` says whether the fence counts toward its lock-out. An
amendment that changes the unit rolls back (R59). -/
def State.fenceUnit (s : State) (u : UnitNo) (counts : Bool) : State :=
  if s.unitFenced u then s
  else if u < 40 then
    let s := (s.modifyUnit u fun x => { x with state := .fenced }).eraseUnit u counts
    let s := s.endHolders fun it => it.claim.shares.any (·.1 == u)
    let s := if s.sluice.amend.any fun a => a.changes.any (·.unitNo == u) then s.rollback stNoResource else s
    if counts then s.noteLockOut u else s
  else if 0x40 ≤ u ∧ u < 0x48 then
    let s := s.fenceEngine (u - 0x40) counts
    if counts then s.noteLockOut u else s
  else if 0x80 ≤ u ∧ u < 0xC0 then
    let c := u - 0x80
    let s := s.modifyCore c fun k => { k with fenced := true }
    s.endHolders fun it => it.phase == .running c && it.opcode != 0x0762
  else if u = 0xC1 then { s with ent := { s.ent with fenced := true, pool := [] } }
  else s

/-! ## The erasures of a HALT (R416) -/

/-- Admission and dispatch stop, the crossbar idles, every unit is fenced, and the erasures of R127, R168, R288, R346
and R381 are made. -/
def State.haltErase (s : State) : State :=
  { s with
    dsp := { s.dsp with
      halted := true
      cores := s.dsp.cores.map fun k => { k with fenced := true } }
    ring := { s.ring with form := none }
    plan := { s.plan with
      waiting := false
      reading := false }
    sluice := { s.sluice with
      halted := true
      checking := false
      swapPending := false
      amend := none
      units := s.sluice.units.map fun x => { x with state := .fenced } }
    vault := { s.vault with
      cache := []
      fills := []
      sessionKey := []
      sessions := [] }
    cfb := { s.cfb with
      erased := true
      furrows := s.cfb.furrows.map fun f =>
        ({ f with genA := MaskGen.empty
                  genB := MaskGen.empty }) }
    pke := { s.pke with
      erased := true
      work := []
      engines := s.pke.engines.map fun k =>
        ({ k with running := none
                  parked := none
                  ahead := []
                  shortQ := []
                  longQ := []
                  zeroing := []
                  fenced := true }) }
    ent := { s.ent with
      erased := true
      fenced := true
      mainServing := false
      pool := []
      main := none
      tenants := [] }
    mem := { s.mem with
      keyLoaded := false
      memKey := []
      cells := memErase (memErase s.mem.cells 0 0xC_0000_0000) 0x12_0000_0000 0x12_0010_0000 } }

/-- Sessions end and card ports deactivate (R470, R477). -/
def State.endSessions (s : State) : State :=
  { s with ctl := { s.ctl with
      ports := s.ctl.ports.map fun p => { (p.ends stAlarmHalt).deactivate with queue := [] }
      session := s.ctl.session.map fun c => { c with isOpen := false }
      approvals := [] } }

/-- The device-wide part of a HALT outside Hold-up, Off and Reset: every consumed item ends with ST_ALARM_HALT and the
device enters Alarm Hold, in which the culvert is closed (R10, R112, R416, R490). -/
def State.enterAlarmHold (s : State) : State :=
  let s := s.modeStatusAll stAlarmHalt fun it => it.phase != .dropped
  let s' := s.haltErase.endSessions
  s.noteMode { s' with sys := { s'.sys with phase := .alarmHold, quiesce := false }, ring := { s'.ring with culvertOpen := false } }

/-! ## Zeroisation (R421) and its propagation (R501) -/

/-- A zeroisation begins: ZSTATE is pending and nothing under the salt can be decrypted any more. -/
def State.startZeroise (s : State) : State :=
  let s := if s.ring.member && s.ring.zprop && !s.ring.zSent then
      let s := s.sendRing rfZeroize s.ring.epoch []
      { s with ring := { s.ring with zSent := true } }
    else s
  { s with sen := { s.sen with zstate := .pending, zeroTries := 0 }, vault := { s.vault with salt := none } }

/-- Every store in progress is abandoned (R420, R430). -/
def State.abandonStores (s : State) : State :=
  let s := ((s.vault.stores.filter (·.admitted)).map (·.action)).foldl State.tearOtp s
  { s with vault := { s.vault with stores := [] }, ring := { s.ring with commit := none, staged := none } }

/-! ## The log (R424 to R426) -/

/-- The oldest entries beyond the ring's 2,040 are overwritten. -/
def State.appendLog (s : State) (e : LogEntry) : State :=
  let s := { s with sen := { s.sen with
    log := ({ e with seq := s.sen.logNext } :: s.sen.log).take 2040
    logNext := s.sen.logNext + 1 } }
  if (s.reg 0 0x00B0_0014).getLsbD 8 then
    let s := { s with sen := { s.sen with irqPending := true } }
    match s.sys.phase with
    | .off | .reset | .holdUp => s
    | _ => s.sendVector 0 26
  else s

/-- The 32 bytes of an entry (R425). -/
def LogEntry.bytes (e : LogEntry) : List Byte :=
  leBytes 8 e.tick ++ leBytes 1 e.cls ++ leBytes 1 e.inst ++ leBytes 1 e.level.rank ++ leBytes 1 e.applied.rank ++
  leBytes 1 (b2n e.moot + 2 * b2n e.bist + 4 * b2n e.holdUp + 8 * b2n e.escalated + 16 * b2n e.again + 32 * b2n e.tenant.isSome) ++
  leBytes 1 e.mode.toNat ++ leBytes 2 e.unit.toNat ++ leBytes 4 e.value.toNat ++ leBytes 4 e.count.toNat ++
  leBytes 4 e.seq.toNat ++ [e.tenant.getD 0, 0] ++ leBytes 2 e.boot.toNat

/-! ## One tick's alarms (R409, R416 to R420) -/

/-- An event of an instance, with the unit that it names. -/
structure AlarmEv where
  cls    : Nat
  inst   : Nat
  value  : Word
  tenant : Option Byte
  unit   : UnitNo
  bist   : Bool
  again  : Bool
  /-- The level, where the instance's own does not apply: a BIST entry (R414). -/
  forced : Option Level
  deriving DecidableEq, Repr

/-- An event of an instance of class D or E. -/
def unitEvent (cls inst : Nat) (tenant : Option Byte) : AlarmEv :=
  { cls := cls, inst := inst, value := 0, tenant := tenant, unit := unitOfInstance cls inst, bist := false, again := false,
    forced := none }

/-- A class K event (R410) on a unit. -/
def kEvent (inst : Nat) (unit : UnitNo) : AlarmEv :=
  { cls := 0xA, inst := inst, value := 0, tenant := none, unit := unit, bist := false, again := false, forced := none }

/-- The event is counted in its instance's window (R409); a BIST entry is no event of the condition. -/
def State.noteEvent (s : State) (e : AlarmEv) : State :=
  let m := s.monitor e.cls e.inst
  let w := s.senParam e.cls e.inst 2
  s.setMonitor e.cls e.inst { m with
    events := if e.bist then m.events else inWindow s.sys.tick w (s.sys.tick :: m.events)
    value := if e.bist then m.value else e.value
    sinceEntry := m.sinceEntry + 1 }

/-- The instance's events within its window reach its COUNT: an alarm. Source fences are alarms by themselves (R334). -/
def State.isAlarm (s : State) (e : AlarmEv) : Bool :=
  e.forced.isSome || e.cls == 0x7 || e.cls == 0xA ||
    decide (s.senParam e.cls e.inst 3 ≤ (s.monitor e.cls e.inst).events.length)

/-- LEVEL of an event. -/
def State.evLevel (s : State) (e : AlarmEv) : Level := e.forced.getD (s.levelFor e.cls e.inst)

/-- The response that an alarm asks for: in Hold-up, ZEROIZE for every level from FENCE on (R420). -/
def State.evAct (s : State) (e : AlarmEv) : Level :=
  let l := s.evLevel e
  if s.sys.phase == .holdUp && decide (1 ≤ l.rank) then .zeroize else l

/-- The order of a tick's entries (R419): descending LEVEL, then class, then instance. -/
def entryBefore (a b : LogEntry) : Bool :=
  decide (b.level.rank < a.level.rank) ||
    (a.level.rank == b.level.rank && (decide (a.cls < b.cls) || (a.cls == b.cls && decide (a.inst ≤ b.inst))))

/-- An entry put into its place among sorted entries. -/
def insertEntry (e : LogEntry) : List LogEntry → List LogEntry
  | [] => [e]
  | x :: r => if entryBefore e x then e :: x :: r else x :: insertEntry e r

/-- Entries in the order of R419. -/
def sortEntries : List LogEntry → List LogEntry
  | [] => []
  | e :: r => insertEntry e (sortEntries r)

/-- Write one entry, unless R426 withholds it. -/
def State.logOne (s : State) (e : LogEntry) : State :=
  let m := s.monitor e.cls e.inst
  let soon : Bool := match m.lastEntry with
    | some t => decide (2 ≤ e.applied.rank) && decide (2 ≤ e.level.rank) && s.sen.level.isSome && decide (e.tick - t < 1000)
    | none => false
  if soon ∨ (e.holdUp ∧ 16 ≤ s.sen.holdUpLogged) then s
  else
    let s := s.setMonitor e.cls e.inst { m with lastEntry := some e.tick, sinceEntry := 0 }
    let s := if e.holdUp then { s with sen := { s.sen with holdUpLogged := s.sen.holdUpLogged + 1 } } else s
    s.appendLog { e with count := BitVec.ofNat 32 m.sinceEntry }

/-- A warm reset is requested (R525): no new store is admitted from now on. A request in Hold-up, Reset or Off is
ignored; of two requests the first counts. -/
def State.requestWarm (s : State) (c : WarmCause) : State :=
  match s.sys.phase with
  | .off | .reset | .holdUp => s
  | _ =>
    if s.sys.warmReq.isSome then s
    else
      let busy := s.vault.stores.any (·.admitted)
      { s with sys := { s.sys with warmReq := some c, nextDeferred := busy }, ring := { s.ring with culvertOpen := false } }

/-- A Steward mismatch (R113, R423): a warm reset follows, unless the previous one lies within 10,000,000 ticks. -/
def State.stewardAlarm (s : State) : State :=
  let again : Bool := match s.dsp.stewardAt with
    | some t => decide (s.sys.tick - t < 10000000)
    | none => false
  let s := { s with dsp := { s.dsp with
    stewardFails := s.dsp.stewardFails + 1
    stewardAt := some s.sys.tick
    stewardState := if again then 0x2 else 0x1 } }
  if again then { s with sen := { s.sen with steward2nd := true } } else s.requestWarm .steward

/-- The device-wide response rises to a level (R416, R418, R420). -/
def State.respond (s : State) (before : Option Level) (l : Level) : State :=
  let s := { s with sen := { s.sen with level := some l } }
  let s := if l = .zeroize then s.startZeroise else s
  match s.sys.phase with
  | .off | .reset => { s with sen := { s.sen with carried := some l } }
  | .holdUp => s.abandonStores
  | _ => if before.isNone then s.enterAlarmHold else s

/-- All events of one tick: windows, the device-wide response, fences, log entries. -/
def State.raiseEvents (s0 : State) (evs : List AlarmEv) : State :=
  if !s0.sys.aonUp then s0
  else
    let s := evs.foldl State.noteEvent s0
    let alarms := evs.filter s.isAlarm
    if alarms = [] then s
    else
      let before := s.sen.level
      let top := alarms.foldl (fun l e => l.max (s.evAct e)) (before.getD .notice)
      let wide := decide (2 ≤ top.rank)
      let hold := s.sys.phase == .holdUp
      let entries := alarms.map fun e =>
        let l := s.evLevel e
        let applied := if wide then top else l
        let was := (l == .fence && s.unitFenced e.unit) || (match before with
          | some b => decide (2 ≤ b.rank) && decide (l.rank ≤ b.rank)
          | none => false)
        ({ tick := s.sys.tick, cls := e.cls, inst := e.inst, level := l, applied := applied,
           moot := decide (l.rank < applied.rank) || was, bist := e.bist, holdUp := hold,
           escalated := hold && decide (1 ≤ l.rank) && decide (l.rank < 3), again := e.again, tenant := e.tenant, mode := s.mode,
           unit := BitVec.ofNat 16 e.unit, value := e.value, count := 0, seq := 0, boot := s.sen.boots } : LogEntry)
      let s := if wide then
          (if before = some top then s else s.respond before top)
        else alarms.foldl (fun s e => if s.evLevel e = .fence then s.fenceUnit e.unit (e.cls != 0xA) else s) s
      let s := (sortEntries entries).foldl State.logOne s
      let s := if alarms.any (·.cls == 0x8) then s.stewardAlarm else s
      if s.sys.phase = s0.sys.phase then s0.noteMode s else s

end Sys2Proof.Machine
end

