-- ==== Sys2Proof/Machine/Queues.lean ====
section
/-! DEFINITION. Commands of chapter 2: enabling and disabling queue pairs, doorbells and pushes, consumption with the
common checks, release, interrupt coalescing, QUIESCE and RESUME. -/

namespace Sys2Proof.Machine

/-- A meaning's answer. -/
abbrev Result := Host.Outcome State Fault Refusal

/-- The answer of an opcode's checks before its claim: they pass, they fail with a status, or they wait for host
data. -/
inductive PreCheck where
  | pass
  | fail (st : Status)
  | need
  deriving DecidableEq, Repr

/-- Checks in order: the first that fails gives its status. -/
def firstFail (checks : List (Bool × Status)) : Option Status := (checks.find? fun c => !c.1).map (·.2)

/-- A host access to a function's BAR reaches the function (R10, R354, R362): the host link is served, the function
exists, is not in reset, and its TDI is not in CONFIG_LOCKED or ERROR. -/
def State.barOk (s : State) (fn : Nat) : Bool :=
  (match s.sys.phase with
   | .off | .reset | .holdUp => false
   | _ => true) &&
  s.fnExists fn &&
  (fn == 0 || (let v := s.vf fn
               !v.flrBusy && v.tdi != .configLocked && v.tdi != .error))

/-- Boot has stopped: only the LCB registers and the JTAG port serve (R6, R447). -/
def State.bootHeld (s : State) : Bool := s.sys.phase == .boot && (s.lcb.stopped || s.lcb.noImage)

/-- A host access to a register outside the LCB block is served. -/
def State.mmioOk (s : State) (fn : Nat) : Bool := s.barOk fn && !s.bootHeld

/-! ## Enable and disable (R64, R74) -/

/-- The conditions of R64 on the registers of a queue pair and a VECTOR. -/
def State.enableOk (s : State) (fn qp vector : Nat) : Bool :=
  let sz := (s.qpReg fn qp 0x110).toNat
  let sq := bits sz 0 5
  let cq := bits sz 8 5
  decide (4 ≤ sq) && decide (sq ≤ 16) && decide (4 ≤ cq) && decide (cq ≤ 16) && decide (sq ≤ cq) &&
    decide (s.sqBase fn qp % 4096 = 0) && decide (s.cqBase fn qp % 4096 = 0) &&
    (fn == 0 || decide (vector ≤ 16))

/-- QPn_CTRL's stored fields, IRQ_EN and VECTOR, from a written word. -/
def State.writeCtrl (s : State) (fn qp : Nat) (value : Word) : State :=
  s.setReg fn (queueOff fn (0x114 + 0x40 * qp)) (value &&& 0x0000_3F02)

/-- A write of QPn_CTRL with ENABLE 1 (R64). -/
def State.qpEnable (s : State) (fn qp : Nat) (value : Word) : State :=
  if !s.mmioOk fn || decide (16 ≤ qp) then s
  else
    let s := s.writeCtrl fn qp value
    let q := s.qp fn qp
    if q.enabled || q.draining then s
    else if s.enableOk fn qp (bits value.toNat 8 6) then
      s.setQp fn qp { Qp.idle with enabled := true, cqPhase := true }
    else s.queueError fn qp 0x5

def execQpEnable (fn qp : Nat) (value : Word) (s : State) : Result := .next (s.qpEnable fn qp value)

/-- A write of QPn_CTRL with ENABLE 0 (R74): consumption stops; ENABLED reads 1 while items are in flight. -/
def State.qpDisable (s : State) (fn qp : Nat) (value : Word) : State :=
  if !s.mmioOk fn || decide (16 ≤ qp) then s
  else
    let s := s.writeCtrl fn qp value
    let q := s.qp fn qp
    if q.enabled then s.setQp fn qp { q with enabled := false, draining := decide (q.inflight ≠ 0), fetched := [] }
    else s

def execQpDisable (fn qp : Nat) (value : Word) (s : State) : Result := .next (s.qpDisable fn qp value)

/-! ## Doorbells (R65 to R68, R70) -/

/-- A queue pair takes doorbells and pushes (R67). -/
def State.qpListens (s : State) (fn qp : Nat) : Bool :=
  s.mmioOk fn && decide (qp < 16) && (s.qp fn qp).enabled && !(s.qp fn qp).error

/-- A tail write to QPn_SQ_DB (R65). -/
def State.sqDoorbell (s : State) (fn qp : Nat) (value : Word) : State :=
  if !s.qpListens fn qp then s
  else
    let tail := bits value.toNat 0 16
    if s.sqSize fn qp ≤ tail then s.queueError fn qp 0x1
    else s.setQp fn qp { s.qp fn qp with sqTail := tail }

def execSqDoorbell (fn qp : Nat) (value : Word) (s : State) : Result := .next (s.sqDoorbell fn qp value)

/-- A write to a push window (R66). -/
def State.pushWrite (s : State) (fn qp : Nat) (bytes : List Byte) (oneTlp : Bool) : State :=
  if !s.qpListens fn qp then s
  else
    let q := s.qp fn qp
    let next := (q.sqTail + 1) % s.sqSize fn qp
    if next = q.sqHead then s.queueError fn qp 0x1
    else if oneTlp ∧ bytes.length = 64 then
      s.setQp fn qp { q with sqTail := next, fetched := (q.sqTail, bytes) :: q.fetched }
    else s.setQp fn qp { q with sqTail := next }

def execPushWrite (fn qp : Nat) (bytes : List Byte) (oneTlp : Bool) (s : State) : Result :=
  .next (s.pushWrite fn qp bytes oneTlp)

/-- A write of QPn_CQ_DB releases CQ entries (R68, R70). -/
def State.cqDoorbell (s : State) (fn qp : Nat) (value : Word) : State :=
  if !s.qpListens fn qp then s
  else
    let q := s.qp fn qp
    let head := bits value.toNat 0 16
    let size := s.cqSize fn qp
    let n := (head + size - q.cqHead) % size
    if size ≤ head ∨ q.reserved - q.inflight < n then s.queueError fn qp 0x2
    else s.setQp fn qp { q with cqHead := head, reserved := q.reserved - n }

def execCqDoorbell (fn qp : Nat) (value : Word) (s : State) : Result := .next (s.cqDoorbell fn qp value)

/-! ## Consumption and the common checks (R68, R77) -/

/-- Opcodes of VFs, grouped by the chapters that define them (R82). -/
def vfOpcodes : List Nat :=
  [0x0101, 0x0102, 0x0103, 0x0104, 0x0105, 0x0106, 0x0107, 0x0108, 0x0109, 0x010A, 0x0110, 0x0111, 0x0112,
   0x0201, 0x0202, 0x0203, 0x0204, 0x0210, 0x0211, 0x0301, 0x0302, 0x0303, 0x0304, 0x0305,
   0x0501, 0x0502, 0x0503, 0x0504, 0x0505, 0x0506, 0x0507, 0x0508, 0x0509, 0x050A, 0x050B, 0x050C,
   0x0510, 0x0511, 0x0512, 0x0601, 0x0602]

/-- The payment opcodes, absent on the KY-4800-N (R545). -/
def paymentOpcodes : List Nat := [0x0401, 0x0402, 0x0403, 0x0404, 0x0405, 0x0406, 0x0407]

/-- Administrative opcodes of the PF (R83). -/
def pfOpcodes : List Nat :=
  [0x0701, 0x0702, 0x0710, 0x0711, 0x0720, 0x0721, 0x0722, 0x0723, 0x0731, 0x0732, 0x0740,
   0x0750, 0x0751, 0x0752, 0x0753, 0x0754, 0x0755, 0x0756, 0x0760, 0x0761, 0x0762, 0x0763, 0x0764]

/-- Step 3 of R77: the opcode is defined, its unit is present, and its group belongs to the submitting function. -/
def State.opcodeOk (s : State) (pf : Bool) (op : Nat) : Bool :=
  if pf then pfOpcodes.contains op
  else vfOpcodes.contains op || (paymentOpcodes.contains op && s.sys.variant != .ky4800N)

/-- The opcode of a descriptor names a key for step 6 of R77. -/
def namesKey (desc : List Byte) : Bool :=
  let op := leAt desc 0 2
  let key := leAt desc 8 4
  if op = 0x0110 ∨ op = 0x0201 ∨ op = 0x0202 ∨ op = 0x0204 ∨ op = 0x0305 ∨ op = 0x0501 ∨ op = 0x050B ∨
     op = 0x0510 ∨ op = 0x0512 ∨ 0x0600 ≤ op then false
  else if op = 0x0203 ∨ op = 0x0304 ∨ op = 0x050A then key ≠ 0xFFFF_FFFF
  else if op = 0x0502 then byteAt desc 18 ≠ 0x01
  else true

/-- Step 6 of R77: KEY_PURGE accepts a handle one generation below the current one of a retired record (R153). -/
def State.keyStep (s : State) (it : Item) : Option Status :=
  if s.staleHandle it.fn it.key then some stKeyRevoked
  else if it.opcode = 0x0506 then
    match s.slotAttr it.key with
    | some (a, retired) =>
      if classSize (hClass it.key) ≤ hIndex it.key ∨ attrTenant a ≠ it.tenantByte then some stKeyNotFound
      else if retired ∧ hGen it.key + 1 = s.currentGen it.key then none
      else s.checkHandle it.tenantByte it.key
    | none => some stKeyNotFound
  else s.checkHandle it.tenantByte it.key

/-- The mode's status for a consumed item, if the mode does not serve it (step 1 of R77, R10). -/
def State.modeStatus (s : State) (it : Item) : Option Status :=
  match s.sys.phase with
  | .mirrorSync => some stNotServing
  | .diagnostic => if it.isAdmin then none else some stNotServing
  | .service => if s.sys.quiesce ∧ !it.isAdmin then some stQuiesced else none
  | .alarmHold => some stAlarmHalt
  | _ => none

/-- The common checks of R77 in order: the status and FIELD_OFFSET of the first failure. -/
def State.commonCheck (s : State) (it : Item) : Option (Status × Nat) :=
  let pf := it.isPf
  match s.modeStatus it with
  | some st => some (st, 0xFFFF)
  | none =>
    if !pf && it.tenant.isNone then some (stAccessDenied, 0xFFFF)
    else if !s.opcodeOk pf it.opcode then some (stBadOpcode, 0)
    else if bits it.flags 4 4 ≠ 0 then some (stBadField, 2)
    else if bits (it.byte 3) 3 5 ≠ 0 then some (stBadField, 3)
    else if bits (it.le 4 4) 22 10 ≠ 0 then some (stBadField, 4)
    else if !pf && bit it.flags 0 && it.inFlow.isNone then some (stAccessDenied, 4)
    else if namesKey it.desc then (s.keyStep it).map fun st => (st, 8)
    else none

/-- The flow that a consumed descriptor belongs to (R548, R79). -/
def State.flowOf (s : State) (fn : Nat) (desc : List Byte) : Option Nat :=
  if !bit (byteAt desc 2).toNat 0 then none
  else if fn = 0 then some pfFlowNo
  else
    match s.vfTenant fn with
    | none => none
    | some t =>
      let f := leAt desc 4 4
      if f < 2 ^ 22 ∧ t.flowFirst ≤ f ∧ f < t.flowFirst + t.flowCount then some f else none

/-- The ready list of an item (R91). -/
def State.readyListOf (s : State) (cls : Nat) (tenant : Option Byte) : Nat :=
  match s.plan.running.classes.find? (·.cls == cls) with
  | none => 0
  | some c => match tenant with
    | some t => c.listFirst + t.toNat % max 1 c.listCount
    | none => c.listFirst

/-- HBM address of the line of flow state that holds a flow (R36, R384). -/
def State.flowLine (s : State) (f : Nat) : Nat :=
  (((s.plan.running.hbm.find? (·.purpose == 2)).map (·.base)).getD 0x1000_0000 + 16 * f) / 64 * 64

/-- The flow-state fill of a consumption: a hit, a miss, or a miss that receives an uncorrectable error, which ends
every unreleased item of the line's four flows and starts them again (R384). -/
def State.touchFlow (s : State) (f : Nat) : State :=
  if s.dsp.flowCached.contains f then { s with dsp := { s.dsp with flowHit := s.dsp.flowHit + 1 } }
  else
    let s := { s with dsp := { s.dsp with flowMiss := s.dsp.flowMiss + 1, flowCached := f :: s.dsp.flowCached } }
    if s.mem.ueLines.contains (s.flowLine f) then
      let four := (List.range 4).map (· + f / 4 * 4)
      let hit := fun (it : Item) => match it.inFlow with | some g => four.contains g | none => false
      let s := ((s.itemList.filter hit).map (·.id)).foldl (fun s id => s.failItem id stFaultDetected) s
      let s := four.foldl (fun s g => State.releaseFlow true g s.itemList.length s) s
      let s := four.foldl (fun s g => s.setFlow g { nextSeq := 0, headSeq := 0 }) s
      { s with mem := { s.mem with ueLines := s.mem.ueLines.erase (s.flowLine f), ue := s.mem.ue + 1,
                                   ueAddr := BitVec.ofNat 64 (s.flowLine f) } }
    else s

/-- The mode consumes descriptors (R10). -/
def State.consumes (s : State) : Bool :=
  match s.sys.phase with
  | .mirrorSync | .service | .diagnostic => true
  | _ => false

/-- The function's descriptors are consumed: a VF neither suspended nor in reset. -/
def State.fnConsumes (s : State) (fn : Nat) : Bool :=
  s.mmioOk fn && (fn == 0 || !(s.vf fn).suspended)

/-- Whether the next descriptor of a queue pair can be consumed now (R65, R68, R73). -/
def State.canConsume (s : State) (fn qp : Nat) : Bool :=
  let q := s.qp fn qp
  s.consumes && s.fnConsumes fn && q.enabled && !q.error && decide (q.sqHead ≠ q.sqTail) &&
    decide (q.reserved < s.cqSize fn qp) && q.fetched.any (·.1 == q.sqHead)

/-- The item that a descriptor makes at consumption, before the common checks (R103). -/
def State.newItem (s : State) (fn qp slot : Nat) (desc : List Byte) : Item :=
  let tenant := if fn = 0 then none else (s.vfTenant fn).map (·.tenant)
  let cls := bits (byteAt desc 3).toNat 0 3
  let fl := s.flowOf fn desc
  let flags := (byteAt desc 2).toNat
  { id := s.dsp.nextItem, source := .queue fn qp slot, desc := desc, tenant := tenant, opcode := leAt desc 0 2,
    cls := cls, ready := s.readyListOf cls tenant, inFlow := fl,
    seq := (match fl with | some f => (s.flow f).nextSeq | none => s.dsp.consumed),
    fence := (bit flags 2), notify := (bit flags 1), traceOn := (bit flags 3), phase := .parked, general := false,
    failed := false, checked := false, claimed := false, claimFails := 0, lacked := [], claim := Claim.none,
    stage := 0, scratch := [], bufs := [], readFailed := false, written := [],
    outcome := { status := stOk, origin1 := false, body := [] } }

/-- Consume the descriptor at the SQ head: reserve a CQ entry, take a sequence number, run the common checks and
enqueue or park the item (R68, R77, R91, R92, R103). -/
def State.consume (s : State) (fn qp : Nat) : State :=
  if !s.canConsume fn qp then s
  else
    let q := s.qp fn qp
    let desc := ((q.fetched.find? (·.1 == q.sqHead)).map (·.2)).getD (zeros 64)
    let s := match s.flowOf fn desc with
      | some f => s.touchFlow f
      | none => s
    let it := s.newItem fn qp q.sqHead desc
    let it := match s.commonCheck it with
      | some (st, off) => { it with
          failed := true
          outcome := { status := st, origin1 := true, body := padTo 24 (zeros 8 ++ leBytes 2 off) } }
      | none => it
    let q := s.qp fn qp
    let s := s.setQp fn qp { q with
      sqHead := (q.sqHead + 1) % s.sqSize fn qp, reserved := q.reserved + 1, inflight := q.inflight + 1,
      fetched := q.fetched.filter (·.1 != q.sqHead) }
    let s := { s with dsp := { s.dsp with nextItem := s.dsp.nextItem + 1, consumed := s.dsp.consumed + 1 } }
    let s := match it.inFlow with
      | some f => s.setFlow f { s.flow f with nextSeq := (s.flow f).nextSeq + 1 }
      | none => s
    if s.mayUnpark it then s.enqueue it 0x00
    else (s.setItem it).trace 0x01 0x02 it 0

/-! ## Release (R106) and coalescing (R87) -/

/-- An item whose record is ready is released: written now, or in flow order with the ready records behind it; an item
that is not the head of its flow keeps its record (R106). Items of a suspended VF still release (R365). -/
def State.release (s : State) (id : Nat) (ok : Bool) : State :=
  match s.item id with
  | none => s
  | some it =>
    if !it.isDone then s
    else
      match it.inFlow with
      | none => (s.writeRecord it ok).afterRelease
      | some f =>
        if s.isHead it then (State.releaseFlow ok f s.itemList.length s).afterRelease else s

def execRecordRelease (item : Nat) (cqWriteOk : Bool) (s : State) : Result := .next (s.release item cqWriteOk)

/-- COAL.TIME_US has passed since the oldest counted record was written (R87). -/
def execCoalTimeout (fn qp : Nat) (s : State) : Result :=
  let q := s.qp fn qp
  if q.counted ≠ 0 ∧ bits (s.qpReg fn qp 0x118).toNat 8 10 ≠ 0 then
    .next ((s.setQp fn qp { q with counted := 0 }).sendVector fn (s.qpVector fn qp))
  else .next s

/-! ## QUIESCE and RESUME (R84, R552) -/

/-- Opcode 0x0701. -/
def execQuiesce (item : Nat) (s : State) : Result :=
  .next (s.onRunning item fun it =>
    if it.opcode ≠ 0x0701 then s
    else if 10000000 < it.le 16 4 ∨ !zeroRange it.desc 20 64 then s.failItem item stBadField
    else if s.sys.phase ≠ .service then s.failItem item stNotServing
    else
      let s := s.enterQuiesce
      if s.drainHolds then s.complete item stOk (okBody 0 []) else s.yieldItem item .drained)

/-- TIMEOUT_US of a waiting QUIESCE passes: ST_TIMEOUT, and the device stays in Quiesce (R84). -/
def execQuiesceTimeout (item : Nat) (s : State) : Result :=
  match s.item item with
  | some it =>
    if it.opcode = 0x0701 ∧ it.phase = .yielded .drained ∧ it.le 16 4 ≠ 0 then
      .next (s.endWaitWith item { status := stTimeout, origin1 := false, body := zeros 24 })
    else .next s
  | none => .next s

/-- Opcode 0x0702. -/
def execResume (item : Nat) (s : State) : Result :=
  .next (s.onRunning item fun it =>
    if it.opcode ≠ 0x0702 then s
    else if !zeroRange it.desc 16 64 then s.failItem item stBadField
    else if s.sys.phase ≠ .service then s.failItem item stNotServing
    else
      let was := s.sys.quiesce
      let s := s.noteMode { s with sys := { s.sys with quiesce := false } }
      s.complete item stOk (okBody (b2n was) []))

end Sys2Proof.Machine
end

