-- ==== Sys2Proof/Machine/Entropy.lean ====
section
/-! DEFINITION. Which units a variant has (R545), and the entropy path of chapter 11: sources and their health tests,
the conditioner's pool, the main DRBG, the tenant instances and the random opcodes. -/

namespace Sys2Proof.Machine

/-! ## Units of a variant (R545, R546) -/

def State.furrowPresent (s : State) (n : Nat) : Bool :=
  decide (n < 20) && (s.sys.variant != .ky4200A || decide (n < 6) || decide (16 ≤ n))

def State.enginePresent (s : State) (n : Nat) : Bool := decide (n < 8) && (s.sys.variant != .ky4200A || decide (n < 4))

def State.portPresent (s : State) (n : Nat) : Bool := decide (n < 4) && (s.sys.variant != .ky4200A || decide (n < 2))

def State.hasTdes (s : State) : Bool := s.sys.variant != .ky4800N

/-- A sluice unit of the part exists. -/
def State.unitPresent (s : State) (u : Nat) : Bool := decide (u < 40) && (decide (20 ≤ u) || s.furrowPresent u)

/-! ## The main DRBG (R338, R339) -/

/-- The main DRBG serves its consumers. -/
def State.mainServes (s : State) : Bool := s.ent.ready && s.ent.mainServing && s.ent.main.isSome

/-- Personalisation of the main DRBG (R338). -/
def State.mainPers (s : State) : List Byte :=
  leBytes 8 s.sys.serial.toNat ++ padTo 8 s.mtag ++ leBytes 8 s.sys.tick ++ zeros 24

/-- Seed one mask generator of a furrow with a 32-byte request of its own (R161, R163). -/
def State.seedGen (s : State) (u : Nat) (b : Bool) : State :=
  let s := (s.draw 32).2
  let g : MaskGen := { seeded := true, blocks := 0, asked := false, stopped := false }
  { s with cfb := { s.cfb with furrows := s.cfb.furrows.modify u fun f =>
    if b then { f with genB := g, reseeds := f.reseeds + 1 } else { f with genA := g, reseeds := f.reseeds + 1 } } }

/-- Seed both generators of a furrow (R163). -/
def State.seedFurrow (s : State) (u : Nat) : State := (s.seedGen u false).seedGen u true

/-- Instantiate the main DRBG from the first pool entry and set ENT_READY; both generators of every furrow are then
seeded (R163, R340). -/
def State.instantiateMain (s : State) : State :=
  match s.ent.pool with
  | [] => s
  | seed :: rest =>
    let s := { s with ent := { s.ent with
      pool := rest
      main := some (Drbg.instantiate (padTo 48 seed) s.mainPers)
      ready := true
      mainServing := true
      awaitMtag := false } }
    ((List.range 20).filter s.furrowPresent).foldl State.seedFurrow s

/-- The main DRBG reseeds from a pool entry (R338). -/
def State.reseedMain (s : State) : State :=
  match s.ent.pool, s.ent.main with
  | seed :: rest, some d =>
    { s with ent := { s.ent with
      pool := rest
      main := some (d.reseed (padTo 48 seed) (zeros 48))
      mainServing := true
      mainReseeds := s.ent.mainReseeds + 1 } }
  | _, _ => s

/-- Requests of the main DRBG since its last reseed. -/
def State.mainSince (s : State) : Nat := (s.ent.main.map (·.since)).getD 0

/-- Healthy sources. -/
def State.healthy (s : State) : Nat := (s.ent.sources.filter (·.healthy)).length

/-! ## Start-up (R340) -/

/-- The start-up tests end. `first` has the sources that pass their first 1,024 samples; one that does not is fenced with
an E event, and is healthy after all if it passes its repeat (`again`). Fewer than 16 healthy ones, or a failed known
answer, set FAULT. Otherwise 8 blocks are conditioned, and the main DRBG is instantiated once VLT_MTAG is loaded. -/
def execEntStartupDone (first again : BitVec 32) (knownAnswersOk : Bool) (s : State) : Result :=
  if s.sys.phase ≠ .boot ∨ s.ent.ready ∨ s.ent.fault ∨ s.ent.awaitMtag ∨ s.ent.erased then .next s
  else
    let start := fun (x : EntSource × Nat) =>
      if first.getLsbD x.2 then { x.1 with healthy := true, fenced := false }
      else { x.1 with healthy := again.getLsbD x.2, fenced := !again.getLsbD x.2, fences := x.1.fences + 1 }
    let s := { s with ent := { s.ent with sources := s.ent.sources.zipIdx.map start } }
    let failed := (List.range 32).filter fun i => !first.getLsbD i
    let few := decide (s.healthy < 16)
    let evs := failed.map (fun i => unitEvent 0x7 i none) ++ (if few then [unitEvent 0x7 32 none] else [])
    let s := s.raiseEvents evs
    if few ∨ !knownAnswersOk then .next { s with ent := { s.ent with fault := true } }
    else
      let p := (List.range 4).foldl (fun (a : List (List Byte) × State) _ =>
        let r := a.2.freeBytes 48
        (a.1 ++ [r.1], r.2)) (([] : List (List Byte)), s)
      let s : State := { p.2 with ent := { p.2.ent with pool := p.1, blkOk := p.2.ent.blkOk + 8 } }
      if s.lcb.stage = 0x7 then .next s.instantiateMain
      else .next { s with ent := { s.ent with awaitMtag := true } }

/-! ## Blocks and sources (R332 to R337) -/

/-- The repetition count test over a block: whether it fails, and the run that goes on into the next block. -/
def rctRun : Option (Byte × Nat) → List Byte → Bool × Option (Byte × Nat)
  | run, [] => (false, run)
  | none, b :: r => rctRun (some (b, 1)) r
  | some (v, n), b :: r =>
    let next := if b = v then (v, n + 1) else (b, 1)
    let rest := rctRun (some next) r
    (decide (6 ≤ next.2) || rest.1, rest.2)

/-- The adaptive proportion test of a block of 512 samples: the first sample occurs 62 times or more. -/
def aptFails (samples : List Byte) : Bool :=
  match samples with
  | [] => false
  | b :: _ => decide (62 ≤ samples.count b)

def State.modifySource (s : State) (n : Nat) (f : EntSource → EntSource) : State :=
  { s with ent := { s.ent with sources := s.ent.sources.modify n f } }

/-- Failures of a source that count toward its fence (R334). -/
def State.windowFails (s : State) (n : Nat) : List Nat :=
  inWindow s.sys.tick (s.senParam 0x7 n 2) (((s.ent.sources[n]?).map (·.fails)).getD [])

/-- A source is fenced (R334, R335), and with fewer than 16 healthy ones the entropy unit is fenced in the same tick
(R336). -/
def State.fenceSource (s : State) (n : Nat) : State :=
  let s := s.modifySource n fun x =>
    ({ x with healthy := false
              fenced := true
              fences := x.fences + 1
              locked := decide (3 ≤ x.fences + 1)
              run := none })
  s.raiseEvents (unitEvent 0x7 n none :: (if s.healthy < 16 ∧ !s.ent.fenced then [unitEvent 0x7 32 none] else []))

/-- A raw block ends (R332 to R337). -/
def execEntropyBlock (source : Nat) (samples : List Byte) (s : State) : Result :=
  match s.ent.sources[source]? with
  | none => .next s
  | some x =>
    if samples.length ≠ 512 ∨ !x.healthy ∨ !s.ent.ready ∨ s.ent.erased then .next s
    else
      let r := rctRun x.run samples
      let apt := aptFails samples
      if r.1 ∨ apt then
        let s := s.modifySource source fun x => { x with run := none, last := s.sys.tick, fails := s.sys.tick :: s.windowFails source }
        let s := { s with ent := { s.ent with
          blkFail := s.ent.blkFail + 1
          rctFail := if r.1 then s.ent.rctFail + 1 else s.ent.rctFail
          aptFail := if apt then s.ent.aptFail + 1 else s.ent.aptFail } }
        if s.senParam 0x7 source 3 ≤ (s.windowFails source).length then .next (s.fenceSource source) else .next s
      else
        let s := s.modifySource source fun x => { x with run := r.2 }
        let s := { s with ent := { s.ent with blkOk := s.ent.blkOk + 1 } }
        if s.ent.pool.length < 4 ∧ (!s.ent.fenced ∨ 16 ≤ s.healthy) then
          .next { s with ent := { s.ent with pool := s.ent.pool ++ [sha384 (samples ++ [BitVec.ofNat 8 source])] } }
        else .next s

/-- The Steward starts the start-up test of a fenced source (R335). -/
def execSourceRetest (source : Nat) (s : State) : Result :=
  match s.ent.sources[source]? with
  | none => .next s
  | some x =>
    if x.fenced ∧ !x.locked ∧ !x.testing ∧ !s.ent.erased then .next (s.modifySource source fun x => { x with testing := true })
    else .next s

/-- The re-test ends: the source is healthy, or the test counts as a fence (R335). -/
def execSourceRetestDone (source : Nat) (passed : Bool) (s : State) : Result :=
  match s.ent.sources[source]? with
  | none => .next s
  | some x =>
    if !x.testing ∨ s.ent.erased then .next s
    else if passed then
      .next (s.modifySource source fun x =>
        ({ x with testing := false
                  healthy := true
                  fenced := false
                  fails := []
                  run := none }))
    else
      .next (s.modifySource source fun x =>
        ({ x with testing := false
                  fences := x.fences + 1
                  locked := decide (3 ≤ x.fences + 1) }))

/-! ## The main DRBG's events (R336, R338) -/

/-- Key fills that waited for mask randomness go on (R126). -/
def State.startFills (s : State) : State :=
  { s with vault := { s.vault with fills := s.vault.fills.map fun f => { f with started := true } } }

/-- The main DRBG reseeds from the pool; a fenced entropy unit with at least 16 healthy sources is re-admitted. -/
def execMainDrbgReseed (s : State) : Result :=
  if s.ent.main.isNone ∨ s.ent.pool = [] ∨ s.ent.erased ∨ !s.ent.ready then .next s
  else if s.ent.fenced then
    if s.healthy < 16 then .next s
    else
      let s' := s.reseedMain
      .next ((s.noteMode { s' with ent := { s'.ent with fenced := false } }).startFills)
  else .next s.reseedMain.startFills

/-- A fenced entropy unit's main DRBG stops serving after 2^20 requests. -/
def execMainDrbgStop (s : State) : Result :=
  if s.ent.fenced ∧ 2 ^ 20 ≤ s.mainSince then .next { s with ent := { s.ent with mainServing := false } }
  else .next s

/-! ## Tenant instances (R342 to R345) -/

def State.tenantDrbg (s : State) (t : Byte) : Option TenantDrbg := tabGet s.ent.tenants t.toNat

def State.setTenantDrbg (s : State) (t : Byte) (d : TenantDrbg) : State :=
  { s with ent := { s.ent with tenants := tabSet s.ent.tenants t.toNat d } }

/-- The instance of a tenant, instantiated at Plan Load (R342). -/
def State.instantiateTenant (s : State) (t : Byte) : State :=
  let r := s.draw 48
  r.2.setTenantDrbg t { drbg := Drbg.instantiate (padTo 48 r.1) ([t] ++ leBytes 8 s.plan.serial.toNat ++ zeros 39),
                        asked := false, waiting := [] }

/-- The instance's count reaches 2^23: it asks for a reseed. -/
def execTenantReseedRequest (tenant : Byte) (s : State) : Result :=
  match s.tenantDrbg tenant with
  | none => .next s
  | some d => if 2 ^ 23 ≤ d.drbg.since ∧ !d.asked then .next (s.setTenantDrbg tenant { d with asked := true }) else .next s

/-- The main DRBG grants a reseed that was asked for; never while the entropy unit is fenced. -/
def execTenantReseed (tenant : Byte) (s : State) : Result :=
  match s.tenantDrbg tenant with
  | none => .next s
  | some d =>
    if !d.asked ∨ s.ent.fenced ∨ !s.mainServes then .next s
    else
      let r := s.draw 48
      .next (r.2.setTenantDrbg tenant { d with drbg := d.drbg.reseed (padTo 48 r.1) (zeros 48), asked := false })

/-- A request of `n` bytes to a tenant's instance for a tenant-visible draw (R339, R342), if the instance serves it
now. -/
def State.tenantDraw (s : State) (t : Byte) (n : Nat) : Option (List Byte × State) :=
  match s.tenantDrbg t with
  | none => none
  | some d =>
    if 2 ^ 24 ≤ d.drbg.since then none
    else
      let r := d.drbg.generate n (zeros 48)
      some (r.1, s.setTenantDrbg t { d with drbg := r.2 })

/-! ## The random opcodes (R347 to R349) -/

/-- Checks before the claim (R349). -/
def randomCheck (it : Item) : PreCheck :=
  if it.opcode = 0x0601 then
    if !zeroRange it.desc 29 32 ∨ 2 ≤ it.byte 28 ∨ it.le 24 4 = 0 then .fail stBadField
    else if 65536 < it.le 24 4 then .fail stLengthLimit else .pass
  else if zeroRange it.desc 16 32 then .pass else .fail stBadField

/-- ADDIN followed by 16 zero bytes (R348). -/
def Item.addin (it : Item) : List Byte := slice it.desc 32 32 ++ zeros 16

/-- Bytes 16 to 31 of a random opcode's record. -/
def randomRest (since : Nat) (reseeded fenced : Bool) : List Byte :=
  leBytes 4 since ++ leBytes 1 (b2n reseeded + 2 * b2n fenced)

/-- The item waits on its core for the entropy unit (R345). -/
def State.randomWait (s : State) (it : Item) (d : TenantDrbg) (ask : Bool) : State :=
  (s.setTenantDrbg it.tenantByte { d with asked := d.asked || ask, waiting := (if d.waiting.contains it.id then d.waiting else d.waiting ++ [it.id]) }).setItem { it with stage := 1 }

/-- The item leaves the instance's queue. -/
def State.randomServed (s : State) (it : Item) (d : TenantDrbg) : State :=
  s.setTenantDrbg it.tenantByte { d with waiting := d.waiting.erase it.id }

/-- The sequence of R344 can run now: the entropy unit is not fenced and holds a pool entry. -/
def State.freshReseed (s : State) : Bool := !s.ent.fenced && s.ent.pool != [] && s.ent.main.isSome && !s.ent.erased

/-- Opcode 0x0601: one generate request, in arrival order, with the reseeds of R344 first for prediction resistance. -/
def execRandom (item : Nat) (s : State) : Result :=
  .next (s.onRunning item fun it =>
    if it.opcode ≠ 0x0601 ∨ s.ent.erased then s
    else
      match s.tenantDrbg it.tenantByte with
      | none => s
      | some d =>
        let n := it.le 24 4
        let pr := bit (it.byte 28) 0
        if d.waiting ≠ [] ∧ d.waiting.head? ≠ some item then s.randomWait it d false
        else if pr ∧ !s.freshReseed then s.randomWait it d false
        else if !pr ∧ 2 ^ 24 ≤ d.drbg.since then s.randomWait it d true
        else
          let p := if pr then
              (let s' := s.reseedMain
               let r := s'.draw 48
               (d.drbg.reseed (padTo 48 r.1) (zeros 48), r.2))
            else (d.drbg, s)
          let g := p.1.generate n it.addin
          let s' := p.2.randomServed it { d with drbg := g.2 }
          let s' := s'.writeOut item (it.le 16 8) g.1
          s'.complete item stOk (okBody n (randomRest g.2.since (pr || it.stage == 1) s.ent.fenced)))

/-- Opcode 0x0602: the main DRBG reseeds from a fresh pool entry, then the instance, with ADDIN. -/
def execRandomReseed (item : Nat) (s : State) : Result :=
  .next (s.onRunning item fun it =>
    if it.opcode ≠ 0x0602 ∨ s.ent.erased then s
    else
      match s.tenantDrbg it.tenantByte with
      | none => s
      | some d =>
        if (d.waiting ≠ [] ∧ d.waiting.head? ≠ some item) ∨ !s.freshReseed then s.randomWait it d false
        else
          let r := s.reseedMain.draw 48
          let d' : Drbg := d.drbg.reseed (padTo 48 r.1) it.addin
          (r.2.randomServed it { d with drbg := d', asked := false }).complete item stOk
            (okBody 0 (randomRest d'.since true s.ent.fenced)))

end Sys2Proof.Machine
end

