-- ==== Sys2Proof/Machine/PlanImage.lean ====
section
/-! DEFINITION. The plan image (R24 to R48): its layout, the parsing of its sections, and the checks of Plan Load,
PLAN_STAGE and PLAN_AMEND in their order. -/

namespace Sys2Proof.Machine

/-- A failed check: RESULT of Plan Load, FAIL_SECTION (0xFFFF for none) and FAIL_ENTRY. -/
structure PlanFail where
  code    : Nat
  secNo : Nat
  entry   : Nat
  deriving DecidableEq, Repr

abbrev noSection : Nat := 0xFFFF
abbrev noEntry : Nat := 0xFFFF_FFFF

/-- A failure that names no section. -/
def planFail (code : Nat) : PlanFail := { code := code, secNo := noSection, entry := noEntry }

/-- Largest image (R24). -/
abbrev imageMax : Nat := 2 ^ 23

/-! ## Sections (R27) -/

abbrev tyTenants : Nat := 0x1
abbrev tyUnits : Nat := 0x2
abbrev tyPke : Nat := 0x3
abbrev tyHbm : Nat := 0x4
abbrev tyHeadgates : Nat := 0x5
abbrev tyWeirs : Nat := 0x6
abbrev tyClasses : Nat := 0x7
abbrev tyRegions : Nat := 0x8
abbrev tySentinel : Nat := 0x9
abbrev tySluice : Nat := 0xA
abbrev tyDrain : Nat := 0xB

/-- Entry sizes by TYPE. -/
def entrySize (ty : Nat) : Nat := [0, 64, 8, 16, 16, 32, 16, 8, 16, 8, 65536, 65536].getD ty 0

/-- Types of a kind of image, and those it requires. -/
def typesOf (amendment : Bool) : List Nat :=
  if amendment then [tyUnits, tyHeadgates, tyWeirs, tyClasses, tySluice, tyDrain]
  else [tyTenants, tyUnits, tyPke, tyHbm, tyHeadgates, tyWeirs, tyClasses, tyRegions, tySentinel, tySluice]

def typesRequired (amendment : Bool) : List Nat :=
  if amendment then [tySluice] else [tyTenants, tyUnits, tyPke, tyHbm, tyClasses, tyRegions, tySluice]

/-- COUNT is allowed for a TYPE. -/
def countOk (ty n : Nat) : Bool :=
  if ty = tyClasses then n == 8 else if ty = tySluice ∨ ty = tyDrain then n == 1 else true

/-- One directory entry (R25). -/
structure DirEntry where
  ty     : Nat
  offset : Nat
  len    : Nat
  count  : Nat
  reserved : Nat
  deriving DecidableEq, Repr

def dirEntry (img : List Byte) (i : Nat) : DirEntry :=
  { ty := leAt img (64 + 16 * i) 2, reserved := leAt img (64 + 16 * i + 2) 2, offset := leAt img (64 + 16 * i + 4) 4,
    len := leAt img (64 + 16 * i + 8) 4, count := leAt img (64 + 16 * i + 12) 4 }

/-- The directory, one entry for each of SECTIONS. -/
def directory (img : List Byte) : List DirEntry := (List.range (leAt img 10 2)).map (dirEntry img)

/-! ## Header and directory (R24, R25, R27) -/

/-- The header is valid for a kind of image of an announced length. -/
def State.headerOk (s : State) (img : List Byte) (amendment : Bool) (len : Nat) : Bool :=
  leAt img 0 4 == 0x4C50_594B && leAt img 4 2 == 1 && leAt img 6 2 == (if amendment then 2 else 1) &&
  leAt img 8 2 == 0x4800 && decide (1 ≤ leAt img 10 2) && decide (leAt img 10 2 ≤ 16) && leAt img 12 4 == len &&
  decide (len ≤ imageMax) && (if amendment then decide (1 ≤ leAt img 24 4) else leAt img 24 4 == 0) &&
  leAt img 28 4 == 0 && (leAt img 40 8 == 0 || leAt img 40 8 == s.sys.serial.toNat) &&
  (if amendment then decide (2 ≤ leAt img 48 2) && decide (leAt img 48 2 ≤ 1024) else leAt img 48 2 == 0) &&
  leAt img 50 2 == 0 &&
  (if amendment then decide (100 ≤ leAt img 52 4) && decide (leAt img 52 4 ≤ 1000000) else leAt img 52 4 == 0) &&
  leAt img 56 8 == 0

/-- Round up to a multiple of 64. -/
def align64 (n : Nat) : Nat := (n + 63) / 64 * 64

/-- One directory entry is valid after those before it; `prev` is where the data before it ends. -/
def dirEntryOk (img : List Byte) (amendment : Bool) (earlier : List DirEntry) (prev : Nat) (d : DirEntry) : Bool :=
  (typesOf amendment).contains d.ty && !(earlier.any (·.ty == d.ty)) && d.reserved == 0 && d.offset % 64 == 0 &&
  decide (prev ≤ d.offset) && d.len == d.count * entrySize d.ty && countOk d.ty d.count &&
  decide (d.offset + d.len + 96 ≤ img.length) && zeroRange img prev d.offset &&
  !(amendment && d.ty == tyDrain && !((directory img).any (·.ty == tyUnits)))

/-- The entries of a directory checked in order: the index of the first that fails, or where the data ends. -/
def dirWalk (img : List Byte) (amendment : Bool) : List DirEntry → List DirEntry → Nat → Nat ⊕ Nat
  | [], _, prev => .inr prev
  | d :: r, earlier, prev =>
    if dirEntryOk img amendment earlier prev d then dirWalk img amendment r (earlier ++ [d]) (d.offset + d.len)
    else .inl earlier.length

/-- The directory check: RESULT 0x6. -/
def dirCheck (img : List Byte) (amendment : Bool) : Option PlanFail :=
  let ds := directory img
  let has := fun ty => ds.any (·.ty == ty)
  match dirWalk img amendment ds [] (64 + 16 * ds.length) with
  | .inl i => some { code := 0x6, secNo := i, entry := noEntry }
  | .inr e =>
    if align64 e + 96 ≠ img.length then some { code := 0x6, secNo := ds.length - 1, entry := noEntry }
    else if !(typesRequired amendment).all has || (amendment && has tyUnits && !has tyDrain) then some (planFail 0x6)
    else none

/-- OPKEY_FP and the signature (R18, R26). -/
def State.planKeyOk (s : State) (img : List Byte) : Bool :=
  match s.vault.operatorKey with
  | none => false
  | some k => slice img 32 8 == fingerprint 0x21 k &&
      verifySig 0x01 0x02 0x21 k (sha384 (img.take (img.length - 96))) (img.drop (img.length - 96))

/-! ## Parsing -/

/-- The entries of a section, none where the image lacks it. -/
def rawSection (img : List Byte) (ty : Nat) : Option (List (List Byte)) :=
  ((directory img).find? (·.ty == ty)).map fun d => chunks (entrySize ty) (slice img d.offset d.len)

def rawEntries (img : List Byte) (ty : Nat) : List (List Byte) := (rawSection img ty).getD []

/-- A field whose zero means a default. -/
def orDefault (v d : Nat) : Nat := if v = 0 then d else v

abbrev gcmLimit : Nat := 2 ^ 36 - 32

def parseTenant (b : List Byte) : TenantEntry :=
  let fl := (byteAt b 1).toNat
  { tenant := byteAt b 0, storage := bit fl 0, payment := bit fl 1, programs := bit fl 2, remoteOfficers := bit fl 3,
    vfFirst := leAt b 2 2, vfCount := leAt b 4 2, epochUs := orDefault (leAt b 8 4) 10000, flowFirst := leAt b 12 4,
    flowCount := leAt b 16 4, keyrecQuota := leAt b 20 4, sessionQuota := leAt b 24 4, channelQuota := leAt b 28 4,
    segMax := orDefault (leAt b 32 4) (2 ^ 24), gcmMax := orDefault (leAt b 40 8) gcmLimit }

/-- The CFB_SLU_UNITn number of a KIND and INDEX (R61). -/
def unitNumber (kind index : Nat) : Nat := if kind = 0 then index else if kind = 1 then 24 + index else 20 + index

def parseUnit (b : List Byte) : UnitEntry :=
  let role := byteAt b 3
  { unitNo := unitNumber (byteAt b 0).toNat (byteAt b 1).toNat, owner := if 0x10 ≤ role.toNat then 0 else byteAt b 2,
    role := role }

def parseEngine (b : List Byte) : PkeEntry :=
  { engine := (byteAt b 1).toNat, pinned := (byteAt b 2).getLsbD 0, fused := (byteAt b 2).getLsbD 1, owner := byteAt b 3,
    slotL := (byteAt b 4).toNat, longOk := (byteAt b 5).getLsbD 0 }

def parseWindow (b : List Byte) : PkeWindow :=
  { engine := (byteAt b 1).toNat, tenant := byteAt b 2, firstSlot := leAt b 4 2, slotCount := leAt b 6 2 }

def parseHbm (b : List Byte) : HbmEntry :=
  { base := leAt b 0 8, sizeLog2 := (byteAt b 8).toNat, owner := byteAt b 9, purpose := (byteAt b 10).toNat }

def parseHeadgate (b : List Byte) : Headgate :=
  let w := leAt b 28 2
  { index := leAt b 0 2, port := bits (byteAt b 2).toNat 0 2, subPort := bits (byteAt b 2).toNat 2 3,
    ipv6 := (byteAt b 3).getLsbD 0, enabled := (byteAt b 3).getLsbD 1, dstAddr := slice b 4 16, dport := leAt b 20 2,
    tenant := byteAt b 22, cls := (byteAt b 23).toNat, chan := leAt b 24 3, weir := if w = 0xFFFF then none else some w }

def parseWeir (b : List Byte) : Weir :=
  { index := leAt b 0 2, perChan := byteAt b 2 == 1, tenant := byteAt b 3, rateMbps := leAt b 4 4, burst := leAt b 8 4,
    chan := leAt b 12 3 }

def parseClass (b : List Byte) : DspClass :=
  { cls := (byteAt b 0).toNat, listFirst := (byteAt b 1).toNat, listCount := (byteAt b 2).toNat,
    weight := (byteAt b 3).toNat, coreCap := leAt b 4 2 }

def parseRegion (b : List Byte) : PuEntry :=
  let p := byteAt b 3
  { coreSet := byteAt b 0 == 1, who := (byteAt b 1).toNat, region := (byteAt b 2).toNat,
    value := { base := leAt b 4 8, sizeLog2 := (byteAt b 12).toNat, permR := p.getLsbD 0, permW := p.getLsbD 1,
               permX := p.getLsbD 2, permA := p.getLsbD 3, tag := byteAt b 13, tagValid := (byteAt b 14).getLsbD 0,
               valid := true } }

def parseSentinel (b : List Byte) : SentinelEntry :=
  { cls := (byteAt b 0).toNat, inst := (byteAt b 1).toNat, param := (byteAt b 2).toNat, value := leAt b 4 4 }

/-- A bank's 32,768 entries (R47). -/
def parseTable (b : List Byte) : List (BitVec 16) := (chunks 2 b).map fun e => BitVec.ofNat 16 (ofLe e)

/-- The tables of a section of TYPE SLUICE or SLUICE_DRAIN. -/
def tableOf (img : List Byte) (ty : Nat) : Option (List (BitVec 16)) := (rawSection img ty).map fun es => parseTable es.flatten

/-- An image read into its entries. -/
def parseImage (img : List Byte) : Image :=
  { kind := leAt img 6 2, serial := BitVec.ofNat 64 (leAt img 16 8), amendSeq := BitVec.ofNat 32 (leAt img 24 4),
    opkeyFp := slice img 32 8, deviceId := BitVec.ofNat 64 (leAt img 40 8), drainFrames := leAt img 48 2,
    drainTimeout := leAt img 52 4, digest := sha384 img,
    dirIndex := (directory img).zipIdx.map fun p => (p.1.ty, p.2),
    tenants := (rawEntries img tyTenants).map parseTenant,
    units := (rawSection img tyUnits).map (·.map parseUnit),
    pke := ((rawEntries img tyPke).filter fun b => byteAt b 0 == 0).map parseEngine,
    windows := ((rawEntries img tyPke).filter fun b => byteAt b 0 == 1).map parseWindow,
    hbm := (rawEntries img tyHbm).map parseHbm, headgates := (rawEntries img tyHeadgates).map parseHeadgate,
    weirs := (rawEntries img tyWeirs).map parseWeir,
    classes := (rawSection img tyClasses).map (·.map parseClass),
    regions := (rawEntries img tyRegions).map parseRegion, sentinel := (rawEntries img tySentinel).map parseSentinel,
    sluice := (tableOf img tySluice).getD [], sluiceDrain := tableOf img tyDrain }

/-- Directory index of a present section. -/
def Image.index (m : Image) (ty : Nat) : Nat := ((m.dirIndex.find? (·.1 == ty)).map (·.2)).getD noSection

/-! ## Content checks (R28 to R42), each giving 0 or the RESULT of its failure -/

/-- What the content checks refer to beside the section itself: tenants, payment furrows' owners, weirs and headgates as
they will be (R38, R54). -/
structure PlanCtx where
  tenants   : List TenantEntry
  payOwners : List Byte
  weirs     : List Weir
  /-- Running headgates and weirs that the image does not replace. -/
  keptGates : List Headgate
  keptWeirs : List Weir

def PlanCtx.tenantOk (c : PlanCtx) (t : Byte) : Bool := c.tenants.any (·.tenant == t)

/-- Ranges of a first number and a count overlap. -/
def rangesMeet (a n b m : Nat) : Bool := decide (0 < n) && decide (0 < m) && decide (a < b + m) && decide (b < a + n)

/-- The sum of a quota over the entries up to this one. -/
def quotaSum (f : TenantEntry → Nat) (earlier : List (List Byte)) (b : List Byte) : Nat :=
  ((earlier ++ [b]).map fun x => f (parseTenant x)).sum

def tenantBad (s : State) (c : PlanCtx) (earlier : List (List Byte)) (b : List Byte) : Nat :=
  let t := parseTenant b
  let ts := earlier.map parseTenant
  let seg := leAt b 32 4
  if bits (byteAt b 1).toNat 4 4 ≠ 0 ∨ !zeroRange b 6 8 ∨ !zeroRange b 36 40 ∨ !zeroRange b 48 64 then 0x7
  else if 256 ≤ earlier.length ∨ ts.any (·.tenant == t.tenant) then 0x7
  else if t.payment ∧ s.sys.variant = .ky4800N then 0xA
  else if t.epochUs < 250 ∨ 100000 < t.epochUs then 0x7
  else if seg ≠ 0 ∧ (seg < 4096 ∨ 2 ^ 24 < seg ∨ 2 ^ Nat.log2 seg ≠ seg) then 0x7
  else if t.gcmMax < 16 ∨ gcmLimit < t.gcmMax then 0x7
  else if t.vfCount = 0 ∧ t.vfFirst ≠ 0 then 0x7
  else if t.vfCount ≠ 0 ∧ (t.vfFirst = 0 ∨ 1024 < t.vfFirst + t.vfCount) then 0x7
  else if ts.any fun x => rangesMeet x.vfFirst x.vfCount t.vfFirst t.vfCount then 0x7
  else if 2 ^ 22 < t.flowFirst + t.flowCount ∨ ts.any (fun x => rangesMeet x.flowFirst x.flowCount t.flowFirst t.flowCount) then 0x7
  else if 65536 < quotaSum (·.keyrecQuota) earlier b ∨ 1048576 < quotaSum (·.sessionQuota) earlier b ∨
      65536 < quotaSum (·.channelQuota) earlier b then 0x7
  else if t.payment ∧ !c.payOwners.contains t.tenant then 0x7
  else 0

/-- A role that the table of R31 gives a kind of unit. -/
def roleOk (kind : Nat) (role : Nat) : Bool :=
  if kind = 0 then [0x00, 0x01, 0x02, 0x10, 0x11, 0x12, 0x13].contains role
  else if kind = 1 then role == 0 else role == 0 || role == 2

def unitBad (s : State) (c : PlanCtx) (earlier : List (List Byte)) (b : List Byte) : Nat :=
  let kind := (byteAt b 0).toNat
  let index := (byteAt b 1).toNat
  let role := (byteAt b 3).toNat
  if 3 ≤ kind ∨ [20, 16, 4].getD kind 0 ≤ index ∨ !zeroRange b 4 8 ∨ !roleOk kind role then 0x7
  else if earlier.any fun e => (parseUnit e).unitNo == unitNumber kind index then 0x7
  else if kind = 0 ∧ !s.furrowPresent index then 0xA
  else if role = 1 ∧ index < 16 then 0x7
  else if role = 1 ∧ s.sys.variant = .ky4800N then 0xA
  else if 0x10 ≤ role ∧ !s.portPresent (role - 0x10) then 0xA
  else if 0x10 ≤ role then (if byteAt b 2 = 0 then 0 else 0x7)
  else if c.tenantOk (byteAt b 2) then 0 else 0x7

/-- L of a SLOT_L code (R33). -/
def planSlotL (code : Nat) : Nat := 4 * 2 ^ code

def pkeBad (s : State) (c : PlanCtx) (all earlier : List (List Byte)) (b : List Byte) : Nat :=
  let e := (byteAt b 1).toNat
  let engines := all.filter fun x => byteAt x 0 == 0
  if 2 ≤ (byteAt b 0).toNat ∨ 8 ≤ e then 0x7
  else if !s.enginePresent e then 0xA
  else if byteAt b 0 = 0 then
    let p := parseEngine b
    let pair := engines.find? fun x => (byteAt x 1).toNat == Nat.xor e 1
    if 4 ≤ (byteAt b 2).toNat ∨ 7 ≤ p.slotL ∨ 2 ≤ (byteAt b 5).toNat ∨ !zeroRange b 6 16 then 0x7
    else if earlier.any fun x => byteAt x 0 == 0 && byteAt x 1 == byteAt b 1 then 0x7
    else if p.pinned ∧ !c.tenantOk p.owner ∨ !p.pinned ∧ p.owner ≠ 0 then 0x7
    else if p.slotL = 6 ∧ !p.fused then 0x7
    else match pair with
      | some x =>
        let q := parseEngine x
        if p.fused ≠ q.fused ∨ (p.fused ∧ (p.pinned ≠ q.pinned ∨ p.owner ≠ q.owner ∨ p.slotL ≠ q.slotL ∨ p.longOk ≠ q.longOk))
        then 0x7 else 0
      | none => 0
  else
    let w := parseWindow b
    match engines.find? fun x => byteAt x 1 == byteAt b 1 with
    | none => 0x7
    | some x =>
      let p := parseEngine x
      let slots := (if p.fused then 16384 else 8192) / planSlotL p.slotL
      if byteAt b 3 ≠ 0 ∨ !zeroRange b 8 16 ∨ (p.fused ∧ e % 2 = 1) ∨ w.slotCount = 0 ∨ slots < w.firstSlot + w.slotCount then 0x7
      else if earlier.any (fun y => byteAt y 0 == 1 && byteAt y 1 == byteAt b 1 &&
          rangesMeet (leAt y 4 2) (leAt y 6 2) w.firstSlot w.slotCount) then 0x7
      else if !(c.tenants.any fun t => t.tenant == w.tenant && t.programs) ∨ (p.pinned ∧ p.owner ≠ w.tenant) then 0x7
      else 0

/-- Least SIZE_LOG2 of a purpose (R36). -/
def hbmLeast (purpose : Nat) : Nat := [21, 28, 26, 24, 24, 27].getD purpose 21

def hbmBad (c : PlanCtx) (earlier : List (List Byte)) (b : List Byte) : Nat :=
  let h := parseHbm b
  if h.sizeLog2 < 21 ∨ 35 < h.sizeLog2 ∨ 6 ≤ h.purpose ∨ !zeroRange b 11 16 then 0x7
  else if h.base % 2 ^ h.sizeLog2 ≠ 0 ∨ 0xC_0000_0000 < h.base + 2 ^ h.sizeLog2 then 0x7
  else if (h.purpose = 0 ∧ !c.tenantOk h.owner) ∨ (h.purpose ≠ 0 ∧ h.owner ≠ 0) then 0x7
  else if h.sizeLog2 < hbmLeast h.purpose then 0x7
  else if earlier.any fun x => (h.purpose != 0 && (parseHbm x).purpose == h.purpose) ||
      rangesMeet (parseHbm x).base (2 ^ (parseHbm x).sizeLog2) h.base (2 ^ h.sizeLog2) then 0x7
  else 0

/-- What two enabled headgates may not share (R38). -/
def Headgate.clashes (a b : Headgate) : Bool :=
  a.enabled && b.enabled && a.port == b.port && a.subPort == b.subPort && a.ipv6 == b.ipv6 && a.dstAddr == b.dstAddr &&
    a.dport == b.dport

def gateBad (s : State) (c : PlanCtx) (earlier : List (List Byte)) (b : List Byte) : Nat :=
  let g := parseHeadgate b
  let es := earlier.map parseHeadgate
  if bits (byteAt b 2).toNat 5 3 ≠ 0 ∨ 4 ≤ (byteAt b 3).toNat ∨ byteAt b 27 ≠ 0 ∨ !zeroRange b 30 32 then 0x7
  else if (!g.ipv6 ∧ !zeroRange b 8 20) ∨ 8 ≤ g.cls ∨ es.any (·.index == g.index) then 0x7
  else if !s.portPresent g.port then 0xA
  else if !c.tenantOk g.tenant ∨ !(match g.weir with | some w => c.weirs.any (·.index == w) | none => true) then 0x7
  else if (c.keptGates ++ es).any g.clashes then 0x7
  else 0

def weirBad (c : PlanCtx) (earlier : List (List Byte)) (b : List Byte) : Nat :=
  let w := parseWeir b
  let es := earlier.map parseWeir
  if 4096 ≤ w.index ∨ 2 ≤ (byteAt b 2).toNat ∨ byteAt b 15 ≠ 0 ∨ es.any (·.index == w.index) then 0x7
  else if w.rateMbps = 0 ∨ 3200000 < w.rateMbps ∨ w.burst < 2048 ∨ 2 ^ 24 < w.burst then 0x7
  else if (!w.perChan ∧ w.chan ≠ 0) ∨ !c.tenantOk w.tenant then 0x7
  else if !w.perChan ∧ (c.keptWeirs ++ es).any (fun x => !x.perChan && x.tenant == w.tenant) then 0x7
  else 0

def classBad (earlier : List (List Byte)) (b : List Byte) : Nat :=
  let x := parseClass b
  let es := earlier.map parseClass
  if 8 ≤ x.cls ∨ es.any (·.cls == x.cls) ∨ x.listCount = 0 ∨ 64 < x.listFirst + x.listCount then 0x7
  else if x.weight = 0 ∨ 64 < x.coreCap ∨ !zeroRange b 6 8 then 0x7
  else if es.any fun y => rangesMeet y.listFirst y.listCount x.listFirst x.listCount then 0x7
  else 0

/-- A master that a plan entry may name (R41). -/
def planMaster (m : Nat) : Bool := decide (m < 0x40) || (decide (0x48 ≤ m) && decide (m < 0x58))

def regionBad (earlier : List (List Byte)) (b : List Byte) : Nat :=
  let e := parseRegion b
  let size := e.value.sizeLog2
  if 2 ≤ (byteAt b 0).toNat ∨ 32 ≤ e.region ∨ 16 ≤ (byteAt b 3).toNat ∨ 2 ≤ (byteAt b 14).toNat ∨ byteAt b 15 ≠ 0 then 0x7
  else if size < 12 ∨ 47 < size ∨ e.value.base % 2 ^ size ≠ 0 then 0x7
  else if e.coreSet ∧ e.region < 16 then 0x7
  else if !e.coreSet ∧ (!planMaster e.who ∨ (e.who < 0x40 ∧ 16 ≤ e.region) ∨ (0x48 ≤ e.who ∧ e.who < 0x50 ∧ 24 ≤ e.region))
  then 0x7
  else if earlier.any fun x => byteAt x 0 == byteAt b 0 && byteAt x 1 == byteAt b 1 && byteAt x 2 == byteAt b 2 then 0x7
  else 0

/-- A value between two bounds. -/
def within (v lo hi : Nat) : Bool := decide (lo ≤ v) && decide (v ≤ hi)

/-- Vendor bounds of a parameter of one instance (R412). -/
def vendorOk (cls inst param v : Nat) : Bool :=
  let nom := railNominal.getD (inst / 2) 0
  match cls, param with
  | 0x0, 0 => within (100 * v) (88 * nom) (94 * nom)
  | 0x0, 1 => within (100 * v) (105 * nom) (112 * nom)
  | 0x0, 2 => within v 1 1000
  | 0x0, 3 => within v 1 4
  | 0x0, 4 => within v 2 3
  | 0x1, 0 => within v 5000 50000
  | 0x1, 1 => within v 5000 50000
  | 0x1, 2 => within v 1 1000
  | 0x1, 3 => within v 1 4
  | 0x1, 4 => within v 2 3
  | 0x2, 0 => decide (-55 ≤ signed v) && decide (signed v ≤ -40)
  | 0x2, 1 => within v 106 125
  | 0x2, 2 => within v 1 1000000
  | 0x2, 3 => within v 1 4
  | 0x2, 4 => within v 2 3
  | 0x3, 1 => within v 1 8
  | 0x3, 4 => v == 3
  | 0x4, 4 => v == 3
  | 0x5, 4 => within v 2 3
  | 0x6, 4 => if inst < 48 then within v 1 3 else v == 0 || within v 2 3
  | 0x7, 2 => decide (inst < 32) && within v 10000 1000000
  | 0x7, 3 => decide (inst < 32) && within v 4 16
  | 0x7, 4 => if inst < 32 then v == 0 || within v 2 3 else within v 1 3
  | 0x8, 4 => within v 2 3
  | 0x9, 0 => decide (inst < 2) && within v 4300 4500
  | 0x9, 1 => decide (inst < 2) && within v 5600 6000
  | 0x9, 2 => decide (inst < 2) && within v 1 1000
  | 0x9, 3 => decide (inst < 2) && within v 1 4
  | 0x9, 4 => if inst < 2 then v == 0 || within v 2 3 else v == 0
  | _, _ => false

def sentinelBad (s : State) (b : List Byte) : Nat :=
  let e := parseSentinel b
  if 10 ≤ e.cls ∨ 5 ≤ e.param ∨ byteAt b 3 ≠ 0 then 0x7
  else if e.cls = 0x6 ∧ ((e.inst < 20 ∧ !s.furrowPresent e.inst) ∨ (40 ≤ e.inst ∧ e.inst < 48 ∧ !s.enginePresent (e.inst - 40)))
  then 0xA
  else if e.inst = 0xFF then
    (if (List.range (instances e.cls)).all fun i => vendorOk e.cls i e.param e.value then 0 else 0x8)
  else if e.inst < instances e.cls ∧ vendorOk e.cls e.inst e.param e.value then 0 else 0x8

/-! ### Tables (R47, R48) -/

/-- SRC and TENANT of an entry. -/
def entrySrc (e : BitVec 16) : Nat := bits e.toNat 0 6
def entryTenant (e : BitVec 16) : Byte := BitVec.ofNat 8 (bits e.toNat 6 8)
def entryIdle (e : BitVec 16) : Bool := e == 0x003F

/-- The unit whose output is a source, and the unit whose input is a sink (R45). -/
def srcUnit (src : Nat) : Option Nat := if 4 ≤ src ∧ src < 28 then some (src - 4) else none
def sinkUnit (sink : Nat) : Option Nat := if sink < 24 then some sink else none

/-- A table's slots, each the list of its 32 sinks' entries; the empty list is a table of idle entries. -/
def tableRows (t : List (BitVec 16)) : List (List (BitVec 16)) :=
  (List.range (t.length / 32)).map fun i => (t.drop (32 * i)).take 32

/-- An end of an entry is absent on the variant (R546). -/
def State.endAbsent (s : State) (src sink : Nat) : Bool :=
  (match srcUnit src with
   | some u => !s.unitPresent u
   | none => decide (src < 4) && !s.portPresent src) ||
  (match sinkUnit sink with
   | some u => !s.unitPresent u
   | none => decide (24 ≤ sink) && decide (sink < 28) && !s.portPresent (sink - 24))

/-- The content check of a table: bits [15:14] zero, no absent unit or port. -/
def tableBad (s : State) (t : List (BitVec 16)) : Nat :=
  if t.any fun e => bits e.toNat 14 2 != 0 then 0x7
  else if (tableRows t).any fun row => row.zipIdx.any fun p => !entryIdle p.1 && s.endAbsent (entrySrc p.1) p.2 then 0xA
  else 0

/-- One end that is a unit agrees with the entry (R48): the unit's owner, or, for a MACsec furrow, tenant 0 and the
ingress or egress of its port. -/
def unitEndOk (units : List SluUnit) (t : Byte) (otherPort : Option Nat) (u : Nat) : Bool :=
  match units[u]? with
  | none => false
  | some x =>
    x.assigned && (if u < 20 ∧ 0x10 ≤ x.role.toNat then t == 0 && otherPort == some (x.role.toNat - 0x10) else x.owner == t)

/-- A tenant owns a lane of a hash bundle. -/
def ownsLane (units : List SluUnit) (bundle : Nat) (t : Byte) : Bool :=
  ((units.drop (24 + 8 * bundle)).take 8).any fun x => x.assigned && x.owner == t

/-- One non-idle entry is valid (R48). -/
def entryOk (units : List SluUnit) (tenants : List Byte) (sink : Nat) (e : BitVec 16) : Bool :=
  let src := entrySrc e
  let t := entryTenant e
  let su := srcUnit src
  let ku := sinkUnit sink
  decide (src < 32) && (su.isNone || su != ku) &&
  (match su with
   | some u => unitEndOk units t (if 24 ≤ sink ∧ sink < 28 then some (sink - 24) else none) u
   | none => true) &&
  (match ku with
   | some u => unitEndOk units t (if src < 4 then some src else none) u
   | none => true) &&
  (if sink = 28 ∨ sink = 29 then ownsLane units (sink - 28) t
   else su.isSome || ku.isSome || tenants.contains t)

/-- A furrow sink that is not a tagging furrow is busy at most once in any 4 consecutive slots, cyclically. -/
def sparse (busy : List Bool) : Bool :=
  let near := (busy.zip (busy.rotate 1)).zip ((busy.rotate 2).zip (busy.rotate 3))
  near.all fun p => !(p.1.1 && (p.1.2 || p.2.1 || p.2.2))

/-- A table is valid (R48). -/
def tableOk (units : List SluUnit) (tenants : List Byte) (t : List (BitVec 16)) : Bool :=
  let rows := tableRows t
  (rows.all fun row =>
    (row.zipIdx.all fun p => entryIdle p.1 || entryOk units tenants p.2 p.1) &&
    decide ((row.filter fun e => !entryIdle e).map entrySrc).Nodup) &&
  ((List.range 20).all fun k =>
    ((units[k]?).any (·.role == 2)) || sparse (rows.map fun row => !entryIdle (row.getD k 0x003F)))

/-- Sluice units under the UNITS entries of a full plan: every other unit is unassigned. -/
def planUnits (us : List UnitEntry) : List SluUnit :=
  (List.range 40).map fun u => match us.find? (·.unitNo == u) with
    | some e => { owner := e.owner, role := e.role, assigned := true, state := .owned }
    | none => { owner := 0, role := 0, assigned := false, state := .unassigned }

/-! ### All sections -/

/-- The first entry that fails, with its RESULT. -/
def firstBad (bad : List (List Byte) → List Byte → Nat) : List (List Byte) → List (List Byte) → Option (Nat × Nat)
  | _, [] => none
  | earlier, b :: r =>
    if bad earlier b = 0 then firstBad bad (earlier ++ [b]) r else some (bad earlier b, earlier.length)

/-- A secNos checks: its entries in index order, then what concerns the section as a whole. -/
def State.sectionBad (s : State) (c : PlanCtx) (img : List Byte) (ty : Nat) : Option (Nat × Nat) :=
  let es := rawEntries img ty
  let whole := fun (ok : Bool) => if ok then none else some (0x7, noEntry)
  if ty = tyTenants then (firstBad (tenantBad s c) [] es).or (whole (es != []))
  else if ty = tyUnits then firstBad (unitBad s c) [] es
  else if ty = tyPke then
    (firstBad (pkeBad s c es) [] es).or
      (whole ((List.range 8).all fun e => !s.enginePresent e || es.any fun b => byteAt b 0 == 0 && (byteAt b 1).toNat == e))
  else if ty = tyHbm then
    (firstBad (hbmBad c) [] es).or (whole ([1, 2, 3, 4, 5].all fun p => es.any fun b => (parseHbm b).purpose == p))
  else if ty = tyHeadgates then firstBad (gateBad s c) [] es
  else if ty = tyWeirs then firstBad (weirBad c) [] es
  else if ty = tyClasses then firstBad classBad [] es
  else if ty = tyRegions then firstBad regionBad [] es
  else if ty = tySentinel then firstBad (fun _ => sentinelBad s) [] es
  else
    let r := tableBad s ((tableOf img ty).getD [])
    if r = 0 then none else some (r, 0)

/-- Sections in directory order: the first failure. -/
def State.contentCheck (s : State) (c : PlanCtx) (img : List Byte) : Option PlanFail :=
  (directory img).zipIdx.findSome? fun p =>
    (s.sectionBad c img p.1.ty).map fun r => { code := r.1, secNo := p.2, entry := r.2 }

/-- Header, directory and key of an image: the checks before its serial is compared. -/
def State.formatCheck (s : State) (img : List Byte) (amendment : Bool) (len : Nat) : Option PlanFail :=
  if !s.headerOk img amendment len then some (planFail 0x3)
  else match dirCheck img amendment with
    | some f => some f
    | none => if s.planKeyOk img then none else some (planFail 0x4)

/-- What a full plan's sections refer to: the image itself. -/
def fullCtx (m : Image) : PlanCtx :=
  { tenants := m.tenants,
    payOwners := ((m.units.getD []).filter fun u => decide (u.unitNo < 20) && u.role == 1).map (·.owner),
    weirs := m.weirs, keptGates := [], keptWeirs := [] }

/-- Content and table of a full plan. -/
def State.fullCheck (s : State) (img : List Byte) : Option PlanFail :=
  let m := parseImage img
  match s.contentCheck (fullCtx m) img with
  | some f => some f
  | none =>
    if tableOk (planUnits (m.units.getD [])) (m.tenants.map (·.tenant)) m.sluice then none
    else some { code := 0x9, secNo := m.index tySluice, entry := 0 }

/-- All checks of Plan Load on an image that was read (R43). -/
def State.loadCheck (s : State) (img : List Byte) (len : Nat) : Option PlanFail :=
  match s.formatCheck img false len with
  | some f => some f
  | none =>
    match s.vault.planRecord with
    | none => some (planFail 0x5)
    | some r =>
      if leAt img 16 8 ≠ r.serial.toNat ∨ sha384 img ≠ r.digest then some (planFail 0x5) else s.fullCheck img

/-- The checks of PLAN_STAGE (R22). -/
def State.stageCheck (s : State) (img : List Byte) : Option PlanFail :=
  match s.formatCheck img false img.length with
  | some f => some f
  | none =>
    let newer : Bool := match s.vault.planRecord with
      | none => true
      | some r => decide (r.serial.toNat < leAt img 16 8)
    if newer then s.fullCheck img else some (planFail 0x5)

/-! ### Amendments (R54) -/

/-- Headgates and weirs after an amendment: its entries replace by index. -/
def mergeGates (old new : List Headgate) : List Headgate := (old.filter fun g => !new.any (·.index == g.index)) ++ new
def mergeWeirs (old new : List Weir) : List Weir := (old.filter fun w => !new.any (·.index == w.index)) ++ new

/-- What an amendment's sections refer to: the plan as amended so far. -/
def State.amendCtx (s : State) (m : Image) : PlanCtx :=
  let p := s.plan.running
  { tenants := p.tenants, payOwners := [], weirs := mergeWeirs p.weirs m.weirs,
    keptGates := p.headgates.filter fun g => !m.headgates.any (·.index == g.index),
    keptWeirs := p.weirs.filter fun w => !m.weirs.any (·.index == w.index) }

/-- The units that an amendment changes (R56). -/
def State.changedUnits (s : State) (m : Image) : List UnitChange :=
  (m.units.getD []).filterMap fun e => match s.sluice.units[e.unitNo]? with
    | some x =>
      if x.assigned && x.owner == e.owner && x.role == e.role then none
      else some { unitNo := e.unitNo, oldOwner := x.owner, oldRole := x.role, newOwner := e.owner, newRole := e.role }
    | none => none

/-- Sluice units with the changes made. -/
def unitsAfter (units : List SluUnit) (cs : List UnitChange) : List SluUnit :=
  cs.foldl (fun us c => us.modify c.unitNo fun x => { x with owner := c.newOwner, role := c.newRole, assigned := true }) units

/-- A table routes nothing to or from the units of a set. An entry to a hash bundle goes to a lane of its tenant that is
outside the set, if there is one (R46, R51, R56). -/
def tableClear (units : List SluUnit) (busy : Nat → Bool) (t : List (BitVec 16)) : Bool :=
  (tableRows t).all fun row => row.zipIdx.all fun p =>
    entryIdle p.1 ||
      (!((srcUnit (entrySrc p.1)).any busy) && !((sinkUnit p.2).any busy) &&
       (p.2 != 28 && p.2 != 29 ||
        (List.range 8).any fun i =>
          let u := 24 + 8 * (p.2 - 28) + i
          !busy u && (units[u]?).any fun x => x.assigned && x.owner == entryTenant p.1))

/-- All checks of an amendment's image. -/
def State.amendCheck (s : State) (img : List Byte) : Option PlanFail :=
  match s.formatCheck img true img.length with
  | some f => some f
  | none =>
    let m := parseImage img
    if m.serial ≠ s.plan.serial ∨ m.amendSeq.toNat ≤ s.plan.amendSeq.toNat then some (planFail 0x5)
    else match s.contentCheck (s.amendCtx m) img with
      | some f => some f
      | none =>
        let cs := s.changedUnits m
        let ts := s.plan.running.tenants.map (·.tenant)
        let drain := m.sluiceDrain.getD []
        if m.sluiceDrain.isSome && !(tableOk s.sluice.units ts drain && tableClear s.sluice.units (fun u => cs.any (·.unitNo == u)) drain) then
          some { code := 0x9, secNo := m.index tyDrain, entry := 0 }
        else if tableOk (unitsAfter s.sluice.units cs) ts m.sluice then none
        else some { code := 0x9, secNo := m.index tySluice, entry := 0 }

end Sys2Proof.Machine
end

