-- ==== Sys2Proof/Machine/Quorum.lean ====
section
/-! DEFINITION. Shared operations of ceremony sessions (R475 to R478), and the passage from Plan Load or Service to
Mirror Sync (R6, R500). -/

namespace Sys2Proof.Machine

/-! ## Sessions -/

/-- A session needs no quorum: a first roster (R479, R481). -/
def State.quorumFree (s : State) (c : Ceremony) : Bool := c.kind == 0x01 && c.aux == 0x01 && s.ctl.roster == []

/-- QUORUM of a session (R476, R481). -/
def State.hasQuorum (s : State) (c : Ceremony) : Bool :=
  s.quorumFree c || (decide (1 ≤ s.ctl.rosterM) && decide (s.ctl.rosterM ≤ c.counted.length))

/-- The open session with a number, a kind and a subject (R478). -/
def State.sessionFor (s : State) (n : Word) (kind : Nat) (subject : List Byte) : Option Ceremony :=
  match s.ctl.session with
  | some c => if c.isOpen && c.session == n && c.kind == kind && c.subject == subject then some c else none
  | none => none

/-- Items that wait for a quorum look again. -/
def State.wakeQuorum (s : State) : State :=
  ((s.itemList.filter fun it => it.phase == .yielded .quorum).map (·.id)).foldl State.endWait s

/-- The session closes (R477); the Ceremony condition ends. -/
def State.closeSession (s : State) : State :=
  let s' := { s with ctl := { s.ctl with session := s.ctl.session.map fun c => { c with isOpen := false } } }
  (s.noteMode s').wakeQuorum

/-- What a consuming item finds (R478). -/
inductive Consume where
  | ready
  | waits
  | missing
  deriving DecidableEq, Repr

def State.consumeAsk (s : State) (n : Word) (kind : Nat) (subject : List Byte) : Consume :=
  match s.sessionFor n kind subject with
  | none => .missing
  | some c => if s.hasQuorum c then .ready else .waits

/-- A consuming item's store: refused for lack of reserve before the session is taken, so that nothing changes (R480);
otherwise the session is consumed. -/
def State.storeSession (s : State) (item : Nat) (a : StoreAction) (o : Outcome) : State :=
  if !(s.ring.member && a.mirrored) && s.storesOpen && !s.reserveCovers (storeBudget a) then s.storeFor item a o
  else s.closeSession.storeFor item a o

/-! ## Mirror Sync -/

/-- Enter Mirror Sync from Plan Load or from Service, Ceremony or Degraded, and ask for the ring's state (R6, R500).
Every item consumed before completes with ST_NOT_SERVING. -/
def State.enterMirrorSync (s : State) : State :=
  let s := s.enterPhase .mirrorSync
  ((s.modeStatusAll stNotServing fun it => it.phase != .dropped && it.source != .internal).dropSteps stNotServing).requestSync

/-- The end of Plan Load (R6, R500): a member whose PHY has locked compares its epoch once the culvert has been open for
300 µs. -/
def State.leavePlanLoad (s : State) : State :=
  if s.sys.phase ≠ .planLoad ∨ s.plan.result = 0xF then s
  else if s.ring.member && s.ring.locked && !s.ring.compared then s
  else if s.behind then s.enterMirrorSync
  else s.enterPhase .service

end Sys2Proof.Machine
end

