-- ==== Sys2Proof/Machine/Cipher.lean ====
section
/-! DEFINITION. The symmetric opcodes of chapter 5 (0x0101 to 0x0112): their checks before the claim, the units
eligible for them, and their results. -/

namespace Sys2Proof.Machine

/-! ## Checks before the claim (R176, steps 1 to 6) -/

def isGcm (op : Nat) : Bool := op == 0x0101 || op == 0x0102
def isCtr (op : Nat) : Bool := op == 0x0103 || op == 0x0104
def isCbc (op : Nat) : Bool := op == 0x0105 || op == 0x0106
def isCmac (op : Nat) : Bool := op == 0x0107 || op == 0x0108
def isXts (op : Nat) : Bool := op == 0x0109 || op == 0x010A
def isHmac (op : Nat) : Bool := op == 0x0111 || op == 0x0112
def isLaneOp (op : Nat) : Bool := op == 0x0110 || isHmac op

/-- Fields of a symmetric descriptor (R173). -/
def Item.symSrc (it : Item) : Nat := it.le 16 8
def Item.symDst (it : Item) : Nat := it.le 24 8
def Item.symLen (it : Item) : Nat := it.le 32 5
def Item.symTag (it : Item) : Nat := it.byte 37
def Item.symOpt (it : Item) : Nat := it.byte 38
def Item.symAux (it : Item) : Nat := it.le 40 4
def Item.symKey2 (it : Item) : Word := BitVec.ofNat 32 (it.le 44 4)
def Item.symIv (it : Item) : List Byte := slice it.desc 48 16

/-- Bytes of AAD in the input, and of expected tag behind the payload (R173). -/
def Item.symAad (it : Item) : Nat := if isGcm it.opcode then it.symAux else 0
def Item.symExpect (it : Item) : Nat :=
  if it.opcode = 0x0102 ∨ it.opcode = 0x0108 ∨ it.opcode = 0x0112 then it.symTag else 0

/-- TAG_LEN is permitted for the opcode (R174). -/
def tagLenOk (op opt n : Nat) : Bool :=
  if isGcm op then n == 8 || (decide (12 ≤ n) && decide (n ≤ 16))
  else if isCmac op then decide (4 ≤ n) && decide (n ≤ 16)
  else if isHmac op then decide (4 ≤ n) && decide (n ≤ digestLen opt)
  else n == 0

/-- OPT is permitted for the opcode (R174). -/
def optOk (op opt : Nat) : Bool :=
  if isCtr op then decide (opt ≤ 2)
  else if op = 0x0110 then decide (digestLen opt ≠ 0)
  else if isHmac op then decide (1 ≤ opt) && decide (opt ≤ 3)
  else opt == 0

/-- Step 1 of R176. -/
def Item.symFieldsOk (it : Item) : Bool :=
  let op := it.opcode
  it.byte 39 == 0 && tagLenOk op it.symOpt it.symTag && optOk op it.symOpt &&
  (isGcm op || isXts op || it.symAux == 0) &&
  (if isXts op then it.symKey2 != it.key else it.symKey2 == 0) &&
  (if it.opcode = 0x0102 then zeroRange it.desc 60 64
   else isCtr op || isCbc op || isXts op || zeroRange it.desc 48 64)

/-- Bytes that the opcode writes to DST when it succeeds (R174). -/
def Item.symOutLen (it : Item) : Nat :=
  let op := it.opcode
  if op = 0x0101 then it.symLen + it.symTag
  else if op = 0x0107 ∨ op = 0x0111 then it.symTag
  else if op = 0x0110 then digestLen it.symOpt
  else if op = 0x0108 ∨ op = 0x0112 then 0
  else it.symLen

/-- Step 3 of R176: the ranges do not overlap, except exactly in place. -/
def Item.symRangesOk (it : Item) : Bool :=
  let a := it.symSrc
  let an := it.symAad + it.symLen + it.symExpect
  let b := it.symDst
  let bn := it.symOutLen
  b == a + it.symAad || an == 0 || bn == 0 || decide (a + an ≤ b) || decide (b + bn ≤ a)

/-- Counter width of CTR by OPT (R174). -/
def ctrWidth (opt : Nat) : Nat := if opt = 0 then 32 else if opt = 1 then 64 else 128

/-- Step 4 of R176: maxima of R178, R179 and R180; `gcmMax` is the tenant's. -/
def Item.symLengthOk (it : Item) (gcmMax : Nat) : Bool :=
  let op := it.opcode
  let n := it.symLen
  if isGcm op then decide (n ≤ min (2 ^ 36 - 32) gcmMax)
  else if isCtr op then
    let w := ctrWidth it.symOpt
    decide (n = 0 ∨ ofBe it.symIv % 2 ^ w + (n + 15) / 16 - 1 ≤ 2 ^ w - 1)
  else if isCbc op then decide (n ≤ 2 ^ 40 - 16)
  else if isXts op then
    decide (it.symAux ≤ 2 ^ 28) &&
      decide (it.symAux = 0 ∨ ofLe it.symIv + n / it.symAux - 1 ≤ 2 ^ 128 - 1)
  else true

/-- Step 5 of R176: minimum lengths and block rules of R178. -/
def Item.symBlockRule (it : Item) : Option Status :=
  let op := it.opcode
  let n := it.symLen
  if isCbc op then
    if n = 0 then some stBadField else if n % 16 ≠ 0 then some stPartialBlock else none
  else if isXts op then
    if it.symAux < 16 then some stPartialBlock
    else if n = 0 ∨ n % it.symAux ≠ 0 then some stBadField else none
  else none

/-- The entry of the active bank for a slot and sink (R45, R47). -/
def State.bankEntry (s : State) (slot sink : Nat) : Nat :=
  ((if s.sluice.activeB then s.sluice.bankB else s.sluice.bankA).getD (32 * slot + sink) 0x003F).toNat

/-- The active table routes a source to a sink for a tenant in some slot (R46, R177). -/
def State.routes (s : State) (tenant : Byte) (src sink : Nat) : Bool :=
  !s.sluice.halted && (List.range 1024).any fun slot =>
    let e := s.bankEntry slot sink
    bits e 0 6 == src && bits e 6 8 == tenant.toNat

/-- A unit is owned by a tenant with a role and in state owned (R177). -/
def State.unitServes (s : State) (u : Nat) (tenant role : Byte) : Bool :=
  match s.sluice.units[u]? with
  | some x => x.owner == tenant && x.role == role && x.state == .owned
  | none => false

/-- Furrows eligible for a symmetric item (R177), lowest first. -/
def State.symFurrows (s : State) (t : Byte) : List Nat :=
  (List.range 20).filter fun u => s.unitServes u t 0 && s.routes t 31 u && s.routes t (u + 4) 31

/-- Hash lanes eligible for an item (R177), as unit numbers: the lane's bundle is the sink. -/
def State.symLanes (s : State) (t : Byte) : List Nat :=
  ((List.range 16).filter fun n => s.unitServes (24 + n) t 0 && s.routes t 31 (28 + n / 8)).map (24 + ·)

/-- Steps 1 to 6 of R176 for a symmetric item. -/
def State.symPreCheck (s : State) (it : Item) : Option Status :=
  let gcmMax := ((s.tenantEntry it.tenantByte).map (·.gcmMax)).getD (2 ^ 36 - 32)
  if !it.symFieldsOk then some stBadField
  else if it.symSrc % 8 ≠ 0 ∨ it.symDst % 8 ≠ 0 then some stBadAlignment
  else if !it.symRangesOk then some stBadField
  else if !it.symLengthOk gcmMax then some stLengthLimit
  else
    match it.symBlockRule with
    | some st => some st
    | none =>
      let units := if isLaneOp it.opcode then s.symLanes it.tenantByte else s.symFurrows it.tenantByte
      if units = [] then some stNoResource else none

/-- USAGE that the opcode needs (R174). -/
def symUsage (op : Nat) : List Nat :=
  if op = 0x0101 ∨ op = 0x0103 ∨ op = 0x0105 ∨ op = 0x0109 then [useEnc]
  else if op = 0x0102 ∨ op = 0x0104 ∨ op = 0x0106 ∨ op = 0x010A then [useDec]
  else if op = 0x0107 ∨ op = 0x0111 then [useMacGen]
  else if op = 0x0108 ∨ op = 0x0112 then [useMacVer]
  else []

/-- Step 7 of R176: R133 for each key, and the XTS rule. -/
def State.symKeyCheck (s : State) (it : Item) : Option Status :=
  let op := it.opcode
  if op = 0x0110 then none
  else
    let eng := if isLaneOp op then [engHash] else [engFur]
    let algOk := fun (h : Word) => match s.keyView h with
      | some k => if isLaneOp op then attrAlg k.attr == 0x10 else algIsAes (attrAlg k.attr)
      | none => false
    let one := fun (h : Word) (n : Nat) => match s.useCheck h (symUsage op) eng n with
      | some st => some st
      | none => if algOk h then none else some stKeyEngine
    match one it.key (if op = 0x0101 then 1 else 0) with
    | some st => some st
    | none =>
      if isXts op then
        match s.itemHandle it it.symKey2 with
        | some st => some st
        | none =>
          match one it.symKey2 0 with
          | some st => some st
          | none =>
            match s.keyView it.key, s.keyView it.symKey2 with
            | some a, some b =>
              if attrAlg a.attr = attrAlg b.attr ∧ a.material ≠ b.material then none else some stKeyUsage
            | _, _ => some stKeyNotFound
      else none

/-! ## Results -/

/-- Units of work that furrow contexts and lanes counted for an item: blocks released, or bytes hashed (R189). -/
def State.countFurrow (s : State) (u blocks : Nat) : State :=
  { s with cfb := { s.cfb with furrows := s.cfb.furrows.modify u fun f =>
      ({ f with blocks := f.blocks + BitVec.ofNat 64 blocks
                genA := { f.genA with blocks := f.genA.blocks + blocks }
                genB := { f.genB with blocks := f.genB.blocks + blocks } }) } }

def State.countLane (s : State) (n bytes : Nat) : State :=
  { s with cfb := { s.cfb with lanes := s.cfb.lanes.modify n fun l => ({ l with bytes := l.bytes + BitVec.ofNat 64 bytes }) } }

/-- Charge an item's work to the unit of its claim. -/
def State.countWork (s : State) (it : Item) (blocks bytes : Nat) : State :=
  match it.claim.shares with
  | (u, _) :: _ => if u < 20 then s.countFurrow u blocks else if 24 ≤ u then s.countLane (u - 24) bytes else s
  | [] => s

/-- A furrow's unit of an item is stopped for want of mask seeds (R162): the item waits. -/
def State.maskWaits (s : State) (it : Item) : Bool :=
  it.claim.shares.any fun p => match s.cfb.furrows[p.1]? with
    | some f => decide (p.1 < 20) && (f.genA.stopped || f.genB.stopped || !f.genA.seeded || !f.genB.seeded)
    | none => false

/-- Run a symmetric opcode on a running item that holds its claim, once its input has arrived: AAD, payload and
expected tag (R173). -/
def State.onSym (s : State) (item op : Nat) (f : Item → List Byte → List Byte → List Byte → List Byte → State) : State :=
  s.onRunning item fun it =>
    if it.opcode ≠ op ∨ !it.claimed ∨ s.maskWaits it ∨ s.cfb.erased then s
    else
      match it.hostBytes it.symSrc (it.symAad + it.symLen + it.symExpect) with
      | none => s
      | some b =>
        f it (it.material it.key) (slice b 0 it.symAad) (slice b it.symAad it.symLen)
          (slice b (it.symAad + it.symLen) it.symExpect)

/-- Write the output and complete with its length in RESULT and 12 bytes of nonce (R175). -/
def State.symDone (s : State) (it : Item) (out nonce : List Byte) : State :=
  let s := s.countWork it ((it.symAad + it.symLen + 15) / 16) it.symLen
  let s := s.writeOut it.id it.symDst out
  s.complete it.id stOk (okBody out.length nonce)

/-- A verdict without output (R182): ST_OK or ST_TAG_MISMATCH. -/
def State.symVerdict (s : State) (it : Item) (same : Bool) : State :=
  let s := s.countWork it ((it.symLen + 15) / 16) it.symLen
  if same then s.complete it.id stOk (okBody 0 []) else s.failItem it.id stTagMismatch

/-! ## The opcodes (R174) -/

/-- Opcode 0x0101: encrypt under the key's counter nonce and append the tag (R181). -/
def execGcmEnc (item : Nat) (s : State) : Result :=
  .next (s.onSym item 0x0101 fun it key aad pt _ =>
    match s.takeNonce it.key 1 false with
    | .waits s => s
    | .refused st s => s.failItem item st
    | .taken c s =>
      let nonce := leBytes 4 (((it.held it.key).map (·.noncePrefix.toNat)).getD 0) ++ leBytes 8 c.toNat
      let ct := gcmCrypt key nonce pt
      s.symDone it (ct ++ (gcmTag key nonce aad ct).take it.symTag) nonce)

/-- Opcode 0x0102: verify the tag, then decrypt under the nonce of the descriptor (R181, R183). Up to 1 MiB nothing is
written on a mismatch; above it the plaintext already written is overwritten with zeros. -/
def execGcmDec (item : Nat) (s : State) : Result :=
  .next (s.onSym item 0x0102 fun it key aad ct tag =>
    let nonce := it.symIv.take 12
    let pt := gcmCrypt key nonce ct
    if (gcmTag key nonce aad ct).take it.symTag = tag then s.symDone it pt []
    else
      let s := if 2 ^ 20 < it.symLen then (s.writeOut item it.symDst pt).zeroOutputs item else s
      s.symVerdict it false)

/-- Opcode 0x0103 (R179). -/
def execCtrEnc (item : Nat) (s : State) : Result :=
  .next (s.onSym item 0x0103 fun it key _ pt _ => s.symDone it (ctrMode (ctrWidth it.symOpt) key it.symIv pt) [])

/-- Opcode 0x0104 (R179). -/
def execCtrDec (item : Nat) (s : State) : Result :=
  .next (s.onSym item 0x0104 fun it key _ ct _ => s.symDone it (ctrMode (ctrWidth it.symOpt) key it.symIv ct) [])

/-- Opcode 0x0105. -/
def execCbcEnc (item : Nat) (s : State) : Result :=
  .next (s.onSym item 0x0105 fun it key _ pt _ => s.symDone it (cbcEnc (aesBlock true key) 16 it.symIv pt) [])

/-- Opcode 0x0106. -/
def execCbcDec (item : Nat) (s : State) : Result :=
  .next (s.onSym item 0x0106 fun it key _ ct _ => s.symDone it (cbcDec (aesBlock false key) 16 it.symIv ct) [])

/-- Opcode 0x0107. -/
def execCmacGen (item : Nat) (s : State) : Result :=
  .next (s.onSym item 0x0107 fun it key _ msg _ => s.symDone it ((aesCmac key msg).take it.symTag) [])

/-- Opcode 0x0108 (R182). -/
def execCmacVer (item : Nat) (s : State) : Result :=
  .next (s.onSym item 0x0108 fun it key _ msg tag => s.symVerdict it (decide ((aesCmac key msg).take it.symTag = tag)))

/-- The data units of an XTS invocation, numbered from IV on (R180). -/
def xtsUnits (enc : Bool) (k1 k2 iv : List Byte) (du : Nat) (data : List Byte) : List Byte :=
  (((chunks du data).zipIdx).map fun (b, i) => xtsUnit enc k1 k2 (leBytes 16 (ofLe iv + i)) b).flatten

/-- Opcode 0x0109 (R180). -/
def execXtsEnc (item : Nat) (s : State) : Result :=
  .next (s.onSym item 0x0109 fun it key _ pt _ =>
    s.symDone it (xtsUnits true key (it.material it.symKey2) it.symIv it.symAux pt) [])

/-- Opcode 0x010A (R180). -/
def execXtsDec (item : Nat) (s : State) : Result :=
  .next (s.onSym item 0x010A fun it key _ ct _ =>
    s.symDone it (xtsUnits false key (it.material it.symKey2) it.symIv it.symAux ct) [])

/-- Opcode 0x0110. -/
def execHash (item : Nat) (s : State) : Result :=
  .next (s.onSym item 0x0110 fun it _ _ msg _ => s.symDone it (digest it.symOpt msg) [])

/-- Opcode 0x0111. -/
def execHmacGen (item : Nat) (s : State) : Result :=
  .next (s.onSym item 0x0111 fun it key _ msg _ => s.symDone it ((hmac it.symOpt key msg).take it.symTag) [])

/-- Opcode 0x0112 (R182). -/
def execHmacVer (item : Nat) (s : State) : Result :=
  .next (s.onSym item 0x0112 fun it key _ msg tag => s.symVerdict it (decide ((hmac it.symOpt key msg).take it.symTag = tag)))

end Sys2Proof.Machine
end

