-- ==== Sys2Proof/Machine/Gf.lean ====
section
/-! DEFINITION. The Reed–Solomon code of R220 with its decode schedules (R228), CRC-32C, and the Merkle tree of R212. -/

namespace Sys2Proof.Machine

/-! ## GF(2^8) with polynomial 0x11D (R220) -/

/-- One doubling in the field. -/
def gfDouble (a : Nat) : Nat := if 128 ≤ a then Nat.xor (2 * a) 0x11D else 2 * a

/-- Product by shift and add over `n` bits of the second operand. -/
def gfTimes : Nat → Nat → Nat → Nat
  | 0, _, _ => 0
  | n + 1, a, b => Nat.xor (if b % 2 = 1 then a else 0) (gfTimes n (gfDouble a) (b / 2))

/-- Product in GF(2^8). -/
def gf (a b : Nat) : Nat := gfTimes 8 a b

/-- a to the power 2^(n+1) − 2, by repeated squaring. -/
def gfInvLoop : Nat → Nat → Nat → Nat
  | 0, _, acc => acc
  | n + 1, sq, acc => gfInvLoop n (gf sq sq) (gf acc (gf sq sq))

/-- Inverse of a nonzero element: its 254th power. -/
def gfInv (a : Nat) : Nat := gfInvLoop 7 a 1

/-- Row `r` of the generator of a k + m code: unit rows, then the Cauchy rows. -/
def rsRow (k r : Nat) : List Nat :=
  (List.range k).map fun j => if r < k then (if r = j then 1 else 0) else gfInv (Nat.xor r j)

/-- A byte string scaled by a field element. -/
def gfScale (c : Nat) (bs : List Byte) : List Byte := bs.map fun b => BitVec.ofNat 8 (gf c b.toNat)

/-- The combination of units of `n` bytes under a row of coefficients. -/
def gfCombine (n : Nat) (row : List Nat) (units : List (List Byte)) : List Byte :=
  (row.zip units).foldl (fun acc (p : Nat × List Byte) => xorBytes acc (padTo n (gfScale p.1 p.2))) (zeros n)

/-- Parity units of a stripe (R220). -/
def rsParity (k m n : Nat) (units : List (List Byte)) : List (List Byte) :=
  (List.range m).map fun i => gfCombine n (rsRow k (k + i)) units

/-- Row `a` minus `c` times row `b`. -/
def rowSub (a b : List Nat) (c : Nat) : List Nat := List.zipWith (fun x y => Nat.xor x (gf c y)) a b

/-- Gauss–Jordan elimination of column `c`, with the rows as coefficient lists followed by their right-hand sides. -/
def gjStep (rows : List (List Nat)) (c : Nat) : List (List Nat) :=
  match ((rows.drop c).zipIdx c).find? fun p => p.1.getD c 0 ≠ 0 with
  | none => rows
  | some (pivotRow, i) =>
    let rows := (rows.set i (rows.getD c [])).set c pivotRow
    let inv := gfInv (pivotRow.getD c 0)
    let norm := pivotRow.map (gf inv)
    rows.zipIdx.map fun p => if p.2 = c then norm else rowSub p.1 norm (p.1.getD c 0)

/-- Inverse of a k × k matrix. -/
def gfInvMatrix (k : Nat) (rows : List (List Nat)) : List (List Nat) :=
  let aug := rows.zipIdx.map fun p => p.1 ++ (List.range k).map fun j => if j = p.2 then 1 else 0
  ((List.range k).foldl gjStep aug).map (List.drop k)

/-- The decode matrix of a schedule (R228): for each target, its coefficients over the survivors in index order. -/
def rsDecode (k : Nat) (surv targets : List Nat) : List (List Nat) :=
  let inv := gfInvMatrix k (surv.map (rsRow k))
  targets.map fun t =>
    (List.range k).map fun c => ((rsRow k t).zip inv).foldl (fun acc (p : Nat × List Nat) => Nat.xor acc (gf p.1 (p.2.getD c 0))) 0

/-! ## CRC-32C -/

/-- Eight shifts of the reflected CRC register. -/
def crcShift : Nat → Nat → Nat
  | 0, v => v
  | n + 1, v => crcShift n (if v % 2 = 1 then Nat.xor (v / 2) 0x82F63B78 else v / 2)

/-- CRC-32C of bytes. -/
def crc32c (bs : List Byte) : Nat :=
  Nat.xor (bs.foldl (fun v b => crcShift 8 (Nat.xor v b.toNat)) 0xFFFFFFFF) 0xFFFFFFFF

/-- Mask of 48 fragments as 6 bytes. -/
def fragMask (fs : List Nat) : Nat := (fs.dedup.map (2 ^ ·)).sum

/-- A decode schedule record (R228). -/
def schedRecord (k m : Nat) (tenant : Byte) (surv targets : List Nat) : List Byte :=
  let rows := rsDecode k surv targets
  let sums := (List.range k).map fun c => rows.foldl (fun acc r => Nat.xor acc (r.getD c 0)) 0
  let body := padTo 1020 (leBytes 1 k ++ leBytes 1 m ++ leBytes 1 targets.length ++ [tenant] ++
    leBytes 6 (fragMask surv) ++ leBytes 6 (fragMask targets) ++ zeros 48 ++
    ((rows ++ [sums]).flatten.map (BitVec.ofNat 8)))
  body ++ leBytes 4 (crc32c body)

/-! ## Merkle tree hash of RFC 9162 (R212) -/

/-- The largest power of two below `n`, for n ≥ 2. -/
def splitPoint (n : Nat) : Nat := 2 ^ (Nat.log2 (n - 1))

/-- Tree hash over leaf hashes, with fuel for the depth. -/
def merkleFuel : Nat → List (List Byte) → List Byte
  | 0, _ => []
  | _ + 1, [] => sha256 []
  | _ + 1, [h] => h
  | f + 1, hs =>
    let k := splitPoint hs.length
    sha256 ([0x01] ++ merkleFuel f (hs.take k) ++ merkleFuel f (hs.drop k))

/-- Root of a tree over its leaf hashes. -/
def merkleRoot (leaves : List (List Byte)) : List Byte := merkleFuel (leaves.length + 1) leaves

/-- Hash of one leaf: the complete manifest. -/
def leafHash (manifest : List Byte) : List Byte := sha256 ([0x00] ++ manifest)

/-- GMAC: the GCM tag over additional data and no text (R198, R222). -/
def gmac (key nonce data : List Byte) : List Byte := gcmTag key nonce data []

end Sys2Proof.Machine
end

