-- ==== Sys2Proof/Machine/Object.lean ====
section
/-! DEFINITION. Chapter 6: object geometry, manifests, OBJ_SEAL, OBJ_OPEN and the seal epochs. -/

namespace Sys2Proof.Machine

/-! ## Geometry (R193 to R195) -/

/-- The numbers that fix an object's geometry. -/
structure Geometry where
  objLen : Nat
  segLen : Nat
  k : Nat
  m : Nat
  u : Nat
  deriving DecidableEq, Repr

namespace Geo
/-- Segments of an object. -/
def segCount (g : Geometry) : Nat := max 1 ((g.objLen + g.segLen - 1) / g.segLen)
/-- Length of the sealed stream. -/
def streamLen (g : Geometry) : Nat := g.objLen + 16 * segCount g
/-- Full stripes. -/
def full (g : Geometry) : Nat := streamLen g / (g.k * g.u)
/-- Bytes of the stream beyond the full stripes. -/
def rest (g : Geometry) : Nat := streamLen g - full g * g.k * g.u
/-- Unit of the tail stripe. -/
def tailU (g : Geometry) : Nat := if rest g = 0 then 0 else ((rest g + g.k - 1) / g.k + 63) / 64 * 64
def stripes (g : Geometry) : Nat := full g + (if rest g = 0 then 0 else 1)
def fragLen (g : Geometry) : Nat := full g * g.u + tailU g
/-- Unit length of stripe `st`. -/
def unitLen (g : Geometry) (st : Nat) : Nat := if st < full g then g.u else tailU g
/-- Length of segment `i`. -/
def segSize (g : Geometry) (i : Nat) : Nat := if i + 1 < segCount g then g.segLen else g.objLen - (segCount g - 1) * g.segLen
/-- Offset of segment `i` in the sealed stream. -/
def segOff (g : Geometry) (i : Nat) : Nat := i * (g.segLen + 16)
/-- The limits of step 4 of R200. -/
def inLimits (g : Geometry) : Bool :=
  decide (1 ≤ g.k) && decide (1 ≤ g.m) && decide (g.m ≤ 12) && decide (g.k + g.m ≤ 48) &&
    decide (4096 ≤ g.u) && decide (g.u ≤ 1048576) && decide (2 ^ Nat.log2 g.u = g.u)
end Geo

/-- Length of a manifest for n fragments (R197). -/
def manLen (n : Nat) : Nat := 144 + 32 * n

/-- Geometry that a manifest states. -/
def manGeometry (man : List Byte) : Geometry :=
  { objLen := leAt man 32 8, segLen := leAt man 40 4, k := (byteAt man 6).toNat, m := (byteAt man 7).toNat,
    u := leAt man 48 4 }

/-- Object ID and seal counter of a manifest. -/
def manObject (man : List Byte) : List Byte := slice man 8 16
def manCtr (man : List Byte) : List Byte := slice man 24 8

/-- Channel and FRAG_TAG of a manifest's fragment entry. -/
def manChan (man : List Byte) (j : Nat) : Nat := leAt man (128 + 32 * j + 4) 3
def manTag (man : List Byte) (j : Nat) : List Byte := slice man (128 + 32 * j + 16) 16

/-- A fragment header (R221). -/
def fragHeader (g : Geometry) (j : Nat) (tenant : Byte) (objectId ctr : List Byte) : List Byte :=
  leBytes 4 0x5246594B ++ leBytes 2 1 ++ leBytes 1 j ++ leBytes 1 g.k ++ leBytes 1 g.m ++ [tenant] ++ zeros 2 ++
  leBytes 4 g.u ++ objectId ++ ctr ++ leBytes 8 (Geo.fragLen g) ++ leBytes 4 (Geo.tailU g) ++ leBytes 4 (Geo.stripes g) ++
  zeros 8

/-- The manifest's bytes up to its MAC (R197). -/
def manBody (g : Geometry) (params : List Byte) (ctr : List Byte) (tenant : Byte) (network : Bool) (objRoot frgRoot : Word)
    (leaf : Nat) (epoch : List Byte) (serial : DWord) (tags : List (List Byte)) : List Byte :=
  let entries := tags.zipIdx.map fun p =>
    leBytes 1 p.2 ++ zeros 3 ++ slice params (64 + 16 * p.2) 3 ++ [0] ++ slice params (64 + 16 * p.2 + 8) 8 ++ p.1
  leBytes 4 0x4E4D594B ++ leBytes 2 1 ++ leBytes 1 g.k ++ leBytes 1 g.m ++ slice params 0 16 ++ ctr ++ leBytes 8 g.objLen ++
  leBytes 4 g.segLen ++ leBytes 4 (Geo.segCount g) ++ leBytes 4 g.u ++ leBytes 4 (Geo.tailU g) ++ leBytes 4 (Geo.stripes g) ++
  zeros 4 ++ leBytes 8 (Geo.fragLen g) ++ [tenant] ++ leBytes 1 (b2n network) ++ zeros 2 ++ leBytes 4 objRoot.toNat ++
  leBytes 4 frgRoot.toNat ++ leBytes 4 leaf ++ epoch ++ slice params 40 8 ++ leBytes 8 serial.toNat ++ zeros 16 ++
  entries.flatten

/-- Nonces of R192. -/
def segNonce (i : Nat) : List Byte := leBytes 12 i
def manNonce : List Byte := List.replicate 12 0xFF

/-! ## Where an item's parameters are -/

/-- A network item carries the body of the packet that created it in `scratch`. -/
def Item.isNet (it : Item) : Bool :=
  match it.source with
  | .headgate _ => true
  | _ => false

def Item.gate (it : Item) : Option Nat :=
  match it.source with
  | .headgate c => some c
  | _ => none

/-- The seal parameter block with as many placement entries as its K and M ask for (R196). -/
def Item.sealBlock (it : Item) : Option (List Byte) :=
  if it.isNet then some it.scratch
  else
    match it.hostBytes (it.le 24 8) 64 with
    | none => none
    | some b =>
      let n := (byteAt b 32).toNat + (byteAt b 33).toNat
      if 48 < n then some b else it.hostBytes (it.le 24 8) (64 + 16 * n)

/-- The tenant's SEG_MAX and GCM_MAX. -/
def State.segMax (s : State) (t : Byte) : Nat := ((s.tenantEntry t).map (·.segMax)).getD 0
def State.gcmMax (s : State) (t : Byte) : Nat := ((s.tenantEntry t).map (·.gcmMax)).getD 0

/-- Geometry of a parameter block for a tenant (R196). -/
def State.sealGeometry (s : State) (t : Byte) (b : List Byte) : Geometry :=
  { objLen := leAt b 16 8, segLen := if leAt b 24 4 = 0 then min 65536 (s.segMax t) else leAt b 24 4,
    k := (byteAt b 32).toNat, m := (byteAt b 33).toNat, u := leAt b 28 4 }

/-- The manifest of an open. -/
def Item.openManifest (it : Item) : Option (List Byte) :=
  if it.isNet then some (it.scratch.drop 16) else it.hostBytes (it.le 16 8) (it.le 24 4)

/-- Channels of a placement (R196). -/
def placeChans (b : List Byte) (n : Nat) : List Nat := (List.range n).map fun j => leAt b (64 + 16 * j) 3

/-! ## Roots (R131, R148) -/

/-- The tenant's root of an ALG with SEALS_CLOSED clear. -/
def State.openRoot (s : State) (t : Byte) (alg : Nat) : Option Word :=
  (s.vault.records.find? fun p => attrTenant p.2.attr == t && attrAlg p.2.attr == alg && !p.2.retired && !p.2.sealsClosed).map
    fun p => mkHandle 1 p.1 p.2.gen

/-- A pinned key carries STALE (R134). -/
def State.staleKey (s : State) (h : Word) : Bool := s.vault.cache.any fun e => e.handle == h && e.stale

/-! ## Leaf store and epochs (R209 to R217) -/

/-- Base of the tenant's leaf store: its lowest-addressed HBM region of purpose 0x00, if that is large enough (R211). -/
def State.leafBase (s : State) (t : Byte) : Option Nat :=
  let rs := s.plan.running.hbm.filter fun h => h.purpose == 0 && h.owner == t
  match rs.foldl (fun (b : Option HbmEntry) h => match b with
      | none => some h
      | some x => if h.base < x.base then some h else some x) none with
  | some h => if 28 ≤ h.sizeLog2 then some h.base else none
  | none => none

def State.tenantObj (s : State) (t : Byte) : Option TenantObj := tabGet s.obj.tenants t.toNat

def State.setTenantObj (s : State) (t : Byte) (x : TenantObj) : State :=
  { s with obj := { s.obj with tenants := tabSet s.obj.tenants t.toNat x } }

/-- EPOCH of the open epoch, as 8 bytes (R210). -/
def TenantObj.epoch (x : TenantObj) : List Byte := leBytes 4 x.number.toNat ++ x.drawn

/-- The epoch admits a seal (R211). -/
def State.epochAdmits (s : State) (t : Byte) : Bool :=
  match s.tenantObj t with
  | none => false
  | some x =>
    let running := (s.obj.seals.filter fun r => ((s.item r.item).map (·.tenantByte)) == some t).length
    decide (x.waiting.length < 7) || decide (x.leaves.length + running < 2 ^ 20)

/-- Leaf slots in use by waiting epochs; the lowest other one is free (R211). -/
def TenantObj.freeSlot (x : TenantObj) : Option Nat :=
  (List.range 8).find? fun i => i != x.slot && !(x.waiting.any (·.slot == i))

/-- The internal epoch item (R213): class 7 of the tenant's ready list, without a flow. -/
def State.epochItem (s : State) (t : Byte) : Item :=
  { id := s.dsp.nextItem, source := .internal, desc := zeros 64, tenant := some t, opcode := 0, cls := 7,
    ready := s.readyListOf 7 (some t), inFlow := none, seq := s.dsp.consumed, fence := false, notify := false,
    traceOn := false, phase := .parked, general := false, failed := false, checked := true, claimed := false,
    claimFails := 0, lacked := [], claim := Claim.none, stage := 0, scratch := [], bufs := [], readFailed := false,
    written := [], outcome := { status := stOk, origin1 := false, body := [] } }

/-- Close the open epoch of a tenant: the tree is fixed, an epoch item is created and the next epoch opens (R209 to
R213). -/
def State.closeEpoch (s : State) (t : Byte) : State :=
  match s.tenantObj t with
  | none => s
  | some x =>
    match x.freeSlot with
    | none => s.setTenantObj t { x with overdue := true }
    | some slot =>
      let it := s.epochItem t
      let root := merkleRoot x.leaves
      let ep : ClosedEpoch :=
        { epoch := BitVec.ofNat 64 (ofLe x.epoch), slot := x.slot, count := x.leaves.length, firstTick := x.firstTick,
          lastTick := s.sys.tick, root := root, prevRoot := x.prevRoot, item := it.id, record := none }
      let s := s.setTenantObj t { x with
        number := x.number + 1, firstTick := s.sys.tick, slot := slot, leaves := [], waiting := x.waiting ++ [ep],
        overdue := false, prevRoot := root }
      let s := { s with dsp := { s.dsp with nextItem := s.dsp.nextItem + 1 } }
      s.enqueue it 0x00

/-- Modes in which an epoch closes (R217). -/
def State.epochCloses (s : State) : Bool :=
  match s.sys.phase with
  | .service => true
  | _ => false

/-- The tick of an epoch boundary (R209, R211, R217): an epoch without leaves makes no record and takes no number, and
opens at the boundary. -/
def execEpochBoundary (tenant : Byte) (s : State) : Result :=
  match s.tenantObj tenant with
  | none => .next s
  | some x =>
    if !s.epochCloses then .next s
    else if x.leaves = [] then .next (s.setTenantObj tenant { x with firstTick := s.sys.tick })
    else .next (s.closeEpoch tenant)

/-- Append a leaf (R211, R212): its position, and the early close at the 2^20th leaf. -/
def State.appendLeaf (s : State) (t : Byte) (manifest : List Byte) : State :=
  match s.tenantObj t with
  | none => s
  | some x =>
    let h := leafHash manifest
    let n := x.leaves.length
    let s := match s.leafBase t with
      | some base => s.memStore (base + 2 ^ 25 * x.slot + 32 * n) h
      | none => s
    let s := s.setTenantObj t { x with leaves := x.leaves ++ [h] }
    if n + 1 = 2 ^ 20 ∧ x.waiting.length < 7 then s.closeEpoch t else s

/-- ALG, scheme and digest code of an epoch signature (R213). -/
def epochScheme (alg : Nat) : Option (Nat × Nat) :=
  if alg = 0x20 then some (0x01, 0x01) else if alg = 0x21 then some (0x01, 0x02) else if alg = 0x28 then some (0x02, 0) else none

/-- Bytes 0 to 127 of an epoch record (R213). -/
def State.epochHead (s : State) (t : Byte) (x : ClosedEpoch) (alg : Nat) (signer : Word) (st : Status) : List Byte :=
  leBytes 4 0x5045594B ++ leBytes 2 1 ++ [t] ++ leBytes 1 alg ++ leBytes 8 s.sys.serial.toNat ++ leBytes 8 x.epoch.toNat ++
  leBytes 8 x.firstTick ++ leBytes 8 x.lastTick ++ leBytes 4 x.count ++ leBytes 4 signer.toNat ++ padTo 32 x.root ++
  padTo 32 x.prevRoot ++ padTo 8 s.mtag ++ leBytes 2 st.toNat ++ zeros 6

/-- Put the record of a closed epoch in place. -/
def State.storeEpoch (s : State) (t : Byte) (item : Nat) (record : List Byte) : State :=
  { s with obj := { s.obj with tenants := tabModify s.obj.tenants t.toNat fun x =>
    { x with waiting := x.waiting.map fun e => if e.item = item then { e with record := some record } else e } } }

/-- The epoch item signs and writes its record; a key that fails R133 leaves the record unsigned (R213, R214, R217). -/
def execEpochClose (item : Nat) (s : State) : Result :=
  .next (s.onRunning item fun it =>
    let t := it.tenantByte
    match (s.tenantObj t).bind fun x => (x.waiting.find? (·.item == item)).map fun e => (x, e) with
    | none => s
    | some (x, e) =>
      let check := match x.signKey with
        | none => some stOk
        | some h => match s.checkHandle t h with
          | some st => some st
          | none => s.useCheck h [useSign] [engPke] 0
      match check, x.signKey with
      | none, some h =>
        let k := s.keyView h
        let alg := (k.map fun v => attrAlg v.attr).getD 0
        match epochScheme alg with
        | none => (s.storeEpoch t item (padTo 256 (s.epochHead t e 0 h stKeyUsage))).complete item stOk []
        | some (scheme, hash) =>
          let head := s.epochHead t e alg h stOk
          let msg := if hash = 0 then head else digest hash head
          let r := s.signWith scheme hash alg ((k.map (·.material)).getD []) msg
          (r.2.storeEpoch t item (padTo 256 (head ++ r.1))).complete item stOk []
      | st, _ =>
        let signer := x.signKey.getD noHandle
        (s.storeEpoch t item (padTo 256 (s.epochHead t e 0 signer (st.getD stOk)))).complete item stOk [])

/-- Opcode 0x0203 (R214). -/
def execObjEpochKey (item : Nat) (s : State) : Result :=
  .next (s.onRunning item fun it =>
    if it.opcode ≠ 0x0203 then s
    else if !zeroRange it.desc 16 64 then s.failItem item stBadField
    else
      match s.tenantObj it.tenantByte with
      | none => s.failItem item stAccessDenied
      | some x =>
        if it.key = noHandle then (s.setTenantObj it.tenantByte { x with signKey := none }).complete item stOk (okBody 0 [])
        else
          match s.useCheck it.key [useSign] [engPke] 0 with
          | some st => s.failItem item st
          | none =>
            if (epochScheme ((s.keyView it.key).map (fun v => attrAlg v.attr) |>.getD 0)).isNone then
              s.failItem item stKeyUsage
            else (s.setTenantObj it.tenantByte { x with signKey := some it.key }).complete item stOk (okBody 0 []))

/-- Opcode 0x0204 (R215): the oldest waiting epoch, if its record is written. -/
def execObjEpochFetch (item : Nat) (s : State) : Result :=
  .next (s.onRunning item fun it =>
    let t := it.tenantByte
    if it.opcode ≠ 0x0204 then s
    else if !zeroRange it.desc 28 64 then s.failItem item stBadField
    else if it.le 16 8 % 64 ≠ 0 then s.failItem item stBadAlignment
    else
      match s.tenantObj t with
      | none => s.complete item stOk (okBody 0 [])
      | some x =>
        match x.waiting with
        | [] => s.complete item stOk (okBody 0 [])
        | e :: rest =>
          match e.record with
          | none => s.complete item stOk (okBody 0 [])
          | some rec =>
            let need := 256 + 32 * e.count
            if it.le 24 4 < need then s.complete item stLengthLimit (okBody need [])
            else
              let base := ((s.leafBase t).getD 0) + 2 ^ 25 * e.slot
              let s := s.writeOut item (it.le 16 8) (rec ++ memRead s.mem.cells base (32 * e.count))
              let s := s.setTenantObj t { x with waiting := rest }
              s.complete item stOk (okBody need (leBytes 8 e.epoch.toNat)))

/-! ## Units of a seal (R201) -/

/-- Accumulator memory that an item's share of a spread unit takes: (m + 1) × U bytes (R224). -/
def State.accBytes (s : State) (it : Item) : Nat :=
  if it.opcode = 0x0201 then
    match it.sealBlock with
    | some b => let g := s.sealGeometry it.tenantByte b
                (g.m + 1) * g.u
    | none => 0
  else
    match (if it.opcode = 0x0202 then it.openManifest else it.hostBytes (it.le 16 8) (it.le 24 4)) with
    | some man => let g := manGeometry man
                  (g.m + 1) * g.u
    | none => 0

/-- Free accumulator memory of a spread unit (R224, R239). -/
def State.accFree (s : State) (su : Nat) : Nat :=
  13631488 - ((s.itemList.filter fun it => it.claim.shares.any (·.1 == 20 + su)).map s.accBytes).sum

/-- Sets (E, T, SU) that a seal of a tenant may use, in the order of R201. -/
def State.sealSets (s : State) (t : Byte) (src : Nat) (ports : List Nat) : List (Nat × Nat × Nat) :=
  let es := (List.range 20).filter fun e => s.unitServes e t 0 && s.routes t src e
  let sus := (List.range 4).filter fun u => s.unitServes (20 + u) t 0
  let fits := fun (e tg u : Nat) => s.routes t (e + 4) (20 + u) && s.routes t (24 + u) tg &&
    ports.all fun p => s.routes t (tg + 4) (24 + p)
  es.flatMap fun e =>
    let ok := fun tg => sus.any (fits e tg)
    let tagging := (List.range 20).filter fun x => s.unitServes x t 2 && ok x
    let general := (List.range 20).filter fun x => x != e && s.unitServes x t 0 && ok x
    let ts := if tagging ≠ [] then tagging else if general ≠ [] then general else if ok e then [e] else []
    ts.flatMap fun tg => (sus.filter (fits e tg)).map fun u => (e, tg, u)

/-- Ports that channels use. -/
def State.chanPorts (s : State) (cs : List Nat) : List Nat := (cs.filterMap fun c => (s.chan c).map (·.port)).dedup

/-- Source of a seal's input (R201): host DMA read, or the ingress of the SUBMIT port. -/
def State.inputSource (s : State) (it : Item) : Nat :=
  match it.gate with
  | some c => ((s.chan c).map (·.port)).getD 0
  | none => 31

/-- A hash lane of the tenant. -/
def State.lanesOf (s : State) (t : Byte) : List Nat := ((List.range 16).map (24 + ·)).filter fun u => s.unitServes u t 0

/-- The shares of the first of some eligible sets of units that has every share free. -/
def State.firstShares (s : State) (sets : List (List (Nat × Nat × Nat))) : Option (List (Nat × Nat)) :=
  sets.findSome? fun set => set.foldl (fun (acc : Option (List (Nat × Nat))) u =>
    match acc with
    | none => none
    | some got =>
      match s.freeShares u.1 u.2.1 u.2.2 with
      | some more => some (got ++ more)
      | none => none) (some [])

/-- The shares that a seal claims. -/
def State.sealShares (s : State) (it : Item) : Option (List (Nat × Nat)) :=
  match it.sealBlock with
  | none => none
  | some b =>
    let g := s.sealGeometry it.tenantByte b
    let sets := s.sealSets it.tenantByte (s.inputSource it) (s.chanPorts (placeChans b (g.k + g.m)))
    let sets := sets.filter fun x => decide ((g.m + 1) * g.u ≤ s.accFree x.2.2)
    s.firstShares (sets.flatMap fun x => (s.lanesOf it.tenantByte).map fun l =>
      (if x.1 = x.2.1 then [(x.1, 8, 2)] else [(x.1, 8, 1), (x.2.1, 8, 1)]) ++ [(20 + x.2.2, 16, 1), (l, 4, 1)])

/-! ## Checks of a seal before its claim (R200) -/

/-- Steps 1 to 9 of R200. -/
def State.sealCheck (s : State) (it : Item) : PreCheck :=
  let t := it.tenantByte
  if !it.isNet && !zeroRange it.desc 44 64 then .fail stBadField
  else if !it.isNet && (it.le 16 8 % 8 != 0 || it.le 24 8 % 64 != 0 || it.le 32 8 % 64 != 0) then .fail stBadAlignment
  else if it.readFailed then .fail stAccessDenied
  else
    match it.sealBlock with
    | none => .need
    | some b =>
      let g := s.sealGeometry t b
      let n := g.k + g.m
      let sl := leAt b 24 4
      match firstFail [
        (decide (64 ≤ b.length) && zeroRange b 34 40 && zeroRange b 48 64 &&
          (sl == 0 || (decide (4096 ≤ sl) && decide (sl ≤ 16777216) && decide (2 ^ Nat.log2 sl = sl))) &&
          (decide (48 < n) || ((List.range n).all fun j => zeroRange b (64 + 16 * j + 3) (64 + 16 * j + 8))) &&
          (!it.isNet || decide (48 < n) || decide (b.length = 64 + 16 * n)), stBadField),
        (Geo.inLimits g, stGeometry),
        (decide (g.objLen ≤ 2 ^ 40) && decide (Geo.segCount g ≤ 2 ^ 24) && decide (g.segLen ≤ s.segMax t) &&
          decide (g.segLen ≤ s.gcmMax t), stLengthLimit),
        (it.isNet || decide (manLen n ≤ it.le 40 4), stLengthLimit),
        ((placeChans b n).all (s.chanOf t), stAccessDenied),
        (decide (s.sealSets t (s.inputSource it) (s.chanPorts (placeChans b n)) ≠ []) && decide (s.lanesOf t ≠ []) &&
          (s.leafBase t).isSome && s.epochAdmits t, stNoResource),
        ((s.openRoot t 0x60).isSome && (s.openRoot t 0x61).isSome, stKeyNotFound)] with
      | some st => .fail st
      | none => .pass

/-! ## Fragment records on channels (R221, R255, R256) -/

/-- A fragment record. -/
def fragRecord (objectId ctr : List Byte) (off j : Nat) (data : List Byte) (tag : Option (List Byte)) : List Byte :=
  objectId ++ ctr ++ leBytes 5 (off / 64 + (if tag.isSome then 2 ^ 39 else 0)) ++ leBytes 2 (data.length / 64) ++
  leBytes 1 j ++ data ++ tag.getD []

/-- The exchange of an item for a fragment's FRAG_PUT stream on a channel, opened if it is not. -/
def State.putExchange (s : State) (c item j : Nat) : Nat × State :=
  match ((s.chan c).bind fun x => x.exchanges.find? fun e => e.mine && e.item == item && e.kind == .put j) with
  | some e => (e.xid, s)
  | none => s.openExchange c (.put j) item none

/-- Hand over the records of a fragment's byte string that are complete (R256): whole chunks, and with the tag the
rest. The answer is what has been handed over. -/
def State.putRecords (item c j : Nat) (objectId ctr str : List Byte) (total : Nat) (tag : Option (List Byte)) :
    Nat → Nat → State → State × Nat
  | 0, sent, s => (s, sent)
  | f + 1, sent, s =>
    let chunk := ((s.chan c).map Channel.chunk).getD 1024
    let r := s.putExchange c item j
    let first := if sent = 0 then flFirst else 0
    if sent + chunk < total then
      if sent + chunk ≤ str.length then
        let s := r.2.chanSend c ltFragPut first r.1 (fragRecord objectId ctr sent j (slice str sent chunk) none) none
        State.putRecords item c j objectId ctr str total tag f (sent + chunk) s
      else (s, sent)
    else
      match tag with
      | none => (s, sent)
      | some g =>
        if total ≤ sent then (s, sent)
        else (r.2.chanSend c ltFragPut (first + flLast) r.1 (fragRecord objectId ctr sent j (str.drop sent) (some g)) none,
              total)

/-! ## A seal (R203) -/

def State.setSeal (s : State) (r : SealRun) : State :=
  { s with obj := { s.obj with seals := s.obj.seals.filter (·.item != r.item) ++ [r] } }

/-- Encrypt every whole segment that has arrived (R192, R193). -/
def sealSegments (g : Geometry) : Nat → SealRun → SealRun
  | 0, r => r
  | f + 1, r =>
    let n := Geo.segSize g r.segsDone
    if r.segsDone < Geo.segCount g ∧ n ≤ r.data.length then
      let aad := slice r.params 0 16 ++ leBytes 8 r.ctr.toNat ++ leBytes 8 g.objLen
      let ct := gcmCrypt r.objKey (segNonce r.segsDone) (r.data.take n)
      sealSegments g f { r with
        stream := r.stream ++ ct ++ gcmTag r.objKey (segNonce r.segsDone) aad ct
        data := r.data.drop n
        segsDone := r.segsDone + 1 }
    else r

/-- Stripe what is complete of the sealed stream; the tail stripe once every segment is done (R195, R220). -/
def sealStripes (g : Geometry) : Nat → SealRun → SealRun
  | 0, r => r
  | f + 1, r =>
    let u := Geo.unitLen g r.stripesDone
    if r.stripesDone < Geo.stripes g ∧ (g.k * u ≤ r.stream.length ∨ r.segsDone = Geo.segCount g) then
      let units := (List.range g.k).map fun j => padTo u (slice r.stream (j * u) u)
      let all := units ++ rsParity g.k g.m u units
      sealStripes g f { r with
        stream := r.stream.drop (g.k * u)
        stripesDone := r.stripesDone + 1
        strings := List.zipWith (· ++ ·) r.strings all }
    else r

/-- Hand the records that are complete to the placement channels; with `close`, the tagged ones too. -/
def State.sealSend (s : State) (g : Geometry) (r : SealRun) (close : Bool) : State × SealRun :=
  (List.range (g.k + g.m)).foldl (fun (acc : State × SealRun) j =>
    let str := acc.2.strings.getD j []
    let total := 64 + Geo.fragLen g
    let tag := if close then some (gmac r.frgKey (segNonce j) str) else none
    let p := State.putRecords r.item (leAt r.params (64 + 16 * j) 3) j (slice r.params 0 16) (leBytes 8 r.ctr.toNat) str
      total tag (total / 1024 + 2) (acc.2.sent.getD j 0) acc.1
    (p.1, { acc.2 with sent := acc.2.sent.set j p.2 })) (s, r)

/-- Take the seal-counter value and derive the two keys (R191, R203). -/
def State.sealStart (s : State) (it : Item) (b : List Byte) (objRoot frgRoot : Word) : State :=
  match s.takeNonce objRoot 1 true with
  | .waits s => s
  | .refused st s => s.failItem it.id st
  | .taken c s =>
    let g := s.sealGeometry it.tenantByte b
    let ctx := slice b 0 16 ++ leBytes 8 c.toNat
    let objectId := slice b 0 16
    let run : SealRun :=
      { item := it.id
        gate := it.gate.map fun ch => (ch, ((s.gateExchange ch it.id).map (·.xid)).getD 0)
        params := b
        ctr := c
        objRoot := objRoot
        frgRoot := frgRoot
        objKey := kdf (it.material objRoot) (ascii "OBJ") ctx 256
        frgKey := kdf (it.material frgRoot) (ascii "FRG") ctx 256
        data := []
        segsDone := 0
        stream := []
        stripesDone := 0
        strings := (List.range (g.k + g.m)).map fun j => fragHeader g j it.tenantByte objectId (leBytes 8 c.toNat)
        sent := List.replicate (g.k + g.m) 0
        unacked := List.range (g.k + g.m)
        manifest := [] }
    let s := { s with vault := { s.vault with kdfCount := s.vault.kdfCount + 2 } }
    (s.setItem { it with stage := 1 }).setSeal run

/-- Object data that has arrived for a seal and is not yet in its run. -/
def State.sealInput (s : State) (it : Item) (r : SealRun) (g : Geometry) : Option (List Byte × State) :=
  if it.isNet then
    match s.obj.submits.find? (·.item == it.id) with
    | none => some ([], s)
    | some st =>
      some (st.data, { s with obj := { s.obj with
        submits := s.obj.submits.map fun x => if x.item = it.id then { x with data := [] } else x } })
  else if r.segsDone = 0 ∧ r.data = [] then (it.hostBytes (it.le 16 8) g.objLen).map fun d => (d, s)
  else some ([], s)

/-- The end of a seal (R203): append the leaf, build and authenticate the manifest, write it, and complete. -/
def State.sealFinish (s : State) (it : Item) (r : SealRun) (g : Geometry) : State :=
  match s.tenantObj it.tenantByte with
  | none => s.failItem it.id stNoResource
  | some x =>
    let tags := (List.range (g.k + g.m)).map fun j => gmac r.frgKey (segNonce j) (r.strings.getD j [])
    let leaf := x.leaves.length
    let body := manBody g r.params (leBytes 8 r.ctr.toNat) it.tenantByte it.isNet r.objRoot r.frgRoot leaf x.epoch
      s.sys.serial tags
    let man := body ++ gmac r.objKey manNonce body
    let s := s.appendLeaf it.tenantByte man
    let s := s.setSeal { r with manifest := man, objKey := [], frgKey := [] }
    let s := if it.isNet then s else s.writeOut it.id (it.le 32 8) man
    s.complete it.id stOk (okBody man.length (leBytes 8 r.ctr.toNat ++ leBytes 4 leaf))

/-- Go on with a seal that holds its keys: encrypt and send what has arrived, wait, or finish (R203 to R205). -/
def State.sealAdvance (s : State) (it : Item) (r : SealRun) : State :=
  let g := s.sealGeometry it.tenantByte r.params
  if s.staleKey r.objRoot || s.staleKey r.frgRoot then s.failItem it.id stKeyRevoked
  else if (placeChans r.params (g.k + g.m)).any fun c => !s.chanOpen c then s.failItem it.id stChannelReset
  else if it.stage = 2 then
    if r.unacked = [] then s.sealFinish it r g else s.yieldItem it.id .data
  else
    match s.sealInput it r g with
    | none => s
    | some (d, s) =>
      let r := sealSegments g (Geo.segCount g) { r with data := r.data ++ d }
      let r := sealStripes g (Geo.stripes g) r
      let ended := !it.isNet || (s.obj.submits.any fun x => x.item == it.id && x.ended)
      let close := decide (r.segsDone = Geo.segCount g) && ended
      let blocks := (d.length + 15) / 16
      let s := match it.claim.shares with
        | (e, _) :: _ => s.countFurrow e blocks
        | [] => s
      let p := s.sealSend g r close
      if close then ((p.1.setSeal p.2).setItem { it with stage := 2, bufs := [] }).yieldItem it.id .data
      else (p.1.setSeal p.2).yieldItem it.id .data

/-- Opcode 0x0201, and the network seals that a SUBMIT creates (R203). -/
def execObjSeal (item : Nat) (s : State) : Result :=
  .next (s.onRunning item fun it =>
    if it.opcode ≠ 0x0201 ∨ !it.claimed ∨ s.maskWaits it ∨ s.cfb.erased then s
    else
      match s.obj.seals.find? (·.item == item) with
      | some r => s.sealAdvance it r
      | none =>
        match it.sealBlock, s.openRoot it.tenantByte 0x60, s.openRoot it.tenantByte 0x61 with
        | some b, some o, some f =>
          let s := s.sealStart it b o f
          match s.item item, s.obj.seals.find? (·.item == item) with
          | some it, some r => if it.isRunning then s.sealAdvance it r else s
          | _, _ => s
        | none, _, _ => s
        | _, _, _ => s.failItem item stKeyNotFound)

/-- t_SEALIDLE without data passes (R204). -/
def execSealIdleTimeout (item : Nat) (s : State) : Result :=
  match s.item item with
  | some it =>
    if it.opcode = 0x0201 ∧ it.isNet ∧ !it.isDone ∧ (s.obj.submits.any fun x => x.item == item && !x.ended) then
      .next (s.failItem item stTimeout)
    else .next s
  | none => .next s

/-! ## An open (R206 to R208) -/

/-- Reserved bytes and constants of a manifest (step 3 of R206). -/
def manFieldsOk (man : List Byte) : Bool :=
  let n := (byteAt man 6).toNat + (byteAt man 7).toNat
  leAt man 0 4 == 0x4E4D594B && leAt man 4 2 == 1 && zeroRange man 60 64 && zeroRange man 74 76 && zeroRange man 112 128 &&
  decide ((byteAt man 73).toNat ≤ 1) &&
  (List.range n).all fun j => byteAt man (128 + 32 * j) == BitVec.ofNat 8 j && zeroRange man (128 + 32 * j + 1) (128 + 32 * j + 4) &&
    byteAt man (128 + 32 * j + 7) == 0

/-- Step 4 of R206: the geometry lies within limits and is consistent with R193 and R195. -/
def manGeometryOk (man : List Byte) : Bool :=
  let g := manGeometry man
  Geo.inLimits g && decide (0 < g.segLen) && leAt man 44 4 == Geo.segCount g && leAt man 52 4 == Geo.tailU g &&
    leAt man 56 4 == Geo.stripes g && leAt man 64 8 == Geo.fragLen g

/-- Segments that an open asks for: first and the one after the last (R199). -/
def Item.openRange (it : Item) (g : Geometry) : Nat × Nat :=
  (it.le 32 4, if it.le 36 4 = 0 then Geo.segCount g else it.le 32 4 + it.le 36 4)

/-- Plaintext bytes of a segment range. -/
def rangeBytes (g : Geometry) (lo hi : Nat) : Nat := min g.objLen (hi * g.segLen) - min g.objLen (lo * g.segLen)

/-- Steps 1 to 6 of R206, and the units that an open needs. -/
def State.openCheck (s : State) (it : Item) : PreCheck :=
  let t := it.tenantByte
  if it.readFailed then .fail stAccessDenied
  else if !it.isNet && !(zeroRange it.desc 28 32 && zeroRange it.desc 56 64) then .fail stBadField
  else
    match it.openManifest with
    | none => .need
    | some man =>
      let g := manGeometry man
      let r := it.openRange g
      let root := BitVec.ofNat 32 (leAt man 76 4)
      match firstFail [
        (decide (man.length = manLen (g.k + g.m)), stBadField),
        (it.isNet || (it.le 16 8 % 64 == 0 && it.le 40 8 % 8 == 0), stBadAlignment),
        (manFieldsOk man, stBadField),
        (decide (byteAt man 72 = t), stAccessDenied),
        (manGeometryOk man, stGeometry),
        (decide (r.1 < Geo.segCount g) && decide (r.2 ≤ Geo.segCount g), stBadField),
        (it.isNet || decide (rangeBytes g r.1 r.2 ≤ it.le 48 8), stLengthLimit)] with
      | some st => .fail st
      | none =>
        match s.itemHandle it root with
        | some st => .fail st
        | none =>
          if ((List.range 20).any fun u => s.unitServes u t 0) && ((List.range 4).any fun u => s.unitServes (20 + u) t 0) then .pass
          else .fail stNoResource

/-- The shares that an open claims: a furrow context and a spread-unit share, each on the lowest-numbered unit. -/
def State.openShares (s : State) (it : Item) : Option (List (Nat × Nat)) :=
  let t := it.tenantByte
  let es := (List.range 20).filter fun u => s.unitServes u t 0
  let sus := (List.range 4).filter fun u => s.unitServes (20 + u) t 0 && decide (s.accBytes it ≤ s.accFree u)
  s.firstShares (es.flatMap fun e => sus.map fun u => [(e, 8, 1), (20 + u, 16, 1)])

def State.setOpen (s : State) (r : OpenRun) : State :=
  { s with obj := { s.obj with opens := s.obj.opens.filter (·.item != r.item) ++ [r] } }

/-- Stripe that holds a byte of the sealed stream. -/
def stripeOf (g : Geometry) (b : Nat) : Nat := min (b / (g.k * g.u)) (Geo.full g)

/-- Byte range of the sealed stream that an open still needs. -/
def OpenRun.need (r : OpenRun) (g : Geometry) : Nat × Nat :=
  (Geo.segOff g r.segNext, Geo.segOff g (r.segEnd - 1) + Geo.segSize g (r.segEnd - 1) + 16)

/-- Data fragments whose unit of stripe `st` holds a needed byte. -/
def OpenRun.neededUnits (r : OpenRun) (g : Geometry) (st : Nat) : List Nat :=
  let u := Geo.unitLen g st
  let base := st * g.k * g.u
  (List.range g.k).filter fun j => decide (base + j * u < (r.need g).2) && decide ((r.need g).1 < base + (j + 1) * u)

/-- Fragments to fetch for a stripe (R207): the needed data units, or, where one of those is missing, k fragments with
parity fragments in the place of the missing ones, lowest index first. None where fewer than k remain. -/
def OpenRun.wanted (r : OpenRun) (g : Geometry) : Option (List Nat) :=
  let need := r.neededUnits g r.stripe
  if need.all fun j => !r.missing.contains j then some need
  else
    let left := (List.range (g.k + g.m)).filter fun j => !r.missing.contains j
    if left.length < g.k then none else some (left.take g.k)

/-- FRAG_GET of one unit of a fragment: [0, 64 + U) for stripe 0, and to the end of the string for the last (R256). -/
def fragRange (g : Geometry) (st : Nat) : Nat × Nat :=
  let lo := if st = 0 then 0 else 64 + st * g.u
  (lo, 64 + st * g.u + Geo.unitLen g st - lo)

/-- Send FRAG_GET for one fragment; a channel that is not open counts as reset, so the fragment is missing (R264). -/
def State.sendFragGet (s : State) (item j c off len : Nat) (objectId ctr : List Byte) : State :=
  if s.chanOpen c then
    let r := s.openExchange c (.get j off len) item none
    r.2.chanSend c ltFragGet (flFirst + flLast) r.1
      (objectId ++ ctr ++ leBytes 1 j ++ zeros 7 ++ leBytes 8 off ++ leBytes 8 len) none
  else s.fragMissing item j

/-- Send a verified segment: into DST, or to the gateway in packets of at most CHUNK bytes (R208, R254). -/
def State.releaseSegment (s : State) (it : Item) (r : OpenRun) (g : Geometry) (i : Nat) (pt : List Byte) : State :=
  match r.gate with
  | none => s.writeOut it.id (it.le 40 8 + (i - it.le 32 4) * g.segLen) pt
  | some (c, xid) =>
    let chunk := ((s.chan c).map Channel.chunk).getD 1024
    let weir := (s.gateExchange c it.id).bind (·.weir)
    ((chunks chunk pt).zipIdx).foldl (fun s p =>
      s.chanSend c ltRetrieveData (if i = it.le 32 4 ∧ p.2 = 0 then flFirst else 0) xid
        (leBytes 4 i ++ zeros 4 ++ leBytes 8 (i * g.segLen + p.2 * chunk) ++ p.1) weir) s

/-- Body of an open's completion (R199). -/
def OpenRun.body (r : OpenRun) : List Byte :=
  okBody r.written (leBytes 4 (r.used % 2 ^ 32) ++ leBytes 4 (r.used / 2 ^ 32) ++ leBytes 4 r.discarded)

/-- An open ends in failure: a host open overwrites what it wrote, and RESULT is 0 (R208). -/
def State.openFail (s : State) (it : Item) (r : OpenRun) (st : Status) : State :=
  if it.isNet then s.complete it.id st r.body
  else (s.zeroOutputs it.id).complete it.id st ({ r with written := 0 } : OpenRun).body

/-- Verify and release every segment that is whole; the flag says that a tag failed (R208). -/
def State.openSegments (it : Item) (g : Geometry) : Nat → State × OpenRun → State × OpenRun × Bool
  | 0, p => (p.1, p.2, true)
  | f + 1, (s, r) =>
    let base := r.streamFrom * g.k * g.u
    let off := Geo.segOff g r.segNext
    let n := Geo.segSize g r.segNext
    if r.segNext < r.segEnd ∧ off + n + 16 ≤ base + r.stream.length then
      let ct := slice r.stream (off - base) n
      let aad := manObject r.manifest ++ manCtr r.manifest ++ leBytes 8 g.objLen
      if gcmTag r.objKey (segNonce r.segNext) aad ct = slice r.stream (off - base + n) 16 then
        let s := s.releaseSegment it r g r.segNext (gcmCrypt r.objKey (segNonce r.segNext) ct)
        State.openSegments it g f (s, { r with segNext := r.segNext + 1, written := r.written + n })
      else (s, r, false)
    else (s, r, true)

/-- Decode the stripe whose units are in (R207, R225). -/
def OpenRun.decode (r : OpenRun) (g : Geometry) : OpenRun :=
  let u := Geo.unitLen g r.stripe
  let have' := r.units.map (·.1)
  let unit := fun j => ((r.units.find? (·.1 == j)).map (·.2)).getD (zeros u)
  let need := r.neededUnits g r.stripe
  let lost := need.filter fun j => !have'.contains j
  let surv := (have'.mergeSort (· ≤ ·)).take g.k
  let rows := if lost = [] then [] else rsDecode g.k surv lost
  let rebuilt := lost.zip (rows.map fun row => gfCombine u row (surv.map unit))
  let data := (List.range g.k).map fun j => ((rebuilt.find? (·.1 == j)).map (·.2)).getD (unit j)
  { r with stream := r.stream ++ (data.map (padTo u)).flatten, used := Nat.lor r.used (fragMask have'), units := [],
           missing := [], asked := [], stripe := r.stripe + 1 }

/-- Go on with an open whose MAC has verified: decode what is in, release segments, ask for the next units. -/
def State.openAdvance (it : Item) : Nat → State → OpenRun → State
  | 0, s, _ => s
  | f + 1, s, r =>
    let g := manGeometry r.manifest
    match r.wanted g with
    | none => s.openFail it r stTooFewFragments
    | some want =>
      let have' := r.units.map (·.1)
      let todo := want.filter fun j => !have'.contains j
      if todo = [] then
        let d := r.decode g
        let p := State.openSegments it g (Geo.segCount g) (s, d)
        if !p.2.2 then p.1.openFail it p.2.1 stTagMismatch
        else if p.2.1.segNext = p.2.1.segEnd then (p.1.setOpen p.2.1).complete it.id stOk p.2.1.body
        else State.openAdvance it f (p.1.setOpen p.2.1) p.2.1
      else
        let fresh := todo.filter fun j => !r.asked.contains j
        let rng := fragRange g r.stripe
        let s := s.setOpen { r with asked := r.asked ++ fresh }
        let s := s.yieldItem it.id .data
        fresh.foldl (fun s j => s.sendFragGet it.id j (manChan r.manifest j) rng.1 rng.2 (manObject r.manifest)
          (manCtr r.manifest)) s

/-- Derive the object key and check the manifest's MAC (step 8 of R206). -/
def State.openStart (s : State) (it : Item) (man : List Byte) : State :=
  let g := manGeometry man
  let root := BitVec.ofNat 32 (leAt man 76 4)
  let key := kdf (it.material root) (ascii "OBJ") (manObject man ++ manCtr man) 256
  let r := it.openRange g
  let run : OpenRun :=
    { item := it.id
      gate := it.gate.map fun ch => (ch, ((s.gateExchange ch it.id).map (·.xid)).getD 0)
      manifest := man
      segNext := r.1
      segEnd := r.2
      objKey := key
      stripe := stripeOf g (Geo.segOff g r.1)
      asked := []
      units := []
      missing := []
      stream := []
      streamFrom := stripeOf g (Geo.segOff g r.1)
      used := 0
      discarded := 0
      written := 0 }
  let s := { s with vault := { s.vault with kdfCount := s.vault.kdfCount + 1 } }
  if gmac key manNonce (man.take (man.length - 16)) = man.drop (man.length - 16) then
    State.openAdvance it (Geo.stripes g + 1) (s.setOpen run) run
  else s.failItem it.id stTagMismatch

/-- Opcode 0x0202, and the network opens that a RETRIEVE creates (R206 to R208). -/
def execObjOpen (item : Nat) (s : State) : Result :=
  .next (s.onRunning item fun it =>
    if it.opcode ≠ 0x0202 ∨ !it.claimed ∨ s.maskWaits it ∨ s.cfb.erased then s
    else
      match s.obj.opens.find? (·.item == item), it.openManifest with
      | some r, _ => State.openAdvance it (Geo.stripes (manGeometry r.manifest) + 1) s r
      | none, some man => s.openStart it man
      | none, none => s)

end Sys2Proof.Machine
end

