-- ==== Sys2Proof/Machine/Spread.lean ====
section
/-! DEFINITION. Chapter 7: the schedule cache, VERIFY_FRAGMENTS and REPAIR. -/

namespace Sys2Proof.Machine

/-! ## Schedules (R228, R229) -/

/-- Base of the schedule region (purpose 0x03) and its slots of 1 KiB. -/
def State.schedBase (s : State) : Nat := ((s.plan.running.hbm.find? (·.purpose == 3)).map (·.base)).getD 0x1400_0000
def State.schedSlots (s : State) : Nat := 2 ^ ((s.plan.running.hbm.find? (·.purpose == 3)).map (·.sizeLog2)).getD 24 / 1024

/-- The equal whole partitions of the schedule region, one for each tenant with STORAGE set (R229). -/
def schedParts (slots : Nat) (tenants : List TenantEntry) : List SchedPart :=
  let ts := tenants.filter (·.storage)
  let size := slots / max 1 ts.length
  ts.zipIdx.map fun p => { tenant := p.1.tenant, first := p.2 * size, size := size, order := [] }

def State.setPart (s : State) (p : SchedPart) : State :=
  { s with spr := { s.spr with parts := s.spr.parts.map fun (q : SchedPart) => if q.tenant = p.tenant then p else q } }

/-- The record in a slot. -/
def State.schedAt (s : State) (slot : Nat) : List Byte := memRead s.mem.cells (s.schedBase + 1024 * slot) 1024

/-- A cached record matches a lookup key: K, M, SURV and TARGET (R229). -/
def schedMatches (rec : List Byte) (k m : Nat) (surv targets : List Nat) : Bool :=
  byteAt rec 0 == BitVec.ofNat 8 k && byteAt rec 1 == BitVec.ofNat 8 m && leAt rec 4 6 == fragMask surv &&
    leAt rec 10 6 == fragMask targets

/-- Look a schedule up in the tenant's partition, or compute and cache it (R228, R229): a record whose CRC fails is
discarded and counted. -/
def State.loadSchedule (s : State) (t : Byte) (k m : Nat) (surv targets : List Nat) : State :=
  match s.spr.parts.find? (·.tenant == t) with
  | none => { s with spr := { s.spr with schedMiss := s.spr.schedMiss + 1 } }
  | some p =>
    match p.order.find? fun slot => schedMatches (s.schedAt slot) k m surv targets with
    | some slot =>
      let rec' := s.schedAt slot
      if crc32c (rec'.take 1020) = leAt rec' 1020 4 then
        let s := s.setPart { p with order := slot :: p.order.erase slot }
        { s with spr := { s.spr with schedHit := s.spr.schedHit + 1 } }
      else
        let s := s.memStore (s.schedBase + 1024 * slot) (schedRecord k m t surv targets)
        let s := s.setPart { p with order := slot :: p.order.erase slot }
        { s with spr := { s.spr with schedMiss := s.spr.schedMiss + 1, crcFail := s.spr.crcFail + 1 } }
    | none =>
      let s := { s with spr := { s.spr with schedMiss := s.spr.schedMiss + 1 } }
      let free := ((List.range p.size).map (· + p.first)).find? fun x => !p.order.contains x
      match (match free with | some x => some x | none => p.order.getLast?) with
      | none => s
      | some slot =>
        (s.memStore (s.schedBase + 1024 * slot) (schedRecord k m t surv targets)).setPart
          { p with order := slot :: p.order.erase slot }

/-! ## Checks before the claim (R232) and claims (R233) -/

/-- Fragments of a 48-bit mask, in ascending order. -/
def maskList (v : Nat) : List Nat := (List.range 48).filter (bit v)

def Item.candMask (it : Item) : Nat := it.le 32 6
def Item.targetMask (it : Item) : Nat := it.le 40 6
def Item.isRepair (it : Item) : Bool := it.opcode == 0x0211

/-- Fragments with an entry in the placement list, in ascending order (R230). -/
def Item.listed (it : Item) : List Nat := maskList (Nat.lor it.candMask it.targetMask)

/-- The placement list: fragment and channel. -/
def Item.placeList (it : Item) : Option (List (Nat × Nat)) :=
  (it.hostBytes (it.le 48 8) (8 * it.listed.length)).map fun b =>
    it.listed.zipIdx.map fun p => (p.1, leAt b (8 * p.2) 3)

/-- Reserved bytes of the placement list. -/
def Item.placeReservedOk (it : Item) : Bool :=
  match it.hostBytes (it.le 48 8) (8 * it.listed.length) with
  | some b => (List.range it.listed.length).all fun i => zeroRange b (8 * i + 3) (8 * i + 8)
  | none => false

/-- Tagging furrows that a repair may use (R233): role tagging before role general, lowest first. -/
def State.repairFurrows (s : State) (t : Byte) (inPorts : List Nat) : List Nat :=
  let ok := fun role => (List.range 20).filter fun u => s.unitServes u t role && inPorts.all fun p => s.routes t p u
  ok 2 ++ ok 0

/-- Sets (T, SU) that a REPAIR may use, in the order of R233. -/
def State.repairSets (s : State) (t : Byte) (inPorts outPorts : List Nat) : List (Nat × Nat) :=
  let sus := (List.range 4).filter (fun u => s.unitServes (20 + u) t 2) ++
    (List.range 4).filter (fun u => s.unitServes (20 + u) t 0)
  (s.repairFurrows t inPorts).flatMap fun tg =>
    if outPorts.all fun p => s.routes t (tg + 4) (24 + p) then
      (sus.filter fun u => s.routes t (tg + 4) (20 + u) && s.routes t (24 + u) tg).map fun u => (tg, u)
    else []

/-- Ports of candidates and of targets. -/
def State.repairPorts (s : State) (it : Item) (places : List (Nat × Nat)) : List Nat × List Nat :=
  (s.chanPorts ((places.filter fun p => bit it.candMask p.1).map (·.2)),
   s.chanPorts ((places.filter fun p => bit it.targetMask p.1).map (·.2)))

/-- Steps 1 to 8 of R232. -/
def State.repairCheck (s : State) (it : Item) : PreCheck :=
  let t := it.tenantByte
  let rep := it.isRepair
  if !(zeroRange it.desc 28 32 && zeroRange it.desc 38 40 && zeroRange it.desc 46 48 && zeroRange it.desc 56 64 &&
      (rep || it.targetMask == 0)) then .fail stBadField
  else if it.le 16 8 % 64 ≠ 0 ∨ it.le 48 8 % 8 ≠ 0 then .fail stBadAlignment
  else if it.readFailed then .fail stAccessDenied
  else
    match it.hostBytes (it.le 16 8) (it.le 24 4), it.placeList with
    | some man, some places =>
      let g := manGeometry man
      let n := g.k + g.m
      let cand := maskList it.candMask
      let targets := maskList it.targetMask
      let ports := s.repairPorts it places
      let alg := ((s.keyView it.key).map fun v => attrAlg v.attr).getD 0
      match firstFail [
        (decide (man.length = manLen n) && manFieldsOk man && it.placeReservedOk, stBadField),
        (decide (byteAt man 72 = t), stAccessDenied),
        (manGeometryOk man, stGeometry),
        (decide (alg = 0x61), stKeyUsage),
        (decide (leAt man 80 4 = it.key.toNat), stBadField),
        (decide (it.candMask < 2 ^ n) && decide (it.targetMask < 2 ^ n) &&
          (!rep || (decide (targets ≠ []) && decide (targets.length ≤ g.m) && decide (Nat.land it.candMask it.targetMask = 0))),
          stBadField),
        (if rep then decide (g.k ≤ cand.length) else true, stTooFewFragments),
        (rep || decide (cand ≠ []), stBadField),
        (places.all fun p => s.chanOf t p.2, stAccessDenied),
        (if rep then decide (s.repairSets t ports.1 ports.2 ≠ []) else decide (s.repairFurrows t ports.1 ≠ []), stNoResource)] with
      | some st => .fail st
      | none => .pass
    | _, _ => .need

/-- The shares that a repair or verification claims. -/
def State.repairShares (s : State) (it : Item) : Option (List (Nat × Nat)) :=
  match it.placeList with
  | none => none
  | some places =>
    let ports := s.repairPorts it places
    if it.isRepair then
      let sets := (s.repairSets it.tenantByte ports.1 ports.2).filter fun x => decide (s.accBytes it ≤ s.accFree x.2)
      s.firstShares (sets.map fun x => [(x.1, 8, 1), (20 + x.2, 16, 1)])
    else s.firstShares ((s.repairFurrows it.tenantByte ports.1).map fun u => [(u, 8, 1)])

/-! ## Runs (R234 to R237) -/

def State.setRepair (s : State) (r : RepairRun) : State :=
  { s with obj := { s.obj with repairs := s.obj.repairs.filter (·.item != r.item) ++ [r] } }

def RepairRun.chanOf (r : RepairRun) (j : Nat) : Nat := ((r.places.find? (·.1 == j)).map (·.2)).getD 0

/-- The byte string of a fragment received in this pass. -/
def RepairRun.str (r : RepairRun) (j : Nat) : List Byte := ((r.strings.find? (·.1 == j)).map (·.2)).getD []
def RepairRun.tag (r : RepairRun) (j : Nat) : List Byte := ((r.tags.find? (·.1 == j)).map (·.2)).getD []

/-- Completion bytes 8 to 31 (R231): count, USED or GOOD, CORRUPT, PASSES. -/
def RepairRun.body (r : RepairRun) (count : Nat) (used : List Nat) (passes : Nat) : List Byte :=
  leBytes 8 count ++ leBytes 6 (fragMask used) ++ zeros 2 ++ leBytes 6 (fragMask r.corrupt) ++ leBytes 2 passes

/-- Start a pass over a survivor set (R234). -/
def State.startPass (s : State) (it : Item) (r : RepairRun) (surv : List Nat) : State × RepairRun :=
  let g := manGeometry r.manifest
  let s := s.loadSchedule it.tenantByte g.k g.m surv r.targets
  (s, { r with
    surv := surv, passes := r.passes + 1, stripe := 0, asked := [], strings := [], tags := [],
    rebuilt := r.targets.map fun j => (j, fragHeader g j it.tenantByte (manObject r.manifest) (manCtr r.manifest)),
    sent := r.targets.map fun j => (j, 0) })

/-- Abandon a pass (R234): the bad fragments leave S and untried candidates take their place; none where fewer than k
remain. -/
def RepairRun.nextSurv (r : RepairRun) (k : Nat) : Option (List Nat) :=
  let ok := r.surv.filter fun j => !r.corrupt.contains j && !r.missing.contains j
  let fresh := r.cand.filter fun j => !r.surv.contains j && !r.corrupt.contains j && !r.missing.contains j
  if ok.length + fresh.length < k then none else some ((ok ++ fresh.take (k - ok.length)).mergeSort (· ≤ ·))

/-- The units of stripe `st` of the rebuilt targets (R225, R234). -/
def RepairRun.rebuildStripe (r : RepairRun) (g : Geometry) : RepairRun :=
  let u := Geo.unitLen g r.stripe
  let units := r.surv.map fun j => slice (r.str j) (64 + r.stripe * g.u) u
  let rows := rsDecode g.k r.surv r.targets
  { r with
    rebuilt := r.rebuilt.zipIdx.map fun p => (p.1.1, p.1.2 ++ gfCombine u (rows.getD p.2 []) units),
    stripe := r.stripe + 1 }

/-- A survivor's unit of the current stripe is in. -/
def RepairRun.unitIn (r : RepairRun) (g : Geometry) (j : Nat) : Bool :=
  decide (64 + r.stripe * g.u + Geo.unitLen g r.stripe ≤ (r.str j).length)

/-- Hand the rebuilt records that are complete to the targets' channels. -/
def State.repairSend (s : State) (r : RepairRun) (close : Bool) : State × RepairRun :=
  let g := manGeometry r.manifest
  let total := 64 + Geo.fragLen g
  r.rebuilt.foldl (fun (acc : State × RepairRun) t =>
    let sent := ((acc.2.sent.find? (·.1 == t.1)).map (·.2)).getD 0
    let tag := if close then some (gmac r.frgKey (segNonce t.1) t.2) else none
    let p := State.putRecords r.item (r.chanOf t.1) t.1 (manObject r.manifest) (manCtr r.manifest) t.2 total tag
      (total / 1024 + 2) sent acc.1
    (p.1, { acc.2 with sent := acc.2.sent.map fun x => if x.1 = t.1 then (x.1, p.2) else x })) (s, r)

/-- Go on with a repair: one stripe after another, the tag comparison at the end of a pass, and new passes (R234). The
fuel bounds stripes and passes together. -/
def State.repairAdvance (it : Item) : Nat → State → RepairRun → State
  | 0, s, _ => s
  | f + 1, s, r =>
    let g := manGeometry r.manifest
    let bad := r.surv.any fun j => r.corrupt.contains j || r.missing.contains j
    if s.staleKey it.key then s.failItem it.id stKeyRevoked
    else if r.targets.any fun j => !s.chanOpen (r.chanOf j) then s.failItem it.id stChannelReset
    else if it.stage = 2 then
      if r.unacked = [] then s.complete it.id stOk (r.body r.targets.length r.surv r.passes)
      else s.yieldItem it.id .data
    else if bad then
      let s := { s with spr := { s.spr with abandoned := s.spr.abandoned + 1 } }
      match r.nextSurv g.k with
      | none => s.complete it.id stTooFewFragments (r.body 0 r.surv r.passes)
      | some surv =>
        let p := (s.dropExchanges it.id).startPass it r surv
        State.repairAdvance it f (p.1.setRepair p.2) p.2
    else if r.stripe < Geo.stripes g then
      if r.surv.all (r.unitIn g) then
        let p := s.repairSend (r.rebuildStripe g) false
        State.repairAdvance it f (p.1.setRepair { p.2 with asked := [] }) { p.2 with asked := [] }
      else
        let todo := r.surv.filter fun j => !r.unitIn g j && !r.asked.contains j
        let rng := fragRange g r.stripe
        let s := s.setRepair { r with asked := r.asked ++ todo }
        let s := s.yieldItem it.id .data
        todo.foldl (fun s j => s.sendFragGet it.id j (r.chanOf j) rng.1 rng.2 (manObject r.manifest) (manCtr r.manifest)) s
    else
      let wrong := r.surv.filter fun j =>
        gmac r.frgKey (segNonce j) (r.str j) ≠ manTag r.manifest j ∨ r.tag j ≠ manTag r.manifest j
      if wrong ≠ [] then
        let r := { r with corrupt := (r.corrupt ++ wrong).dedup }
        State.repairAdvance it f (s.setRepair r) r
      else if r.rebuilt.any fun t => gmac r.frgKey (segNonce t.1) t.2 ≠ manTag r.manifest t.1 then
        s.complete it.id stTagMismatch (r.body 0 r.surv r.passes)
      else
        let p := s.repairSend r true
        ((p.1.setRepair { p.2 with unacked := r.targets }).setItem { it with stage := 2, bufs := [] }).yieldItem it.id .data

/-- Start a repair or a verification that holds its claim: derive the fragment key (R234). -/
def State.repairStart (s : State) (it : Item) (man : List Byte) (places : List (Nat × Nat)) : State × RepairRun :=
  let g := manGeometry man
  let r : RepairRun :=
    { item := it.id
      manifest := man
      places := places
      frgKey := kdf (it.material it.key) (ascii "FRG") (manObject man ++ manCtr man) 256
      cand := maskList it.candMask
      targets := maskList it.targetMask
      surv := []
      corrupt := []
      missing := []
      passes := 0
      stripe := 0
      asked := []
      strings := []
      tags := []
      rebuilt := []
      sent := []
      unacked := [] }
  let s := { s with vault := { s.vault with kdfCount := s.vault.kdfCount + 1 } }
  if it.isRepair then s.startPass it r (r.cand.take g.k) else (s, r)

/-- Opcode 0x0211 (R234). -/
def execRepair (item : Nat) (s : State) : Result :=
  .next (s.onRunning item fun it =>
    if it.opcode ≠ 0x0211 ∨ !it.claimed ∨ s.maskWaits it ∨ s.cfb.erased then s
    else
      match s.obj.repairs.find? (·.item == item), it.hostBytes (it.le 16 8) (it.le 24 4), it.placeList with
      | some r, _, _ =>
        let g := manGeometry r.manifest
        State.repairAdvance it ((Geo.stripes g + 2) * (g.m + 2)) s r
      | none, some man, some places =>
        let p := s.repairStart it man places
        let g := manGeometry man
        State.repairAdvance it ((Geo.stripes g + 2) * (g.m + 2)) (p.1.setRepair p.2) p.2
      | _, _, _ => s)

/-- Opcode 0x0210 (R237): each fragment is fetched whole and checked; a fragment that does not come is missing. -/
def execVerifyFragments (item : Nat) (s : State) : Result :=
  .next (s.onRunning item fun it =>
    if it.opcode ≠ 0x0210 ∨ !it.claimed ∨ s.maskWaits it ∨ s.cfb.erased then s
    else
      match s.obj.repairs.find? (·.item == item), it.hostBytes (it.le 16 8) (it.le 24 4), it.placeList with
      | some r, _, _ =>
        let total := 64 + Geo.fragLen (manGeometry r.manifest)
        if s.staleKey it.key then s.failItem item stKeyRevoked
        else if r.cand.all fun j => r.corrupt.contains j || r.missing.contains j || decide (total ≤ (r.str j).length) then
          let here := r.cand.filter fun j => !r.corrupt.contains j && !r.missing.contains j
          let good := here.filter fun j =>
            gmac r.frgKey (segNonce j) (r.str j) = manTag r.manifest j ∧ r.tag j = manTag r.manifest j
          let r := { r with corrupt := (r.corrupt ++ here.filter fun j => !good.contains j) }
          s.complete item stOk (r.body good.length good 0)
        else s.yieldItem item .data
      | none, some man, some places =>
        let p := s.repairStart it man places
        let total := 64 + Geo.fragLen (manGeometry man)
        let s := p.1.setRepair { p.2 with asked := p.2.cand }
        let s := s.yieldItem item .data
        p.2.cand.foldl (fun s j => s.sendFragGet item j (p.2.chanOf j) 0 total (manObject man) (manCtr man)) s
      | _, _, _ => s)

/-- t_FGET passes without the whole answer to a FRAG_GET: the fragment is missing (R235). -/
def execFragGetTimeout (item frag : Nat) (s : State) : Result :=
  let asked := (s.obj.opens.any fun r => r.item == item && r.asked.contains frag) ||
    (s.obj.repairs.any fun r => r.item == item && r.asked.contains frag)
  if asked then .next (s.fragMissing item frag) else .next s

end Sys2Proof.Machine
end

