-- ==== Sys2Proof/Machine/PlanLoad.lean ====
section
/-! DEFINITION. Commands of chapter 1: Plan Load (R43, R44), PLAN_STAGE (R22), PLAN_AMEND with its drain, scrubs and
rollback (R54 to R59), and the sluice crossbar's check and swap (R51, R52). -/

namespace Sys2Proof.Machine

/-! ## Plan Load -/

/-- The empty plan (R44). -/
def State.emptyPlan (s : State) : Plan :=
  { Plan.none with
    pke := ((List.range 8).filter s.enginePresent).map fun e =>
      { engine := e, pinned := false, fused := false, owner := 0, slotL := 4, longOk := true }
    hbm := [{ base := 0x0_0000_0000, sizeLog2 := 28, owner := 0, purpose := 1 },
            { base := 0x0_1000_0000, sizeLog2 := 26, owner := 0, purpose := 2 },
            { base := 0x0_1400_0000, sizeLog2 := 24, owner := 0, purpose := 3 },
            { base := 0x0_1500_0000, sizeLog2 := 24, owner := 0, purpose := 4 },
            { base := 0x0_1800_0000, sizeLog2 := 27, owner := 0, purpose := 5 }] }

/-- The plan of a full image. -/
def Image.plan (m : Image) : Plan :=
  { tenants := m.tenants, pke := m.pke, windows := m.windows, hbm := m.hbm, headgates := m.headgates, weirs := m.weirs,
    classes := m.classes.getD [], regions := m.regions, sentinel := m.sentinel }

/-- Tenants in ascending TENANT order. -/
def inTenantOrder (ts : List TenantEntry) : List TenantEntry :=
  (List.range 256).filterMap fun n => ts.find? (·.tenant.toNat == n)

/-- Session-table ranges: consecutive, in ascending TENANT order (R549). -/
def sessionRanges : Nat → List TenantEntry → List (Byte × Nat × Nat)
  | _, [] => []
  | first, t :: r => (t.tenant, first, t.sessionQuota) :: sessionRanges (first + t.sessionQuota) r

/-- Credits of the classes, reloaded to their weights (R53, R95). -/
def classCredits (cs : List DspClass) : List Nat :=
  (List.range 8).map fun c => ((cs.find? (·.cls == c)).map (·.weight)).getD 0

/-- The object state of a STORAGE tenant: its first epoch opens (R209, R210). -/
def State.openTenant (s : State) (t : TenantEntry) : State :=
  if !t.storage then s
  else
    let r := s.draw 4
    r.2.setTenantObj t.tenant
      { drawn := r.1, number := 0, t0 := s.sys.tick, firstTick := s.sys.tick, slot := 0, leaves := [], waiting := [],
        overdue := false, prevRoot := zeros 32, signKey := none, seals := 0, stopped := 0, discards := 0 }

/-- Scrub every furrow, hash lane, spread unit and PK engine (R43). -/
def State.scrubAll (s : State) : State :=
  let s := ((List.range 8).filter s.enginePresent).foldl State.zeroCistern s
  if s.mainServes then ((List.range 20).filter fun u => s.furrowPresent u && !s.sluFenced u).foldl State.seedFurrow s else s

/-- Units under new owners; a fenced one stays fenced. -/
def keepFences (old new : List SluUnit) : List SluUnit :=
  List.zipWith (fun x y => if x.state = .fenced then { y with state := .fenced } else y) old new

/-- Set the regions of PUREGIONS entries (R40). -/
def setRegions (t : Tab Region) (es : List PuEntry) : Tab Region :=
  es.foldl (fun m e => tabSet m (32 * e.who + e.region) e.value) t

/-- Apply a plan's sections, its units and its table (R43, R44). A fenced unit stays fenced under its new owner. -/
def State.applyPlan (s : State) (p : Plan) (units : List SluUnit) (table : List (BitVec 16)) : State :=
  let s := s.scrubAll
  let s := { s with
    plan := { s.plan with running := p, amendSeq := 0, waiting := false, reading := false }
    sluice := { s.sluice with
      units := keepFences s.sluice.units units
      bankA := table
      bankB := []
      activeB := false
      checking := false
      swapPending := false
      frameBase := s.sys.tick }
    dsp := { s.dsp with credits := classCredits p.classes }
    mem := { s.mem with
      regions := setRegions s.mem.regions (p.regions.filter fun e => !e.coreSet)
      coreSets := setRegions [] (p.regions.filter fun e => e.coreSet) }
    vault := { s.vault with sessRanges := sessionRanges 0 (inTenantOrder p.tenants) }
    hwk := { s.hwk with weirs := [] }
    obj := { s.obj with tenants := [] } }
  let s := { s with spr := { s.spr with parts := schedParts s.schedSlots p.tenants } }
  let s := (inTenantOrder p.tenants).foldl State.openTenant s
  (inTenantOrder p.tenants).foldl (fun s t => s.instantiateTenant t.tenant) s

/-- Plan Load ends with a failure: the empty plan applies (R43, R44). -/
def State.planLoadFails (s : State) (f : PlanFail) : State :=
  let s := { s with plan := { s.plan with
    serial := 0
    digest := zeros 48
    result := BitVec.ofNat 4 f.code
    empty := true
    failSection := if f.secNo = noSection then 0xFF else BitVec.ofNat 8 f.secNo
    failEntry := BitVec.ofNat 32 f.entry } }
  (s.applyPlan s.emptyPlan (planUnits []) []).leavePlanLoad

/-- Plan Load ends with the announced plan. -/
def State.planLoads (s : State) (img : List Byte) : State :=
  let m := parseImage img
  let s := { s with plan := { s.plan with
    serial := m.serial
    digest := m.digest
    result := 0x0
    empty := false
    failSection := 0xFF
    failEntry := 0xFFFF_FFFF } }
  (s.applyPlan m.plan (planUnits (m.units.getD [])) m.sluice).leavePlanLoad

/-- Plan Load begins (R43): without an installed-plan record the empty plan applies at once. -/
def State.beginPlanLoad (s : State) : State :=
  let s := s.enterPhase .planLoad
  match s.vault.planRecord with
  | none => s.planLoadFails (planFail 0x1)
  | some _ => { s with plan := { s.plan with waiting := true } }

/-- A write of GLB_PLAN_GO (R43, R60). -/
def State.planGo (s : State) (value : Word) : State :=
  if !s.mmioOk 0 || !s.plan.waiting || !value.getLsbD 0 then s
  else
    let len := (s.reg 0 0x110).toNat
    let s := { s with plan := { s.plan with waiting := false } }
    if (s.reg 0 0x108).toNat % 64 ≠ 0 ∨ len = 0 ∨ imageMax < len then s.planLoadFails (planFail 0xB)
    else { s with plan := { s.plan with reading := true } }

def execGlbPlanGo (value : Word) (s : State) : Result := .next (s.planGo value)

/-- t_PLANWAIT passes without GO. -/
def execPlanWaitTimeout (s : State) : Result :=
  if s.plan.waiting then .next (s.planLoadFails (planFail 0x2)) else .next s

/-- The read of the announced image ends; a read that returns another length than SRC_LEN cannot occur. -/
def execPlanImageReadDone (image : ReadResult) (s : State) : Result :=
  if !s.plan.reading then .next s
  else
    match image with
    | .failed _ => .next (s.planLoadFails (planFail 0xC))
    | .ok bytes =>
      let len := (s.reg 0 0x110).toNat
      let img := padTo len bytes
      match s.loadCheck img len with
      | some f => .next (s.planLoadFails f)
      | none => .next (s.planLoads img)

/-- 300 µs with the culvert open in Plan Load (R500). -/
def execMirrorEpochCompare (s : State) : Result :=
  if s.sys.phase = .planLoad ∧ s.ring.member ∧ s.ring.culvertOpen then
    let s := { s with ring := { s.ring with compared := true } }
    .next s.leavePlanLoad
  else .next s

/-! ## PLAN_STAGE (R20 to R23) -/

/-- A plan opcode ends with a failed check. -/
def State.planItemFails (s : State) (item : Nat) (f : PlanFail) : State :=
  s.complete item (if f.code = 0x4 then stAccessDenied else stBadField) (planBody 0 f.secNo f.entry)

/-- A plan opcode ends with a status that names no section. -/
def State.planItemEnds (s : State) (item : Nat) (st : Status) : State := s.complete item st planNoBody

/-- The checks of both opcodes before the image is looked at. -/
def planDescCheck (it : Item) : Option Status :=
  firstFail [
    (zeroRange it.desc 32 64 && (it.opcode == 0x0710 || it.le 28 4 == 0), stBadField),
    (it.le 16 8 % 64 == 0, stBadAlignment),
    (decide (it.le 24 4 ≤ imageMax), stLengthLimit)]

/-- Opcode 0x0710. -/
def State.planStage (s : State) (it : Item) : State :=
  match planDescCheck it with
  | some st => s.planItemEnds it.id st
  | none =>
    match it.hostBytes (it.le 16 8) (it.le 24 4) with
    | none => s
    | some img =>
      if leAt img 12 4 ≠ img.length then s.planItemEnds it.id stLengthLimit
      else match s.stageCheck img with
        | some f => s.planItemFails it.id f
        | none =>
          match s.consumeAsk (BitVec.ofNat 32 (it.le 28 4)) 0x02 (sha256 img) with
          | .missing => s.planItemEnds it.id stQuorumMissing
          | .waits => s.yieldItem it.id .quorum
          | .ready =>
            let r : PlanRecord :=
              { serial := BitVec.ofNat 64 (leAt img 16 8), digest := sha384 img, fingerprint := slice img 32 8 }
            s.storeSession it.id (.planRecord r) { status := stOk, origin1 := false, body := planNoBody }

def execPlanStage (item : Nat) (s : State) : Result :=
  .next (s.onRunning item fun it => if it.opcode ≠ 0x0710 then s else s.planStage it)

/-! ## PLAN_AMEND (R54 to R59) -/

/-- The active bank's table. -/
def State.activeBank (s : State) : List (BitVec 16) := if s.sluice.activeB then s.sluice.bankB else s.sluice.bankA

/-- Write the final table to the inactive bank and begin its check (R56). -/
def State.finalTable (s : State) (a : Amendment) : State :=
  let s := s.writeInactive a.image.sluice
  { s with sluice := { s.sluice with checking := true, amend := some { a with stage := .finalCheck } } }

/-- An amendment whose image passed begins: its changed units are leaving, or the final table is written at once. -/
def State.beginAmend (s : State) (it : Item) (m : Image) : State :=
  let cs := s.changedUnits m
  let a : Amendment :=
    { item := it.id, image := m, changes := cs, stage := .waitClaims, drainLive := false, preTable := s.activeBank,
      failStatus := stOk }
  let s := s.yieldItem it.id .amendment
  if cs = [] then s.finalTable a
  else
    let s := cs.foldl (fun s c => s.modifyUnit c.unitNo fun x => { x with state := .leaving }) s
    ({ s with sluice := { s.sluice with amend := some a } }).amendWake

/-- Opcode 0x0711. -/
def State.planAmend (s : State) (it : Item) : State :=
  if s.sys.phase ≠ .service then s.planItemEnds it.id stNotServing
  else match planDescCheck it with
    | some st => s.planItemEnds it.id st
    | none =>
      if s.sluice.amend.isSome then s.planItemEnds it.id stNoResource
      else if s.plan.empty then s.planItemEnds it.id stBadField
      else match it.hostBytes (it.le 16 8) (it.le 24 4) with
        | none => s
        | some img =>
          if leAt img 12 4 ≠ img.length then s.planItemEnds it.id stLengthLimit
          else match s.amendCheck img with
            | some f => s.planItemFails it.id f
            | none =>
              let m := parseImage img
              if (s.changedUnits m).any fun c => s.sluFenced c.unitNo then s.planItemEnds it.id stNoResource
              else s.beginAmend it m

def execPlanAmend (item : Nat) (s : State) : Result :=
  .next (s.onRunning item fun it => if it.opcode ≠ 0x0711 then s else s.planAmend it)

/-- Stages that DRAIN_TIMEOUT_US covers (R56). -/
def AmendStage.timed : AmendStage → Bool
  | .waitClaims | .drainCheck | .drainSwap | .drainFrames | .waitBusy | .scrubbing => true
  | .finalCheck | .finalSwap | .rollbackCheck | .rollbackSwap => false

/-- The deadline passes (R57). -/
def execAmendDeadline (s : State) : Result :=
  match s.sluice.amend with
  | some a => if a.stage.timed then .next (s.rollback stTimeout) else .next s
  | none => .next s

/-- The drain frames have passed; no beat is inside a leaving unit, and every scrub begins (R56). -/
def execDrainFramesElapsed (s : State) : Result :=
  match s.sluice.amend with
  | some a =>
    if a.stage ≠ .drainFrames then .next s
    else
      let s := a.changes.foldl (fun s c => s.modifyUnit c.unitNo fun x => { x with state := .scrubbing }) s
      .next { s with sluice := { s.sluice with amend := some { a with stage := .scrubbing } } }
  | none => .next s

/-- A scrub ends (R56 to R58). A furrow's waits for the main DRBG. -/
def State.scrubDone (s : State) (u : Nat) : State :=
  match s.sluice.units[u]? with
  | none => s
  | some x =>
    if x.state ≠ .scrubbing ∨ (u < 20 ∧ !s.mainServes) then s
    else
      let s := if u < 20 then s.seedFurrow u else s
      if s.sluice.lateScrubs.contains u then
        let s := s.modifyUnit u fun x => { x with state := if x.assigned then .owned else .unassigned }
        { s with sluice := { s.sluice with lateScrubs := s.sluice.lateScrubs.erase u } }
      else match s.sluice.amend with
        | none => s
        | some a =>
          match a.changes.find? (·.unitNo == u) with
          | none => s
          | some c =>
            let s := s.modifyUnit u fun _ => { owner := c.newOwner, role := c.newRole, assigned := true, state := .scrubbed }
            if a.changes.all fun d => (s.sluice.units[d.unitNo]?).any (·.state == .scrubbed) then s.finalTable a else s

def execUnitScrubDone (unit : Nat) (s : State) : Result := .next (s.scrubDone unit)

/-- The crossbar's check of the inactive bank (R51): the rules of R48 against the units' owners and, but for a rollback
table, no unit that is leaving, draining or scrubbing. -/
def State.swapOk (s : State) (rollback : Bool) : Bool :=
  tableOk s.sluice.units (s.plan.running.tenants.map (·.tenant)) s.inactiveBank &&
  (rollback || tableClear s.sluice.units
    (fun u => (s.sluice.units[u]?).any fun x => x.state == .leaving || x.state == .draining || x.state == .scrubbing)
    s.inactiveBank)

/-- The check of the inactive bank ends. -/
def State.sluiceChecked (s : State) : State :=
  if !s.sluice.checking then s
  else
    let s := { s with sluice := { s.sluice with checking := false } }
    let pend := fun (a : Amendment) (st : AmendStage) =>
      { s with sluice := { s.sluice with swapPending := true, amend := some { a with stage := st } } }
    match s.sluice.amend with
    | none => s
    | some a =>
      match a.stage with
      | .drainCheck => if s.swapOk false then pend a .drainSwap else s.rollback stBadField
      | .finalCheck => if s.swapOk false then pend a .finalSwap else s.rollback stBadField
      | .rollbackCheck => if s.swapOk true then pend a .rollbackSwap else s.endAmend a.failStatus planNoBody
      | _ => s

def execSluiceCheckDone (s : State) : Result := .next s.sluiceChecked

/-- Number of the frame in progress: 640 ns each since Plan Load made bank A active (R46, R61). -/
def State.frameNumber (s : State) : Nat := 1000 * (s.sys.tick - s.sluice.frameBase) / 640

/-- Weir levels after an amendment: a replaced weir keeps its content, capped at the new BURST (R251). -/
def State.capWeirs (s : State) (ws : List Weir) : State :=
  ws.foldl (fun s w =>
    match s.plan.running.weirs.find? (·.index == w.index) with
    | none => { s with hwk := { s.hwk with weirs := tabErase s.hwk.weirs w.index } }
    | some old =>
      let l : WeirLevel := { content := min (8 * (w.burst : Int)) (s.weirNow old), tick := s.sys.tick }
      { s with hwk := { s.hwk with weirs := tabSet s.hwk.weirs w.index l } }) s

/-- The final table has gone live: scrubbed units that it routes to are owned, and the other changes apply (R56). -/
def State.amendApplies (s : State) (a : Amendment) : State :=
  let t := s.activeBank
  let s := a.changes.foldl (fun s c =>
    if tableClear s.sluice.units (fun u => u == c.unitNo) t then s
    else s.modifyUnit c.unitNo fun x => if x.state = .scrubbed then { x with state := .owned } else x) s
  let s := s.capWeirs a.image.weirs
  let p := s.plan.running
  let s := { s with plan := { s.plan with
    running := { p with
      headgates := mergeGates p.headgates a.image.headgates
      weirs := mergeWeirs p.weirs a.image.weirs
      classes := a.image.classes.getD p.classes }
    amendSeq := a.image.amendSeq } }
  let s := match a.image.classes with
    | some cs => { s with dsp := { s.dsp with credits := classCredits cs } }
    | none => s
  s.endAmend stOk (planBody s.frameNumber noSection noEntry)

/-- A pending swap takes place at a frame boundary (R52). -/
def State.sluiceSwap (s : State) : State :=
  if !s.sluice.swapPending then s
  else
    let s := { s with sluice := { s.sluice with
      activeB := !s.sluice.activeB
      swapPending := false
      swaps := s.sluice.swaps + 1 } }
    match s.sluice.amend with
    | none => s
    | some a =>
      match a.stage with
      | .drainSwap =>
        let s := a.changes.foldl (fun s c => s.modifyUnit c.unitNo fun x =>
          if x.state = .leaving then { x with state := .draining } else x) s
        { s with sluice := { s.sluice with amend := some { a with stage := .drainFrames, drainLive := true } } }
      | .finalSwap => s.amendApplies a
      | .rollbackSwap => s.endAmend a.failStatus planNoBody
      | _ => s

def execSluiceSwap (s : State) : Result := .next s.sluiceSwap

end Sys2Proof.Machine
end

