-- ==== Sys2Proof/Machine/Vault.lean ====
section
/-! DEFINITION. Key management (chapter 4): key specifications and creation (R131, R135, R549), the opcodes 0x0501 to
0x050C, store commits, the revocation scan and the good boot. -/

namespace Sys2Proof.Machine

/-! ## Key specifications (R131, R153) -/

/-- A KEYSPEC (R153). -/
structure KeySpec where
  cls    : Nat
  alg    : Nat
  format : Nat
  rsv    : Nat
  attr   : DWord
  noncePrefix : Word
  deriving DecidableEq, Repr

/-- The KEYSPEC in 16 bytes. -/
def keySpecOf (b : List Byte) : KeySpec :=
  { cls := leAt b 0 1, alg := leAt b 1 1, format := leAt b 2 1, rsv := leAt b 3 1, attr := BitVec.ofNat 64 (leAt b 4 8),
    noncePrefix := BitVec.ofNat 32 (leAt b 12 4) }

def Item.keySpec (it : Item) : KeySpec := keySpecOf (slice it.desc 16 16)

/-- A number has a bit outside a mask. -/
def outside (v mask : Nat) : Bool := Nat.land v mask != v

/-- The rules of R131 that look at the specification alone, and the variant's (R546). -/
def State.specOk (s : State) (k : KeySpec) : Bool :=
  match algRow k.alg with
  | none => false
  | some r =>
    let eng := attrEngine k.attr
    let use := attrUsage k.attr
    !outside k.attr.toNat (0x3F + 0x7FF * 2 ^ 8 + 2 ^ 25 + 2 ^ 26) &&
    (k.cls == 1 || (k.cls == 2 && !r.persistentOnly)) && k.rsv == 0 &&
    eng != 0 && use != 0 && !outside eng r.engines && !outside use r.usages &&
    !(k.alg == 0x01 && bit use useDerive && eng != 0x02) &&
    !((k.alg == 0x60 || k.alg == 0x61) && (attrExport k.attr || attrBound k.attr)) &&
    (bit use useEnc || k.noncePrefix == 0) &&
    (s.hasTdes || (!algIsTdes k.alg && !bit eng engPayFur))

/-- A tenant has an open root of an ALG, or one is being stored (R131). -/
def State.rootTaken (s : State) (t : Byte) (alg : Nat) : Bool :=
  (s.vault.records.any fun p => attrTenant p.2.attr == t && attrAlg p.2.attr == alg && !p.2.sealsClosed && !p.2.retired) ||
  (s.vault.stores.any fun st => match st.action with
    | .putRecord _ r => attrTenant r.attr == t && attrAlg r.attr == alg
    | _ => false)

/-- Records, templates and the roster that a tenant holds, stores in progress included (R131, R483). -/
def State.heldRecords (s : State) (t : Byte) : Nat :=
  (s.vault.records.filter fun p => attrTenant p.2.attr == t).length +
  (s.vault.templates.filter fun p => attrTenant p.2.attr == t).length +
  (s.vault.stores.filter fun st => match st.action with
    | .putRecord _ r => attrTenant r.attr == t
    | .putTemplate _ x => attrTenant x.attr == t
    | .tenantRoster x _ _ => x == t && (tabGet s.ctl.tenantRosters t.toNat).isNone
    | _ => false).length +
  (if (tabGet s.ctl.tenantRosters t.toNat).isSome then 1 else 0)

/-- Live session keys of a tenant. -/
def State.heldSessions (s : State) (t : Byte) : Nat :=
  (s.vault.sessions.filter fun p => p.2.live && attrTenant p.2.attr == t).length

/-- The tenant's quota for a class has room. -/
def State.quotaLeft (s : State) (t : Byte) (cls : Nat) : Bool :=
  match s.tenantEntry t with
  | none => false
  | some e => if cls = 2 then decide (s.heldSessions t < e.sessionQuota) else decide (s.heldRecords t < e.keyrecQuota)

/-- R131 in order: the specification, a second open root, the quota. -/
def State.specCheck (s : State) (t : Byte) (k : KeySpec) : Option Status :=
  if !s.specOk k then some stBadField
  else if (k.alg = 0x60 ∨ k.alg = 0x61) ∧ s.rootTaken t k.alg then some stKeySlotUsed
  else if !s.quotaLeft t k.cls then some stNoResource
  else none

/-- The attribute word that the device gives a key (R132). -/
def finalAttr (requested : DWord) (origin bound : Bool) (t : Byte) (alg : Nat) : DWord :=
  BitVec.ofNat 64 (Nat.land requested.toNat (0x3F + 0x7FF * 2 ^ 8 + 2 ^ 25) + b2n origin * 2 ^ 24 + b2n bound * 2 ^ 26 +
    t.toNat * 2 ^ 32 + alg * 2 ^ 40)

/-! ## Creation (R123, R135, R549) -/

/-- A new key before it has an index. -/
structure NewKey where
  attr     : DWord
  parent   : Word
  depth    : Nat
  noncePrefix : Word
  material : List Byte
  pubOnly  : Bool
  deriving DecidableEq, Repr

/-- The lowest free index of the tenant's session range whose generation is below 0xFF (R549). -/
def State.freeSessionIndex (s : State) (t : Byte) : Option Nat :=
  match s.vault.sessRanges.find? (·.1 == t) with
  | none => none
  | some (_, first, n) =>
    ((List.range n).find? fun i => !(s.session (first + i)).live && decide ((s.session (first + i)).gen.toNat < 0xFF)).map (first + ·)

/-- Write a session entry (R123): its handle. -/
def State.createSession (s : State) (k : NewKey) : Option (Word × State) :=
  match s.freeSessionIndex (attrTenant k.attr) with
  | none => none
  | some i =>
    let e := s.session i
    let serial := s.vault.writeSerial + 1
    let n : SessionEntry :=
      { gen := e.gen, live := true, depth := k.depth, parent := k.parent, writeSerial := serial, attr := k.attr, counter := 0,
        noncePrefix := k.noncePrefix, material := k.material, pubOnly := k.pubOnly }
    some (mkHandle 2 i e.gen,
      { s with vault := { s.vault with sessions := tabSet s.vault.sessions i n, writeSerial := serial } })

/-- Heap blocks of 64 bytes that a key's material takes (R120); the blob of a bound key starts with its MTAG (R144). -/
def heapBlocksOf (k : NewKey) : Nat := (k.material.length + (if attrBound k.attr then 8 else 0) + 63) / 64

/-- The record that a new persistent key gets (R135, R144). -/
def State.newRecord (s : State) (k : NewKey) (gen : Byte) : KeyRecord :=
  { attr := k.attr, parent := k.parent, gen := gen, depth := k.depth, noncePrefix := k.noncePrefix,
    material := if attrBound k.attr then [] else k.material, pubOnly := k.pubOnly,
    blobs := if attrBound k.attr then [(s.mtag, k.material)] else [], heapBlocks := heapBlocksOf k, retired := false,
    sealsClosed := false }

/-- An item creates a key and completes: at once for a session key, after its store for a persistent one. `body` gives
the completion body for the new handle. -/
def State.createKey (s : State) (it : Item) (cls : Nat) (k : NewKey) (body : Word → List Byte) : State :=
  if cls = 2 then
    match s.createSession k with
    | none => s.failItem it.id stNoResource
    | some (h, s) => s.complete it.id stOk (body h)
  else
    match s.freeRecordIndex with
    | none => s.failItem it.id stNoResource
    | some i =>
      if heapTotal < s.heapUsed + heapBlocksOf k then s.failItem it.id stNoResource
      else
        let gen := tabGetD s.vault.genArray i 0
        s.storeFor it.id (.putRecord i (s.newRecord k gen))
          { status := stOk, origin1 := false, body := padTo 24 (body (mkHandle 1 i gen)) }

/-- RESULT and KEY_ID8 of a creating opcode (R153). -/
def newKeyBody (alg : Nat) (pubOnly : Bool) (material : List Byte) (h : Word) : List Byte :=
  okBody h.toNat (keyId8 alg pubOnly material)

/-! ## Checks when a record is read (R133) -/

/-- R133 for an opcode that reads a key and needs no USAGE or ENGINE of it. -/
def State.readCheck (s : State) (h : Word) : Option Status := s.useCheck h [] [0, 1, 2, 3, 4, 5] 0

/-- A wrapping or unwrapping key (R154): AES-256 with ENGINE WRAP and the USAGE, else ST_KEY_USAGE. -/
def State.wrapCheck (s : State) (h : Word) (usage : Nat) : Option Status :=
  match s.useCheck h [usage] [engWrap] 0 with
  | some st => some (if st = stKeyEngine then stKeyUsage else st)
  | none => if (s.keyView h).any fun k => attrAlg k.attr == 0x02 then none else some stKeyUsage

/-- Material of a key that the vault reads. -/
def State.keyMaterial (s : State) (h : Word) : List Byte := ((s.keyView h).map (·.material)).getD []

/-! ## KEY_GENERATE (R131, R135, R339) -/

/-- Fields of KEY_GENERATE, and R131. -/
def State.generateCheck (s : State) (it : Item) : Option Status :=
  if it.byte 18 ≠ 0 ∨ !zeroRange it.desc 32 64 then some stBadField else s.specCheck it.tenantByte it.keySpec

/-- New material of an ALG from the tenant's own instance (R339), if it serves now. The length of an HMAC key and the
components of an RSA key are open. -/
def State.newMaterial (s : State) (t : Byte) (alg : Nat) : Option (List Byte × State) :=
  if algIsEcc alg then
    let c := curveOf alg
    (s.tenantDraw t ((c.nLen + 64 + 7) / 8)).map fun r =>
      let d := leBytes c.f (ofLe r.1 % 2 ^ (c.nLen + 64) % (c.n - 1) + 1)
      (d ++ publicFrom alg d, r.2)
  else if alg = 0x28 ∨ alg = 0x29 then (s.tenantDraw t 32).map fun r => (r.1 ++ publicFrom alg r.1, r.2)
  else if algIsRsa alg then (s.tenantDraw t 48).map fun r => r.2.freeBytes (((algRow alg).map (·.matMax)).getD 0)
  else if alg = 0x10 then
    let c := s.choose
    c.2.tenantDraw t (16 + c.1 % 49)
  else s.tenantDraw t (((algRow alg).map (·.matMax)).getD 0)

/-- Opcode 0x0501. A tenant instance that cannot serve keeps the item waiting on its core. -/
def execKeyGenerate (item : Nat) (s : State) : Result :=
  .next (s.onRunning item fun it =>
    if it.opcode ≠ 0x0501 then s
    else
      match s.generateCheck it with
      | some st => s.failItem item st
      | none =>
        let k := it.keySpec
        match s.newMaterial it.tenantByte k.alg with
        | none => s
        | some (m, s) =>
          s.createKey it k.cls
            { attr := finalAttr k.attr false (attrBound k.attr) it.tenantByte k.alg, parent := noHandle, depth := 0,
              noncePrefix := k.noncePrefix, material := m, pubOnly := false }
            (newKeyBody k.alg false m))

/-! ## KEY_IMPORT (R154, R285) -/

/-- Fields of KEY_IMPORT, and R131. -/
def State.importCheck (s : State) (it : Item) : Option Status :=
  let k := it.keySpec
  let n := it.le 32 4
  if 2 ≤ k.format ∨ n = 0 ∨ 8192 < n ∨ !zeroRange it.desc 36 40 ∨ !zeroRange it.desc 48 64 then some stBadField
  else if it.le 40 8 % 8 ≠ 0 then some stBadAlignment
  else
    match s.specCheck it.tenantByte k with
    | some st => some st
    | none => if k.format = 1 ∧ !algIsAsym k.alg then some stBadField else none

/-- Imported material, or the status with which the import fails before its validation. -/
def State.importMaterial (s : State) (it : Item) (blob : List Byte) : Except Status (List Byte) :=
  let k := it.keySpec
  let row := algRow k.alg
  if k.format = 1 then
    match spkiParse k.alg ((row.map (·.pubLen)).getD 0) blob with
    | some p => .ok p
    | none => .error stBadField
  else
    match s.wrapCheck it.key useUnwrap with
    | some st => .error st
    | none =>
      match kwpUnwrap (s.keyMaterial it.key) blob with
      | none => .error stTagMismatch
      | some p =>
        let n := leAt p 2 2
        let m := slice p 16 n
        let lenOk := row.any fun r => decide (r.matMin ≤ n) && decide (n ≤ r.matMax)
        if byteAt p 0 ≠ BitVec.ofNat 8 k.alg ∨ byteAt p 1 ≠ 1 ∨ p.length ≠ 16 + n ∨ !zeroRange p 12 16 ∨ !lenOk then
          .error stBadField
        else if !attrExport (BitVec.ofNat 64 (leAt p 4 8)) && attrExport k.attr then .error stBadField
        else .ok m

/-- The validation of imported asymmetric material (R285). -/
def importValid (alg : Nat) (pubOnly : Bool) (m : List Byte) : Option Status :=
  let c := curveOf alg
  let d := leAt m 0 c.f
  if algIsEcc alg ∧ !pubOnly ∧ (d = 0 ∨ c.n ≤ d) then some stInputRange
  else if (algIsEcc alg || alg == 0x28) && !pointValid alg (publicPart alg pubOnly m) then some stInvalidPoint
  else if algIsRsa alg then
    let k := rsaLen alg
    if pubOnly then (if rsaE k m % 2 = 0 ∨ rsaE k m < 3 then some stInputRange else none)
    else if rsaConsistent k m then none else some stInputRange
  else none

/-- The import's key. -/
def State.finishImport (s : State) (it : Item) (m : List Byte) : State :=
  let k := it.keySpec
  s.createKey it k.cls
    { attr := finalAttr k.attr true (attrBound k.attr) it.tenantByte k.alg, parent := noHandle, depth := 0,
      noncePrefix := k.noncePrefix, material := m, pubOnly := k.format == 1 }
    (newKeyBody k.alg (k.format == 1) m)

/-- Put or replace the work of a public-key item. -/
def State.setWork (s : State) (w : PkWork) : State :=
  { s with pke := { s.pke with work := (s.pke.work.filter (·.item != w.item)) ++ [w] } }

def State.workOf (s : State) (item : Nat) : Option PkWork := s.pke.work.find? (·.item == item)

def State.dropWork (s : State) (item : Nat) : State :=
  { s with pke := { s.pke with work := s.pke.work.filter (·.item != item) } }

/-- A validation window opens (R285). -/
def State.openWindow (s : State) (it : Item) (engine : Nat) : State :=
  s.setWork { item := it.id, engine := engine, stage := .window, status := stOk, out := [], body := [], jobs := 0, cycles := 0 }

/-- Opcode 0x0502: a symmetric key is created at once; an asymmetric one passes its validation window first. -/
def execKeyImport (item : Nat) (s : State) : Result :=
  .next (s.onRunning item fun it =>
    if it.opcode ≠ 0x0502 ∨ (s.workOf item).isSome then s
    else
      match s.importCheck it with
      | some st => s.failItem item st
      | none =>
        match it.hostBytes (it.le 40 8) (it.le 32 4) with
        | none => s
        | some blob =>
          match s.importMaterial it blob with
          | .error st => s.failItem item st
          | .ok m => if algIsAsym it.keySpec.alg then s.openWindow it 0xFF else s.finishImport it m)

/-! ## KEY_EXPORT (R154) -/

/-- The plaintext of a wrapped key (R154). -/
def wrapPayload (alg : Nat) (attr : DWord) (m : List Byte) : List Byte :=
  leBytes 1 alg ++ [0x01] ++ leBytes 2 m.length ++ leBytes 8 attr.toNat ++ zeros 4 ++ m

/-- Opcode 0x0503. -/
def execKeyExport (item : Nat) (s : State) : Result :=
  .next (s.onRunning item fun it =>
    let tgt : Word := BitVec.ofNat 32 (it.le 16 4)
    if it.opcode ≠ 0x0503 then s
    else if !zeroRange it.desc 32 64 then s.failItem item stBadField
    else if it.le 24 8 % 8 ≠ 0 then s.failItem item stBadAlignment
    else
      match s.itemHandle it tgt with
      | some st => s.failItem item st
      | none =>
        match s.wrapCheck it.key useWrap with
        | some st => s.failItem item st
        | none =>
          match s.readCheck tgt, s.keyView tgt with
          | some st, _ => s.failItem item st
          | none, none => s.failItem item stKeyNotFound
          | none, some k =>
            if !attrExport k.attr then s.failItem item stKeyUsage
            else
              let out := kwpWrap (s.keyMaterial it.key) (wrapPayload (attrAlg k.attr) k.attr k.material)
              if it.le 20 4 < out.length then s.failItem item stLengthLimit
              else (s.writeOut item (it.le 24 8) out).complete item stOk (okBody out.length []))

/-! ## KEY_DERIVE and KEY_TEMPLATE (R140 to R143) -/

/-- Labels that internal derivations use (R141). -/
def reservedLabels : List (List Byte) := [ascii "OBJ", ascii "FRG", ascii "BND", ascii "VSK", ascii "DAK"]

/-- A label field: at most 12 bytes, zeros beyond its length, and no reserved label (R143, R153). -/
def labelOk (len : Nat) (field : List Byte) : Bool :=
  decide (len ≤ 12) && zeroRange field len 12 && !reservedLabels.contains (field.take len)

/-- The parent's rules (R142, R143): a root gives ST_KEY_USAGE, then R133 with USAGE DERIVE and ENGINE KDF. -/
def State.parentCheck (s : State) (h : Word) : Option Status :=
  match s.keyView h with
  | none => some stKeyNotFound
  | some k =>
    if attrAlg k.attr = 0x60 ∨ attrAlg k.attr = 0x61 then some stKeyUsage
    else s.useCheck h [useDerive] [engKdf] 0

/-- The rules on a derived key against its parent (R132, R143). -/
def State.derivedOk (s : State) (parent : Word) (k : KeySpec) : Bool :=
  (k.alg == 0x01 || k.alg == 0x02 || k.alg == 0x10) &&
  match s.keyView parent with
  | none => false
  | some p => decide (p.depth + 1 ≤ 3) && (!attrExport k.attr || attrExport p.attr)

/-- Material length in bytes of a derived ALG; that of an HMAC key is open. -/
def State.derivedLen (s : State) (alg : Nat) : Nat × State :=
  if alg = 0x10 then (let c := s.choose
                      (16 + c.1 % 49, c.2))
  else (((algRow alg).map (·.matMax)).getD 0, s)

/-- Derive a key of a specification from a parent and create it. -/
def State.deriveKey (s : State) (it : Item) (parent : Word) (k : KeySpec) (label ctx : List Byte) : State :=
  match s.keyView parent with
  | none => s.failItem it.id stKeyNotFound
  | some p =>
    let l := s.derivedLen k.alg
    let m := kdf p.material label ctx (8 * l.1)
    let s := { l.2 with vault := { l.2.vault with kdfCount := l.2.vault.kdfCount + 1 } }
    s.createKey it k.cls
      { attr := finalAttr k.attr (attrOrigin p.attr) (attrBound p.attr) it.tenantByte k.alg, parent := parent,
        depth := p.depth + 1, noncePrefix := k.noncePrefix, material := m, pubOnly := false }
      (newKeyBody k.alg false m)

/-- Output specification of a template. -/
def Template.spec (t : Template) : KeySpec :=
  { cls := t.outClass, alg := attrAlg t.attr, format := 0, rsv := 0,
    attr := BitVec.ofNat 64 (Nat.land t.attr.toNat (0x3F + 0x7FF * 2 ^ 8 + 2 ^ 25 + 2 ^ 26)), noncePrefix := t.outPrefix }

/-- Opcode 0x0504: a handle of class 0x3 names a template, which brings everything but the context. -/
def execKeyDerive (item : Nat) (s : State) : Result :=
  .next (s.onRunning item fun it =>
    let n := it.byte 32
    let field := slice it.desc 36 12
    let viaTemplate := hClass it.key == 3
    if it.opcode ≠ 0x0504 then s
    else if 64 < it.byte 33 ∨ !zeroRange it.desc 34 36 ∨ !zeroRange it.desc 56 64 then s.failItem item stBadField
    else
      let src : Except Status (Word × KeySpec × List Byte) :=
        if viaTemplate then
          match tabGet s.vault.templates (hIndex it.key) with
          | none => .error stKeyNotFound
          | some t =>
            if !zeroRange it.desc 16 33 ∨ !zeroRange it.desc 36 48 then .error stBadField
            else if !s.ancestorsOk 3 it.key then .error stKeyRevoked
            else .ok (t.parent, t.spec, t.label)
        else if it.byte 18 ≠ 0 ∨ !labelOk n field then .error stBadField
        else .ok (it.key, it.keySpec, field.take n)
      match src with
      | .error st => s.failItem item st
      | .ok (parent, k, label) =>
        match s.parentCheck parent with
        | some st => s.failItem item st
        | none =>
          if !s.derivedOk parent k then s.failItem item stBadField
          else
            match s.specCheck it.tenantByte k with
            | some st => s.failItem item st
            | none =>
              match it.hostBytes (it.le 48 8) (it.byte 33) with
              | none => s
              | some ctx => s.deriveKey it parent k label ctx)

/-- Opcode 0x050C. -/
def execKeyTemplate (item : Nat) (s : State) : Result :=
  .next (s.onRunning item fun it =>
    let k := it.keySpec
    let n := it.byte 32
    let field := slice it.desc 36 12
    if it.opcode ≠ 0x050C then s
    else if it.byte 18 ≠ 0 ∨ !zeroRange it.desc 33 36 ∨ !zeroRange it.desc 48 64 ∨ !labelOk n field ∨ hClass it.key = 3 then
      s.failItem item stBadField
    else
      match s.parentCheck it.key with
      | some st => s.failItem item st
      | none =>
        if !s.specOk k ∨ !s.derivedOk it.key k then s.failItem item stBadField
        else if !s.quotaLeft it.tenantByte 3 then s.failItem item stNoResource
        else
          match s.freeTemplateIndex, s.keyView it.key with
          | some i, some p =>
            let gen := tabGetD s.vault.tmplGen i 0
            let h := mkHandle 3 i gen
            s.storeFor item
              (.putTemplate i { attr := finalAttr k.attr (attrOrigin p.attr) (attrBound p.attr) it.tenantByte k.alg,
                                parent := it.key, gen := gen, depth := p.depth + 1, label := field.take n, outClass := k.cls,
                                outPrefix := k.noncePrefix, retired := false })
              { status := stOk, origin1 := false, body := okBody h.toNat [] }
          | _, _ => s.failItem item stNoResource)

/-! ## KEY_RETIRE, KEY_PURGE and KEY_FREE (R137 to R139) -/

/-- A root ALG. -/
def isRootAlg (alg : Nat) : Bool := alg == 0x60 || alg == 0x61

/-- Opcode 0x0505. -/
def execKeyRetire (item : Nat) (s : State) : Result :=
  .next (s.onRunning item fun it =>
    let mode := it.byte 16
    let alg := ((s.slotAttr it.key).map fun a => attrAlg a.1).getD 0
    if it.opcode ≠ 0x0505 then s
    else if 2 ≤ mode ∨ !zeroRange it.desc 17 64 ∨ hClass it.key = 2 then s.failItem item stBadField
    else if mode = 0 then
      s.storeFor item (.retire it.key)
        { status := stOk, origin1 := false, body := okBody (hGen it.key + 1).toNat [] }
    else if hClass it.key ≠ 1 ∨ !isRootAlg alg then s.failItem item stBadField
    else
      let body := okBody (s.currentGen it.key).toNat []
      if (tabGet s.vault.records (hIndex it.key)).any (·.sealsClosed) then s.complete item stOk body
      else s.storeFor item (.closeSeals it.key) { status := stOk, origin1 := false, body := body })

/-- Opcode 0x0506. -/
def execKeyPurge (item : Nat) (s : State) : Result :=
  .next (s.onRunning item fun it =>
    if it.opcode ≠ 0x0506 then s
    else if !zeroRange it.desc 16 64 ∨ !(s.slotAttr it.key).any (·.2) then s.failItem item stBadField
    else s.storeFor item (.purge it.key) { status := stOk, origin1 := false, body := okBody 0 [] })

/-- Start the revocation scan of an item's key; the item waits for its end (R139). -/
def State.startScan (s : State) (item : Nat) (h : Word) : State :=
  { s with vault := { s.vault with scans := s.vault.scans ++ [{ item := item, handle := h, result := hGen h + 1 }] } }

/-- Opcode 0x0507: the entry is freed at once, and the item completes after the scan. -/
def execKeyFree (item : Nat) (s : State) : Result :=
  .next (s.onRunning item fun it =>
    if it.opcode ≠ 0x0507 then s
    else if !zeroRange it.desc 16 64 ∨ hClass it.key ≠ 2 then s.failItem item stBadField
    else
      let s := (s.freeSession (hIndex it.key)).startScan item it.key
      s.yieldItem item .keyCommit)

/-- The scan ends: STALE on every cached descendant, and the retiring item completes (R139). -/
def execRevocationScanDone (item : Nat) (s : State) : Result :=
  match s.vault.scans.find? (·.item == item) with
  | none => .next s
  | some x =>
    let s := s.revScan x.handle
    let s := { s with vault := { s.vault with scans := s.vault.scans.filter (·.item != item) } }
    .next (s.endWaitWith item { status := stOk, origin1 := false, body := okBody x.result.toNat [] })

/-! ## KEY_INFO, KEY_PUBLIC, KEY_ATTEST, KEY_DEVICE_CERT (R150 to R153) -/

/-- FLAGS of a report: SEALS_CLOSED and a carry-over blob (R151). -/
def State.keyFlags (s : State) (h : Word) : Nat :=
  match (if hClass h = 1 then tabGet s.vault.records (hIndex h) else none) with
  | some r => b2n r.sealsClosed + 2 * b2n (decide (2 ≤ r.blobs.length))
  | none => 0

/-- COUNTER of a report: the nonce or seal counter, zero for a key without one. -/
def State.reportCounter (s : State) (h : Word) (attr : DWord) : Nat :=
  if (algIsAes (attrAlg attr) ∧ bit (attrUsage attr) useEnc) ∨ attrAlg attr = 0x60 then (s.counterOf h).toNat else 0

/-- What reports say of a handle: attribute word, parent, depth, NONCE_PREFIX, KEY_ID; a template has no KEY_ID. -/
def State.describe (s : State) (h : Word) : Option (DWord × Word × Nat × Word × List Byte) :=
  if hClass h = 3 then
    (tabGet s.vault.templates (hIndex h)).map fun t => (t.attr, t.parent, t.depth, t.outPrefix, zeros 48)
  else
    (s.keyView h).map fun k => (k.attr, k.parent, k.depth, k.noncePrefix, keyId (attrAlg k.attr) k.pubOnly k.material)

/-- R133 for a report: a template's ancestors are checked as a key's are. -/
def State.reportCheck (s : State) (h : Word) : Option Status :=
  if hClass h = 3 then (if s.ancestorsOk 3 h then none else some stKeyRevoked) else s.readCheck h

/-- Opcode 0x0508. -/
def execKeyInfo (item : Nat) (s : State) : Result :=
  .next (s.onRunning item fun it =>
    if it.opcode ≠ 0x0508 then s
    else if !zeroRange it.desc 24 64 then s.failItem item stBadField
    else if it.le 16 8 % 64 ≠ 0 then s.failItem item stBadAlignment
    else
      match s.reportCheck it.key, s.describe it.key with
      | some st, _ => s.failItem item st
      | none, none => s.failItem item stKeyNotFound
      | none, some (attr, parent, depth, np, id) =>
        let out := leBytes 4 it.key.toNat ++ [s.currentGen it.key] ++ leBytes 1 depth ++ leBytes 1 (s.keyFlags it.key) ++ [0] ++
          leBytes 8 attr.toNat ++ leBytes 4 parent.toNat ++ leBytes 8 (s.reportCounter it.key attr) ++ leBytes 4 np.toNat ++
          id.take 8 ++ zeros 24
        (s.writeOut item (it.le 16 8) out).complete item stOk (okBody 64 []))

/-- Opcode 0x0509: the public part in the order of R130. -/
def execKeyPublic (item : Nat) (s : State) : Result :=
  .next (s.onRunning item fun it =>
    if it.opcode ≠ 0x0509 then s
    else if !zeroRange it.desc 20 24 ∨ !zeroRange it.desc 32 64 then s.failItem item stBadField
    else
      match s.reportCheck it.key, s.keyView it.key with
      | some st, _ => s.failItem item st
      | none, none => s.failItem item stKeyUsage
      | none, some k =>
        let alg := attrAlg k.attr
        let out := publicPart alg k.pubOnly k.material
        if !algIsAsym alg then s.failItem item stKeyUsage
        else if it.le 16 4 < out.length then s.failItem item stLengthLimit
        else (s.writeOut item (it.le 24 8) out).complete item stOk (okBody out.length []))

/-- An attestation report before its signature (R151). -/
def State.reportHead (s : State) (kind : Nat) (t : Byte) (h : Word) (attr : DWord) (parent : Word) (depth flags counter : Nat)
    (id challenge : List Byte) : List Byte :=
  leBytes 4 0x5441594B ++ leBytes 2 1 ++ leBytes 2 kind ++ leBytes 8 s.sys.serial.toNat ++ leBytes 1 s.lcs ++ [t] ++ zeros 2 ++
  leBytes 4 h.toNat ++ leBytes 8 attr.toNat ++ leBytes 4 parent.toNat ++ leBytes 1 depth ++ leBytes 1 flags ++ zeros 2 ++
  leBytes 8 counter ++ padTo 48 id ++ padTo 48 s.vault.measurement ++ padTo 48 s.plan.digest ++ padTo 32 challenge ++
  leBytes 8 s.uptimeNs ++ zeros 24

/-- A report signed with the DAK: ECDSA P-384 over bytes 0 to 255 with SHA-384. -/
def State.signReport (s : State) (head : List Byte) : List Byte × State :=
  let r := s.signWith 0x01 0x02 0x21 s.vault.dak (sha384 head)
  (head ++ r.1, r.2)

/-- A device report for a challenge. -/
def State.deviceReport (s : State) (t : Byte) (challenge : List Byte) : List Byte × State :=
  s.signReport (s.reportHead 2 t noHandle 0 noHandle 0 0 0 [] challenge)

/-- Fields and state of KEY_ATTEST (R152, R156). -/
def State.attestCheck (s : State) (it : Item) : Option Status :=
  if !zeroRange it.desc 60 64 then some stBadField
  else if it.le 48 8 % 8 ≠ 0 then some stBadAlignment
  else if it.le 56 4 < 352 then some stLengthLimit
  else if s.lcs ≠ lcDeployed then some stNotServing
  else none

/-- Opcode 0x050A. -/
def execKeyAttest (item : Nat) (s : State) : Result :=
  .next (s.onRunning item fun it =>
    if it.opcode ≠ 0x050A then s
    else
      let challenge := slice it.desc 16 32
      match s.attestCheck it with
      | some st => s.failItem item st
      | none =>
        let done := fun (r : List Byte × State) => (r.2.writeOut item (it.le 48 8) r.1).complete item stOk (okBody 352 [])
        if it.key = noHandle then done (s.deviceReport it.tenantByte challenge)
        else
          match s.reportCheck it.key, s.describe it.key with
          | some st, _ => s.failItem item st
          | none, none => s.failItem item stKeyNotFound
          | none, some (attr, parent, depth, _, id) =>
            done (s.signReport (s.reportHead 1 it.tenantByte it.key attr parent depth (s.keyFlags it.key)
              (s.reportCounter it.key attr) id challenge)))

/-- The certificate area as KEY_DEVICE_CERT returns it (R150). -/
def State.certChain (s : State) : List Byte :=
  leBytes 4 s.vault.certArea.length ++ (s.vault.certArea.map fun c => leBytes 4 c.length ++ c).flatten

/-- Opcode 0x050B. -/
def execKeyDeviceCert (item : Nat) (s : State) : Result :=
  .next (s.onRunning item fun it =>
    let out := s.certChain
    if it.opcode ≠ 0x050B then s
    else if !zeroRange it.desc 20 24 ∨ !zeroRange it.desc 32 64 then s.failItem item stBadField
    else if it.le 16 4 < out.length then s.failItem item stLengthLimit
    else (s.writeOut item (it.le 24 8) out).complete item stOk (okBody out.length []))

end Sys2Proof.Machine
end

