-- ==== Sys2Proof/Machine/Pke.lean ====
section
/-! DEFINITION. The public-key engines (chapter 9): slots and eligibility, jobs, the opcodes 0x0301 to 0x0305 with their
validation windows, arithmetic programs, and the faults and aborts of engines. -/

namespace Sys2Proof.Machine

/-! ## Engines and their slots (R275 to R277) -/

/-- The plan's entry of an engine. -/
def State.pkeEntry (s : State) (e : Nat) : Option PkeEntry := s.plan.running.pke.find? (·.engine == e)

/-- Slot length L in words by SLOT_L code (R33). -/
def slotWords (code : Nat) : Nat := 4 * 2 ^ code

/-- The engine names the odd half of a fused pair (R279). -/
def State.oddFused (s : State) (e : Nat) : Bool := e % 2 == 1 && (s.pkeEntry e).any (·.fused)

/-- Words of an engine's Cistern (R275) and of its scratch (R276). -/
def PkeEntry.words (p : PkeEntry) : Nat := if p.fused then 16384 else 8192
def PkeEntry.scratchWords (p : PkeEntry) : Nat := if p.fused then 1024 else 512

/-- Slots of an engine outside every window, ascending. -/
def State.outsideSlots (s : State) (p : PkeEntry) : List Nat :=
  (List.range (p.words / slotWords p.slotL)).filter fun i =>
    !(s.plan.running.windows.any fun w => w.engine == p.engine && decide (w.firstSlot ≤ i) && decide (i < w.firstSlot + w.slotCount))

/-- The scratch slots: the highest ones outside every window; none where there are too few (R276). -/
def State.scratchSlots (s : State) (p : PkeEntry) : List Nat :=
  let out := s.outsideSlots p
  let n := p.scratchWords / slotWords p.slotL
  if out.length < n then [] else out.drop (out.length - n)

/-- The pool slots. -/
def State.poolSlots (s : State) (p : PkeEntry) : List Nat :=
  let out := s.outsideSlots p
  let n := p.scratchWords / slotWords p.slotL
  if out.length < n then out else out.take (out.length - n)

/-- A pool slot is claimed, or is being zeroed after a claim (R278). -/
def State.slotTaken (s : State) (e i : Nat) : Bool :=
  (s.itemList.any fun it => match it.claim.cistern with
    | some (k, f, n) => k == e && decide (f ≤ i) && decide (i < f + n)
    | none => false) ||
  ((s.pke.engines[e]?).map fun k => k.zeroing.any fun r => decide (r.1 ≤ i) && decide (i < r.1 + r.2)).getD false

/-- The lowest-numbered run of `n` contiguous free pool slots of an engine. -/
def State.freeRun (s : State) (p : PkeEntry) (n : Nat) : Option Nat :=
  let pool := s.poolSlots p
  pool.find? fun i => (List.range n).all fun d => pool.contains (i + d) && !s.slotTaken p.engine (i + d)

/-- An engine is in state owned: in service, not fenced, not testing, not locked out, not erased (R277). -/
def State.engineOwned (s : State) (e : Nat) : Bool :=
  !s.pke.erased && (s.pke.engines[e]?).any fun k => !k.fenced && !k.testing && !k.locked

/-- W_MAX and WORDS of an ALG (R277). -/
def wMax (alg : Nat) : Nat :=
  match alg with
  | 0x21 => 6
  | 0x22 => 9
  | 0x30 => 32
  | 0x31 => 48
  | 0x32 => 64
  | 0x33 => 128
  | 0x34 => 256
  | _ => 4

def cisternNeed (alg : Nat) : Nat :=
  match alg with
  | 0x21 => 384
  | 0x22 => 640
  | 0x30 => 1024
  | 0x31 => 1536
  | 0x32 => 2048
  | 0x33 => 4096
  | 0x34 => 8192
  | _ => 256

/-- Engines eligible for a key-bearing item, in the order in which the claim tries them (R277). -/
def State.eligible (s : State) (t : Option Byte) (alg : Nat) (long : Bool) : List PkeEntry :=
  let ok := fun (p : PkeEntry) =>
    s.engineOwned p.engine && !s.oddFused p.engine && (s.scratchSlots p) != [] && decide (wMax alg ≤ slotWords p.slotL) &&
      (p.longOk || !long) && (alg != 0x34 || p.fused) && (!p.pinned || t == some p.owner)
  let es := (List.range 8).filterMap s.pkeEntry |>.filter ok
  es.filter (·.pinned) ++ es.filter (!·.pinned)

/-- The Cistern run of a claim: engine, first slot, count. -/
def State.cisternRun (s : State) (t : Option Byte) (alg : Nat) (long : Bool) : Option (Nat × Nat × Nat) :=
  (s.eligible t alg long).findSome? fun p =>
    let n := (cisternNeed alg + slotWords p.slotL - 1) / slotWords p.slotL
    (s.freeRun p n).map fun f => (p.engine, f, n)

/-! ## Engine time (R280, R300) -/

/-- PKE cycles of an operation on an ALG by R300; the table gives none for the others, and their cycles are open. -/
def pkCycles (op alg : Nat) (fused : Bool) : Option Nat :=
  match op, alg with
  | 0x0301, 0x20 => some 60000
  | 0x0302, 0x20 => some 82000
  | 0x0301, 0x21 => some 150000
  | 0x0302, 0x21 => some 205000
  | 0x0301, 0x22 => some 400000
  | 0x0301, 0x28 => some 53000
  | 0x0302, 0x28 => some 110000
  | 0x0303, 0x20 => some 52000
  | 0x0303, 0x21 => some 130000
  | 0x0303, 0x29 => some 45000
  | 0x0301, 0x30 => some 135000
  | 0x0302, 0x30 => some 6000
  | 0x0301, 0x31 => some 400000
  | 0x0301, 0x32 => some 865000
  | 0x0302, 0x32 => some 14000
  | 0x0301, 0x33 => some (if fused then 3500000 else 6100000)
  | 0x0301, 0x34 => some 24000000
  | _, _ => none

/-- An RSA private operation runs as one job, LONG from 160,001 cycles on; every other operation runs as SHORT jobs. -/
def pkLong (op alg : Nat) : Bool := op == 0x0301 && algIsRsa alg && alg != 0x30

/-! ## Jobs (R280 to R283) -/

def State.modifyEngine (s : State) (e : Nat) (f : PkEngine → PkEngine) : State :=
  { s with pke := { s.pke with engines := s.pke.engines.modify e f } }

/-- Queue a job on an engine, which starts it if it is free. -/
def State.queueJob (s : State) (e : Nat) (j : PkJob) : State :=
  s.modifyEngine e fun k =>
    PkEngine.pick (if j.long then { k with longQ := k.longQ ++ [j] } else { k with shortQ := k.shortQ ++ [j] })

/-- Engine time of the next job of a work: a LONG job whole, a SHORT one at most 160,000 cycles. -/
def nextCycles (long : Bool) (cycles : Nat) : Nat := if long then cycles else min cycles 160000

/-- Start the engine work of an item whose checks have passed: the first job is queued, and the item yields its core for
a LONG job (R100, R283). -/
def State.startWork (s : State) (it : Item) (w : PkWork) (long : Bool) : State :=
  let s := s.setWork { w with stage := .queued }
  let s := s.queueJob w.engine { item := it.id, long := long, cycles := nextCycles long w.cycles }
  if long then s.yieldItem it.id .engine else s

/-! ## Signature schemes (R292) -/

def Item.pkScheme (it : Item) : Nat := it.byte 16
def Item.pkHash (it : Item) : Nat := it.byte 17
def Item.pkBig (it : Item) : Bool := bit (it.byte 18) 0
def Item.pkInLen (it : Item) : Nat := it.le 20 4
def Item.pkInIova (it : Item) : Nat := it.le 24 8

/-- SCHEME, HASH and ENC are defined and agree. -/
def schemeOk (op scheme hash enc : Nat) : Bool :=
  decide (1 ≤ scheme) && decide (scheme ≤ 5) && !(op == 0x0302 && scheme == 5) && decide (enc ≤ 1) &&
  (if scheme = 2 ∨ scheme = 5 then hash == 0 else decide (1 ≤ hash) && decide (hash ≤ 3)) && (scheme != 2 || enc == 0)

/-- SCHEME fits an ALG. -/
def schemeFits (scheme alg : Nat) : Bool :=
  if scheme = 1 then algIsEcc alg else if scheme = 2 then alg == 0x28 else algIsRsa alg

/-- Numbers of a signature or representative, between the order of ENC and little-endian: r and s apart for ECDSA. -/
def sigOrder (scheme alg : Nat) (big : Bool) (b : List Byte) : List Byte :=
  if !big then b
  else if scheme = 1 then flip (b.take (sigLen alg / 2)) ++ flip (b.drop (sigLen alg / 2))
  else flip b

/-! ## Checks before the claim (R296, steps 1 to 6) -/

/-- ALG of the key that KEY names. -/
def State.keyAlg (s : State) (h : Word) : Nat := ((s.slotAttr h).map fun a => attrAlg a.1).getD 0

/-- The window of a tenant on an engine. -/
def State.windowOf (s : State) (t : Byte) (e : Nat) : Option PkeWindow :=
  s.plan.running.windows.find? fun w => w.engine == e && w.tenant == t

/-- Slots that the public part of a key takes from KEY_DST on, and whether each fits one slot (R298). -/
def publicSlots (alg l : Nat) : Option Nat :=
  if algIsRsa alg then (if rsaLen alg / 8 ≤ l then some 2 else none)
  else if algIsEcc alg then (if ((curveOf alg).f + 7) / 8 ≤ l then some 2 else none)
  else some 1

/-- KEYSPEC of PK_AGREE (R293). -/
def State.agreeSpecOk (s : State) (it : Item) : Bool :=
  let k := it.keySpec
  k.cls == 2 && (k.alg == 0x01 || k.alg == 0x02 || k.alg == 0x10) && s.specOk k &&
  match s.keyView it.key with
  | some p => decide (p.depth + 1 ≤ 3) && (!attrExport k.attr || attrExport p.attr)
  | none => true

def Item.progEngine (it : Item) : Nat := it.byte 16
def Item.progKeyDst (it : Item) : Nat := it.le 18 2
def Item.progLen (it : Item) : Nat := it.le 20 4
def Item.progSlots (it : Item) : Nat := it.le 40 4
def Item.progOutFirst (it : Item) : Nat := it.le 44 2
def Item.progOutCount (it : Item) : Nat := it.le 46 2

/-- Slot length of an engine in words. -/
def State.engineL (s : State) (e : Nat) : Nat := ((s.pkeEntry e).map fun p => slotWords p.slotL).getD 4

/-- Steps 1 to 6 of R296. -/
def State.pkCheck (s : State) (it : Item) : Option Status :=
  let op := it.opcode
  let alg := s.keyAlg it.key
  if op = 0x0305 then (if 16 ≤ it.byte 20 ∨ !zeroRange it.desc 21 64 then some stBadField else none)
  else if op = 0x0304 then
    let e := it.progEngine
    let w := s.windowOf it.tenantByte e
    let noKey := it.key == noHandle
    let fits := match w with
      | none => true
      | some w =>
        decide (it.progOutFirst + it.progOutCount ≤ w.slotCount) && decide (it.progSlots ≤ w.slotCount) &&
          (it.progKeyDst == 0xFFFF || (match publicSlots alg (s.engineL e) with
            | some n => decide (it.progKeyDst + n ≤ w.slotCount)
            | none => false))
    firstFail [
      (it.byte 17 == 0 && zeroRange it.desc 56 64 && decide (e < 8) && !s.oddFused e && (!noKey || it.progKeyDst == 0xFFFF),
        stBadField),
      (it.le 24 8 % 8 == 0 && it.le 32 8 % 8 == 0 && it.le 48 8 % 8 == 0, stBadAlignment),
      (decide (it.progLen ≤ 8192), stLengthLimit),
      (it.progLen != 0 && fits, stBadField),
      ((s.tenantEntry it.tenantByte).any (·.programs) && w.isSome, stAccessDenied),
      (noKey || algIsAsym alg, stKeyUsage),
      (s.engineOwned e, stNoResource)]
  else if op = 0x0303 then
    firstFail [
      (it.byte 18 == 0 && it.byte 19 == 0 && zeroRange it.desc 56 64, stBadField),
      (it.le 32 8 % 8 == 0 && it.le 48 8 % 8 == 0, stBadAlignment),
      (decide (it.le 44 4 ≤ 256), stBadField),
      (algIsEcc alg || alg == 0x29, stKeyUsage),
      (s.agreeSpecOk it, stBadField),
      (s.eligible it.tenant alg false != [], stNoResource)]
  else
    let sch := it.pkScheme
    let n := it.pkInLen
    firstFail [
      (it.byte 19 == 0 && zeroRange it.desc 44 64 && schemeOk op sch it.pkHash (it.byte 18), stBadField),
      (it.pkInIova % 8 == 0 && it.le 32 8 % 8 == 0, stBadAlignment),
      (sch != 2 || decide (n ≤ 65536), stLengthLimit),
      (sch == 2 || sch == 5 || n == digestLen it.pkHash, stBadField),
      (schemeFits sch alg && (op != 0x0301 || (s.keyView it.key).all (!·.pubOnly)), stKeyUsage),
      (s.eligible it.tenant alg (pkLong op alg) != [], stNoResource)]

/-- USAGE and ENGINE of the key at the claim (R291, R298). -/
def State.pkKeyCheck (s : State) (it : Item) : Option Status :=
  let u := fun n => s.useCheck it.key [n] [engPke] 0
  if it.opcode = 0x0301 then u useSign
  else if it.opcode = 0x0302 then u useVerify
  else if it.opcode = 0x0303 then u useDerive
  else if it.key = noHandle then none
  else if u useVerify = none then none
  else u useDerive

/-! ## PK_SIGN, PK_VERIFY, PK_AGREE (R284, R285, R291 to R296) -/

/-- Bytes 16 to 31 of a public-key record (R295). -/
def pkRest (first : List Byte) (word engine jobs nas : Nat) : List Byte :=
  padTo 8 first ++ leBytes 4 word ++ leBytes 1 engine ++ leBytes 1 jobs ++ [0] ++ leBytes 1 nas

/-- Step 8 of R296: lengths against the key, and the session quota. -/
def State.pkLengths (s : State) (it : Item) (alg : Nat) : Option Status :=
  if it.opcode = 0x0301 then
    if it.le 40 4 < sigLen alg then some stLengthLimit
    else if it.pkScheme = 5 ∧ it.pkInLen ≠ rsaLen alg then some stBadField else none
  else if it.opcode = 0x0302 then (if it.le 40 4 ≠ sigLen alg then some stBadField else none)
  else
    let n := it.le 40 4
    let f := (curveOf alg).f
    if !(if alg = 0x29 then n == 32 else n == 1 || n == 1 + 2 * f) then some stBadField
    else if !s.quotaLeft it.tenantByte 2 then some stNoResource else none

/-- The peer's public part of PK_AGREE in the key table's order, from its encoding. -/
def peerPart (alg : Nat) (enc : List Byte) : List Byte :=
  if alg = 0x29 then enc
  else
    let f := (curveOf alg).f
    flip (slice enc 1 f) ++ flip (slice enc (1 + f) f)

/-- Validation of R285: the status of the first check that fails. -/
def pkValidate (op scheme alg : Nat) (pub input second : List Byte) : Option Status :=
  let c := curveOf alg
  if op = 0x0301 then
    if scheme = 5 then
      let x := ofLe input
      if x ≤ 1 ∨ rsaN (rsaLen alg) pub ≤ x then some stInputRange else none
    else none
  else if op = 0x0302 then
    if scheme = 1 then
      let r := leAt second 0 c.f
      let t := leAt second c.f c.f
      if r = 0 ∨ t = 0 ∨ c.n ≤ r ∨ c.n ≤ t then some stVerifyFail else none
    else if scheme = 2 then
      if l25519 ≤ ofLe (second.drop 32) ∨ (edDecode (second.take 32)).isNone ∨ (edDecode pub).isNone then some stVerifyFail
      else none
    else if rsaN (rsaLen alg) pub ≤ ofLe second then some stVerifyFail else none
  else if alg = 0x29 then
    if lowOrderU.contains (ofLe input % 2 ^ 255 % q25519) then some stInvalidPoint else none
  else if input.length ≠ 1 + 2 * c.f ∨ byteAt input 0 ≠ 0x04 ∨ !pointValid alg (peerPart alg input) then some stInvalidPoint
  else none

/-- The input bytes of a public-key item: message or representative with the signature, or peer with INFO; numbers
little-endian. -/
def State.pkInputs (_s : State) (it : Item) (alg : Nat) : Option (List Byte × List Byte) :=
  if it.opcode = 0x0303 then
    match it.hostBytes (it.le 32 8) (it.le 40 4), it.hostBytes (it.le 48 8) (it.le 44 4) with
    | some a, some b => some (a, b)
    | _, _ => none
  else
    let sch := it.pkScheme
    match it.hostBytes it.pkInIova it.pkInLen,
      (if it.opcode = 0x0302 then it.hostBytes (it.le 32 8) (it.le 40 4) else some []) with
    | some a, some b => some (if sch = 5 then sigOrder sch alg it.pkBig a else a, sigOrder sch alg it.pkBig b)
    | _, _ => none

/-- Derived key material of PK_AGREE: one-step KDF over Z and INFO (R293). -/
def agreeKey (keyAlg outAlg : Nat) (z info : List Byte) : List Byte :=
  let h := if keyAlg = 0x21 ∨ keyAlg = 0x22 then 0x02 else 0x01
  let k := digest h ([0, 0, 0, 1] ++ z ++ info)
  if outAlg = 0x10 then k else k.take (((algRow outAlg).map (·.matMax)).getD 0)

/-- What an item delivers when its engine work ends: status and output. The main DRBG's blinding draw comes first
(R284). -/
def State.pkResult (s : State) (it : Item) (alg : Nat) (a b : List Byte) : Status × List Byte × State :=
  let m := it.material it.key
  if it.opcode = 0x0301 then
    let s := (s.draw (if algIsRsa alg then rsaLen alg else 8)).2
    let r := s.signWith it.pkScheme it.pkHash alg m a
    (stOk, sigOrder it.pkScheme alg it.pkBig r.1, r.2)
  else if it.opcode = 0x0302 then
    let pub := publicPart alg ((it.held it.key).any (·.pubOnly)) m
    (if verifySig it.pkScheme it.pkHash alg pub a b then stOk else stVerifyFail, [], s)
  else
    let s := (s.draw 8).2
    (stOk, agreeKey alg it.keySpec.alg (sharedSecret alg m (peerPart alg a)) b, s)

/-- The engine work of an item has ended: its output is delivered and it completes (R295). -/
def State.pkDeliver (s : State) (it : Item) (w : PkWork) : State :=
  let s := s.dropWork it.id
  let alg := s.keyAlg it.key
  if w.status ≠ stOk then s.complete it.id w.status (zeros 8 ++ pkRest [] 0 w.engine w.jobs 0)
  else if it.opcode = 0x0303 then
    let k := it.keySpec
    let p := it.held it.key
    let attr := (p.map (·.attr)).getD 0
    let depth := ((s.keyView it.key).map (·.depth)).getD 0
    match s.createSession { attr := finalAttr k.attr (attrOrigin attr) (attrBound attr) it.tenantByte k.alg, parent := it.key,
                            depth := depth + 1, noncePrefix := k.noncePrefix, material := w.out, pubOnly := false } with
    | none => s.failItem it.id stNoResource
    | some (h, s) =>
      s.complete it.id stOk (leBytes 8 h.toNat ++ pkRest (keyId8 k.alg false w.out) 0 w.engine w.jobs (b2n (alg == 0x29)))
  else
    let s := s.writeOut it.id (it.le 32 8) w.out
    s.complete it.id stOk (leBytes 8 w.out.length ++ pkRest [] 0 w.engine w.jobs 0)

/-- The command of a public-key opcode: it opens the validation window (R285), or delivers the result of a LONG job. -/
def State.pkStart (s : State) (item op : Nat) : State :=
  s.onRunning item fun it =>
    if it.opcode ≠ op ∨ !it.claimed then s
    else
      match s.workOf item with
      | some w => if w.stage = .complete then s.pkDeliver it w else s
      | none =>
        match s.pkLengths it (s.keyAlg it.key) with
        | some st => s.failItem item st
        | none =>
          match it.claim.cistern with
          | none => s
          | some (e, _, _) => s.openWindow it e

def execPkSign (item : Nat) (s : State) : Result := .next (s.pkStart item 0x0301)
def execPkVerify (item : Nat) (s : State) : Result := .next (s.pkStart item 0x0302)
def execPkAgree (item : Nat) (s : State) : Result := .next (s.pkStart item 0x0303)

/-- An item is refused under R285. -/
def State.refuseInput (s : State) (item : Nat) (st : Status) : State :=
  let s := s.dropWork item
  ({ s with pke := { s.pke with valFail := s.pke.valFail + 1 } }).failItem item st

/-- The end of a validation window (R285): the first failing check's status, or the start of the engine work. Nothing
happens before the input has arrived. -/
def execPkValidationWindowEnd (item : Nat) (s : State) : Result :=
  .next (s.onRunning item fun it =>
    match s.workOf item with
    | none => s
    | some w =>
      if w.stage ≠ .window then s
      else if it.opcode = 0x0502 then
        match it.hostBytes (it.le 40 8) (it.le 32 4) with
        | none => s
        | some blob =>
          match s.importMaterial it blob with
          | .error st => (s.dropWork item).failItem item st
          | .ok m =>
            match importValid it.keySpec.alg (it.keySpec.format == 1) m with
            | some st => s.refuseInput item st
            | none => (s.dropWork item).finishImport it m
      else
        let alg := s.keyAlg it.key
        match s.pkInputs it alg with
        | none => s
        | some (a, b) =>
          let pub := publicPart alg ((it.held it.key).any (·.pubOnly)) (it.material it.key)
          match pkValidate it.opcode it.pkScheme alg pub a b with
          | some st => s.refuseInput item st
          | none =>
            let r := s.pkResult it alg a b
            let c : Nat × State := match pkCycles it.opcode alg ((s.pkeEntry w.engine).any (·.fused)) with
              | some n => (n, r.2.2)
              | none => (let x := r.2.2.choose
                         (x.1 % 160000 + 1, x.2))
            c.2.startWork it { w with status := r.1, out := r.2.1, cycles := c.1 } (pkLong it.opcode alg))

/-! ## Arithmetic programs (R297 to R299) -/

/-- A decoded program command (R297). -/
structure ProgWord where
  op  : Nat
  dst : Nat
  a   : Nat
  b   : Nat
  n   : Nat
  w   : Nat
  rsv : Nat
  deriving DecidableEq, Repr

def progWord (v : Nat) : ProgWord :=
  { op := bits v 0 4, dst := bits v 4 12, a := bits v 16 12, b := bits v 28 12, n := bits v 40 12, w := bits v 52 9,
    rsv := bits v 61 3 }

/-- Slots that `words` words from slot `first` on span, all below `slots`. -/
def spanOk (first words l slots : Nat) : Bool := decide (first + (words + l - 1) / l ≤ slots)

/-- A command word passes the check of R298, in a window of `slots` slots of `l` words; `more` says that a value word
follows. -/
def progWordOk (l slots : Nat) (c : ProgWord) (more : Bool) : Bool :=
  c.rsv == 0 && decide (c.dst < slots) &&
  match c.op with
  | 1 => c.n == 0 && decide (1 ≤ c.w) && decide (c.w ≤ l) && decide (c.a < slots) && decide (c.b < slots) && spanOk c.dst (2 * c.w) l slots
  | 2 => c.n == 0 && decide (1 ≤ c.w) && decide (c.w ≤ l) && decide (c.a < slots) && decide (c.b < slots) &&
         spanOk c.dst (2 * c.w + 1) l slots
  | 3 => decide (1 ≤ c.w) && decide (c.w ≤ l) && decide (c.a < slots) && decide (c.b < slots) && decide (c.n < slots)
  | 4 => c.b == 0 && decide (1 ≤ c.w) && decide (c.w ≤ l) && decide (c.a < slots) && decide (c.n < slots)
  | 5 => c.b == 0 && c.n == 0 && c.w == 0 && decide (c.a < l) && more
  | 6 => c.b == 0 && c.n == 0 && decide (1 ≤ c.w) && decide (c.w ≤ l)
  | _ => false

/-- The program as commands with their word index and LDW value; the index of the first word that fails the check. -/
def progParse (l slots : Nat) : Nat → List Nat → List (Nat × ProgWord × Nat) ⊕ Nat
  | _, [] => .inl []
  | i, v :: r =>
    let c := progWord v
    if !progWordOk l slots c (!r.isEmpty) then .inr i
    else if c.op = 5 then
      match r with
      | [] => .inr i
      | x :: r' => match progParse l slots (i + 2) r' with
        | .inl cs => .inl ((i, c, x) :: cs)
        | .inr j => .inr j
    else match progParse l slots (i + 1) r with
      | .inl cs => .inl ((i, c, 0) :: cs)
      | .inr j => .inr j

/-- PKE cycles of a command (R273). -/
def progCycles (fused : Bool) (c : ProgWord) : Nat :=
  let d := if fused then 2 else 1
  let sq := c.w * c.w
  match c.op with
  | 1 => max 8 ((sq + 16 * d - 1) / (16 * d) + c.w)
  | 2 => max 8 ((sq + 16 * d - 1) / (16 * d) + c.w)
  | 3 => max 14 ((sq + 8 * d - 1) / (8 * d) + c.w)
  | 4 => max 14 ((sq + 8 * d - 1) / (8 * d) + c.w)
  | 6 => (c.w + 7) / 8
  | _ => 1

/-- The inverse of an odd number modulo 2^k by Newton's iteration. -/
def invPow2 (n k : Nat) : Nat :=
  (List.range 16).foldl (fun x _ => x * subMod 2 (n * x % 2 ^ k) (2 ^ k) % 2 ^ k) (n % 2 ^ k)

/-- REDC(X) for R = 2^(64 w) (R273). -/
def redc (x n w : Nat) : Nat :=
  let r := 2 ^ (64 * w)
  let q := x % r * ((r - invPow2 n (64 * w)) % r) % r
  let t := (x + q * n) / r
  if n ≤ t then t - n else t

/-- Read and write `w` words from a slot of a window held as bytes. -/
def slotRead (l : Nat) (win : List Byte) (slot w : Nat) : Nat := leAt win (8 * l * slot) (8 * w)
def slotWrite (l : Nat) (win : List Byte) (slot off w v : Nat) : List Byte := overlay win (8 * (l * slot + off)) (leBytes (8 * w) v)

/-- Run one command on a window; none where R299 ends the program. -/
def progStep (l : Nat) (win : List Byte) (c : ProgWord) (value : Nat) : Option (List Byte) :=
  let a := slotRead l win c.a c.w
  let b := slotRead l win c.b c.w
  let n := slotRead l win c.n c.w
  match c.op with
  | 1 => some (slotWrite l win c.dst 0 (2 * c.w) (a * b))
  | 2 => some (slotWrite l win c.dst 0 (2 * c.w + 1) (slotRead l win c.dst (2 * c.w + 1) + a * b))
  | 3 => if n % 2 = 0 then none else some (slotWrite l win c.dst 0 c.w (redc (a * b) n c.w))
  | 4 => if n % 2 = 0 then none else some (slotWrite l win c.dst 0 c.w (redc (a * a) n c.w))
  | 5 => some (slotWrite l win c.dst c.a 1 value)
  | _ => some (slotWrite l win c.dst 0 c.w 0)

/-- Run a program: the window, and the index of the command that ended it, if one did. -/
def progRun (l : Nat) : List Byte → List (Nat × ProgWord × Nat) → List Byte × Option Nat
  | win, [] => (win, none)
  | win, (i, c, v) :: r =>
    match progStep l win c v with
    | none => (win, some i)
    | some w => progRun l w r

/-- The public part of a key as it is loaded from a slot on (R298). -/
def publicLoad (alg l : Nat) (pub : List Byte) : List Byte :=
  let k := if algIsRsa alg then rsaLen alg else (curveOf alg).f
  if algIsRsa alg ∨ algIsEcc alg then padTo (8 * l) (pub.take k) ++ padTo 8 (pub.drop k) ++
    (if algIsEcc alg then padTo ((k + 7) / 8 * 8 - 8) (pub.drop (k + 8)) else [])
  else pub.take 32

/-- Interconnect address of a window's first byte, and its length in bytes. -/
def State.windowAddr (s : State) (w : PkeWindow) : Nat := cisternBase w.engine + 8 * s.engineL w.engine * w.firstSlot
def State.windowLen (s : State) (w : PkeWindow) : Nat := 8 * s.engineL w.engine * w.slotCount

/-- The window's contents. -/
def State.windowBytes (s : State) (w : PkeWindow) : List Byte := memRead s.mem.cells (s.windowAddr w) (s.windowLen w)

/-- The words of a program. -/
def progWords (bs : List Byte) : List Nat := (chunks 8 bs).map ofLe

/-- Completion body of PK_PROGRAM (R295). -/
def progBody (written cycles failWord engine nas : Nat) : List Byte :=
  leBytes 8 written ++ pkRest (leBytes 8 cycles) failWord engine 1 nas

/-- The program has run: results go to host memory, or the program ended at a command (R298, R299). -/
def State.progDeliver (s : State) (it : Item) (w : PkWork) : State :=
  let s := s.dropWork it.id
  let e := it.progEngine
  match s.windowOf it.tenantByte e with
  | none => s.failItem it.id stNoResource
  | some win =>
    let l := s.engineL e
    match progParse l win.slotCount 0 (progWords w.out) with
    | .inr i => s.complete it.id stBadField (progBody 0 0 i e 0)
    | .inl cs =>
      let r := progRun l (s.windowBytes win) cs
      let s := s.memStore (s.windowAddr win) r.1
      match r.2 with
      | some i => s.complete it.id stInputRange (progBody 0 w.cycles i e 0)
      | none =>
        let out := slice r.1 (8 * l * it.progOutFirst) (8 * l * it.progOutCount)
        (s.writeOut it.id (it.le 48 8) out).complete it.id stOk (progBody out.length w.cycles 0xFFFFFFFF e 1)

/-- Opcode 0x0304: load the inputs and the public part, check every command word, and start the job; or deliver the
result of a LONG job. -/
def execPkProgram (item : Nat) (s : State) : Result :=
  .next (s.onRunning item fun it =>
    let e := it.progEngine
    let l := s.engineL e
    if it.opcode ≠ 0x0304 ∨ !it.claimed then s
    else
      match s.workOf item with
      | some w => if w.stage = .complete then s.progDeliver it w else s
      | none =>
        match s.windowOf it.tenantByte e, it.hostBytes (it.le 24 8) (8 * it.progLen),
          it.hostBytes (it.le 32 8) (8 * l * it.progSlots) with
        | some win, some prog, some input =>
          let bytes := overlay (s.windowBytes win) 0 input
          let alg := s.keyAlg it.key
          let pub := publicPart alg ((it.held it.key).any (·.pubOnly)) (it.material it.key)
          let bytes := if it.progKeyDst = 0xFFFF then bytes else overlay bytes (8 * l * it.progKeyDst) (publicLoad alg l pub)
          let s := s.memStore (s.windowAddr win) bytes
          match progParse l win.slotCount 0 (progWords prog) with
          | .inr i => s.complete item stBadField (progBody 0 0 i e 0)
          | .inl cs =>
            let p := s.pkeEntry e
            let total := (cs.map fun c => progCycles (p.any (·.fused)) c.2.1).sum
            let long := decide (160000 < total)
            if long && !p.any (·.longOk) then s.complete item stNoResource (progBody 0 total 0xFFFFFFFF e 0)
            else
              s.startWork it { item := item, engine := e, stage := .queued, status := stOk, out := prog, body := [], jobs := 0,
                               cycles := total } long
        | _, _, _ => s)

/-! ## The engines' events (R282, R283) -/

/-- A LONG job passes a yield point: it parks if a SHORT job waits, keeping its slots; the scratch is zeroed. -/
def execPkYieldPoint (engine : Nat) (s : State) : Result :=
  match s.pke.engines[engine]? with
  | none => .next s
  | some k =>
    match k.running with
    | some j =>
      if j.long ∧ k.shortQ ≠ [] then
        .next (s.modifyEngine engine fun k =>
          PkEngine.pick { k with running := none, parked := some j, ahead := k.shortQ.map (·.item), parks := k.parks + 1 })
      else .next s
    | none => .next s

/-- A job completes (R283): the engine proceeds; an item with SHORT work left queues its next job, a LONG job's item
resumes, and any other item delivers its result. -/
def execPkJobComplete (engine : Nat) (s : State) : Result :=
  match (s.pke.engines[engine]?).bind (·.running) with
  | none => .next s
  | some j =>
    let s := s.modifyEngine engine fun k =>
      PkEngine.pick { k with running := none, jobs := k.jobs + 1, busy := k.busy + BitVec.ofNat 64 j.cycles }
    match s.workOf j.item, s.item j.item with
    | some w, some it =>
      let w := { w with jobs := w.jobs + 1 }
      let left := if it.opcode = 0x0304 then 0 else w.cycles - j.cycles
      if j.long then
        .next ((s.setWork { w with stage := .complete }).endWait it.id)
      else if left ≠ 0 then
        .next ((s.setWork { w with cycles := left }).queueJob engine { item := it.id, long := false, cycles := nextCycles false left })
      else if it.opcode = 0x0304 then .next (s.progDeliver it w)
      else .next (s.pkDeliver it w)
    | _, _ => .next s

/-! ## Faults and re-admission (R286, R287) -/

/-- An end check fails, or a Cistern word has an uncorrectable error (R286). -/
def execPkEndCheckFail (engine : Nat) (kind : BitVec 4) (s : State) : Result :=
  match s.pke.engines[engine]? with
  | none => .next s
  | some k =>
    if k.fenced ∨ s.oddFused engine ∨ s.pke.erased then .next s
    else
      let it := k.running.bind fun j => s.item j.item
      let tenant := it.bind (·.tenant)
      let s := match it with
        | some it => (s.dropWork it.id).failItem it.id stFaultDetected
        | none => s
      let s := { s with pke := { s.pke with
        faults := s.pke.faults + 1
        mmEngine := engine
        mmKind := kind
        mmTenant := tenant.getD 0
        mmTick := s.sys.tick } }
      .next (s.raiseEvents [unitEvent 0x6 (40 + engine) tenant])

/-- A unit may be re-admitted by the Steward: it is not locked out, and an operator fence waits for SEN_READMIT. -/
def State.mayReadmit (s : State) (u : UnitNo) : Bool :=
  s.unitFenced u && !s.sen.lockedOut.contains u && s.sen.level.isNone &&
    (!s.sen.operatorFenced.contains u || s.sen.readmits.any (·.1 == u))

/-- A re-admission ends: a SEN_READMIT that waits for it completes (R434). -/
def State.endReadmit (s : State) (u : UnitNo) (ok : Bool) : State :=
  let waiting := (s.sen.readmits.find? (·.1 == u)).bind (·.2)
  let s := { s with sen := { s.sen with
    readmits := s.sen.readmits.filter (·.1 != u)
    operatorFenced := if ok then s.sen.operatorFenced.erase u else s.sen.operatorFenced } }
  match waiting with
  | some id => s.endWaitWith id { status := if ok then stOk else stNoResource, origin1 := false, body := zeros 24 }
  | none => s

/-- Items that lacked a unit or an engine may be offered again (R98). -/
def State.unitBack (s : State) : State := s.wakeLacking [.share, .cistern]

/-- The Steward's zeroing and tests of a fenced engine end (R287): it is back with empty windows, or it is locked out. -/
def execPkEngineReadmit (engine : Nat) (testOk : Bool) (s : State) : Result :=
  let u := 0x40 + engine
  if 8 ≤ engine ∨ !s.mayReadmit u then .next s
  else
    let s := s.zeroCistern engine
    if testOk then
      let s' := s.modifyEngine engine fun k => { k with fenced := false, testing := false }
      .next ((s.noteMode s').unitBack.endReadmit u true)
    else
      let s := s.modifyEngine engine fun k => { k with fences := k.fences + 1, locked := true }
      let s := { s with
        pke := { s.pke with faults := s.pke.faults + 1, mmEngine := engine, mmKind := 0x5, mmTenant := 0, mmTick := s.sys.tick }
        sen := { s.sen with lockedOut := s.sen.lockedOut.insert u } }
      .next (s.endReadmit u false)

/-- The zeroing of released pool slots ends, and claims may take them (R278). -/
def execCisternPoolZeroed (engine firstSlot count : Nat) (s : State) : Result :=
  match s.pke.engines[engine]? with
  | none => .next s
  | some k =>
    if k.zeroing.contains (firstSlot, count) then
      .next ((s.modifyEngine engine fun k => { k with zeroing := k.zeroing.erase (firstSlot, count) }).wakeLacking [.cistern])
    else .next s

/-! ## PK_ABORT (R289, R290, R294) -/

/-- Opcode 0x0305: every matching item that has not completed ends with ST_ABORTED; its job leaves its engine with its
claim. -/
def execPkAbort (item : Nat) (s : State) : Result :=
  .next (s.onRunning item fun it =>
    if it.opcode ≠ 0x0305 then s
    else
      let hit := fun (o : Item) =>
        o.fn == it.fn && decide (0x0301 ≤ o.opcode) && decide (o.opcode ≤ 0x0304) && decide (o.id < it.id) && !o.isDone &&
          o.phase != .dropped && o.cookie == slice it.desc 16 4 &&
          (match o.source with
           | .queue _ q _ => q == it.byte 20
           | _ => false)
      let ids := (s.itemList.filter hit).map (·.id)
      let s := ids.foldl (fun s id => (s.dropWork id).failItem id stAborted) s
      let n := ids.length
      let s := { s with pke := { s.pke with aborts := s.pke.aborts + BitVec.ofNat 32 n } }
      s.complete item stOk (leBytes 8 n ++ pkRest [] 0 0xFF 0 0))

end Sys2Proof.Machine
end

