-- ==== Sys2Proof/Machine/UnitFence.lean ====
section
/-! DEFINITION. Faults of furrows, hash lanes, spread units and service cores, the mask generators' events, and the
Steward's re-admission of units (R111, R162 to R167, R172, R226, R227). -/

namespace Sys2Proof.Machine

/-! ## Faults of furrows and hash lanes (R165, R166, R172) -/

/-- CFB_MISMATCHES, CFB_MM_INFO and CFB_MM_TIME written for an event. -/
def State.noteMismatch (s : State) (unit : Nat) (kind : BitVec 2) (ctx : Nat) (tenant : Byte) : State :=
  { s with cfb := { s.cfb with
      mismatches := s.cfb.mismatches + 1
      mmUnit := unit
      mmKind := kind
      mmContext := ctx
      mmTenant := tenant
      mmTick := s.sys.tick } }

/-- The item whose share of a unit failed ends with ST_FAULT_DETECTED, every other item that holds a share of it with
ST_NO_RESOURCE, whatever the level of the event (R166, R172, R226); the tenant of the first. -/
def State.faultHolder (s : State) (u c : Nat) : State × Option Byte :=
  let others := fun (s : State) => s.endHolders fun it => it.claim.shares.any (·.1 == u)
  match s.shareHolder u c with
  | some it => (others (s.failItem it.id stFaultDetected), it.tenant)
  | none => (others s, none)

/-- The pipelines of a furrow disagree: the value is withheld, its item ends, and a D event fences the furrow. -/
def execFurrowMismatch (furrow ctx : Nat) (kind : BitVec 2) (s : State) : Result :=
  if !s.furrowPresent furrow ∨ 8 ≤ ctx ∨ kind = 0x3 ∨ s.sluFenced furrow ∨ s.cfb.erased then .next s
  else
    let p := s.faultHolder furrow ctx
    let s := p.1.noteMismatch furrow kind ctx (p.2.getD 0)
    .next (s.raiseEvents [unitEvent 0x6 furrow p.2])

/-- A parity error on a hash lane (R172). -/
def execHashLaneParityError (lane share : Nat) (s : State) : Result :=
  if 16 ≤ lane ∨ 4 ≤ share ∨ s.sluFenced (24 + lane) ∨ s.cfb.erased then .next s
  else
    let p := s.faultHolder (24 + lane) share
    let s := p.1.noteMismatch (24 + lane) 0x3 share (p.2.getD 0)
    .next (s.raiseEvents [unitEvent 0x6 (24 + lane) p.2])

/-- The compare of a spread unit fails (R226). -/
def execSpreadCheckFail (su share : Nat) (kind : BitVec 2) (s : State) : Result :=
  if 4 ≤ su ∨ 16 ≤ share ∨ s.sluFenced (20 + su) ∨ s.cfb.erased then .next s
  else
    let p := s.faultHolder (20 + su) share
    let s := { p.1 with spr := { p.1.spr with
      mismatches := p.1.spr.mismatches + 1
      mmUnit := su
      mmShare := share
      mmTenant := p.2.getD 0
      mmKind := kind
      mmTick := p.1.sys.tick } }
    .next (s.raiseEvents [unitEvent 0x6 (20 + su) p.2])

/-! ## Mask generators (R161 to R163) -/

/-- Generator of a pipeline: 0 for A, 1 for B. -/
def Furrow.gen (f : Furrow) (pipe : Nat) : MaskGen := if pipe = 0 then f.genA else f.genB

/-- Change one generator of a furrow. -/
def State.modifyGen (s : State) (u pipe : Nat) (g : MaskGen → MaskGen) : State :=
  { s with cfb := { s.cfb with furrows := s.cfb.furrows.modify u fun f =>
    if pipe = 0 then { f with genA := g f.genA } else { f with genB := g f.genB } } }

/-- The generator of a furrow that is neither fenced nor erased. -/
def State.liveGen (s : State) (u pipe : Nat) : Option MaskGen :=
  if !s.furrowPresent u ∨ 2 ≤ pipe ∨ s.sluFenced u ∨ s.cfb.erased then none
  else (s.cfb.furrows[u]?).map fun f => f.gen pipe

/-- A generator reaches 2^20 blocks and requests a seed. -/
def execMaskReseedRequest (furrow pipe : Nat) (s : State) : Result :=
  match s.liveGen furrow pipe with
  | some g =>
    if g.seeded ∧ 2 ^ 20 ≤ g.blocks ∧ !g.asked then .next (s.modifyGen furrow pipe fun g => { g with asked := true })
    else .next s
  | none => .next s

/-- A generator reaches 2^22 blocks without its seed: MASK_WAIT. -/
def execMaskWaitStop (furrow pipe : Nat) (s : State) : Result :=
  match s.liveGen furrow pipe with
  | some g =>
    if g.asked ∧ 2 ^ 22 ≤ g.blocks ∧ !g.stopped then .next (s.modifyGen furrow pipe fun g => { g with stopped := true })
    else .next s
  | none => .next s

/-- The requested seed arrives: 32 bytes of the main DRBG by a request of its own. -/
def execMaskSeedArrive (furrow pipe : Nat) (s : State) : Result :=
  match s.liveGen furrow pipe with
  | some g => if g.asked ∧ s.mainServes then .next (s.seedGen furrow (pipe == 1)) else .next s
  | none => .next s

/-! ## Re-admission (R167, R172, R227) -/

/-- A fenced sluice unit is back under its plan owner and role. -/
def State.unfence (s : State) (u : Nat) : State :=
  s.noteMode (s.modifyUnit u fun x => { x with state := if x.assigned then .owned else .unassigned })

/-- The unit returns to service: items that lacked it may be offered, and a SEN_READMIT completes. -/
def State.unitReturns (s : State) (u : Nat) : State := ((s.unfence u).unitBack).endReadmit u true

/-- A failed test of a furrow or lane counts as a fence (R167). -/
def State.unitTestFails (s : State) (u : Nat) : State := ((s.eraseUnit u true).noteLockOut u).endReadmit u false

/-- The scrub, the reseed of both generators and the known-answer tests of a furrow end. -/
def execFurrowReadmit (furrow : Nat) (testOk : Bool) (s : State) : Result :=
  if !s.furrowPresent furrow ∨ !s.mayReadmit furrow ∨ !s.mainServes then .next s
  else if testOk then .next ((s.seedFurrow furrow).unitReturns furrow)
  else .next ((s.seedFurrow furrow).unitTestFails furrow)

/-- The tests of a hash lane end. -/
def execHashLaneReadmit (lane : Nat) (testOk : Bool) (s : State) : Result :=
  if 16 ≤ lane ∨ !s.mayReadmit (24 + lane) then .next s
  else if testOk then .next (s.unitReturns (24 + lane))
  else .next (s.unitTestFails (24 + lane))

/-- The scrub and test of a spread unit end: one that fails its test is locked out (R227). -/
def execSpreadUnitReadmit (su : Nat) (testOk : Bool) (s : State) : Result :=
  let u := 20 + su
  if 4 ≤ su ∨ !s.mayReadmit u then .next s
  else if testOk then .next (s.unitReturns u)
  else .next (({ s with sen := { s.sen with lockedOut := s.sen.lockedOut.insert u } }).endReadmit u false)

/-! ## The core watchdog (R111) -/

/-- Base of the service cores' scratch (R378): 64 KiB for each core. -/
def scratchBase (core : Nat) : Nat := 0x0011_0000_0000 + 0x1_0000 * core

/-- Clear a core's scratch and its lines' tags. -/
def State.clearScratch (s : State) (c : Nat) : State :=
  { s with
    mem := { s.mem with cells := memErase s.mem.cells (scratchBase c) (scratchBase (c + 1)) }
    dsp := { s.dsp with scratchTags := s.dsp.scratchTags.filter fun p => !(decide (1024 * c ≤ p.1) && decide (p.1 < 1024 * (c + 1))) } }

/-- The item's time on its core does not count (R162, R283, R345): it waits for mask or DRBG randomness, or for its job
on an engine. -/
def State.watchdogHolds (s : State) (it : Item) : Bool :=
  s.maskWaits it || (s.pke.work.any fun w => w.item == it.id && w.stage == .queued) ||
    (it.stage == 1 && (it.opcode == 0x0601 || it.opcode == 0x0602))

/-- The Steward resets a core: its item completes with ST_TIMEOUT; a third reset within 1 s fences the core, with a
NOTICE. -/
def State.watchdog (s : State) (core : Nat) (it : Item) : State :=
  let s := s.failItem it.id stTimeout
  let s := s.clearScratch core
  let recent := (match s.dsp.cores[core]? with
    | some k => inWindow s.sys.tick 1000000 (s.sys.tick :: k.resets)
    | none => [])
  let s := s.modifyCore core fun k => { k with resets := recent }
  let s := { s with dsp := { s.dsp with coreResets := s.dsp.coreResets + 1 } }
  if 3 ≤ recent.length then
    (s.noteMode (s.modifyCore core fun k => { k with fenced := true })).raiseEvents [kEvent 0 (0x80 + core)]
  else s

def execCoreWatchdog (core : Nat) (s : State) : Result :=
  match s.itemList.find? fun it => it.phase == .running core with
  | some it => if s.watchdogHolds it then .next s else .next (s.watchdog core it)
  | none => .next s

end Sys2Proof.Machine
end

