-- ==== Sys2Proof/Machine/Sentinel.lean ====
section
/-! DEFINITION. The Sentinel's commands (chapter 14): sampled alarms, built-in tests, reserve measurements and the opcodes
0x0760 to 0x0764. -/

namespace Sys2Proof.Machine

/-! ## Sampled monitors (R408 to R411, R419) -/

/-- Classes whose instances are sampled: V, F, T, L, M, P, S, and Z0 and Z1. The other events have commands of their
own. -/
def sampled (x : Sample) : Bool :=
  (decide (x.cls ≤ 0x5) && decide (x.inst < instances x.cls)) || (x.cls == 0x8 && decide (x.inst < 2)) ||
    (x.cls == 0x9 && decide (x.inst < 2))

/-- One sample of each instance in a tick: the first. -/
def firstSamples (xs : List Sample) : List Sample :=
  xs.foldl (fun acc x => if acc.any fun y => y.cls == x.cls && y.inst == x.inst then acc else acc ++ [x]) []

/-- RAILS_OK after a sample of rail `r`: in its operating range of 3 % about nominal (R520, R529). -/
def railBits (ok : Byte) (r v : Nat) : Byte :=
  let nom := railNominal.getD r 0
  if 97 * nom ≤ 100 * v ∧ 100 * v ≤ 103 * nom then ok ||| BitVec.ofNat 8 (2 ^ r) else ok &&& ~~~(BitVec.ofNat 8 (2 ^ r))

/-- SEN_INST_VALUE of a sampled instance, and RAILS_OK for a rail. -/
def State.noteSample (s : State) (x : Sample) : State :=
  let s := if x.cls = 0x0 then { s with sys := { s.sys with railsOk := railBits s.sys.railsOk (x.inst / 2) x.value.toNat } } else s
  s.setMonitor x.cls x.inst { s.monitor x.cls x.inst with value := x.value }

/-- The event of a sample whose condition holds and whose response is not suppressed (R408, R411, R413). -/
def State.sampleEvent (s : State) (x : Sample) : Option AlarmEv :=
  if s.condition x && !s.mutedInHoldUp x && s.sen.underTest != some (x.cls, x.inst) then
    some { cls := x.cls, inst := x.inst, value := x.value, tenant := none, unit := 0xFFFF, bist := false, again := false,
           forced := none }
  else none

/-- One tick's samples give their events, which are combined, applied and logged. -/
def execAlarmRaise (samples : List Sample) (s : State) : Result :=
  if !s.sys.aonUp then .next s
  else
    let xs := (firstSamples samples).filter sampled
    let s := xs.foldl State.noteSample s
    .next (s.raiseEvents (xs.filterMap s.sampleEvent))

/-! ## Built-in tests (R413, R414) -/

/-- The instances that the Sentinel stimulates, in rotation order: classes V, F, T, L, M, P and Z. -/
def bistInstances : List (Nat × Nat) :=
  [0x0, 0x1, 0x2, 0x3, 0x4, 0x5, 0x9].flatMap fun c => (List.range (instances c)).map fun i => (c, i)

/-- Every instance of some class is FAILED (CLASS_LOST). -/
def State.classLost (s : State) (cls : Nat) : Bool := (List.range (instances cls)).all fun i => (s.monitor cls i).failed

def State.anyClassLost (s : State) : Bool := [0x0, 0x1, 0x2, 0x3, 0x4, 0x5, 0x9].any s.classLost

/-- Begin a run of tests: its first instance is under test. -/
def State.startBist (s : State) (r : BistRun) : State :=
  { s with sen := { s.sen with bist := some r, underTest := r.todo.head? } }

/-- t_BISTPER has passed: the next instance of the rotation, unless a test runs (R413). -/
def execBistRotation (s : State) : Result :=
  match s.sys.phase with
  | .off | .reset | .boot | .holdUp => .next s
  | _ =>
    let n := s.sen.rotation % bistInstances.length
    let s := { s with sen := { s.sen with rotation := (n + 1) % bistInstances.length } }
    if s.sen.bist.isSome ∨ s.sen.underTest.isSome then .next s
    else .next { s with sen := { s.sen with underTest := bistInstances[n]? } }

/-- Instances that a SEN_BIST names. -/
def Item.bistNamed (it : Item) : List (Nat × Nat) :=
  bistInstances.filter fun x => (it.byte 16 == 0xFF || x.1 == it.byte 16) && (it.byte 17 == 0xFF || x.2 == it.byte 17)

/-- A test run ends: its SEN_BIST completes and the next waiting one starts. -/
def State.endBist (s : State) (r : BistRun) : State :=
  let s := { s with sen := { s.sen with bist := none, underTest := none } }
  let s := match r.item with
    | some id => s.complete id stOk (leBytes 8 r.tested ++ leBytes 4 r.failed ++ leBytes 1 (b2n s.anyClassLost))
    | none => s
  let live := s.sen.bistQueue.filter fun id => (s.item id).any (·.isRunning)
  match live.head?.bind s.item with
  | some it =>
    ({ s with sen := { s.sen with bistQueue := live.drop 1 } }).startBist
      { item := some it.id, todo := it.bistNamed, tested := 0, failed := 0 }
  | none => { s with sen := { s.sen with bistQueue := [] } }

/-- A BIST entry of an instance (R414). -/
def bistEvent (cls inst : Nat) (l : Level) : AlarmEv :=
  { cls := cls, inst := inst, value := 0, tenant := none, unit := 0xFFFF, bist := true, again := false, forced := some l }

/-- The test of an instance ends (R414). -/
def State.bistResult (s : State) (cls inst : Nat) (passed : Bool) : State :=
  let m := s.monitor cls inst
  let s := s.setMonitor cls inst { m with failed := !passed }
  if passed then s
  else s.raiseEvents (bistEvent cls inst .notice :: (if s.classLost cls then [bistEvent cls inst .halt] else []))

/-- Go on with the run after a test. -/
def State.bistNext (s : State) (passed : Bool) : State :=
  match s.sen.bist with
  | none => { s with sen := { s.sen with underTest := none } }
  | some r =>
    let r := { r with todo := r.todo.drop 1, tested := r.tested + 1, failed := if passed then r.failed else r.failed + 1 }
    if r.todo = [] then s.endBist r else s.startBist r

/-- The test of an instance ends: of the one under test, or, in Boot, of each instance in turn (R413). -/
def execBistTestDone (cls inst : Nat) (passed : Bool) (s : State) : Result :=
  if s.sys.phase = .boot ∧ s.sen.bist.isNone ∧ bistInstances.contains (cls, inst) then .next (s.bistResult cls inst passed)
  else if s.sen.underTest ≠ some (cls, inst) then .next s
  else .next ((s.bistResult cls inst passed).bistNext passed)

/-! ## The reserve (R428) -/

/-- A full measurement: VRES, the reduced C and ESR. Retirement stores that were refused are tried again (R147). -/
def State.measure (s : State) (r : ReserveReading) : State :=
  { s with sen := { s.sen with vresMv := r.vresMv, capUf := r.capUf, esrMohm := r.esrMohm, measured := true } }.retryRetirements

/-- A full measurement may run: VDD_AON and VDD_IO are up and the device is not in Hold-up. -/
def State.mayMeasure (s : State) : Bool := s.sys.aonUp && s.sys.ioUp && s.sys.phase != .holdUp

/-! ## Opcodes 0x0760 to 0x0764 (R434, R435) -/

/-- SEQ of the oldest entry held. -/
def State.logOldest (s : State) : Nat := s.sen.logNext.toNat - s.sen.log.length

/-- Opcode 0x0760. -/
def execSenLogRead (item : Nat) (s : State) : Result :=
  .next (s.onRunning item fun it =>
    let first := it.le 16 4
    let most := it.le 20 4
    if it.opcode ≠ 0x0760 then s
    else if !zeroRange it.desc 36 64 ∨ most = 0 ∨ 2040 < most then s.failItem item stBadField
    else if it.le 24 8 % 64 ≠ 0 then s.failItem item stBadAlignment
    else if it.le 32 4 < 32 then s.failItem item stLengthLimit
    else
      let gap := decide (first < s.logOldest)
      let from' := max first s.logOldest
      let es := (s.sen.log.reverse.filter fun e => decide (from' ≤ e.seq.toNat)).take (min most (it.le 32 4 / 32))
      let c := s.choose
      let head := if es = [] then c.1 else from'
      let s := if es = [] then c.2 else s
      let s := s.writeOut item (it.le 24 8) (es.map LogEntry.bytes).flatten
      s.complete item stOk (leBytes 8 es.length ++ leBytes 4 head ++ leBytes 4 (from' + es.length) ++ leBytes 1 (b2n gap)))

/-- Opcode 0x0761: the named instances are tested one at a time; SEN_BIST items run one at a time. -/
def execSenBist (item : Nat) (s : State) : Result :=
  .next (s.onRunning item fun it =>
    let c := it.byte 16
    let classOk := decide (c ≤ 0x5) || c == 0x9 || c == 0xFF
    if it.opcode ≠ 0x0761 ∨ it.stage = 1 then s
    else if !zeroRange it.desc 18 64 ∨ !classOk ∨ it.bistNamed = [] then s.failItem item stBadField
    else
      let s := s.setItem { it with stage := 1 }
      if s.sen.bist.isSome then { s with sen := { s.sen with bistQueue := s.sen.bistQueue ++ [item] } }
      else s.startBist { item := some item, todo := it.bistNamed, tested := 0, failed := 0 })

/-- The unit that UNIT_KIND and INDEX name, numbered as UNIT of R425, if the part has it. -/
def State.namedUnit (s : State) (it : Item) : Option UnitNo :=
  let k := it.byte 16
  let n := it.byte 17
  if k = 0 ∧ s.furrowPresent n then some n
  else if k = 1 ∧ n < 16 then some (24 + n)
  else if k = 2 ∧ n < 4 then some (20 + n)
  else if k = 3 ∧ s.enginePresent n ∧ !s.oddFused n then some (0x40 + n)
  else if k = 4 ∧ n < 64 then some (0x80 + n)
  else none

/-- Opcode 0x0762: K1 is logged and its FENCE response fences the unit. -/
def execSenFence (item : Nat) (s : State) : Result :=
  .next (s.onRunning item fun it =>
    if it.opcode ≠ 0x0762 then s
    else
      match (if zeroRange it.desc 18 64 then s.namedUnit it else none) with
      | none => s.failItem item stBadField
      | some u =>
        let was := s.unitFenced u
        let s := if was then s else { s with sen := { s.sen with operatorFenced := s.sen.operatorFenced.insert u } }
        (s.raiseEvents [kEvent 1 u]).complete item stOk (okBody (b2n (!was)) []))

/-- A service core is re-admitted by a core reset. -/
def State.coreReadmit (s : State) (core : Nat) : State :=
  let s := s.clearScratch core
  let s' := s.modifyCore core fun k => { k with fenced := false, resets := [] }
  s.noteMode { s' with sen := { s'.sen with operatorFenced := s'.sen.operatorFenced.erase (0x80 + core) } }

/-- Opcode 0x0763: the item waits for the tests of its unit's chapter; a core is reset at once. -/
def execSenReadmit (item : Nat) (s : State) : Result :=
  .next (s.onRunning item fun it =>
    if it.opcode ≠ 0x0763 ∨ it.stage = 1 then s
    else
      match (if zeroRange it.desc 18 64 then s.namedUnit it else none) with
      | none => s.failItem item stBadField
      | some u =>
        if !s.sen.operatorFenced.contains u then s.failItem item stBadField
        else if s.sen.lockedOut.contains u then s.failItem item stNoResource
        else if 0x80 ≤ u then (s.coreReadmit (u - 0x80)).complete item stOk (okBody 0 [])
        else
          let s := s.setItem { it with stage := 1 }
          { s with sen := { s.sen with readmits := s.sen.readmits ++ [(u, some item)] } })

/-- Opcode 0x0764: a full measurement, reported. -/
def execSenReserve (item : Nat) (reading : ReserveReading) (s : State) : Result :=
  .next (s.onRunning item fun it =>
    if it.opcode ≠ 0x0764 then s
    else if !zeroRange it.desc 16 64 then s.failItem item stBadField
    else
      let s := if s.mayMeasure then s.measure reading else s
      s.complete item stOk (leBytes 8 s.eUse ++ leBytes 2 s.sen.vresMv ++ leBytes 2 s.sen.esrMohm ++ leBytes 4 s.sen.capUf ++
        leBytes 2 s.reserved))

end Sys2Proof.Machine
end

