-- ==== Sys2Proof/Machine/Reset.lean ====
section
/-! DEFINITION. Supplies, resets and Hold-up (chapter 19; R6 to R8, R407, R418, R428, R431, R432). -/

namespace Sys2Proof.Machine

/-! ## What a reset keeps (R526, R527) -/

/-- The host port after a reset that keeps the link: configuration space stays, and every function's BAR state is as a
function-level reset leaves it. -/
def HostState.keepLink (h : HostState) : HostState :=
  { HostState.reset with
    linkSpeed := h.linkSpeed
    linkWidth := h.linkWidth
    linkFlit := h.linkFlit
    linkUp := h.linkUp
    numVfs := h.numVfs
    vfEnable := h.vfEnable
    ideKeysSet := h.ideKeysSet
    ideSecure := h.ideSecure
    ideRid := h.ideRid
    vfs := h.vfs.map fun p =>
      (p.1, { Vf.fresh with tdi := if p.2.tdi = .configLocked ∨ p.2.tdi = .run then .error else p.2.tdi }) }

/-- The dispatcher after a reset. -/
def DspState.afterReset (d : DspState) (cold : Bool) : DspState :=
  { DspState.reset with stewardFails := if cold then 0 else d.stewardFails, stewardAt := d.stewardAt }

/-- A counter after a reset: its stored ceiling stays, and the next request begins there (R149). -/
def Counter.afterReset (c : Counter) : Counter := { Counter.fresh with ceiling := c.ceiling }

/-- The vault after a reset: what its store holds, and nothing else. -/
def VaultState.afterReset (v : VaultState) : VaultState :=
  { VaultState.reset with
    storeEpoch := v.storeEpoch
    salt := v.salt
    certArea := v.certArea
    planRecord := v.planRecord
    operatorKey := v.operatorKey
    spdmKey := v.spdmKey
    migrationKey := v.migrationKey
    ringKey := v.ringKey
    carryOver := v.carryOver
    records := v.records
    templates := v.templates
    genArray := v.genArray
    tmplGen := v.tmplGen
    counters := v.counters.map fun p => (p.1, p.2.afterReset)
    nextStore := v.nextStore }

/-- The Sentinel after a reset. A response that was sampled in Reset is carried forward (R418). -/
def SenState.afterReset (x : SenState) (cold : Bool) : SenState :=
  { x with
    zeroDone := x.zeroDone && !cold
    level := x.carried
    steward2nd := false
    irqPending := false
    bist := none
    bistQueue := []
    underTest := none
    operatorFenced := []
    lockedOut := []
    fenceTicks := []
    readmits := []
    holdUpLogged := 0
    holdUpDone := false
    refusals := 0 }

/-- Life cycle and boot after a reset: the OTP and the firmware store stay. -/
def LcbState.afterReset (x : LcbState) : LcbState :=
  { LcbState.reset with
    slots := x.slots
    minSvn := x.minSvn
    revoked := x.revoked
    helper := x.helper
    helperGone := x.helperGone
    puf := x.puf
    slotA := x.slotA
    slotB := x.slotB
    prefer := x.prefer
    tries := x.tries }

/-- Card ports and rosters after a reset: a card stays inserted, and the device records stay. -/
def CtlState.afterReset (x : CtlState) : CtlState :=
  { CtlState.reset with
    ports := x.ports.map fun p => { CardPort.reset with present := p.present }
    roster := x.roster
    rosterM := x.rosterM
    tenantRosters := x.tenantRosters
    caks := x.caks }

/-- The ring after a reset: membership and the mirror epoch stay, and the culvert is closed. -/
def RingState.afterReset (x : RingState) (cold : Bool) : RingState :=
  { RingState.reset with
    member := x.member
    position := x.position
    serials := x.serials
    ringId := x.ringId
    zprop := x.zprop
    epoch := x.epoch
    zSeen := x.zSeen && !cold
    zOrigin := if cold then 0 else x.zOrigin }

/-- A reset of everything that it does not keep (R527). -/
def State.resetCore (s : State) (cold link : Bool) : State :=
  { s with
    plan := PlanState.reset
    sluice := SluiceState.reset
    regs := []
    host := if link then s.host.keepLink else HostState.reset
    qps := []
    dsp := s.dsp.afterReset cold
    vault := s.vault.afterReset
    mem := MemState.reset
    sen := s.sen.afterReset cold
    ent := EntState.reset
    cfb := CfbState.reset
    obj := ObjState.reset
    spr := SprState.reset
    hwk := HwkState.reset
    pke := PkeState.reset
    pay := PayState.reset
    lcb := s.lcb.afterReset
    ctl := s.ctl.afterReset
    ring := s.ring.afterReset cold }

/-- Enter Reset. A cold reset clears the counts of GLB_RESET_CAUSE and GLB_CLK_STAT; a warm one is counted (R529). -/
def State.enterReset (s : State) (cold link : Bool) (cause : BitVec 3) : State :=
  let r := s.resetCore cold link
  { r with sys := { s.sys with
      phase := .reset
      quiesce := false
      warmReq := none
      resetOver := false
      otpRead := s.sys.otpRead && !cold
      nextCause := cause
      nextDeferred := s.sys.nextDeferred && !cold
      pllLosses := if cold then 0 else s.sys.pllLosses
      warmCount := if cold then 0 else if s.sys.warmCount = 0xFFFF then 0xFFFF else s.sys.warmCount + 1 } }

/-- Boot begins (R6, R529): the first mode after a reset. A HALT carried forward from Reset acts at once (R418). -/
def State.bootEntry (s : State) : State :=
  let carried := s.sen.carried
  let s := { s with
    sys := { s.sys with
      phase := .boot
      prevMode := 0x1
      changes := 0
      resetTick := s.sys.tick
      cause := s.sys.nextCause
      deferred := s.sys.nextDeferred
      pllLock := true
      refSenref := false }
    sluice := { s.sluice with frameBase := s.sys.tick }
    sen := { s.sen with
      boots := s.sen.boots + 1
      carried := none } }
  if carried.isSome then s.enterAlarmHold else s

/-- The reset is over: Boot begins, unless PERST# is low (R524). -/
def State.endReset (s : State) : State :=
  if s.sys.perstHigh then s.bootEntry else { s with sys := { s.sys with resetOver := true } }

/-! ## Supplies (R407, R428, R521, R524) -/

/-- A zeroisation in progress is cut off with the power; ZSTATE stays pending (R422). -/
def State.cutZeroise (s : State) : State :=
  if s.sen.zstate = .pending then { s with sen := { s.sen with zeroTries := 4 } } else s

/-- The device goes to Off; `aon` says whether VDD_AON and VDD_IO stay up. -/
def State.enterOff (s : State) (aon : Bool) : State :=
  let s := s.abandonStores.cutZeroise
  let s := s.resetCore true false
  { s with
    sys := { s.sys with
      phase := .off
      prevMode := s.mode
      quiesce := false
      warmReq := none
      resetOver := false
      otpRead := false
      aonUp := aon
      ioUp := aon
      railsOk := if aon then 0x30 else 0
      pllLock := false
      refSenref := false }
    sen := { s.sen with measured := s.sen.measured && aon } }

/-- Every rail has been in range together for t_PWRSTB: Off is left. -/
def execPowerStable (s : State) : Result :=
  if s.sys.phase ≠ .off ∨ !s.sys.aonUp ∨ !s.sys.ioUp then .next s
  else
    let s := s.enterReset true false 0x0
    .next { s with sys := { s.sys with railsOk := 0xFF, pwrfailN := true }, sen := { s.sen with mainPower := true } }

/-- t_POR has passed: a cold reset is released. -/
def execColdResetRelease (s : State) : Result :=
  if s.sys.phase = .reset ∧ s.sys.nextCause.toNat ≤ 1 ∧ !s.sys.resetOver then .next s.endReset else .next s

/-- Supplies are lost in Reset. Whether VDD_AON and VDD_IO are among them is open. -/
def execSupplyLoss (s : State) : Result :=
  if s.sys.phase ≠ .reset then .next s
  else
    let c := s.choose
    .next (c.2.enterOff (c.1 % 2 == 0))

/-- VDD_AON rises from Off: the Sentinel starts anew, and the tick starts at 0. -/
def execVddAonRise (s : State) : Result :=
  if s.sys.phase ≠ .off ∨ s.sys.aonUp then .next s
  else .next { s with
    sys := { s.sys with aonUp := true, tick := 0, resetTick := 0, railsOk := s.sys.railsOk ||| 0x20 }
    dsp := { s.dsp with stewardAt := none }
    sen := { s.sen with
      monitors := []
      level := none
      carried := none
      measured := false
      vresMv := 0
      capUf := 0
      esrMohm := 0 } }

/-- VDD_IO comes into range with VDD_AON up: the address straps are sampled and the first full measurement runs. -/
def execVddIoRise (addr0 addr1 : Bool) (reading : ReserveReading) (s : State) : Result :=
  if s.sys.phase ≠ .off ∨ !s.sys.aonUp ∨ s.sys.ioUp then .next s
  else
    let s := { s with sys := { s.sys with
      ioUp := true
      strap0 := addr0
      strap1 := addr1
      alertSeen := []
      railsOk := s.sys.railsOk ||| 0x10 } }
    .next (s.measure reading)

/-! ## Warm resets (R525) -/

/-- PERST# falls: a warm reset, and the link goes down. The configuration space goes with it, whatever reset was
requested before. -/
def execPerstFall (s : State) : Result :=
  let s := { s with sys := { s.sys with perstHigh := false } }
  match s.sys.phase with
  | .off | .reset | .holdUp => .next s
  | _ =>
    let s := s.requestWarm .perst
    .next { s with
      host := { s.host with linkUp := false }
      sys := { s.sys with warmReq := some .perst } }

/-- PERST# goes high: a device that only it holds in Reset enters Boot. -/
def execPerstRise (s : State) : Result :=
  let s := { s with sys := { s.sys with perstHigh := true } }
  if s.sys.phase = .reset ∧ s.sys.resetOver then .next s.bootEntry else .next s

/-- A write of GLB_SOFT_RESET: GO with KEY 0xA55A. After a second Steward failure it is ignored (R113). -/
def State.softReset (s : State) (value : Word) : State :=
  if !s.mmioOk 0 ∨ !value.getLsbD 0 ∨ value.toNat / 2 ^ 16 ≠ 0xA55A ∨ s.sen.steward2nd then s
  else s.requestWarm .softReset

def execGlbSoftReset (value : Word) (s : State) : Result := .next (s.softReset value)

/-- A zeroisation is running: ZSTATE is pending and an attempt is left (R421). -/
def State.zeroising (s : State) : Bool := s.sen.zstate == .pending && decide (s.sen.zeroTries < 4)

/-- CAUSE of a warm reset (R529). -/
def WarmCause.code : WarmCause → BitVec 3
  | .perst => 0x2
  | .softReset => 0x3
  | .steward => 0x4

/-- No admitted store of a warm-reset request is left and the erasures are complete: the device enters Reset (R8,
R525). -/
def execWarmResetStoresDone (s : State) : Result :=
  match s.sys.warmReq with
  | none => .next s
  | some c =>
    if s.vault.stores.any (·.admitted) || s.zeroising then .next s
    else .next (s.enterReset false (c != .perst) c.code)

/-- t_SRST has passed since a warm reset began. -/
def execResetHoldEnd (s : State) : Result :=
  if s.sys.phase = .reset ∧ 2 ≤ s.sys.nextCause.toNat ∧ !s.sys.resetOver then .next s.endReset else .next s

/-! ## The root PLL (R519) -/

/-- An event of F0 or F1 on a lost lock: an alarm whatever the window. The sampled deviation is open. -/
def State.lockEvent (s : State) (inst : Nat) (value : Word) : AlarmEv :=
  { cls := 0x1, inst := inst, value := value, tenant := none, unit := 0xFFFF, bist := false, again := false,
    forced := some (s.levelFor 0x1 inst) }

/-- The root PLL loses lock outside Hold-up. -/
def execPllLockLost (s : State) : Result :=
  if s.sys.phase = .off ∨ s.sys.phase = .holdUp ∨ !s.sys.pllLock then .next s
  else
    let losses := if s.sys.pllLosses = 0xFFFF then s.sys.pllLosses else s.sys.pllLosses + 1
    let s := { s with sys := { s.sys with pllLock := false, pllLosses := losses } }
    let a := s.freeBytes 4
    let b := a.2.freeBytes 4
    .next (b.2.raiseEvents [s.lockEvent 0 (BitVec.ofNat 32 (ofLe a.1)), s.lockEvent 1 (BitVec.ofNat 32 (ofLe b.1))])

/-! ## Hold-up (R431, R432, R518) -/

/-- Enter Hold-up: the erasures of a HALT, every item abandoned without a record, no store admitted any more, the host
port down, the PLL on SENREF. A warm-reset request lapses (R525). -/
def State.enterHoldUp (s : State) (vresMv : Nat) : State :=
  let h := s.haltErase.endSessions
  s.noteMode { h with
    qps := []
    obj := ObjState.reset
    dsp := { h.dsp with
      items := []
      lists := DspState.reset.lists
      resumeQ := []
      cores := h.dsp.cores.map fun k => { k with item := none } }
    vault := { h.vault with stores := h.vault.stores.filter (·.admitted), scans := [] }
    host := { h.host with linkUp := false }
    lcb := { h.lcb with waitOtp := false, waitTries := false }
    sen := { h.sen with
      mainPower := false
      holdUpTick := s.sys.tick
      holdUpLogged := 0
      holdUpDone := false
      bist := none
      bistQueue := []
      underTest := none
      vresMv := vresMv }
    sys := { h.sys with
      phase := .holdUp
      quiesce := false
      warmReq := none
      refSenref := true } }

/-- An event of Z2 or Z3, with VRES. -/
def powerEvent (detector vresMv : Nat) : AlarmEv :=
  { cls := 0x9, inst := detector, value := BitVec.ofNat 32 vresMv, tenant := none, unit := 0xFFFF, bist := false, again := false,
    forced := none }

/-- Z2 (PWRFAIL_N) or Z3 (VDD_IO) gives its event. -/
def execMainPowerLost (detector vresMv : Nat) (s : State) : Result :=
  if detector ≠ 2 ∧ detector ≠ 3 then .next s
  else
    match s.sys.phase with
    | .off | .reset | .holdUp => .next s
    | _ =>
      let s := s.enterHoldUp vresMv
      let s := if detector = 2 then { s with sys := { s.sys with pwrfailN := false } } else s
      .next (s.raiseEvents [powerEvent detector vresMv])

/-- The cold reset that follows Hold-up once its actions are finished and main power is back. -/
def State.leaveHoldUp (s : State) : State :=
  if s.sys.phase = .holdUp ∧ s.sen.holdUpDone ∧ s.sen.mainPower then s.enterReset true false 0x1 else s

/-- The last admitted store has ended: the device root and the vault store key are erased, and the culvert closes
(step 4 of R432, R490). -/
def execHoldUpStoresEnded (s : State) : Result :=
  if s.sys.phase ≠ .holdUp ∨ s.vault.stores.any (·.admitted) then .next s
  else
    .next { s with
      vault := { s.vault with
        deviceRoot := []
        dak := []
        ready := false }
      ring := { s.ring with culvertOpen := false }
      sen := { s.sen with holdUpDone := true } }.leaveHoldUp

/-- Main power returns in Hold-up. -/
def execMainPowerRestored (s : State) : Result :=
  if s.sys.phase ≠ .holdUp then .next s
  else
    .next { s with sys := { s.sys with pwrfailN := true }, sen := { s.sen with mainPower := true } }.leaveHoldUp

/-- VRES has fallen below 3.0 V in Hold-up: VDD_AON switches off. -/
def execReserveSpent (s : State) : Result :=
  if s.sys.phase ≠ .holdUp then .next s else .next (s.enterOff false)

end Sys2Proof.Machine
end

