-- ==== Sys2Proof/Machine/Boot.lean ====
section
/-! DEFINITION. Boot (R421, R422, R445 to R451): the resolution of the life-cycle record, the selection of a Kyobin image,
the opening of the vault, and recovery. -/

namespace Sys2Proof.Machine

/-! ## Stores that no item waits for, and promotion (R146) -/

/-- A store that no item waits for; a refused one leaves its work undone. -/
def State.askQuietly (s : State) (a : StoreAction) : State × Bool :=
  match s.askStore none a with
  | .admitted s | .held s => (s, true)
  | .refused s => (s, false)

/-- The first bound record that still holds another blob beside the one for the running measurement. -/
def State.toPromote (s : State) : Option (Nat × KeyRecord) :=
  s.vault.records.find? fun p => attrBound p.2.attr && decide (2 ≤ p.2.blobs.length) && p.2.blobs.any (·.1 == s.mtag)

/-- The next step of a promotion: the reference word of one more record, and at last the carry-over record. -/
def State.promoteNext (s : State) : State :=
  let a := match s.toPromote with
    | some (i, r) => StoreAction.blob i (r.blobs.filter (·.1 == s.mtag))
    | none => .carryOver none
  let r := s.askQuietly a
  { r.1 with vault := { r.1.vault with promoting := r.2 && s.toPromote.isSome } }

/-- A promotion has begun. -/
def State.notePromotion (s : State) : State :=
  { s with vault := { s.vault with carryOver := s.vault.carryOver.map fun c => { c with promoted := true } } }

/-- A promotion that power loss interrupted continues under the same measurement. -/
def State.resumePromotion (s : State) : State :=
  if s.vault.carryOver.any fun c => c.complete && c.promoted && c.measurement == s.vault.measurement then s.promoteNext
  else s

/-! ## Kyobin images (R448, R449) -/

/-- The SHA-384 digest of a vendor key that the ROM holds. -/
def romDigest (n : Nat) : List Byte := (List.range 48).map (Config.vendorDigestByte n)

/-- The raw public part that an uncompressed SEC 1 point of 97 bytes gives, if it is the vendor key that KEY_ID names and
that key is not revoked. -/
def State.vendorKey (s : State) (n : Nat) (point : List Byte) : Option (List Byte) :=
  let pub := flip (slice point 1 48) ++ flip (slice point 49 48)
  if decide (n < 4) && !s.keyRevoked n && point.length == 97 && byteAt point 0 == 0x04 && sha384 point == romDigest n &&
      pointValid 0x21 pub then some pub
  else none

/-- Length of the body that an image's header names. -/
def imageBodyLen (img : List Byte) : Nat := leAt img 12 4

/-- Header and body of an image. -/
def imageMeasured (img : List Byte) : List Byte := img.take (64 + imageBodyLen img)

/-- The header fields of an image are valid (R448). -/
def kyobinHeaderOk (img : List Byte) : Bool :=
  decide (64 + imageBodyLen img + 96 ≤ img.length) && leAt img 0 4 == 0x4657594B && leAt img 4 2 == 1 &&
  leAt img 6 2 == 0x4800 && decide ((byteAt img 8).toNat ≤ 63) && decide ((byteAt img 9).toNat ≤ 3) && zeroRange img 10 12 &&
  imageBodyLen img % 64 == 0 && decide (64 ≤ imageBodyLen img) && decide (imageBodyLen img ≤ 3145728) && zeroRange img 24 64

/-- An image passes (R449). -/
def State.imagePasses (s : State) (img : List Byte) : Bool :=
  kyobinHeaderOk img && decide (s.minSvn ≤ (byteAt img 8).toNat) &&
    (s.vendorKey (byteAt img 9).toNat (slice img 64 97)).any fun pub =>
      verifySig 0x01 0x02 0x21 pub (sha384 (imageMeasured img)) (slice img (64 + imageBodyLen img) 96)

/-- The image of a firmware slot: B for true. -/
def State.slotImage (s : State) (b : Bool) : List Byte := if b then s.lcb.slotB else s.lcb.slotA

/-- The slots in the order in which Boot tries them (R450). -/
def State.bootOrder (s : State) : List Bool :=
  if s.lcb.tries < 3 then [s.lcb.prefer, !s.lcb.prefer] else [!s.lcb.prefer, s.lcb.prefer]

/-! ## From the record to the vault (R447) -/

/-- Another step of Boot. -/
def State.bootStage (s : State) (n : BitVec 4) : State := { s with lcb := { s.lcb with stage := n } }

/-- Boot stops. -/
def State.bootStop (s : State) : State := { s with lcb := { s.lcb with stopped := true } }

/-- Steps 0x6 and 0x7 for the image of a slot: the measurement is loaded, and the entropy unit goes on (R340). -/
def State.bootRun (s : State) (b : Bool) : State :=
  let s := { (s.bootStage 0x6) with lcb := { s.lcb with
    stage := 0x6
    selected := none
    waitTries := false
    runSlot := b
    fallback := b != s.lcb.prefer } }
  if s.ent.fault then s.bootStop
  else
    let img := s.slotImage b
    let m := sha384 (imageMeasured img)
    let s := { s with
      lcb := { s.lcb with
        stage := 0x7
        meas := m
        runSvn := (byteAt img 8).toNat
        version := BitVec.ofNat 64 (leAt img 16 8) }
      vault := { s.vault with measurement := m } }
    if s.ent.awaitMtag then s.instantiateMain else s

/-- The TRIES increment of the PREFER slot (R450): asked for once, and once more after a full measurement. -/
def State.bootTries (s : State) (b again : Bool) : State :=
  if s.lcb.tries ≥ 3 then s.bootRun b
  else if s.storesOpen && !s.reserveCovers 5 then
    if again then s.bootRun b
    else { s with lcb := { s.lcb with selected := some b, waitTries := true } }
  else (({ s with lcb := { s.lcb with selected := some b, waitTries := false } }).askQuietly
    (.bootControl s.lcb.prefer (s.lcb.tries + 1))).1

/-- Step 0x5: the first slot whose image passes, or NO_IMAGE. -/
def State.bootSelect (s : State) : State :=
  let s := s.bootStage 0x5
  match s.bootOrder.find? fun b => s.imagePasses (s.slotImage b) with
  | none => { s with lcb := { s.lcb with noImage := true } }
  | some b => if b = s.lcb.prefer then s.bootTries b false else s.bootRun b

/-- The device root that the PUF and its helper data give. -/
def deviceRootOf (puf helper : List Byte) : List Byte := (List.range 32).map (Config.rootByte puf helper)

/-- Step 0x4: the device root, then the image. -/
def State.bootRoot (s : State) : State :=
  let s := s.bootStage 0x4
  match s.lcb.helper with
  | some h =>
    if !s.lcb.probeOk ∨ s.lcb.helperGone then { s with lcb := { s.lcb with pufFail := true } }.bootStop
    else { s with vault := { s.vault with deviceRoot := deviceRootOf s.lcb.puf h } }.bootSelect
  | none => { s with lcb := { s.lcb with pufFail := true } }.bootStop

/-- The state that the boot ROM acts on: SCRAPPED for an invalid record (R441). -/
def State.bootLcs (s : State) : Nat := if s.lcb.invalid then lcScrapped else s.lcs

/-- The rest of step 0x3 once the record is resolved. -/
def State.bootOn (s : State) : State :=
  let t := s.bootLcs
  if t = lcScrapped then s.bootStop.startZeroise
  else if t = lcBlank ∨ t = lcVendorTest ∨ t = lcReturned then s.bootStop
  else s.bootRoot

/-- An OTP write of Boot (R445): it waits, without a refusal, until the reserve admits it. -/
def State.bootOtp (s : State) (a : StoreAction) : State :=
  if s.storesOpen && !s.reserveCovers 200 then { s with lcb := { s.lcb with waitOtp := true } }
  else (({ s with lcb := { s.lcb with waitOtp := false } }).askQuietly a).1

/-- The transition of a slot from the current state wipes the user secrets (R442). -/
def wipes (before target : Nat) : Bool :=
  target == lcDiagnostic || target == lcReturned || target == lcScrapped || (before == lcDiagnostic && target == lcDeployed)

/-- A zeroisation that Boot performs. -/
def State.bootWipe (s : State) : State := { s with lcb := { s.lcb with wiped := true } }.startZeroise

/-- Step 0x3: the record is resolved, one wipe or write at a time (R445). An invalid record is left as it is. -/
def State.bootResolve (s : State) : State :=
  if s.sen.zstate = .pending then
    { s with sen := { s.sen with zeroRepeat := true } }.startZeroise
  else if s.lcb.invalid then s.bootOn
  else
    match s.topSlot with
    | none => s.bootOn
    | some (n, x) =>
      match x.class' with
      | .torn =>
        let s := { s with lcb := { s.lcb with torn := true } }
        if s.lcb.wiped then s.bootOtp (.otpCommit n) else s.bootWipe
      | .void => if x.commit = 0xC3C3_C3C3 then s.bootOn else s.bootOtp (.otpCommit n)
      | .pending t =>
        if wipes s.lcs t && !s.lcb.wiped then s.bootWipe
        else if t = lcScrapped ∧ !s.lcb.helperGone then s.bootOtp .otpHelper
        else s.bootOtp (.otpCommit n)
      | .committed _ | .vacant => s.bootOn

/-- Boot stands in step 0x3 and may go on with it. -/
def State.inResolve (s : State) : Bool := s.sys.phase == .boot && s.lcb.stage == 0x3 && !s.lcb.stopped

/-- A wipe or an OTP write of step 0x3 has ended. -/
def State.bootContinue (s : State) : State := if s.inResolve then s.bootResolve else s

/-- The TRIES increment has been committed: the selected image runs. -/
def State.bootTriesDone (s : State) : State :=
  match s.lcb.selected with
  | some b => if s.sys.phase = .boot ∧ s.lcb.stage = 0x5 then s.bootRun b else s
  | none => s

/-- The boot ROM starts: HBM serves, and the Steward's regions are set and locked (R41, R393). -/
def execBootStart (probe : BootProbe) (s : State) : Result :=
  if s.sys.phase ≠ .boot ∨ s.lcb.stage ≠ 0x1 ∨ s.lcb.stopped then .next s
  else
    let s := { s with mem := { s.mem with hbm0Ok := true, hbm1Ok := true, stewardLocked := true } }
    if !probe.romOk then .next { s with lcb := { s.lcb with romFail := true } }.bootStop
    else
      let s := { s with
        sys := { s.sys with otpRead := true }
        lcb := { s.lcb with
          stage := 0x3
          invalid := s.recordInvalid
          probeOk := probe.pufOk } }
      .next s.bootResolve

/-- The reserve admits an OTP write that Boot waits for. -/
def State.bootRecheck (s : State) : State := if s.lcb.waitOtp then s.bootContinue else s

def execBootOtpWriteAdmitted (s : State) : Result := .next s.bootRecheck

/-- A second has passed: a full measurement. Boot looks again at what it waits for (R445, R450). -/
def execReserveMeasure (reading : ReserveReading) (s : State) : Result :=
  if !s.mayMeasure then .next s
  else
    let s := (s.measure reading).bootRecheck
    match s.lcb.waitTries, s.lcb.selected with
    | true, some b => if s.sys.phase = .boot ∧ s.lcb.stage = 0x5 then .next (s.bootTries b true) else .next s
    | _, _ => .next s

/-! ## Zeroisation (R421, R422) -/

/-- An attempt of the zeroisation in progress completes. -/
def execZeroiseVerify (regionMatches : Bool) (s : State) : Result :=
  if !s.zeroising then .next s
  else if regionMatches then
    .next { s with sen := { s.sen with zstate := .verified, zeroDone := true, zeroRepeat := false } }.bootContinue
  else if s.sen.zeroTries < 3 then .next { s with sen := { s.sen with zeroTries := s.sen.zeroTries + 1 } }
  else
    let e := { kEvent 3 0xFFFF with again := s.sen.zeroRepeat }
    let s := s.raiseEvents [e]
    .next { s with sen := { s.sen with zeroTries := 4, zeroRepeat := false } }

/-! ## Opening the vault (R122, R150, R447) -/

/-- Format the vault store under a new salt and store epoch: every record, template, generation, ceiling and device record
is gone, and Kyobin generates a new SPDM identity key (R122, R443). -/
def State.formatVault (s : State) : State :=
  let a := s.draw 32
  let b := a.2.draw 4
  let c := b.2.draw 48
  let s := c.2
  { s with
    vault := { s.vault with
      formatted := true
      salt := some a.1
      storeEpoch := BitVec.ofNat 32 (ofLe b.1)
      planRecord := none
      operatorKey := none
      spdmKey := c.1
      migrationKey := none
      ringKey := none
      carryOver := none
      records := []
      templates := []
      genArray := []
      tmplGen := []
      counters := [] }
    ctl := { s.ctl with
      roster := []
      rosterM := 0
      tenantRosters := []
      caks := [] }
    ring := { s.ring with
      member := false
      position := 0
      serials := []
      ringId := 0
      zprop := false
      epoch := 0 } }

/-- The DAK (R150). -/
def State.deriveDak (s : State) : List Byte :=
  leBytes 48 (ofLe (kdf s.vault.deviceRoot (ascii "DAK") (leBytes 8 s.sys.serial.toNat) 512) % (p384.n - 1) + 1)

/-- The values that are drawn anew at each boot: the session table key, BOOT_ID, the boot blob key and BOOT_SALT (R123,
R366, R496). -/
def State.drawBootValues (s : State) : State :=
  let a := s.draw 32
  let b := a.2.draw 8
  let c := b.2.draw 32
  let d := c.2.draw 32
  let s := d.2
  { s with
    vault := { s.vault with sessionKey := a.1 }
    host := { s.host with bootId := BitVec.ofNat 64 (ofLe b.1), bootBlobKey := c.1 }
    ring := { s.ring with bootSalt := d.1 } }

/-- ENT_READY is set at step 0x7: the vault opens and Plan Load or Diagnostic begins. -/
def execBootResumeEntReady (s : State) : Result :=
  if s.sys.phase ≠ .boot ∨ s.lcb.stage ≠ 0x7 ∨ s.lcb.stopped ∨ !s.mainServes then .next s
  else
    let s := if s.vault.salt.isSome then s else s.formatVault
    let s := s.drawBootValues
    let s := { s with
      vault := { s.vault with ready := true, dak := s.deriveDak }
      lcb := { s.lcb with stage := 0x8 } }
    let s := s.resumePromotion
    .next (if s.lcs = lcDiagnostic then s.enterPhase .diagnostic else s.beginPlanLoad)

/-! ## Recovery (R451) -/

/-- A write of LCB_REC_GO: the image is read by host DMA. -/
def State.recGo (s : State) (value : Word) : State :=
  if !s.barOk 0 ∨ s.sys.phase ≠ .boot ∨ !s.lcb.noImage ∨ s.lcb.recBusy ∨ !value.getLsbD 0 then s
  else if 3145888 < (s.reg 0 0x00A0_0218).toNat % 2 ^ 23 then { s with lcb := { s.lcb with recStat := stLengthLimit } }
  else { s with lcb := { s.lcb with recBusy := true } }

def execLcbRecGo (value : Word) (s : State) : Result := .next (s.recGo value)

/-- The recovery load ends with a status. -/
def State.recEnd (s : State) (st : Status) : State := { s with lcb := { s.lcb with recBusy := false, recStat := st } }

/-- The image has been read: it is checked, written to slot A, and the boot-control record is asked for. -/
def State.recRead (s : State) (r : ReadResult) : State :=
  if s.sys.phase ≠ .boot ∨ !s.lcb.recBusy ∨ !s.lcb.noImage then s
  else
    match r with
    | .failed _ => s.recEnd stAccessDenied
    | .ok bytes =>
      let img := padTo ((s.reg 0 0x00A0_0218).toNat % 2 ^ 23) bytes
      if !s.imagePasses img then s.recEnd stAccessDenied
      else
        let s := { s with lcb := { s.lcb with slotA := img } }
        match s.askStore none (.bootControl false 0) with
        | .refused s => s.recEnd stReserveLow
        | .admitted s | .held s => s

end Sys2Proof.Machine
end

