-- ==== Sys2Proof/Machine/PayOps.lean ====
section
/-! DEFINITION. What the payment opcodes compute (chapter 10): PIN blocks, verification methods, AES DUKPT, ISO 9797-1
MACs, EMV keys and key blocks, and the checks of R325 before and at the claim. -/

namespace Sys2Proof.Machine

/-! ## Nibbles and PANs (R307, R308) -/

/-- The nibbles of bytes, high nibble first. -/
def nibbles (bs : List Byte) : List Nat := bs.flatMap fun b => [b.toNat / 16, b.toNat % 16]

/-- Bytes from nibbles, high nibble first. -/
def packNibbles : List Nat → List Byte
  | a :: b :: r => BitVec.ofNat 8 (16 * a + b) :: packNibbles r
  | [a] => [BitVec.ofNat 8 (16 * a)]
  | [] => []

/-- Every nibble is a decimal digit. -/
def allDigits (ns : List Nat) : Bool := ns.all (· < 10)

/-- The PAN digits of a PAN field. -/
def panDigits (field : List Byte) : List Nat := (nibbles field).takeWhile (· < 10)

/-- A PAN field with at least `least` digits (R308). -/
def panOk (field : List Byte) (least : Nat) : Bool :=
  let d := panDigits field
  decide (12 ≤ d.length) && decide (least ≤ d.length) && decide (d.length ≤ 19) && ((nibbles field).drop d.length).all (· == 15)

/-- The last `n` of some digits. -/
def lastDigits (n : Nat) (d : List Nat) : List Nat := d.drop (d.length - n)

/-- PAN field of formats 0 and 3: the 12 rightmost digits without the check digit. -/
def panField0 (pan : List Nat) : List Byte := packNibbles ([0, 0, 0, 0] ++ lastDigits 12 pan.dropLast)

/-- PAN field of format 4. -/
def panField4 (pan : List Nat) : List Byte :=
  packNibbles (((pan.length - 12) :: pan ++ List.replicate 32 0).take 32)

/-! ## PIN blocks (R307) -/

/-- One block of a payment key: TDES for 8 bytes, AES for 16. -/
def payBlock (enc : Bool) (key block : List Byte) : List Byte :=
  if block.length = 8 then tdesBlock enc key block else aesBlock enc key block

/-- The clear PIN field of an encrypted block. -/
def pinField (fmt : Nat) (key block : List Byte) (pan : List Nat) : List Byte :=
  if fmt = 4 then aesBlock false key (xorBytes (aesBlock false key block) (panField4 pan))
  else
    let c := tdesBlock false key block
    if fmt = 1 then c else xorBytes c (panField0 pan)

/-- The digits of a clear PIN field, if it is valid. -/
def pinDigits (fmt : Nat) (field : List Byte) : Option (List Nat) :=
  let ns := nibbles field
  let n := ns.getD 1 0
  let fill := (ns.take 16).drop (2 + n)
  let ok := ns.getD 0 0 == fmt && decide (4 ≤ n) && decide (n ≤ 12) && allDigits ((ns.drop 2).take n) &&
    (if fmt = 0 then fill.all (· == 15) else if fmt = 3 then fill.all (10 ≤ ·) else if fmt = 4 then fill.all (· == 10) else true)
  if ok then some ((ns.drop 2).take n) else none

/-- The clear PIN field of a format, with drawn bytes for its fill. -/
def pinEncode (fmt : Nat) (pin : List Nat) (rnd : List Byte) : List Byte :=
  let head := fmt :: pin.length :: pin
  let fillNibbles :=
    if fmt = 0 then List.replicate 16 15
    else if fmt = 4 then List.replicate 16 10
    else if fmt = 3 then (nibbles rnd).map fun x => 10 + x % 6
    else nibbles rnd
  packNibbles ((head ++ fillNibbles).take 16) ++ (if fmt = 4 then padTo 8 rnd else [])

/-- Encipher a clear PIN field. -/
def pinEncipher (fmt : Nat) (key field : List Byte) (pan : List Nat) : List Byte :=
  if fmt = 4 then aesBlock true key (xorBytes (aesBlock true key field) (panField4 pan))
  else tdesBlock true key (if fmt = 1 then field else xorBytes field (panField0 pan))

/-! ## Verification methods (R313) -/

/-- IBM 3624: the customer PIN agrees with the natural PIN and the offset in the digits compared. -/
def ibm3624 (pvk valdata dectab offset : List Byte) (checkLen : Nat) (pin : List Nat) : Bool :=
  let tab := nibbles dectab
  let natural := (nibbles (tdesBlock true pvk valdata)).map fun x => tab.getD x 0
  let off := nibbles offset
  decide (checkLen ≤ pin.length) &&
    (List.range checkLen).all fun i => pin.getD i 0 == (natural.getD i 0 + off.getD i 0) % 10

/-- Visa PVV: the four digits found in the encrypted security parameter. -/
def visaPvv (pvk : List Byte) (pan pin : List Nat) (pvki : Nat) : List Nat :=
  let tsp := packNibbles (lastDigits 11 pan.dropLast ++ [pvki] ++ pin.take 4)
  let ns := nibbles (tdesBlock true pvk tsp)
  ((ns.filter (· < 10)) ++ ((ns.filter (10 ≤ ·)).map (· - 10))).take 4

/-! ## AES DUKPT (R314, R315) -/

/-- A KSN that R315 accepts: a counter that is not zero and has at most 16 bits set. -/
def ksnOk (ksn : List Byte) : Bool :=
  let c := beAt ksn 8 4
  c != 0 && decide (((List.range 32).filter (bit c)).length ≤ 16)

/-- Working-key usages of X9.24-3. -/
abbrev dukptPin : Nat := 0x1000
abbrev dukptMacGen : Nat := 0x2000
abbrev dukptMacVer : Nat := 0x2001

/-- Derive a key of a BDK's length from derivation data (X9.24-3). -/
def dukptDerive (key : List Byte) (usage : Nat) (tail : List Byte) : List Byte :=
  let n := key.length
  let block := fun (i : Nat) =>
    aesBlock true key ([0x01, BitVec.ofNat 8 i] ++ beBytes 2 usage ++ beBytes 2 (if n = 32 then 4 else 2) ++ beBytes 2 (8 * n) ++ tail)
  ((List.range (n / 16)).map fun i => block (i + 1)).flatten

/-- The counter's set bits down to each one, highest first: the values at which intermediate keys are derived. -/
def dukptSteps (c : Nat) : List Nat :=
  ((List.range 32).reverse.filter (bit c)).map fun i => c / 2 ^ i * 2 ^ i

/-- The working key of a BDK for a KSN. -/
def dukptKey (bdk ksn : List Byte) (usage : Nat) : List Byte :=
  let derivId := slice ksn 4 4
  let c := beAt ksn 8 4
  let initial := dukptDerive bdk 0x8001 (ksn.take 8)
  let last := (dukptSteps c).foldl (fun k v => dukptDerive k 0x8000 (derivId ++ beBytes 4 v)) initial
  dukptDerive last usage (derivId ++ beBytes 4 c)

/-- Furrow blocks that the derivation takes. -/
def dukptBlocks (bdk ksn : List Byte) : Nat := ((dukptSteps (beAt ksn 8 4)).length + 2) * (bdk.length / 16)

/-! ## MACs (R317) -/

/-- ISO 9797-1 padding to blocks of 8 bytes. -/
def isoPad (method : Nat) (msg : List Byte) : List Byte :=
  if method = 2 then padTo ((msg.length + 8) / 8 * 8) (msg ++ [0x80])
  else padTo (max 8 ((msg.length + 7) / 8 * 8)) msg

/-- A CBC-MAC before its output transformation. -/
def cbcMac (ciph : List Byte → List Byte) (msg : List Byte) : List Byte :=
  (chunks 8 msg).foldl (fun x b => ciph (xorBytes x b)) (zeros 8)

/-- MAC algorithm 3 over a padded message. -/
def retailMac (key msg : List Byte) : List Byte :=
  let h := cbcMac (desBlock true (slice key 0 8)) msg
  desBlock true (slice key 0 8) (desBlock false (slice key 8 8) h)

/-- CMAC under a TDES or AES key. -/
def payCmac (aes : Bool) (key msg : List Byte) : List Byte :=
  if aes then aesCmac key msg else cmacWith (tdesBlock true key) 8 0x1B msg

/-- A MAC of a MACALG. -/
def payMac (alg pad : Nat) (aes : Bool) (key msg : List Byte) : List Byte :=
  if alg = 1 then cbcMac (tdesBlock true key) (isoPad pad msg)
  else if alg = 3 then retailMac key (isoPad pad msg)
  else payCmac aes key msg

/-! ## EMV (R319) -/

/-- ICC master key from an issuer master key, the PAN and the PSN. -/
def iccKey (aes : Bool) (imk : List Byte) (pan psn : List Nat) : List Byte :=
  let width := if aes then 32 else 16
  let x := pan ++ psn
  let y := packNibbles (lastDigits width (List.replicate width 0 ++ x))
  let flip := y.map (· ^^^ 0xFF)
  if aes then (if imk.length = 32 then aesBlock true imk y ++ aesBlock true imk flip else aesBlock true imk y)
  else tdesBlock true imk y ++ tdesBlock true imk flip

/-- Session key by the common derivation with the ATC. -/
def emvSession (aes : Bool) (mk atc : List Byte) : List Byte :=
  let r := fun (n : Nat) (b : Byte) => atc ++ [b] ++ zeros (n - 3)
  if aes then
    (if mk.length = 32 then aesBlock true mk (r 16 0xF0) ++ aesBlock true mk (r 16 0x0F) else aesBlock true mk (r 16 0x00))
  else tdesBlock true mk (r 8 0xF0) ++ tdesBlock true mk (r 8 0x0F)

/-- The application cryptogram over data. -/
def emvMac (aes : Bool) (sk data : List Byte) : List Byte :=
  (if aes then aesCmac sk data else retailMac sk (isoPad 2 data)).take 8

/-- ARPC of method 1. AES takes the eight bytes as the left half of its block. -/
def arpc1 (aes : Bool) (mk arqc arc : List Byte) : List Byte :=
  let x := xorBytes arqc (arc ++ zeros 6)
  if aes then (aesBlock true mk (padTo 16 x)).take 8 else tdesBlock true mk x

/-- ARPC of method 2. -/
def arpc2 (aes : Bool) (sk arqc csu : List Byte) : List Byte := (emvMac aes sk (arqc ++ csu)).take 4

/-! ## Key blocks (R320, R321) -/

def hexDigit (n : Nat) : Byte := BitVec.ofNat 8 (if n < 10 then 48 + n else 55 + n)
def toHex (bs : List Byte) : List Byte := (nibbles bs).map hexDigit
def hexVal (b : Byte) : Option Nat :=
  let n := b.toNat
  if 48 ≤ n ∧ n < 58 then some (n - 48) else if 65 ≤ n ∧ n < 71 then some (n - 55) else if 97 ≤ n ∧ n < 103 then some (n - 87)
  else none
def ofHex (bs : List Byte) : Option (List Byte) := if bs.length % 2 = 1 then none else (bs.mapM hexVal).map packNibbles

/-- A decimal number in ASCII. -/
def ofDec (bs : List Byte) : Option Nat :=
  if bs.all fun b => decide (48 ≤ b.toNat) && decide (b.toNat < 58) then some (bs.foldl (fun a b => 10 * a + (b.toNat - 48)) 0) else none

def toDec (n v : Nat) : List Byte := ((List.range n).map fun i => hexDigit (v / 10 ^ i % 10)).reverse

abbrev asciiB : Byte := 0x42
abbrev asciiD : Byte := 0x44

/-- The tail of a key block after its optional blocks, skipping `n` of them. -/
def skipOptional : Nat → List Byte → Option (List Byte)
  | 0, b => some b
  | n + 1, b =>
    match ofHex (slice b 2 2) with
    | some l =>
      let len := ofBe l
      if len < 4 ∨ b.length < len then none else skipOptional n (b.drop len)
    | none => none

/-- The header of a key block passes its checks: version, length, optional blocks, reserved bytes, exportability. -/
def kbHeaderOk (b : List Byte) (len : Nat) : Bool :=
  let v := byteAt b 0
  (v == asciiB || v == asciiD) && ofDec (slice b 1 4) == some len && decide (b.length = len) &&
    (match ofDec (slice b 12 2) with
     | some n => decide (n ≤ 8) && (skipOptional n (b.drop 16)).isSome
     | none => false) &&
    slice b 14 2 == [0x30, 0x30] && (byteAt b 11 == 0x4E || byteAt b 11 == 0x45 || byteAt b 11 == 0x53)

/-- Length of a version's MAC in bytes, which is also its cipher block. -/
def kbMacLen (v : Byte) : Nat := if v = asciiD then 16 else 8

/-- The key-block encryption and MAC keys of a KBPK (X9.143 key derivation). -/
def kbKeys (v : Byte) (kbpk : List Byte) : List Byte × List Byte :=
  let aes := v == asciiD
  let n := kbpk.length
  let algInd := if aes then 4 else if n = 24 then 1 else 0
  let one := fun (usage : Nat) =>
    (((List.range (n / kbMacLen v)).map fun i =>
      payCmac aes kbpk ([BitVec.ofNat 8 (i + 1)] ++ beBytes 2 usage ++ [0] ++ beBytes 2 algInd ++ beBytes 2 (8 * n))).flatten).take n
  (one 0, one 1)

/-- Split a key block: header with optional blocks, encrypted key data, MAC. -/
def kbSplit (b : List Byte) : Option (List Byte × List Byte × List Byte) :=
  let v := byteAt b 0
  let n := (ofDec (slice b 12 2)).getD 0
  match skipOptional n (b.drop 16) with
  | none => none
  | some tail =>
    let head := b.take (b.length - tail.length)
    match ofHex tail with
    | none => none
    | some raw =>
      let m := kbMacLen v
      if raw.length < 2 * m ∨ raw.length % m ≠ 0 then none
      else some (head, raw.take (raw.length - m), raw.drop (raw.length - m))

/-- The clear key data of a key block whose MAC verifies. -/
def kbOpen (kbpk b : List Byte) : Option (List Byte) :=
  let v := byteAt b 0
  match kbSplit b with
  | none => none
  | some (head, ct, mac) =>
    let keys := kbKeys v kbpk
    let pt := cbcDec (payBlock false keys.1) (kbMacLen v) mac ct
    if payCmac (v == asciiD) keys.2 (head ++ pt) = mac then some pt else none

/-- A key block without optional blocks; `pad` fills the key data. -/
def kbSeal (v : Byte) (kbpk usage : List Byte) (alg mode exportMode : Byte) (key pad : List Byte) : List Byte :=
  let keys := kbKeys v kbpk
  let m := kbMacLen v
  let pt := beBytes 2 (8 * key.length) ++ key ++ pad
  let total := 16 + 2 * (pt.length + m)
  let head := [v] ++ toDec 4 total ++ usage ++ [alg, mode] ++ ascii "00" ++ [exportMode] ++ ascii "0000"
  let mac := payCmac (v == asciiD) keys.2 (head ++ pt)
  head ++ toHex (cbcEnc (payBlock true keys.1) m mac pt) ++ toHex mac

/-- USAGE bits (counted from bit 8 of the attribute word) and ENGINE bit of a key usage, algorithm and mode of use
(R321); `n` is the key length in bytes. -/
def kbMap (usage : List Byte) (alg mode : Byte) (n : Nat) : Option (Nat × Nat) :=
  let u := fun (x : String) => usage == ascii x
  let t := alg == 0x54
  let a := alg == 0x41
  let m := fun (x : String) => [mode] == ascii x
  let pay := 2 ^ engPayFur
  if u "B0" then (if a && m "X" then some (2 ^ useDerive + 2 ^ usePin + 2 ^ useMacGen + 2 ^ useMacVer, pay) else none)
  else if u "P0" then (if (t || a) && (m "E" || m "D" || m "B") then some (2 ^ usePin, pay) else none)
  else if u "V1" || u "V2" then (if t && (m "C" || m "V") then some (2 ^ usePin + 2 ^ useMacVer, pay) else none)
  else if u "M1" || u "M3" || u "M6" then
    if (t && (!u "M3" || n == 16)) || (a && u "M6") then
      (if m "G" then some (2 ^ useMacGen, pay) else if m "V" then some (2 ^ useMacVer, pay)
       else if m "C" then some (2 ^ useMacGen + 2 ^ useMacVer, pay) else none)
    else none
  else if u "E0" then
    (if ((t && n == 16) || a) && m "X" then some (2 ^ useEnc + 2 ^ useMacGen + 2 ^ useMacVer, pay) else none)
  else if u "K0" || u "K1" then
    if t || (a && n == 32) then
      (if m "E" then some (2 ^ useWrap, 2 ^ engWrap) else if m "D" then some (2 ^ useUnwrap, 2 ^ engWrap)
       else if m "B" then some (2 ^ useWrap + 2 ^ useUnwrap, 2 ^ engWrap) else none)
    else none
  else if u "D0" then
    if a then
      (if m "E" then some (2 ^ useEnc, 2 ^ engFur) else if m "D" then some (2 ^ useDec, 2 ^ engFur)
       else if m "B" then some (2 ^ useEnc + 2 ^ useDec, 2 ^ engFur) else none)
    else none
  else none

/-- ALG of a key-block algorithm and key length. -/
def kbAlg (alg : Byte) (n : Nat) : Option Nat :=
  if alg = 0x54 then (if n = 16 then some 0x08 else if n = 24 then some 0x09 else none)
  else if alg = 0x41 then (if n = 16 then some 0x01 else if n = 32 then some 0x02 else none)
  else none

/-- The component DES keys of a TDES key are pairwise distinct, parity bits aside (R321, R306). -/
def tdesDistinct (key : List Byte) : Bool := decide ((chunks 8 (key.map (· &&& 0xFE))).Nodup)

/-- A key block's use needs an approval (R323). -/
def kbNeedsApproval (usage : List Byte) : Bool :=
  ["B0", "E0", "K0", "K1", "V1", "V2"].any fun x => usage == ascii x

/-! ## Approvals (R323, R324) -/

/-- The approval session of a tenant by number. -/
def State.approvalOf (s : State) (t : Byte) (n : Word) : Option Approval :=
  (s.ctl.approvals.find? fun a => a.1 == t && a.2.session == n).map (·.2)

/-- The subject digest of an item (R324): descriptor bytes 0 to 1 and 8 to 63 with the APPROVAL field at `off` zeroed,
and more bytes that the rule adds. -/
def Item.subject (it : Item) (off : Nat) (more : List Byte) : List Byte :=
  let d := overlay it.desc off (zeros 4)
  sha256 (slice d 0 2 ++ slice d 8 56 ++ more)

/-- Consume the approval session that an item names, if it has its quorum and its subject. -/
def State.consumeApproval (s : State) (t : Byte) (n : Word) (subject : List Byte) : Option State :=
  match s.approvalOf t n, tabGet s.ctl.tenantRosters t.toNat with
  | some a, some r =>
    if r.m ≤ a.counted.length ∧ a.subject = subject then
      some { s with
        ctl := { s.ctl with approvals := s.ctl.approvals.filter fun x => !(x.1 == t && x.2.session == n) }
        pay := { s.pay with approvals := s.pay.approvals + 1 } }
    else none
  | _, _ => none

/-! ## Descriptor fields and checks before the claim (R311, R312, R316, R318, R322, R325) -/

def Item.payKey2 (it : Item) : Word := BitVec.ofNat 32 (it.le 16 4)

/-- KSRC of the opcodes that have it. -/
def Item.ksrc (it : Item) : Nat :=
  if it.opcode = 0x0401 ∨ it.opcode = 0x0402 then it.byte 22 else if it.opcode = 0x0403 ∨ it.opcode = 0x0404 then it.byte 19 else 0

def Item.srcFmt (it : Item) : Nat := it.byte 20
def Item.dstFmt (it : Item) : Nat := it.byte 21
def Item.panField (it : Item) : List Byte := slice it.desc 40 10
def Item.pan (it : Item) : List Nat := panDigits it.panField

/-- PIN formats that an item uses. -/
def Item.formats (it : Item) : List Nat := if it.opcode = 0x0401 then [it.srcFmt, it.dstFmt] else [it.srcFmt]

/-- The parameter block of PIN_VERIFY. -/
def Item.pinParams (it : Item) : Option (List Byte) := it.hostBytes (it.le 52 8) 48

/-- The key block of KEYBLOCK_IMPORT. -/
def Item.keyBlock (it : Item) : Option (List Byte) := it.hostBytes (it.le 24 8) (it.le 20 4)

/-- The KSN of an item with KSRC 1. -/
def Item.ksn (it : Item) : List Byte :=
  if it.opcode = 0x0401 then slice it.desc 50 12
  else if it.opcode = 0x0402 then ((it.pinParams).getD []).take 12
  else slice it.desc 48 12

/-- R308 and R309 for the formats of an item. -/
def Item.pinFieldsOk (it : Item) : Bool :=
  let fmtOk := fun (f : Nat) => f == 0 || f == 1 || f == 3 || f == 4
  let panUsed := it.formats.any (· != 1)
  it.formats.all fmtOk && decide (it.ksrc ≤ 1) && it.byte 23 == 0 && (it.srcFmt == 4 || zeroRange it.desc 32 40) &&
    (if panUsed then panOk it.panField (if it.formats.any fun f => f == 0 || f == 3 then 13 else 12)
     else it.panField.all (· == 0xFF))

/-- Step 1 of R325 for a descriptor. -/
def State.payFieldsOk (s : State) (it : Item) : Bool :=
  let op := it.opcode
  if op = 0x0401 then
    it.pinFieldsOk && (it.srcFmt == 1 || it.dstFmt != 1) && (it.ksrc == 1 || zeroRange it.desc 50 62) && zeroRange it.desc 62 64
  else if op = 0x0402 then
    it.pinFieldsOk && (it.byte 21 == 1 || it.byte 21 == 2) && zeroRange it.desc 50 52 && zeroRange it.desc 60 64
  else if op = 0x0403 ∨ op = 0x0404 then
    let alg := it.byte 16
    let n := it.byte 18
    let aes := alg == 5 && (it.ksrc == 1 || algIsAes (s.keyAlg it.key))
    (alg == 1 || alg == 3 || alg == 5) && (if alg = 5 then it.byte 17 == 0 else it.byte 17 == 1 || it.byte 17 == 2) &&
      decide (4 ≤ n) && decide (n ≤ if aes then 16 else 8) && decide (it.ksrc ≤ 1) &&
      (if op = 0x0403 then zeroRange it.desc 32 48 else zeroRange it.desc (32 + n) 48) &&
      (it.ksrc == 1 || zeroRange it.desc 48 60) && zeroRange it.desc 60 64
  else if op = 0x0405 then
    decide (it.byte 16 ≤ 2) && allDigits (nibbles (slice it.desc 17 1)) && panOk it.panField 12 && zeroRange it.desc 56 64
  else if op = 0x0406 then
    (it.byte 32 == 1 || it.byte 32 == 2) && zeroRange it.desc 33 36 && zeroRange it.desc 40 64 && it.le 20 4 != 0
  else
    (byteAt it.desc 32 == asciiB || byteAt it.desc 32 == asciiD) && (it.byte 33 == 0x4E || it.byte 33 == 0x45) &&
      zeroRange it.desc 28 32 && zeroRange it.desc 37 40 && zeroRange it.desc 48 64

/-- Alignment of the IOVAs (step 2). -/
def Item.payAligned (it : Item) : Bool :=
  if it.opcode = 0x0402 then it.le 52 8 % 8 == 0
  else if 0x0403 ≤ it.opcode ∧ it.opcode ≤ 0x0406 then it.le 24 8 % 8 == 0
  else if it.opcode = 0x0407 then it.le 40 8 % 8 == 0
  else true

/-- R312 for a parameter block. -/
def pinParamsOk (method ksrc : Nat) (b : List Byte) : Bool :=
  let n := (byteAt b 12).toNat
  let tab := nibbles (slice b 24 8)
  let off := nibbles (slice b 32 6)
  (ksrc == 1 || zeroRange b 0 12) && zeroRange b 14 16 && zeroRange b 40 48 &&
    (if method = 1 then
      decide (4 ≤ n) && decide (n ≤ 12) && byteAt b 13 == 0 && allDigits tab && ((List.range 10).all fun d => tab.contains d) &&
        allDigits (off.take n) && (off.drop n).all (· == 15)
     else n == 0 && decide ((byteAt b 13).toNat ≤ 9) && zeroRange b 16 32 && allDigits (nibbles (slice b 38 2)))

/-- Payment furrows that a tenant may claim (R304), lowest first. -/
def State.payFurrows (s : State) (t : Byte) : List Nat := [16, 17, 18, 19].filter fun u => s.unitServes u t 1

/-- Bytes of the message or data that steps 1 to 8 need from the host, by opcode: IOVA and length. -/
def Item.payInput (it : Item) : Option (Nat × Nat) :=
  if it.opcode = 0x0403 ∨ it.opcode = 0x0404 ∨ it.opcode = 0x0405 then some (it.le 24 8, it.le 20 4) else none

/-- An item that needs an approval, as far as its bytes tell (R323). -/
def Item.payNeedsApproval (it : Item) : Bool :=
  it.opcode == 0x0407 || (it.opcode == 0x0406 && (it.keyBlock.any fun b => kbNeedsApproval (slice b 5 2)))

/-- APPROVAL of a key-block opcode. -/
def Item.approvalField (it : Item) : Word := BitVec.ofNat 32 (if it.opcode = 0x0406 then it.le 16 4 else it.le 20 4)

/-- The tenant of an item has REMOTE_OFFICERS set. -/
def State.remoteOfficers (s : State) (t : Byte) : Bool := (s.tenantEntry t).any (·.remoteOfficers)

/-- Steps 4 and 5 of R325. -/
def State.payLate (s : State) (it : Item) : Option Status :=
  let second := if it.opcode = 0x0401 ∨ it.opcode = 0x0402 ∨ it.opcode = 0x0407 then s.itemHandle it it.payKey2 else none
  match second with
  | some st => some st
  | none =>
    if it.payNeedsApproval ∧ !s.remoteOfficers it.tenantByte then some stAccessDenied
    else if it.opcode ≤ 0x0405 ∧ s.payFurrows it.tenantByte = [] then some stNoResource
    else none

/-- Steps 1 to 5 of R325, after R303. -/
def State.payCheck (s : State) (it : Item) : PreCheck :=
  let late := match s.payLate it with
    | some st => PreCheck.fail st
    | none => .pass
  if !((s.tenantEntry it.tenantByte).any (·.payment)) then .fail stAccessDenied
  else if !s.payFieldsOk it then .fail stBadField
  else if !it.payAligned then .fail stBadAlignment
  else if (it.opcode = 0x0403 ∨ it.opcode = 0x0404) ∧ 65536 < it.le 20 4 then .fail stLengthLimit
  else if it.opcode = 0x0405 ∧ it.le 20 4 = 0 then .fail stBadField
  else if it.opcode = 0x0405 ∧ 256 < it.le 20 4 then .fail stLengthLimit
  else if it.opcode = 0x0406 ∧ 1024 < it.le 20 4 then .fail stLengthLimit
  else if it.readFailed then .fail stAccessDenied
  else if it.opcode = 0x0402 then
    match it.pinParams with
    | none => .need
    | some b => if pinParamsOk (it.byte 21) it.ksrc b then late else .fail stBadField
  else if it.opcode = 0x0406 then
    match it.keyBlock with
    | none => .need
    | some b =>
      if !kbHeaderOk b (it.le 20 4) ∨ (!it.payNeedsApproval ∧ it.approvalField ≠ 0) then .fail stBadField else late
  else late

/-! ## Step 6: keys and roles (R306, R314, R317) -/

/-- R133 for a payment key, with its exact USAGE in step 2's place. -/
def State.roleCheck (s : State) (h : Word) (eng : Nat) (usageOk : Nat → Bool) (algOk : Nat → Bool) : Option Status :=
  match s.keyView h with
  | none => some stKeyNotFound
  | some k =>
    if !s.ancestorsOk 3 h then some stKeyRevoked
    else if !usageOk (attrUsage k.attr) then some stKeyUsage
    else
      match s.useCheck h [] [eng] 0 with
      | some st => some st
      | none => if algOk (attrAlg k.attr) then none else some stKeyUsage

/-- A nonempty subset of some USAGE bits. -/
def subsetOf (mask u : Nat) : Bool := u != 0 && Nat.land u mask == u

/-- Usages that a base derivation key may have. -/
def bdkUsage (need u : Nat) : Bool :=
  bit u useDerive && subsetOf (2 ^ usePin + 2 ^ useMacGen + 2 ^ useMacVer) (u - 2 ^ useDerive) && bit u need

/-- Step 6 of R325 for KEY alone. -/
def State.payFirstKey (s : State) (it : Item) : Option Status :=
  let op := it.opcode
  if it.ksrc = 1 then
    let need := if op ≤ 0x0402 then usePin else if op = 0x0403 then useMacGen else useMacVer
    let fits := if op ≤ 0x0402 then it.srcFmt == 4 else it.byte 16 == 5
    s.roleCheck it.key engPayFur (bdkUsage need) (fun a => algIsAes a && fits)
  else if op ≤ 0x0402 then
    s.roleCheck it.key engPayFur (· == 2 ^ usePin) (fun a => if it.srcFmt = 4 then algIsAes a else algIsTdes a)
  else if op = 0x0403 ∨ op = 0x0404 then
    let m := it.byte 16
    s.roleCheck it.key engPayFur
      (fun u => subsetOf (2 ^ useMacGen + 2 ^ useMacVer) u && bit u (if op = 0x0403 then useMacGen else useMacVer))
      (fun a => if m = 1 then algIsTdes a else if m = 3 then a == 0x08 else algIsTdes a || algIsAes a)
  else if op = 0x0405 then
    s.roleCheck it.key engPayFur
      (fun u => (u == 2 ^ useEnc + 2 ^ useMacVer && it.byte 16 == 0) || u == 2 ^ useEnc + 2 ^ useMacVer + 2 ^ useMacGen)
      (fun a => a == 0x08 || algIsAes a)
  else
    let v := if op = 0x0406 then byteAt ((it.keyBlock).getD []) 0 else byteAt it.desc 32
    s.roleCheck it.key engWrap
      (fun u => subsetOf (2 ^ useWrap + 2 ^ useUnwrap) u && bit u (if op = 0x0406 then useUnwrap else useWrap))
      (fun a => if v = asciiD then a == 0x02 else algIsTdes a)

/-- Step 6 of R325. -/
def State.payKeyCheck (s : State) (it : Item) : Option Status :=
  match s.payFirstKey it with
  | some st => some st
  | none =>
    if it.opcode = 0x0401 then
      s.roleCheck it.payKey2 engPayFur (· == 2 ^ usePin) (fun a => if it.dstFmt = 4 then algIsAes a else algIsTdes a)
    else if it.opcode = 0x0402 then s.roleCheck it.payKey2 engPayFur (· == 2 ^ usePin + 2 ^ useMacVer) algIsTdes
    else if it.opcode = 0x0407 then s.readCheck it.payKey2
    else none

/-- The item's output takes fill from the tenant's instance (R307). -/
def Item.needsFill (it : Item) : Bool := it.opcode == 0x0401 && it.dstFmt != 0

end Sys2Proof.Machine
end

