-- ==== Sys2Proof/Machine/StoreCommit.lean ====
section
/-! DEFINITION. The commit of a store (R121, R429) with what follows it: revocation scans (R139), the end of a mirror
commit (R498), the promotion of bound records at a good boot (R146) and the boot-control record (R450). -/

namespace Sys2Proof.Machine

/-! ## A good boot (R146, R450) -/

/-- An alarm above NOTICE was logged within the last t_GOODBOOT, which is 60 s. -/
def State.alarmedLately (s : State) : Bool :=
  s.sen.log.any fun e => e.boot == s.sen.boots && decide (1 ≤ e.level.rank) && decide (s.sys.tick - e.tick < 60000000)

/-- The device stands in a good boot (R146): the running measurement is that of a complete carry-over record, the mode is
Service, Ceremony or Degraded, and no alarm above NOTICE has arisen. -/
def State.goodBoot (s : State) : Bool :=
  s.sys.phase == .service && !s.sys.quiesce && s.sen.level.isNone && !s.alarmedLately &&
    s.vault.carryOver.any fun c => c.complete && c.measurement == s.vault.measurement

/-- t_GOODBOOT has passed: bound records are promoted, the boot-control record names the running slot with TRIES 0, and
MIN_SVN is raised to the running SVN (R146, R450). -/
def execGoodBoot (s : State) : Result :=
  if !s.goodBoot then .next s
  else
    let s := if s.vault.promoting then s else s.promoteNext
    let s := (s.askQuietly (.bootControl s.lcb.runSlot 0)).1
    .next (if s.minSvn < s.lcb.runSvn then (s.askQuietly (.otpMinSvn s.lcb.runSvn)).1 else s)

/-! ## STORE_COMMIT -/

/-- The mirror part of a commit: the origin's epoch, the token that it passes on, and the next commit that waits
(R498). -/
def State.mirrorEnds (s : State) (st : Store) : State :=
  match s.ring.commit with
  | some (id, stage) =>
    if id ≠ st.id ∨ stage = .prepared then s
    else
      let e := s.ring.epoch + 1
      let s := { s with ring := { s.ring with
        epoch := e
        tokenEpoch := e
        top := if s.ring.top.toNat < e.toNat then e else s.ring.top
        commits := s.ring.commits + 1
        commit := none } }
      (s.mirrorGo).passToken
  | none => s

/-- What a committed store lets go on: the item that waits for it, or the work of the device that asked for it. -/
def State.afterStore (s : State) (st : Store) : State :=
  match st.action, st.item with
  | .retire h, some id => if (s.item id).isSome then s.startScan id h else s.revScan h
  | .retire h, none => s.revScan h
  | .blob .., none => if s.vault.promoting then s.notePromotion.promoteNext else s
  | .bootControl .., none =>
    if s.lcb.recBusy then
      { s with lcb := { s.lcb with recBusy := false, recStat := stOk } }.requestWarm .steward
    else s.bootTriesDone
  | .otpCommit _, none => s.bootContinue
  | .otpHelper, none => s.bootContinue
  | _, some id =>
    match s.item id with
    | some it => if it.stage = 0xFE then s.endWaitWith id it.outcome else s.endWait id
    | none => s
  | _, none => s

/-- The COMMIT frame of a mirrored store has come back (R498), or it is out and the culvert has closed behind it. -/
def State.mirrorReady (s : State) (id : Nat) : Bool :=
  s.ring.commit == some (id, .returned) || (s.ring.commit == some (id, .committed) && !s.ring.culvertOpen)

/-- An admitted store commits (R121, R429); one whose record is mirrored commits after its COMMIT frame has come back
(R498). -/
def State.commitStore (s : State) (store : Nat) : State :=
  match s.vault.stores.find? (·.id == store) with
  | none => s
  | some st =>
    if !st.admitted ∨ (st.mirror ∧ !s.mirrorReady st.id) then s
    else
      let s := s.applyStore st.action true
      let s := { s with vault := { s.vault with stores := s.vault.stores.filter (·.id != store) } }
      (s.mirrorEnds st).afterStore st

def execStoreCommit (store : Nat) (s : State) : Result := .next (s.commitStore store)

end Sys2Proof.Machine
end

