-- ==== Sys2Proof/Machine/Cards.lean ====
section
/-! DEFINITION. Officer cards, ceremony sessions and tenant approvals (chapter 16). -/

namespace Sys2Proof.Machine

/-! ## Card parameters (R460, R464; ISO/IEC 7816-3) -/

/-- F, and the card's greatest clock in kHz, by the FI nibble of TA1. -/
def cardF (fi : Nat) : Option (Nat × Nat) :=
  match fi with
  | 0x0 => some (372, 4000)
  | 0x1 => some (372, 5000)
  | 0x2 => some (558, 6000)
  | 0x3 => some (744, 8000)
  | 0x4 => some (1116, 12000)
  | 0x5 => some (1488, 16000)
  | 0x6 => some (1860, 20000)
  | 0x9 => some (512, 5000)
  | 0xA => some (768, 7500)
  | 0xB => some (1024, 10000)
  | 0xC => some (1536, 15000)
  | 0xD => some (2048, 20000)
  | _ => none

/-- D by the DI nibble of TA1. -/
def cardD (di : Nat) : Option Nat :=
  match di with
  | 0x1 => some 1
  | 0x2 => some 2
  | 0x3 => some 4
  | 0x4 => some 8
  | 0x5 => some 16
  | 0x6 => some 32
  | 0x7 => some 64
  | 0x8 => some 12
  | 0x9 => some 20
  | _ => none

/-- A TA1 meets R460: F at most 512, D at most 32, F/D at least 16. -/
def ta1Ok (ta1 : Byte) : Bool :=
  match cardF (ta1.toNat / 16), cardD (ta1.toNat % 16) with
  | some (f, _), some d => decide (f ≤ 512) && decide (d ≤ 32) && decide (16 * d ≤ f)
  | _, _ => false

/-- The TA1 that the port proposes: the card's if it meets R460, else Fd and Dd. -/
def proposal (ta1 : Byte) : Byte := if ta1Ok ta1 then ta1 else 0x11

/-- CLK_MAX in kHz. -/
def State.clkMax (s : State) : Nat := 1000 * bits (s.reg 0 0x00C0_0010).toNat 8 5

/-- The card clock after PPS: the lower of CLK_MAX and the card's greatest. -/
def State.cardClock (s : State) (ta1 : Byte) : Nat := min s.clkMax (((cardF (ta1.toNat / 16)).map (·.2)).getD 5000)

/-- The ATR's historical bytes show the Lesengo busy extension (R466). -/
def lesengoMark (hist : List Byte) : Bool :=
  byteAt hist 0 == 0x80 && (List.range hist.length).any fun i => slice hist i 5 == [0xE4, 0x4C, 0x45, 0x53, 0x47]

/-! ## Challenges (R472) -/

/-- The 64-byte challenge block. -/
def State.challenge (s : State) (kind port : Nat) (tenant : Byte) (session : Word) (nonce subject : List Byte) : List Byte :=
  leBytes 4 0x4843594B ++ leBytes 1 kind ++ leBytes 1 port ++ [tenant, 0] ++ leBytes 8 s.sys.serial.toNat ++
  leBytes 4 session.toNat ++ zeros 4 ++ nonce ++ subject

/-- An officer's signature over a challenge and a usage counter verifies. -/
def officerSigOk (pub chal : List Byte) (counter : Word) (sig : List Byte) : Bool :=
  pointValid 0x20 pub && verifySig 0x01 0x01 0x20 pub (sha256 (chal ++ leBytes 4 counter.toNat)) sig

/-! ## Steps (R461 to R473, R476) -/

def State.port (s : State) (p : Nat) : CardPort := s.ctl.ports.getD p CardPort.reset

def State.setPort (s : State) (p : Nat) (x : CardPort) : State :=
  { s with ctl := { s.ctl with ports := s.ctl.ports.set p x } }

/-- SESSION, PORT and PIN fields of CER_CARD. -/
def Item.cerSession (it : Item) : Word := BitVec.ofNat 32 (it.le 16 4)

/-- A PIN of 4 to 8 ASCII digits, padded with 0xFF. -/
def pinFieldOk (b : List Byte) : Bool :=
  let ds := b.takeWhile (· != 0xFF)
  decide (4 ≤ ds.length) && decide (ds.length ≤ 8) &&
    ds.all (fun d => decide (0x30 ≤ d.toNat) && decide (d.toNat ≤ 0x39)) && (b.drop ds.length).all (· == 0xFF)

/-- The open session with a number. -/
def State.openSession (s : State) (n : Word) : Option Ceremony :=
  match s.ctl.session with
  | some c => if c.isOpen && c.session == n then some c else none
  | none => none

/-- The completion of a step (R474): officer ID, PHASE and PORT on every status, the rest on ST_OK. -/
def stepOutcome (p : CardPort) (port : Nat) (st : Status) (count flags : Nat) (counter : Word) : Outcome :=
  { status := st, origin1 := false,
    body := padTo 24 (leBytes 8 count ++ leBytes 4 p.officer.toNat ++ leBytes 1 p.phase.toNat ++ leBytes 1 flags ++ [0, 0] ++
      leBytes 4 counter.toNat ++ leBytes 1 port) }

/-- Activation begins (R462): class C first. -/
def CardPort.activate (p : CardPort) (item : Nat) (classB : Bool) : CardPort :=
  { p with
    powered := true
    classB := classB
    protoT1 := false
    phase := 0x1
    lesengo := false
    ta1 := 0x11
    clkKhz := 4000
    step := some item
    wait := .atr
    warm := false
    busy := false
    officer := 0
    pubKey := [] }

/-- The next waiting step of a port begins; those whose session has closed end (R476). -/
def State.nextStep (s : State) (port : Nat) : State :=
  let p := s.port port
  let live := p.queue.filter s.waitsCard
  let closed := live.filter fun id => ((s.item id).bind fun it => s.openSession it.cerSession).isNone
  let s := closed.foldl (fun s id => s.endWaitWith id (stepOutcome CardPort.reset port stQuorumMissing 0 0 0)) s
  match live.filter fun id => !closed.contains id with
  | [] => s.setPort port { p with queue := [] }
  | id :: r => s.setPort port { (p.activate id false) with queue := r }

/-- The step of a port ends with an outcome: the port deactivates, and the next waiting step begins. -/
def State.endStep (s : State) (port : Nat) (st : Status) (count flags : Nat) (counter : Word) : State :=
  let p := s.port port
  match p.step with
  | none => s
  | some id =>
    let p' := { (p.ends st).deactivate with errors := if st = stCardProtocol then p.errors + 1 else p.errors }
    ((s.setPort port p').endWaitWith id (stepOutcome p port st count flags counter)).nextStep port

/-- A step ends without counting. -/
def State.stepFails (s : State) (port : Nat) (st : Status) : State := s.endStep port st 0 0 0

/-- The port deactivates and waits t_CLASSRETRY before class B (R463). -/
def State.toClassB (s : State) (port : Nat) : State :=
  let p := s.port port
  s.setPort port { p.deactivate with step := p.step, wait := .classRetry }

/-- A PPS request (R464). -/
def State.sendPps (s : State) (port : Nat) (fallback : Bool) (ta1 : Byte) : State :=
  let p := s.port port
  let pps0 : Byte := if p.protoT1 then 0x11 else 0x10
  let s := s.setPort port { p with wait := .pps fallback, ta1 := ta1 }
  s.emit (.card port [0xFF, pps0, ta1, 0xFF ^^^ pps0 ^^^ ta1])

/-- PPS is complete: the Lesengo application is selected. -/
def State.startData (s : State) (port : Nat) : State :=
  let p := s.port port
  s.setPort port { p with phase := 0x2, wait := .select, clkKhz := s.cardClock p.ta1 }

/-- An ATR that can be read (R463, R464). -/
def State.atrRead (s : State) (port : Nat) (excludesC t1 specific : Bool) (ta1 : Byte) (ok : Bool) (hist : List Byte) : State :=
  let p := s.port port
  if excludesC && !p.classB then s.toClassB port
  else if !ok || (specific && !ta1Ok ta1) then s.stepFails port stCardProtocol
  else
    let s := s.setPort port { p with lesengo := lesengoMark hist, protoT1 := t1, ta1 := if specific then ta1 else p.ta1 }
    if specific then s.startData port else s.sendPps port false (proposal ta1)

/-- No ATR has come: class B after class C, or the end of the step. -/
def State.atrMissing (s : State) (port : Nat) : State :=
  if (s.port port).classB then s.stepFails port stCardProtocol else s.toClassB port

/-- A PPS exchange has failed: once more with Fd and Dd, then the end of the step. -/
def State.ppsFails (s : State) (port : Nat) (fallback : Bool) : State :=
  if fallback then s.stepFails port stCardProtocol else s.sendPps port true 0x11

/-- The next command of the step is sent. -/
def State.nextCommand (s : State) (port : Nat) (w : CardWait) (p : CardPort) : State :=
  s.setPort port { p with phase := 0x2, wait := w, busy := false }

/-- The key of an officer of the roster. -/
def State.rostered (s : State) (o : Word) : Option (List Byte) := (s.ctl.roster.find? (·.officer == o)).map (·.pubKey)

/-- A passed officer is added to a session, or its key brought up to date. -/
def notePassed (xs : List Officer) (o : Officer) : List Officer := xs.filter (·.officer != o.officer) ++ [o]

/-- A session counts an officer (R476, R481). -/
def Ceremony.count (c : Ceremony) (o : Word) (key : List Byte) (component : Option (List Byte)) : Ceremony :=
  { c with
    counted := c.counted ++ [o]
    passed := notePassed c.passed { officer := o, pubKey := key }
    components := if c.kind = 0x01 ∧ c.aux ≠ 0x01 then c.components ++ (component.map fun k => (o, k)).toList else c.components }

/-- The signature response of a step (R473, R476). -/
def State.cardSigned (s : State) (port : Nat) (c : Ceremony) (counter : Word) (sig : List Byte) (component : Option (List Byte)) :
    State :=
  let p := s.port port
  let s := s.setPort port { p with phase := 0x5 }
  let chal := s.challenge c.kind port 0 c.session c.nonce c.subject
  let key := (s.rostered p.officer).getD p.pubKey
  let setSession := fun (s : State) (c : Ceremony) => { s with ctl := { s.ctl with session := some c } }
  if !officerSigOk key chal counter sig then s.stepFails port stVerifyFail
  else if (s.rostered p.officer).isSome then
    if c.counted.contains p.officer then
      s.endStep port stOk c.counted.length (b2n (s.hasQuorum c) + 2) counter
    else
      let c := c.count p.officer key component
      let s := setSession s c
      let s := if s.hasQuorum c then s.wakeQuorum else s
      s.endStep port stOk c.counted.length (b2n (s.hasQuorum c)) counter
  else if c.kind = 0x01 ∧ c.aux = 0x01 then
    let c := { c with passed := notePassed c.passed { officer := p.officer, pubKey := key } }
    (setSession s c).endStep port stOk c.counted.length (b2n (s.hasQuorum c) + 4) counter
  else s.stepFails port stAccessDenied

/-- What a card sends goes to the step of its port. -/
def State.cardReply (s : State) (port : Nat) (r : CardReply) : State :=
  let p := s.port port
  match p.step.bind s.item with
  | none => s
  | some it =>
    match r with
    | .atr readable excludesC t1 specific ta1 ok hist =>
      if p.wait ≠ .atr then s
      else if readable then s.atrRead port excludesC t1 specific ta1 ok hist
      else if p.warm then s.stepFails port stCardProtocol
      else s.setPort port { p with warm := true }
    | .noAtr => if p.wait = .atr then s.atrMissing port else s
    | .pps accepted =>
      match p.wait with
      | .pps fallback => if accepted then s.startData port else s.ppsFails port fallback
      | _ => s
    | .commandSent => if p.phase = 0x2 then s.setPort port { p with phase := 0x3 } else s
    | .firstCharacter => if p.phase = 0x2 ∨ p.phase = 0x3 then s.setPort port { p with phase := 0x4, busy := false } else s
    | .busyEnd => s.setPort port { p with busy := false }
    | .selected officer pubKey =>
      if p.wait = .select then s.nextCommand port .pin { p with officer := officer, pubKey := pubKey } else s
    | .pin correct =>
      if p.wait ≠ .pin then s
      else if !correct then s.stepFails port stAccessDenied
      else
        match s.openSession it.cerSession with
        | none => s.stepFails port stQuorumMissing
        | some c =>
          (s.nextCommand port .sign p).emit (.card port (s.challenge c.kind port 0 c.session c.nonce c.subject))
    | .signed counter sig component =>
      if p.wait ≠ .sign then s
      else
        match s.openSession it.cerSession with
        | none => (s.setPort port { p with phase := 0x5 }).stepFails port stQuorumMissing
        | some c => s.cardSigned port c counter sig component
    | .protocolError => s.stepFails port stCardProtocol

def execCardResponse (port : Nat) (reply : CardReply) (s : State) : Result := .next (s.cardReply port reply)

/-- A waiting time, the busy limit or the ATR window has passed (R463 to R466). -/
def State.cardTimeout (s : State) (port : Nat) : State :=
  let p := s.port port
  if p.step.isNone then s
  else
    match p.wait with
    | .atr => s.atrMissing port
    | .pps fallback => s.ppsFails port fallback
    | .select | .pin | .sign => s.stepFails port stCardProtocol
    | .none | .classRetry => s

def execCardWaitTimeout (port : Nat) (s : State) : Result := .next (s.cardTimeout port)

/-- t_CLASSRETRY has passed: the port activates in class B. -/
def State.classRetry (s : State) (port : Nat) : State :=
  let p := s.port port
  match p.wait, p.step with
  | .classRetry, some id => s.setPort port (p.activate id true)
  | _, _ => s

def execCardClassRetry (port : Nat) (s : State) : Result := .next (s.classRetry port)

/-- C_IO stays low after a command (R466): a Lesengo card is busy, any other breaks the protocol. -/
def State.busyDetect (s : State) (port : Nat) : State :=
  let p := s.port port
  if p.step.isNone ∨ (p.phase ≠ 0x2 ∧ p.phase ≠ 0x3) then s
  else if p.lesengo then s.setPort port { p with phase := 0x3, busy := true }
  else s.stepFails port stCardProtocol

def execCardBusyDetect (port : Nat) (s : State) : Result := .next (s.busyDetect port)

/-- Overcurrent on C_VCC (R470). -/
def execCardOvercurrent (port : Nat) (s : State) : Result :=
  if (s.port port).powered then .next (s.stepFails port stCardProtocol) else .next s

/-- Card events are seen: the SLOW domain runs. -/
def State.portsRun (s : State) : Bool :=
  match s.sys.phase with
  | .off | .reset => false
  | _ => true

/-- PF vector 27, if IRQ_EN is set. -/
def State.cardIrq (s : State) : State := if (s.reg 0 0x00C0_0010).getLsbD 16 then s.sendVector 0 27 else s

/-- A debounced insertion (R461). -/
def State.insertCard (s : State) (port : Nat) : State :=
  let p := s.port port
  if 4 ≤ port ∨ p.present then s
  else
    let s := s.setPort port { p with present := true }
    if s.portsRun then
      ({ s with ctl := { s.ctl with irqInsert := s.ctl.irqInsert ||| BitVec.ofNat 4 (2 ^ port) } }).cardIrq
    else s

def execCardInsert (port : Nat) (s : State) : Result := .next (s.insertCard port)

/-- A debounced removal (R461, R469): it ends the step, unless that has reached VERIFY. -/
def State.removeCard (s : State) (port : Nat) : State :=
  let p := s.port port
  if 4 ≤ port ∨ !p.present then s
  else
    let s := s.setPort port { p with present := false, removals := p.removals + 1 }
    if s.portsRun then
      let s := ({ s with ctl := { s.ctl with irqRemove := s.ctl.irqRemove ||| BitVec.ofNat 4 (2 ^ port) } }).cardIrq
      if p.phase = 0x5 then s else s.stepFails port stCardRemoved
    else s

def execCardRemove (port : Nat) (s : State) : Result := .next (s.removeCard port)

/-! ## Ceremony opcodes (R474 to R481) -/

/-- AUX of CER_OPEN fits its KIND. -/
def auxOk (kind aux : Nat) : Bool :=
  if kind = 0x01 then decide (1 ≤ aux) && decide (aux ≤ 3) else if kind = 0x04 then decide (aux ≤ 6) else aux == 0

/-- Opcode 0x0720. -/
def execCerOpen (item : Nat) (s : State) : Result :=
  .next (s.onRunning item fun it =>
    let kind := it.byte 16
    let aux := it.byte 17
    if it.opcode ≠ 0x0720 then s
    else if kind = 0 ∨ 8 < kind ∨ !auxOk kind aux ∨ 300 < it.le 18 2 ∨ !zeroRange it.desc 20 24 ∨ !zeroRange it.desc 56 64 then
      s.failItem item stBadField
    else if s.sys.phase ≠ .service then s.failItem item stNotServing
    else if s.ceremonyOpen then s.failItem item stNoResource
    else if s.ctl.roster = [] ∧ ¬(kind = 0x01 ∧ aux = 0x01) then s.failItem item stQuorumMissing
    else
      let d := s.draw 8
      let n := d.2.ctl.nextSession
      let c : Ceremony :=
        { session := n, kind := kind, aux := aux, subject := slice it.desc 24 32, nonce := d.1, opened := d.2.sys.tick,
          limitS := if it.le 18 2 = 0 then 300 else it.le 18 2, counted := [], passed := [], components := [], isOpen := true }
      let s' := { d.2 with ctl := { d.2.ctl with session := some c, nextSession := n + 1 } }
      (s.noteMode s').complete item stOk (leBytes 8 n.toNat ++ d.1))

/-- A CER_CARD item that fails before its step: PORT is reported. -/
def State.cardFails (s : State) (it : Item) (st : Status) : State :=
  s.finish it.id (stepOutcome CardPort.reset (it.byte 20) st 0 0 0)

/-- Opcode 0x0721: the item waits for the step of its port. -/
def execCerCard (item : Nat) (s : State) : Result :=
  .next (s.onRunning item fun it =>
    let port := it.byte 20
    if it.opcode ≠ 0x0721 then s
    else if 3 < port ∨ !zeroRange it.desc 21 24 ∨ !zeroRange it.desc 32 64 ∨ !pinFieldOk (slice it.desc 24 8) then
      s.cardFails it stBadField
    else if (s.openSession it.cerSession).isNone then s.cardFails it stQuorumMissing
    else if s.eligible none 0x20 false = [] then s.cardFails it stNoResource
    else
      let s := s.yieldItem item .card
      let p := s.port port
      let s := s.setPort port { p with queue := p.queue ++ [item] }
      if p.step.isSome then s else s.nextStep port)

/-- Opcode 0x0722. -/
def execCerClose (item : Nat) (s : State) : Result :=
  .next (s.onRunning item fun it =>
    if it.opcode ≠ 0x0722 then s
    else if !zeroRange it.desc 20 64 then s.failItem item stBadField
    else
      match s.openSession it.cerSession with
      | some _ => s.closeSession.complete item stOk (leBytes 8 1)
      | none => s.complete item stOk (leBytes 8 0))

/-- The session reaches LIMIT_S. -/
def execCeremonyLimit (s : State) : Result := if s.ceremonyOpen then .next s.closeSession else .next s

/-! ### LOAD_COMPONENT (R481) -/

/-- The reserved parts and ranges of a component descriptor. -/
def componentOk (d : List Byte) (aux : Nat) : Bool :=
  let comp := (byteAt d 0).toNat
  let target := (byteAt d 1).toNat
  let parts := (byteAt d 2).toNat
  let cknLen := (byteAt d 28).toNat
  d.length == 32 && comp == aux && byteAt d 3 == 0 && zeroRange d 29 32 &&
  (if comp = 1 then parts == 0 && zeroRange d 4 29
   else if comp = 2 then decide (2 ≤ parts) && decide (parts ≤ 16) && decide (1 ≤ cknLen) && decide (cknLen ≤ 16) &&
     zeroRange d (12 + cknLen) 28 && decide (target < 32)
   else decide (2 ≤ parts) && decide (parts ≤ 16) && target == 0 && zeroRange d 12 29)

/-- The exclusive or of key components. -/
def combine (parts : List (List Byte)) : List Byte := parts.foldl (fun k c => xorBytes k (padTo 32 c)) (zeros 32)

/-- What CER_APPLY does for LOAD_COMPONENT: a status of its own, or a store. -/
def Ceremony.loadComponent (c : Ceremony) (d : List Byte) : Except Status StoreAction :=
  let parts := (byteAt d 2).toNat
  let key := combine (c.components.map (·.2))
  if !componentOk d c.aux then .error stBadField
  else if c.aux = 0x01 then
    let m := (byteAt d 1).toNat
    if m < 2 ∨ c.passed.length < m ∨ 16 < c.passed.length then .error stBadField else .ok (.roster m c.passed)
  else if c.components.length ≠ parts then .error stQuorumMissing
  else if kcv 0x02 key ≠ slice d 4 8 then .error stTagMismatch
  else if c.aux = 0x02 then .ok (.cak (byteAt d 1).toNat (slice d 12 (byteAt d 28).toNat) key)
  else .ok (.migrationKey key)

/-! ### FIRMWARE_UPDATE (R145, R450, R480) -/

/-- The first bound record, in index order, that the running image can use and that has no blob for a new measurement. -/
def State.toCarry (s : State) (mtag : List Byte) : Option (Nat × KeyRecord) :=
  s.vault.records.find? fun p => attrBound p.2.attr && (s.recordMaterial p.2).isSome && !p.2.blobs.any (·.1 == mtag)

/-- An item asks for one store of several: it yields until the commit, or completes with ST_RESERVE_LOW. -/
def State.stageStore (s : State) (it : Item) (stage : Nat) (a : StoreAction) : State :=
  if s.storesOpen && !s.reserveCovers (storeBudget a) then s.countRefusal.failItem it.id stReserveLow
  else
    match ((s.setItem { it with stage := stage }).yieldItem it.id .store).askStore (some it.id) a with
    | .refused s | .admitted s | .held s => s

/-- A promotion is pending under the carry-over record (R145, R146). -/
def State.promotionPending (s : State) : Bool :=
  s.vault.promoting || s.vault.carryOver.any fun c => c.complete && c.measurement == s.vault.measurement

/-- The next stage of a FIRMWARE_UPDATE whose session has been consumed: 1 while the carry-over record or a blob is being
written, 2 for the complete record, 3 for the boot-control record. -/
def State.firmwareStage (s : State) (it : Item) (img : List Byte) : State :=
  let m := sha384 (imageMeasured img)
  if it.stage = 1 then
    match s.toCarry (m.take 8) with
    | some (i, r) =>
      s.stageStore it 1 (.blob i (r.blobs.filter (·.1 == s.mtag) ++ [(m.take 8, (s.recordMaterial r).getD [])]))
    | none => s.stageStore it 2 (.carryOver (some { measurement := m, complete := true, promoted := false }))
  else if it.stage = 2 then s.stageStore it 3 (.bootControl (!s.lcb.runSlot) 0)
  else s.complete it.id stOk (okBody 0 [])

/-- A FIRMWARE_UPDATE begins: the image goes into the slot that is not running, is checked, and the carry-over starts. -/
def State.firmwareStart (s : State) (it : Item) (img : List Byte) : State :=
  let s := s.closeSession
  let s := { s with lcb := if s.lcb.runSlot then { s.lcb with slotA := img } else { s.lcb with slotB := img } }
  if !s.imagePasses img then s.failItem it.id stAccessDenied
  else if s.promotionPending then s.failItem it.id stNoResource
  else s.stageStore it 1 (.carryOver (some { measurement := sha384 (imageMeasured img), complete := false, promoted := false }))

/-- A quorate session is applied to its bytes (R480). -/
def State.applySession (s : State) (it : Item) (c : Ceremony) (d : List Byte) : State :=
  let done : Outcome := { status := stOk, origin1 := false, body := zeros 24 }
  if c.kind = 0x01 then
    match c.loadComponent d with
    | .error st => s.failItem it.id st
    | .ok a => s.storeSession it.id a done
  else if c.kind = 0x03 then
    match spkiParse 0x21 96 d with
    | some pub => s.storeSession it.id (.operatorKey pub) done
    | none => s.failItem it.id stBadField
  else if c.kind = 0x06 then ((s.closeSession).complete it.id stOk []).raiseEvents [kEvent 2 0xFFFF]
  else s.firmwareStart it d

/-- Opcode 0x0723. -/
def execCerApply (item : Nat) (s : State) : Result :=
  .next (s.onRunning item fun it =>
    if it.opcode ≠ 0x0723 then s
    else if !zeroRange it.desc 32 64 then s.failItem item stBadField
    else if it.le 24 8 % 64 ≠ 0 then s.failItem item stBadAlignment
    else
      match it.hostBytes (it.le 24 8) (it.le 20 4) with
      | none => s
      | some d =>
        if 1 ≤ it.stage then s.firmwareStage it d
        else
          match s.openSession it.cerSession with
          | none => s.failItem item stQuorumMissing
          | some c =>
            if !([0x01, 0x03, 0x06, 0x07].contains c.kind) ∨ sha256 d ≠ c.subject then s.failItem item stQuorumMissing
            else if s.hasQuorum c then s.applySession it c d
            else s.yieldItem item .quorum)

/-! ## Tenant approvals (R482 to R484) -/

/-- The tenant's REMOTE_OFFICERS is clear. -/
def State.noOfficers (s : State) (it : Item) : Bool := !s.remoteOfficers it.tenantByte

/-- Opcode 0x0510. -/
def execApprovalOpen (item : Nat) (s : State) : Result :=
  .next (s.onRunning item fun it =>
    let t := it.tenantByte
    if it.opcode ≠ 0x0510 then s
    else if !zeroRange it.desc 48 64 then s.failItem item stBadField
    else if s.noOfficers it then s.failItem item stAccessDenied
    else if (tabGet s.ctl.tenantRosters t.toNat).isNone then s.failItem item stQuorumMissing
    else if 16 ≤ (s.ctl.approvals.filter (·.1 == t)).length then s.failItem item stNoResource
    else
      let d := s.draw 8
      let n := tabGetD d.2.ctl.nextApproval t.toNat 1
      let a : Approval :=
        { session := BitVec.ofNat 32 n, subject := slice it.desc 16 32, nonce := d.1, opened := d.2.sys.tick, counted := [] }
      let s := { d.2 with ctl := { d.2.ctl with
        approvals := d.2.ctl.approvals ++ [(t, a)]
        nextApproval := tabSet d.2.ctl.nextApproval t.toNat (n + 1) } }
      s.complete item stOk (leBytes 8 n ++ d.1))

/-- The result of a verified APPROVAL_SIGN (R484). -/
def State.approve (s : State) (it : Item) (a : Approval) (m : Nat) : State :=
  let dup := a.counted.contains it.key
  let a' := if dup then a else { a with counted := a.counted ++ [it.key] }
  let set := fun (x : Byte × Approval) => if x.1 == it.tenantByte && x.2.session == a.session then (x.1, a') else x
  let s := { s with ctl := { s.ctl with approvals := s.ctl.approvals.map set } }
  s.complete it.id stOk (leBytes 8 a'.counted.length ++ leBytes 1 (b2n (decide (m ≤ a'.counted.length)) + 2 * b2n dup))

/-- Opcode 0x0511. -/
def execApprovalSign (item : Nat) (s : State) : Result :=
  .next (s.onRunning item fun it =>
    let t := it.tenantByte
    if it.opcode ≠ 0x0511 then s
    else if !zeroRange it.desc 32 64 then s.failItem item stBadField
    else if it.le 24 8 % 8 ≠ 0 then s.failItem item stBadAlignment
    else if s.noOfficers it then s.failItem item stAccessDenied
    else
      match it.hostBytes (it.le 24 8) 64 with
      | none => s
      | some sig =>
        match s.approvalOf t it.cerSession, tabGet s.ctl.tenantRosters t.toNat with
        | some a, some r =>
          let chal := s.challenge 0x10 0xFF t a.session a.nonce a.subject
          if !r.handles.contains it.key then s.failItem item stAccessDenied
          else
            match (s.checkHandle t it.key).or (s.useCheck it.key [useVerify] [engPke] 0), s.keyView it.key with
            | some st, _ => s.failItem item st
            | none, none => s.failItem item stKeyNotFound
            | none, some k =>
              if officerSigOk (publicPart 0x20 k.pubOnly k.material) chal (BitVec.ofNat 32 (it.le 20 4)) sig then s.approve it a r.m
              else s.failItem item stVerifyFail
        | _, _ => s.failItem item stQuorumMissing)

/-- A handle may stand in a roster (R482): a persistent ECDSA P-256 key of the tenant with USAGE exactly VERIFY and ENGINE
PKE. -/
def State.officerHandle (s : State) (t : Byte) (h : Word) : Option Status :=
  match s.checkHandle t h with
  | some st => some st
  | none =>
    match s.keyView h with
    | none => some stKeyNotFound
    | some k =>
      if hClass h ≠ 1 ∨ attrAlg k.attr ≠ 0x20 then some stBadField
      else if attrUsage k.attr ≠ 2 ^ useVerify then some stKeyUsage
      else if attrEngine k.attr ≠ 2 ^ engPke then some stKeyEngine
      else none

/-- Opcode 0x0512. -/
def execRosterSet (item : Nat) (s : State) : Result :=
  .next (s.onRunning item fun it =>
    let t := it.tenantByte
    let m := it.byte 16
    let n := it.byte 17
    let first := (tabGet s.ctl.tenantRosters t.toNat).isNone
    let ap : Word := BitVec.ofNat 32 (it.le 20 4)
    if it.opcode ≠ 0x0512 then s
    else if m < 2 ∨ 8 < m ∨ n < m ∨ 8 < n ∨ !zeroRange it.desc 18 20 ∨ !zeroRange it.desc 32 64 ∨ (first ∧ ap ≠ 0) then
      s.failItem item stBadField
    else if s.noOfficers it then s.failItem item stAccessDenied
    else
      match it.hostBytes (it.le 24 8) (4 * n) with
      | none => s
      | some list =>
        let hs : List Word := (chunks 4 list).map fun b => BitVec.ofNat 32 (ofLe b)
        match hs.findSome? (s.officerHandle t) with
        | some st => s.failItem item st
        | none =>
          let done : Outcome := { status := stOk, origin1 := false, body := zeros 24 }
          if first then
            if !s.quotaLeft t 1 then s.failItem item stNoResource
            else s.storeFor item (.tenantRoster t m hs) done
          else if !(s.ring.member) && s.storesOpen && !s.reserveCovers 5 then s.countRefusal.failItem item stReserveLow
          else
            match s.consumeApproval t ap (it.subject 20 list) with
            | none => s.failItem item stQuorumMissing
            | some s => s.storeFor item (.tenantRoster t m hs) done)

/-- An approval session has been open for 300,000,000 ticks. -/
def execApprovalTimeout (tenant : Byte) (session : Word) (s : State) : Result :=
  .next { s with ctl := { s.ctl with
    approvals := s.ctl.approvals.filter fun x => !(x.1 == tenant && x.2.session == session) } }

end Sys2Proof.Machine
end

