-- ==== Sys2Proof/Machine/Dispatcher.lean ====
section
/-! DEFINITION. The dispatcher: consumption with each opcode's own checks (R77, R78), the choice of the next item (R93 to
R95), the indivisible claim (R96 to R99), key fills (R124 to R126), and the resumption of yielded items (R101). -/

namespace Sys2Proof.Machine

/-! ## Checks between the common checks and the claim -/

/-- A list of checks that needs no host data. -/
def PreCheck.of : Option Status → PreCheck
  | none => .pass
  | some st => .fail st

/-- The PK algorithm for whose key an item of no public-key opcode claims a Cistern run (R155). KEY_ATTEST signs under the
device's P-384 key; APPROVAL_SIGN verifies under an ECDSA P-256 key. -/
def Item.vaultRun (it : Item) : Option Nat :=
  if it.opcode = 0x0501 ∧ (algIsEcc it.keySpec.alg || algIsRsa it.keySpec.alg) then some it.keySpec.alg
  else if it.opcode = 0x050A then some 0x21
  else if it.opcode = 0x0511 then some 0x20
  else none

/-- The checks of R155: the opcode's own, then an eligible engine. -/
def State.vaultCheck (s : State) (it : Item) : Option Status :=
  let own := if it.opcode = 0x0501 then s.generateCheck it else if it.opcode = 0x050A then s.attestCheck it else none
  match own, it.vaultRun with
  | some st, _ => some st
  | none, some alg => if s.eligible it.tenant alg false = [] then some stNoResource else none
  | none, none => none

/-- The opcode's checks before its claim (R78). -/
def State.preCheck (s : State) (it : Item) : PreCheck :=
  let op := it.opcode
  if 0x0101 ≤ op ∧ op ≤ 0x0112 then .of (s.symPreCheck it)
  else if op = 0x0201 then s.sealCheck it
  else if op = 0x0202 then s.openCheck it
  else if op = 0x0210 ∨ op = 0x0211 then s.repairCheck it
  else if 0x0301 ≤ op ∧ op ≤ 0x0305 then .of (s.pkCheck it)
  else if 0x0401 ≤ op ∧ op ≤ 0x0407 then s.payCheck it
  else if op = 0x0501 ∨ op = 0x050A ∨ op = 0x0511 then .of (s.vaultCheck it)
  else if op = 0x0601 ∨ op = 0x0602 then randomCheck it
  else .pass

/-- Run the opcode's checks of an item that has not passed them: a failing item's record is ready, or becomes ready when
a parked one leaves Parked (R105). Checks that wait for host data stay open. -/
def State.runCheck (s : State) (id : Nat) : State :=
  match s.item id with
  | none => s
  | some it =>
    if it.checked || it.failed || !(it.phase == .ready || it.phase == .parked) then s
    else
      match s.preCheck it with
      | .need => s
      | .pass => s.setItem { it with checked := true }
      | .fail st =>
        if it.phase == .parked then
          let o : Outcome := { status := st, origin1 := false, body := zeros 24 }
          s.setItem { it with failed := true, outcome := s.endBody it o }
        else s.failItem id st

/-- Run the open checks of every item. -/
def State.runChecks (s : State) : State := (s.itemList.map (·.id)).foldl State.runCheck s

/-- A fetched descriptor is consumed (R68, R77), and its opcode's checks run as far as they need no host data (R78). -/
def execDescriptorConsume (fn qp : Nat) (s : State) : Result :=
  .next (if s.canConsume fn qp then (s.consume fn qp).runCheck s.dsp.nextItem else s)

/-! ## The class rule (R94, R95) -/

/-- An item may be offered to a core: its checks have passed, and it does not wait for a kind of resource (R98). -/
def State.offerable (s : State) (id : Nat) : Bool :=
  (s.item id).any fun it => it.phase == .ready && it.checked && it.lacked == []

/-- The item that a ready list offers; a BARRIER list offers its head alone (R98). -/
def State.listOffer (s : State) (n : Nat) : Option Nat :=
  match s.dsp.lists[n]? with
  | none => none
  | some l => if l.barrier then l.items.head?.filter s.offerable else l.items.find? s.offerable

/-- Lists of a class, in round-robin order from its pointer. -/
def State.classLists (s : State) (c : DspClass) : List Nat :=
  let r := s.dsp.rrNext.getD c.cls 0
  (List.range c.listCount).map fun i => c.listFirst + (r + i) % c.listCount

/-- A class is eligible (R94): it has a ready item, and fewer running items than its CORE_CAP. -/
def State.classEligible (s : State) (c : DspClass) : Bool :=
  ((s.classLists c).any fun n => (s.listOffer n).isSome) &&
    (c.coreCap == 0 || decide ((s.itemList.filter fun it => it.cls == c.cls && it.isRunning).length < c.coreCap))

/-- The eligible classes, highest number first. -/
def State.eligibleClasses (s : State) : List DspClass :=
  (List.range 8).reverse.filterMap fun n => s.plan.running.classes.find? fun c => c.cls == n && s.classEligible c

/-- Every class's credit is its WEIGHT. -/
def State.reloadCredits (s : State) : State :=
  { s with dsp := { s.dsp with credits := (List.range 8).map fun n =>
      ((s.plan.running.classes.find? (·.cls == n)).map (·.weight)).getD 0 } }

/-- The choice of R94: a class's credit goes down by one and its list pointer passes the list that gave the item. -/
def State.chooseItem (s : State) : Option (Nat × State) :=
  let es := s.eligibleClasses
  if es = [] then none
  else
    let s := if es.all fun c => s.dsp.credits.getD c.cls 0 == 0 then s.reloadCredits else s
    match es.find? fun c => s.dsp.credits.getD c.cls 0 != 0 with
    | none => none
    | some c =>
      match (s.classLists c).find? fun n => (s.listOffer n).isSome with
      | none => none
      | some n =>
        (s.listOffer n).map fun id =>
          (id, { s with dsp := { s.dsp with
            credits := s.dsp.credits.modify c.cls (· - 1)
            rrNext := s.dsp.rrNext.set c.cls ((n + 1 - c.listFirst) % c.listCount) } })

/-! ## The claim (R96 to R99) -/

/-- Keys that an item's claim pins. -/
def State.claimKeys (s : State) (it : Item) : List Word :=
  let op := it.opcode
  let t := it.tenantByte
  if it.source = .internal then
    match ((s.tenantObj t).bind (·.signKey)) with
    | some h => if s.checkHandle t h = none ∧ s.useCheck h [useSign] [engPke] 0 = none then [h] else []
    | none => []
  else if op = 0x0110 ∨ op = 0x0305 then []
  else if 0x0101 ≤ op ∧ op ≤ 0x0112 then it.key :: (if isXts op then [it.symKey2] else [])
  else if op = 0x0201 then (s.openRoot t 0x60).toList ++ (s.openRoot t 0x61).toList
  else if op = 0x0202 then (it.openManifest.map fun m => (BitVec.ofNat 32 (leAt m 76 4) : Word)).toList
  else if op = 0x0304 then (if it.key = noHandle then [] else [it.key])
  else if op = 0x0401 ∨ op = 0x0402 ∨ op = 0x0407 then [it.key, it.payKey2]
  else if op = 0x0210 ∨ op = 0x0211 ∨ (0x0301 ≤ op ∧ op ≤ 0x0406) then [it.key]
  else []

/-- The vault's checks on an item's keys (R133), with the rules of its opcode. -/
def State.claimCheck (s : State) (it : Item) : Option Status :=
  let op := it.opcode
  let handles := fun (hs : List Word) => hs.findSome? (s.itemHandle it)
  if it.source = .internal then none
  else if 0x0101 ≤ op ∧ op ≤ 0x0112 then (handles (if op = 0x0110 then [] else [it.key])).or (s.symKeyCheck it)
  else if op = 0x0201 then
    match s.openRoot it.tenantByte 0x60, s.openRoot it.tenantByte 0x61 with
    | some o, some f =>
      (s.useCheck o [useDerive] [engKdf] 0).or ((s.useCheck f [useDerive] [engKdf] 0).or (s.useCheck o [] [engKdf] 1))
    | _, _ => some stKeyNotFound
  else if op = 0x0202 then
    (handles (s.claimKeys it)).or ((s.claimKeys it).findSome? fun h => s.useCheck h [useDerive] [engKdf] 0)
  else if op = 0x0210 ∨ op = 0x0211 then (handles [it.key]).or (s.useCheck it.key [useDerive] [engKdf] 0)
  else if 0x0301 ≤ op ∧ op ≤ 0x0304 then (handles (s.claimKeys it)).or (s.pkKeyCheck it)
  else if 0x0401 ≤ op ∧ op ≤ 0x0407 then (handles (s.claimKeys it)).or (s.payKeyCheck it)
  else none

/-- A key whose material a fill can bring into the cache. -/
def State.fillable (s : State) (it : Item) (h : Word) : Bool :=
  (s.itemHandle it h).isNone && (s.keyView h).any fun k => k.material != []

def State.cached (s : State) (h : Word) : Bool := s.vault.cache.any (·.handle == h)

/-- The item waits for a fill of a key; fills of the same key merge (R126). -/
def State.startFill (s : State) (id : Nat) (h : Word) : State :=
  let old := s.vault.fills.find? (·.handle == h)
  let fills := match old with
    | some _ => s.vault.fills.map fun f => if f.handle = h then { f with waiters := f.waiters.insert id } else f
    | none => s.vault.fills ++ [{ handle := h, waiters := [id], started := s.mainServes }]
  { s with vault := { s.vault with fills := fills, cacheMiss := s.vault.cacheMiss + 1 } }

/-- Pin a cached key. -/
def State.pinKey (s : State) (h : Word) : State :=
  { s with vault := { s.vault with
      cacheHit := s.vault.cacheHit + 1
      useClock := s.vault.useClock + 1
      cache := s.vault.cache.map fun e =>
        if e.handle = h then { e with pins := e.pins + 1, lastUse := s.vault.useClock } else e } }

/-- What an item keeps of a key that it fetched (R134). -/
def State.heldKey (s : State) (h : Word) : Option HeldKey :=
  (s.keyView h).map fun k =>
    { handle := h, attr := k.attr, noncePrefix := k.noncePrefix, material := k.material, pubOnly := k.pubOnly }

/-- The Cistern run of an item's claim: not needed, obtained, or lacking. -/
def State.claimCistern (s : State) (it : Item) : Option (Option (Nat × Nat × Nat)) :=
  let op := it.opcode
  let run := fun (alg : Nat) (long : Bool) => (s.cisternRun it.tenant alg long).map some
  if it.source = .internal then
    match (s.claimKeys it).head?.bind s.keyView with
    | some k => run (attrAlg k.attr) false
    | none => some none
  else if 0x0301 ≤ op ∧ op ≤ 0x0303 then run (s.keyAlg it.key) (pkLong op (s.keyAlg it.key))
  else if op = 0x0304 then
    match s.windowOf it.tenantByte it.progEngine with
    | none => none
    | some w =>
      if s.itemList.any fun o => o.claim.cistern == some (w.engine, w.firstSlot, w.slotCount) then none
      else some (some (w.engine, w.firstSlot, w.slotCount))
  else
    match it.vaultRun with
    | some alg => run alg false
    | none => some none

/-- The context shares of an item's claim. -/
def State.claimShares (s : State) (it : Item) : Option (List (Nat × Nat)) :=
  let op := it.opcode
  let t := it.tenantByte
  if it.source = .internal then some []
  else if isLaneOp op then s.firstShares ((s.symLanes t).map fun u => [(u, 4, 1)])
  else if 0x0101 ≤ op ∧ op ≤ 0x010A then s.firstShares ((s.symFurrows t).map fun u => [(u, 8, 1)])
  else if op = 0x0201 then s.sealShares it
  else if op = 0x0202 then s.openShares it
  else if op = 0x0210 ∨ op = 0x0211 then s.repairShares it
  else if 0x0401 ≤ op ∧ op ≤ 0x0405 then s.firstShares ((s.payFurrows t).map fun u => [(u, 8, 1)])
  else some []

/-- A GCM_DEC stages its output when it is at most 1 MiB long (R183). -/
def Item.stages (it : Item) : Bool := it.opcode == 0x0102 && it.symLen != 0 && decide (it.symLen ≤ 1048576)

/-- Base of the staging SRAM on the interconnect (R378). -/
abbrev stagingBase : Nat := 0x10_0340_0000

/-- Bytes of the staging SRAM that GCM staging allocations may take. -/
abbrev stagingSize : Nat := 0x20_0000

/-- The lowest aligned free place of a size in the staging SRAM; an allocation that is being zeroed is not free
(R387). -/
def State.freeStaging (s : State) (size : Nat) : Option Nat :=
  (lowest (stagingSize / size) fun i => s.mem.allocs.all fun a =>
    decide (a.offset + a.size ≤ i * size) || decide ((i + 1) * size ≤ a.offset)).map (· * size)

/-- A free region of 24 to 31 of a host DMA engine (R394). -/
def State.freeRegion (s : State) (engine : Nat) : Option Nat :=
  (lowest 8 fun i => s.mem.allocs.all fun a => !(a.engine == engine && a.region == 24 + i)).map (24 + ·)

/-- The staging allocation of a claim with its region (R386, R394): none where one is missing. -/
def State.claimStaging (s : State) (it : Item) : Option (State × Option (Nat × Nat × Nat)) :=
  if !it.stages then some (s, none)
  else
    let log := max 12 (Nat.log2 (2 * it.symLen - 1))
    let engine := dmaEngine it.fn
    match s.freeStaging (2 ^ log), s.freeRegion engine with
    | some off, some region =>
      let a : StagingAlloc :=
        { id := s.mem.nextAlloc, offset := off, size := 2 ^ log, engine := engine, region := region, zeroing := false }
      let s := { s with mem := { s.mem with allocs := s.mem.allocs ++ [a], nextAlloc := s.mem.nextAlloc + 1 } }
      let r : Region :=
        { base := stagingBase + off, sizeLog2 := log, permR := true, permW := true, permX := false, permA := false,
          tag := it.tenantByte, tagValid := true, valid := true }
      some (s.setRegion (0x48 + engine) region r, some (a.id, engine, region))
    | _, _ => none

/-- Wire bytes of a stream of bodies on a channel: `n` data bytes in records of `extra` further bytes each, and a tag on
the last where `tail` says so. -/
def State.streamBytes (s : State) (c n extra tail : Nat) : Nat :=
  match s.chan c with
  | none => 0
  | some x =>
    let whole := n / x.chunk
    whole * s.wireBytes x (extra + x.chunk) + (if n % x.chunk = 0 then 0 else s.wireBytes x (extra + n % x.chunk)) + tail

/-- The first output unit of an item (R252): its channels, wire bytes and the weir that a headgate names. A seal's or
repair's is its first stripe, a verification's its FRAG_GET requests, and a network open's its first reply. -/
def State.firstUnit (s : State) (it : Item) : List (Nat × Nat × Option Nat) :=
  let put := fun (g : Geometry) (c : Nat) =>
    (c, s.streamBytes c (64 + Geo.unitLen g 0) 32 (if Geo.stripes g ≤ 1 then 16 else 0), none)
  if it.opcode = 0x0201 then
    match it.sealBlock with
    | some b => let g := s.sealGeometry it.tenantByte b
                (placeChans b (g.k + g.m)).map (put g)
    | none => []
  else if it.opcode = 0x0202 then
    match it.gate, it.openManifest with
    | some c, some man =>
      let g := manGeometry man
      let n := min (((s.chan c).map Channel.chunk).getD 1024) (Geo.segSize g (it.openRange g).1)
      [(c, s.streamBytes c n 16 0, (s.gateExchange c it.id).bind (·.weir))]
    | _, _ => []
  else if it.opcode = 0x0210 ∨ it.opcode = 0x0211 then
    match it.hostBytes (it.le 16 8) (it.le 24 4), it.placeList with
    | some man, some places =>
      let g := manGeometry man
      places.filterMap fun p =>
        if it.isRepair then (if bit it.targetMask p.1 then some (put g p.2) else none)
        else (s.chan p.2).map fun x => (p.2, s.wireBytes x 48, none)
    | _, _ => []
  else []

/-- A claim fails (R96, R98): the item goes to the tail of its ready list with the kinds that it lacked, and after 16
failures to the head of a BARRIER list. -/
def State.failClaim (s : State) (it : Item) (kind : ClaimKind) : State :=
  let fails := it.claimFails + 1
  let s := s.freeCore it
  let s := s.setItem { it with phase := .ready, claimFails := fails, lacked := [kind] }
  let s := { s with dsp := { s.dsp with
    claimFails := s.dsp.claimFails + 1
    lists := s.dsp.lists.modify it.ready fun l =>
      if 16 ≤ fails then { items := it.id :: l.items.erase it.id, barrier := true }
      else { l with items := l.items.erase it.id ++ [it.id] } } }
  s.trace 0x01 0x01 { it with phase := .ready } 0

/-- A claim's key check has failed: where a counter has too few values left, the vault retires the key, or closes the
object root for seals (R147, R148). -/
def State.checkFails (s : State) (it : Item) (st : Status) : State :=
  if st = stNonceExhausted then
    if it.opcode = 0x0201 then
      match s.openRoot it.tenantByte 0x60 with
      | some h => s.exhaust h true
      | none => s
    else s.exhaust it.key false
  else s

/-- The indivisible claim of an item that a core has taken (R96): in the order keys, Cistern, shares, egress, all or
none. A key that fails its check ends the item at once (R133). -/
def State.claimItem (s : State) (it : Item) : State :=
  let keys := (s.claimKeys it).dedup
  let missing := keys.filter fun h => s.fillable it h && !s.cached h
  if missing ≠ [] then (missing.foldl (fun s h => s.startFill it.id h) s).failClaim it .keyCache
  else
    match s.claimCheck it with
    | some st => (s.checkFails it st).failItem it.id st
    | none =>
      match s.claimCistern it with
      | none => s.failClaim it .cistern
      | some run =>
        match s.claimShares it, s.claimStaging it with
        | some shares, some (s', staging) =>
          match s'.takeEgress (s'.firstUnit it) with
          | none => s.failClaim it .egress
          | some (s', credit) =>
            let held := keys.filterMap s'.heldKey
            let s' := keys.foldl State.pinKey s'
            let c : Claim := { keys := held, cistern := run, shares := shares, staging := staging, egress := credit }
            let it' := { it with claim := c, claimed := true, lacked := [] }
            let s' := (s'.unlist it.id).setItem it'
            s'.trace 0x02 0 it' 0
        | _, _ => s.failClaim it .share

/-- An item on a core makes its claim. Output fill of a PIN translation is drawn first from the tenant's instance; while
that does not serve, the item waits unclaimed on its core (R307, R345). -/
def State.claimOnCore (s : State) (id : Nat) : State :=
  match s.item id with
  | none => s
  | some it =>
    if it.needsFill ∧ it.scratch = [] then
      match s.tenantDraw it.tenantByte 8 with
      | none => s
      | some (r, s) =>
        let it := { it with scratch := r }
        (s.setItem it).claimItem it
    else s.claimItem it

/-- A core takes an item and loads the tenant's regions (R110). -/
def State.takeOn (s : State) (core : Nat) (it : Item) : State :=
  let s := s.modifyCore core fun k => { k with item := some it.id, setOf := it.tenant }
  s.setItem { it with phase := .running core }

/-- The item at the head of the resume queue goes on, on a core (R93, R101); one whose outcome is settled completes. -/
def State.resumeOn (s : State) (core id : Nat) : State :=
  match s.item id with
  | none => { s with dsp := { s.dsp with resumeQ := s.dsp.resumeQ.erase id } }
  | some it =>
    let s := { s with dsp := { s.dsp with resumeQ := s.dsp.resumeQ.erase id } }
    let s := (s.takeOn core it).trace 0x06 0 { it with phase := .running core } 0
    if it.stage = 0xFF then s.finish id it.outcome else s

/-- Items are taken: no HALT or ZEROIZE response is in force (R112), and the device serves (R10). -/
def State.takesItems (s : State) : Bool :=
  !s.dsp.halted && match s.sys.phase with
    | .mirrorSync | .service | .diagnostic => true
    | _ => false

/-- A core is idle (R93). -/
def State.coreIdle (s : State) (core : Nat) : Bool :=
  (s.dsp.cores[core]?).any fun k => !k.fenced && k.item.isNone

/-- An idle core takes the head of the resume queue, or the item of the class rule, which then makes its claim; a core
whose item waits unclaimed tries again (R93, R94, R96). -/
def State.dispatch (s : State) (core : Nat) : State :=
  if !s.takesItems then s
  else if s.coreIdle core then
    match s.dsp.resumeQ with
    | id :: _ => s.resumeOn core id
    | [] =>
      match s.runChecks.chooseItem with
      | none => s.runChecks
      | some (id, s) =>
        match s.item id with
        | none => s
        | some it => (s.takeOn core it).claimOnCore id
  else
    match (s.dsp.cores[core]?).bind (·.item) with
    | none => s
    | some id => if (s.item id).any fun it => !it.claimed && it.needsFill then s.claimOnCore id else s

def execDispatch (core : Nat) (s : State) : Result := .next (s.dispatch core)

/-- A yielded item whose wait has ended goes on, on the first idle core, when it is the oldest of them (R93, R101). -/
def execItemResume (item : Nat) (s : State) : Result :=
  if s.takesItems ∧ s.dsp.resumeQ.head? = some item then
    match lowest 64 s.coreIdle with
    | some core => .next (s.resumeOn core item)
    | none => .next s
  else .next s

/-! ## Key fills (R124, R126) -/

/-- Lines that a key takes in the cache. -/
def State.keyLines (s : State) (h : Word) : Nat := ((algRow (s.keyAlg h)).map (·.lines)).getD 1

/-- Lines in use. -/
def linesUsed (c : List CacheEntry) : Nat := (c.map (·.lines)).sum

/-- Evict unpinned entries, least recently used first, until `n` lines are free; none where the unpinned lines are too
few. -/
def makeRoom (n : Nat) : Nat → List CacheEntry → Option (List CacheEntry)
  | 0, c => if linesUsed c + n ≤ 16384 then some c else none
  | f + 1, c =>
    if linesUsed c + n ≤ 16384 then some c
    else
      match (c.filter (·.pins == 0)).foldl (fun (b : Option CacheEntry) e => match b with
          | none => some e
          | some x => if e.lastUse < x.lastUse then some e else some x) none with
      | none => none
      | some v => makeRoom n f (c.filter fun e => e.handle != v.handle)

/-- A fill ends: its waiters may be offered again (R98). -/
def State.endFill (s : State) (f : KeyFill) : State :=
  let s := { s with vault := { s.vault with fills := s.vault.fills.filter (·.handle != f.handle) } }
  f.waiters.foldl (fun s id => match s.item id with
    | some it => s.setItem { it with lacked := it.lacked.erase .keyCache }
    | none => s) s

/-- A fill comes to its end. A session entry whose tag fails ends its items with ST_FAULT_DETECTED, raises the vault's
class D alarm and is freed (R124); a key that is not found, or a bound key without material, ends the fill without an
entry; too few unpinned lines keep it waiting. -/
def State.fillDone (s : State) (h : Word) (tagOk : Bool) : State :=
  match s.vault.fills.find? (·.handle == h) with
  | none => s
  | some f =>
    if !f.started then s
    else if hClass h = 2 ∧ !tagOk ∧ (s.session (hIndex h)).live then
      let s := f.waiters.foldl (fun s id => s.failItem id stFaultDetected) s
      let s := (s.freeSession (hIndex h)).endFill f
      let s := { s with vault := { s.vault with sessTagFail := s.vault.sessTagFail + 1 } }
      s.raiseEvents [unitEvent 0x6 48 none]
    else
      match s.keyView h with
      | none => s.endFill f
      | some k =>
        if k.material = [] then s.endFill f
        else
          let n := s.keyLines h
          match makeRoom n s.vault.cache.length s.vault.cache with
          | none => s
          | some c =>
            let s := (s.draw (64 * n)).2
            let e : CacheEntry := { handle := h, lines := n, pins := 0, stale := false, lastUse := s.vault.useClock }
            { s with vault := { s.vault with cache := c ++ [e] } }.endFill f

def execKeyFillDone (handle : Word) (tagOk : Bool) (s : State) : Result := .next (s.fillDone handle tagOk)

end Sys2Proof.Machine
end

