-- ==== Sys2Proof/Machine/Protect.lean ====
section
/-! DEFINITION. Protection units, the interconnect's address map, and violation records (R378, R379, R391 to R404). -/

namespace Sys2Proof.Machine

/-- The region of a master that no entry sets. -/
def Region.off : Region :=
  { base := 0, sizeLog2 := 12, permR := false, permW := false, permX := false, permA := false, tag := 0,
    tagValid := false, valid := false }

/-- Region `r` of a master; regions 16 to 31 of a service core come from the tenant core set it has loaded (R110). -/
def State.region (s : State) (master r : Nat) : Region :=
  if master < 64 ∧ 16 ≤ r then
    match s.dsp.cores[master]?.bind (·.setOf) with
    | some t => tabGetD s.mem.coreSets (32 * t.toNat + r) Region.off
    | none => tabGetD s.mem.regions (32 * master + r) Region.off
  else tabGetD s.mem.regions (32 * master + r) Region.off

def Region.covers (r : Region) (a : Nat) : Bool :=
  r.valid && decide (r.base ≤ a) && decide (a < r.base + 2 ^ r.sizeLog2)

def Region.permits (r : Region) : AccessKind → Bool
  | .read => r.permR
  | .write => r.permW
  | .fetch => r.permX
  | .atomic => r.permA

/-- Regions by descending number. -/
def regionOrder : List Nat := (List.range 32).reverse

/-- Locked regions of the debug port (R403): the secure targets, each Cistern while R404 holds, the VLT, ENT and SEN
register blocks and the session table. -/
def State.dbgLocked (s : State) (cisternLocked : Nat → Bool) (a : Nat) : Bool :=
  (decide (0x0013_0000_0000 ≤ a) && decide (a ≤ 0x0013_00FF_FFFF)) ||
  (decide (0x0015_0000_0000 ≤ a) && decide (a ≤ 0x0015_000F_FFFF)) ||
  (decide (0x0016_0000_0000 ≤ a) && decide (a ≤ 0x0016_000F_FFFF)) ||
  (decide (0x0017_0000_0000 ≤ a) && decide (a ≤ 0x0017_000F_FFFF)) ||
  (decide (0x0012_0000_0000 ≤ a) && decide (a ≤ 0x0012_0007_FFFF) && cisternLocked ((a - 0x0012_0000_0000) / 0x1_0000)) ||
  (decide (0x0014_0080_0000 ≤ a) && decide (a ≤ 0x0014_009F_FFFF)) ||
  (decide (0x0014_00B0_0000 ≤ a) && decide (a ≤ 0x0014_00BF_FFFF)) ||
  (match s.plan.running.hbm.find? (·.purpose == 1) with
   | some h => decide (h.base ≤ a) && decide (a < h.base + 2 ^ h.sizeLog2)
   | none => false)

/-- An address falls in a target of R378. -/
def mapped (a : Nat) : Bool :=
  decide (a ≤ 0x000B_FFFF_FFFF) ||
  (decide (0x0010_0000_0000 ≤ a) && decide (a ≤ 0x0010_03FF_FFFF)) ||
  (decide (0x0011_0000_0000 ≤ a) && decide (a ≤ 0x0011_003F_FFFF)) ||
  (decide (0x0012_0000_0000 ≤ a) && decide (a ≤ 0x0012_0007_FFFF)) ||
  (decide (0x0013_0000_0000 ≤ a) && decide (a ≤ 0x0013_00FF_FFFF)) ||
  (decide (0x0014_0000_0000 ≤ a) && decide (a ≤ 0x0014_03FF_FFFF)) ||
  (decide (0x0015_0000_0000 ≤ a) && decide (a ≤ 0x0015_000F_FFFF)) ||
  (decide (0x0016_0000_0000 ≤ a) && decide (a ≤ 0x0016_000F_FFFF)) ||
  (decide (0x0017_0000_0000 ≤ a) && decide (a ≤ 0x0017_000F_FFFF)) ||
  (decide (0x0018_0000_0000 ≤ a) && decide (a ≤ 0x0018_0003_FFFF)) ||
  (decide (0x0019_0000_0000 ≤ a) && decide (a ≤ 0x0019_000F_FFFF))

/-- The parts into which the interconnect splits an access at 4 KiB boundaries (R398): address and length. -/
def splitAccess (a len : Nat) : List (Nat × Nat) :=
  let first := a / 4096
  let last := (a + len - 1) / 4096
  if len = 0 then []
  else (List.range (last - first + 1)).map fun i =>
    let lo := max a (4096 * (first + i))
    let hi := min (a + len) (4096 * (first + i + 1))
    (lo, hi - lo)

/-- The check of one part (R391, R403): the violation record of a refusal. -/
def State.checkPart (s : State) (locked : Nat → Bool) (master : Nat) (tenant : Option Byte) (fn : Nat) (kind : AccessKind)
    (split : Bool) (p : Nat × Nat) : Option Violation :=
  let base : Violation :=
    { addr := p.1, kind := kind, master := master, region := 0xFF, tenant := tenant, split := split, locked := false,
      onTag := false, onPerm := false, align := false, len := p.2, stamp := s.uptimeNs, function := fn }
  if master = 0x7F ∧ s.dbgLocked locked p.1 then some { base with region := 0xFE, locked := true }
  else
    match regionOrder.find? fun r => (s.region master r).covers p.1 with
    | none => some base
    | some r =>
      let g := s.region master r
      if g.tagValid && tenant != some g.tag then some { base with region := r, onTag := true }
      else if !g.permits kind then some { base with region := r, onPerm := true }
      else none

/-- Every part of an access with its check (R398). An atomic that is too long or misaligned is refused whole (R399). -/
def State.checkAccess (s : State) (locked : Nat → Bool) (master : Nat) (tenant : Option Byte) (fn : Nat) (a : Access) :
    List ((Nat × Nat) × Option Violation) :=
  if a.kind = .atomic ∧ (8 < a.len ∨ a.len = 0 ∨ a.addr % a.len ≠ 0) then
    [((a.addr, a.len), some
      { addr := a.addr, kind := .atomic, master := master, region := 0xFF, tenant := tenant, split := false,
        locked := false, onTag := false, onPerm := false, align := true, len := a.len, stamp := s.uptimeNs, function := fn })]
  else
    let parts := splitAccess a.addr a.len
    parts.map fun p => (p, s.checkPart locked master tenant fn a.kind (decide (1 < parts.length)) p)

/-- The FIFO group of a master (R402). -/
def violGroup (master : Nat) : Nat :=
  if master < 32 then 0 else if master < 64 then 1 else if master < 0x48 then 2 else if master < 0x50 then 3
  else if master < 0x58 then 4 else 5

/-- A violation record as 32 bytes (R401). -/
def Violation.bytes (v : Violation) : List Byte :=
  leBytes 8 v.addr ++
  leBytes 1 (match v.kind with | .read => 0 | .write => 1 | .fetch => 2 | .atomic => 3) ++
  leBytes 1 v.master ++ leBytes 1 v.region ++ [v.tenant.getD 0] ++
  leBytes 1 (b2n v.tenant.isSome + 2 * b2n v.split + 4 * b2n v.locked + 8 * b2n v.onTag + 16 * b2n v.onPerm +
    32 * b2n v.align) ++ [0] ++
  leBytes 2 v.len ++ leBytes 8 v.stamp ++ leBytes 2 v.function ++ zeros 6

/-- Write one violation record to its group's FIFO (R402). -/
def State.recordViolation (s : State) (v : Violation) : State :=
  let g := violGroup v.master
  match s.mem.fifos[g]? with
  | none => s
  | some q =>
    if 64 ≤ q.records.length then
      { s with mem := { s.mem with fifos := s.mem.fifos.set g { q with lost := q.lost + 1 } } }
    else
      let s' := { s with mem := { s.mem with fifos := s.mem.fifos.set g { q with records := q.records ++ [v] } } }
      if q.records = [] ∧ (s.reg 0 0x0030_0300).getLsbD (8 + g) then
        ({ s' with mem := { s'.mem with irqPending := s'.mem.irqPending ||| BitVec.ofNat 6 (2 ^ g) } }).sendVector 0 24
      else s'

/-- Perform an access of a master: record every refusal, count parts that decode to no target (R379, R398), and say
whether every part was performed. -/
def State.masterAccess (s : State) (locked : Nat → Bool) (master : Nat) (tenant : Option Byte) (fn : Nat) (a : Access) :
    State × Bool :=
  (s.checkAccess locked master tenant fn a).foldl (fun (acc : State × Bool) p =>
    match p.2 with
    | some v => (acc.1.recordViolation v, false)
    | none =>
      if mapped p.1.1 then acc
      else ({ acc.1 with mem := { acc.1.mem with decodeErr := acc.1.mem.decodeErr + 1 } }, false)) (s, true)

/-- An HBM uncorrectable error at an address (R383): counted, recorded and signalled; the line keeps failing. -/
def State.hbmError (s : State) (a : Nat) : State :=
  ({ s with mem := { s.mem with ue := s.mem.ue + 1, ueAddr := BitVec.ofNat 64 a,
                                ueLines := s.mem.ueLines.insert (a / 64 * 64) } }).sendVector 0 25

end Sys2Proof.Machine
end

