-- ==== Sys2Proof/Machine/DmaRead.lean ====
section
/-! DEFINITION. The end of a host DMA read (R65, R73, R356, R357, R383): a descriptor fetch, data of an item, or the
recovery image. -/

namespace Sys2Proof.Machine

/-- HPT_DMAn_STAT.ERRORS counts a failed read. -/
def State.countDmaError (s : State) (engine : Nat) : State :=
  { s with host := { s.host with dmaErrors := s.host.dmaErrors.modify engine fun n => min (n + 1) 0xFFFF } }

/-- The function that a read serves; 0 for the PF, the Steward and headgate items. -/
def State.readFn (s : State) : DmaTarget → Nat
  | .fetch fn _ _ => fn
  | .item id _ => ((s.item id).map fun it => if it.fn = 0xFFFF then 0 else it.fn).getD 0
  | .recovery => 0

/-- The tenant that a transfer carries (R392). -/
def State.readTenant (s : State) : DmaTarget → Option Byte
  | .fetch fn _ _ => if fn = 0 then none else (s.vfTenant fn).map (·.tenant)
  | .item id _ => (s.item id).bind (·.tenant)
  | .recovery => none

/-- The engine's own access to device memory is checked (R391); a refusal fails the read. -/
def State.innerAccess (s : State) (target : DmaTarget) (inner : DmaInner) (r : ReadResult) : State × ReadResult :=
  match inner.access with
  | none => (s, r)
  | some a =>
    let fn := s.readFn target
    let p := s.masterAccess (fun _ => false) (0x48 + dmaEngine fn) (s.readTenant target) fn a
    (p.1, if p.2 then r else .failed .protectionRefusal)

/-- An item whose transfer has failed ends with a status, wherever it stands (R357, R383). -/
def State.transferFails (s : State) (it : Item) (st : Status) : State :=
  let o := s.endBody it { status := st, origin1 := false, body := zeros 24 }
  match it.phase with
  | .done | .dropped => s
  | .parked => s.setItem { it with failed := true, readFailed := true, outcome := o }
  | .ready | .resumable => s.failItem it.id st
  | .running _ => (s.zeroOutputs it.id).failItem it.id st
  | .yielded _ => (s.zeroOutputs it.id).endWaitWith it.id o

/-- A descriptor fetch ends: the slot's descriptor stands ready, or the queue pair is in error (R65, R73). -/
def State.fetchDone (s : State) (fn qp slot : Nat) (r : ReadResult) : State :=
  if !s.qpListens fn qp then s
  else
    let q := s.qp fn qp
    let size := s.sqSize fn qp
    let waiting := decide (slot < size) && decide ((slot + size - q.sqHead) % size < (q.sqTail + size - q.sqHead) % size) &&
      !q.fetched.any (·.1 == slot)
    if !waiting then s
    else
      match r with
      | .ok bytes => s.setQp fn qp { q with fetched := (slot, padTo 64 bytes) :: q.fetched }
      | .failed _ => s.queueError fn qp 0x3

/-- Data of an item has arrived, or its read has failed. -/
def State.itemRead (s : State) (id : Nat) (iova : DWord) (r : ReadResult) : State :=
  match s.item id with
  | none => s
  | some it =>
    match r with
    | .failed _ => s.transferFails it stAccessDenied
    | .ok bytes =>
      match it.phase with
      | .done | .dropped => s
      | _ => (s.setItem { it with bufs := it.bufs ++ [(iova, bytes)] }).runCheck id

/-- A host DMA read ends. Single-bit errors that device memory corrected meanwhile are counted (R383). -/
def State.readDone (s : State) (target : DmaTarget) (result : ReadResult) (inner : DmaInner) : State :=
  if !s.mmioOk 0 then s
  else
    let p := s.innerAccess target inner result
    let s := match p.2 with
      | .failed _ => p.1.countDmaError (dmaEngine (p.1.readFn target))
      | .ok _ => p.1
    let s := { s with mem := { s.mem with ce := s.mem.ce + BitVec.ofNat 32 inner.hbmCe } }
    let s := match inner.hbmUe with
      | some a => s.hbmError a
      | none => s
    match target with
    | .fetch fn qp slot => s.fetchDone fn qp slot p.2
    | .item id iova =>
      match inner.hbmUe, s.item id with
      | some _, some it => s.transferFails it stFaultDetected
      | _, _ => s.itemRead id iova p.2
    | .recovery => s.recRead p.2

def execDmaReadComplete (target : DmaTarget) (result : ReadResult) (inner : DmaInner) (s : State) : Result :=
  .next (s.readDone target result inner)

end Sys2Proof.Machine
end

