-- ==== Sys2Proof/Machine/Headworks.lean ====
section
/-! DEFINITION. Chapter 8: ports, the ingress steps, channels and their timers, and the exchanges of the lateral
transport. -/

namespace Sys2Proof.Machine

/-! ## Ports and MACsec (R242 to R246) -/

/-- A sub-port exists in the port's current split (R38, R242). -/
def State.subExists (s : State) (port sub : Nat) : Bool :=
  decide (sub < splitPorts (bits (s.portCfg port).toNat 1 2))

/-- PORT in the encoding of R258. -/
def portCode (port sub : Nat) : Nat := port + 4 * sub

/-- A sub-port's link comes up or goes down (R242, R250). -/
def execEthLinkChange (port subPort : Nat) (up : Bool) (s : State) : Result :=
  if s.serdesOn && s.portEnabled port && s.subExists port subPort then
    .next (s.modifySub port subPort fun x => { x with link := up })
  else .next s

/-- A sub-port is secured and its CAK is loaded (R244, R245). -/
def State.mkaRuns (s : State) (port sub : Nat) : Bool :=
  s.serdesOn && s.portEnabled port && s.subExists port sub && bit (s.portSecure port) sub &&
    (tabGet s.ctl.caks (portCode port sub)).isSome

/-- An EAPOL-MKA exchange on a secured sub-port; when it installs a SAK, the key server draws it (R245). -/
def execEapolMka (port subPort : Nat) (installsSak : Bool) (s : State) : Result :=
  if s.mkaRuns port subPort && installsSak && s.ent.ready then
    let (sak, s) := s.draw 32
    .next (s.modifySub port subPort fun x => { x with sak := some sak, pn := 1, rekey := false })
  else .next s

/-- The PN at which a new SAK is requested (R246). -/
def State.rekeyAt (s : State) (port : Nat) : Nat := if (s.portCfg port).getLsbD 3 then 2 ^ 62 else 0xC0000000

/-- The packet number reaches the threshold: Kyobin requests a new SAK (R246). -/
def execSakRekeyThreshold (port subPort : Nat) (s : State) : Result :=
  if s.mkaRuns port subPort && decide (s.rekeyAt port ≤ (s.subPort port subPort).pn) then
    .next (s.modifySub port subPort fun x => { x with rekey := true })
  else .next s

/-- A write to HWK_PORTn_CFG (R243): SPLIT only while ENABLE is 0; clearing ENABLE resets every channel on the port. -/
def State.writePortCfg (s : State) (port : Nat) (value : Word) : State :=
  if decide (4 ≤ port) || (s.sys.variant == .ky4200A && decide (2 ≤ port)) then s
  else
    let old := s.portCfg port
    let new := value &&& 0x0000_FF1F
    let new := if old.getLsbD 0 then (new &&& 0xFFFF_FFF9) ||| (old &&& 0x0000_0006) else new
    let s' := s.setReg 0 (0x0010_0100 + 0x40 * port) new
    if old.getLsbD 0 && !new.getLsbD 0 then
      (s.hwk.chans.filter fun p => p.2.port == port).foldl (fun s p => s.resetChan p.1) s'
    else s'

def execPortCfgWrite (port : Nat) (value : Word) (s : State) : Result :=
  if s.mmioOk 0 then .next (s.writePortCfg port value) else .next s

/-! ## Exception and injection rings (R269) -/

/-- A frame goes to the exception ring with a REASON, or is dropped and counted in DROP_EXC. -/
def State.exception (s : State) (f : EthFrame) (reason : Nat) : State :=
  let size := 2 ^ ((s.reg 0 0x0010_0A08).toNat % 32)
  let next := (s.hwk.excProd + 1) % size
  if !(s.portCfg f.port).getLsbD 4 || next == (s.reg 0 0x0010_0A10).toNat % 2 ^ 16 then s.countPort f.port ctExc
  else
    let kept := f.raw.take 2032
    let slot := leBytes 2 kept.length ++ leBytes 2 f.raw.length ++ leBytes 1 (portCode f.port f.subPort) ++ leBytes 1 reason ++
      zeros 2 ++ leBytes 8 s.uptimeNs ++ kept
    let base := s.reg64 0 0x0010_0A00 0x0010_0A04
    let s := s.hostWrite 0 (base + 2048 * s.hwk.excProd) slot
    { s with hwk := { s.hwk with excProd := next } }

/-- Local address and UDP port of an active channel (R258). -/
def Channel.isLocal (x : Channel) (addr : List Byte) (port : BitVec 16) : Bool :=
  slice x.entry 32 16 == padTo 16 addr && leAt x.entry 6 2 == port.toNat

/-- Send or drop the frame of one injection slot. -/
def State.injectOne (s : State) (x : InjectSlot) : State :=
  let size := 2 ^ ((s.reg 0 0x0010_0A28).toNat % 32)
  let s := { s with hwk := { s.hwk with injCons := (s.hwk.injCons + 1) % size } }
  let barred := match x.udpSrc with
    | some (a, p) => s.hwk.chans.any fun c => c.2.isLocal a p
    | none => false
  if barred then { s with hwk := { s.hwk with injLost := s.hwk.injLost + 1 } }
  else s.portSend x.port x.subPort (.frame x.port x.subPort x.frame)

/-- A write to HWK_INJ_PROD: the device sends the slots that it reads (R250, R269). -/
def State.injectFrames (s : State) (prod : Word) (slots : List InjectSlot) : State :=
  if !s.mmioOk 0 then s
  else
    let s := s.setReg 0 0x0010_0A2C (prod &&& 0x0000_FFFF)
    if s.sendsFrames then
      let size := 2 ^ ((s.reg 0 0x0010_0A28).toNat % 32)
      let n := ((prod &&& 0x0000_FFFF).toNat + size - s.hwk.injCons % size) % size
      (slots.take n).foldl State.injectOne s
    else s

def execInjectFrame (prod : Word) (slots : List InjectSlot) (s : State) : Result := .next (s.injectFrames prod slots)

/-! ## Ingress (R247 to R250) -/

/-- The headgate that a frame matches: enabled, same port, sub-port, version, destination and UDP port. -/
def State.headgateOf (s : State) (f : EthFrame) : Option Headgate :=
  if !s.subExists f.port f.subPort then none
  else s.plan.running.headgates.find? fun h =>
    h.enabled && h.port == f.port && h.subPort == f.subPort && h.ipv6 == f.ipv6 &&
      padTo 16 h.dstAddr == padTo 16 f.dstAddr && h.dport == f.udpDport.toNat

/-- The lateral transport header is well formed (R253, step 6 of R247). -/
def rxHeaderOk (f : EthFrame) : Bool :=
  let p := f.payload
  let flags := beAt p 2 1
  let typ := beAt p 1 1
  decide (32 ≤ p.length) && beAt p 0 1 == 1 && decide (flags < 32) && beAt p 4 1 == 0 && decide (beAt p 24 2 ≤ 256) &&
    decide (p.length = 32 + beAt p 26 2) && decide (f.udpLen = 40 + beAt p 26 2) && decide (1 ≤ typ) && decide (typ ≤ 11) &&
    (!bit flags 4 || typ == ltPing)

/-- The packet of a frame. -/
def rxPacket (f : EthFrame) (h : Headgate) : RxPacket :=
  let p := f.payload
  { typ := beAt p 1 1, flags := beAt p 2 1, epoch := byteAt p 3, seq := beAt p 8 4, ack := beAt p 12 4, sack := beAt p 16 8,
    window := beAt p 24 2, xid := beAt p 28 4, body := p.drop 32, tenant := h.tenant, cls := h.cls, weir := h.weir }

/-- The channel that a packet resolves to (R248): active, of the headgate's tenant, from the peer's address and port, and
named by the header. -/
def State.resolveChan (s : State) (f : EthFrame) (h : Headgate) : Option Nat :=
  let named := beAt f.payload 4 4
  let c := if h.chan = 0xFFFFFF then named else h.chan
  match s.chan c with
  | none => none
  | some x =>
    if c = named ∧ c ≠ 0xFFFFFF ∧ x.tenant = h.tenant ∧ slice x.entry 16 16 = padTo 16 f.srcAddr ∧
       leAt x.entry 4 2 = f.udpSport.toNat then some c else none

/-- Types that the device never accepts (R254, R267). -/
def neverAccepted (typ : Nat) : Bool :=
  typ == ltSubmitAck || typ == ltFragPut || typ == ltFragGet || typ == ltRetrieveData

/-- Deliver the packets at the front of the held ones while they are next in order (R261). -/
def Channel.deliver : Nat → Channel → Channel
  | 0, x => x
  | n + 1, x =>
    match x.held.find? fun p => p.seq == x.rxNext with
    | none => x
    | some p =>
      Channel.deliver n { x with
        rxNext := (x.rxNext + 1) % 2 ^ 32, held := x.held.filter fun q => q.seq != p.seq, inbox := x.inbox ++ [p] }

/-- Answer NACK ST_BAD_OPCODE to every delivered packet of a type never accepted (R267). -/
def State.refuseTypes (s : State) (c : Nat) : State :=
  match s.chan c with
  | none => s
  | some x =>
    let bad := x.inbox.filter fun p => neverAccepted p.typ
    let s := s.setChan c { x with inbox := x.inbox.filter fun p => !neverAccepted p.typ }
    bad.foldl (fun s p => s.sendNack c p.typ p.xid stBadOpcode) s

/-- Acknowledge now, in a CREDIT (R262). -/
def State.ackNow (s : State) (c : Nat) : State := s.transmitUnseq c ltCredit 0 []

/-- Step 8 of R247 for a resolved packet (R260 to R262). -/
def State.acceptPacket (s : State) (port c : Nat) (x : Channel) (p : RxPacket) : State :=
  let syncPing := p.typ == ltPing && bit p.flags 4
  if p.typ = ltPing ∧ syncPing then
    if bit (beAt p.body 0 1) 0 && p.epoch != x.epoch then s.countPort port ctChan
    else s.setChan c { x with control := x.control ++ [p] }
  else if p.epoch ≠ x.epoch ∨ x.state ≠ .opened then s.countPort port ctChan
  else if p.typ = ltPing ∨ p.typ = ltCredit then s.setChan c { x with control := x.control ++ [p] }
  else
    let d := seqDiff p.seq x.rxNext
    let dup := decide (2 ^ 31 ≤ d) || x.held.any (·.seq == p.seq)
    let x := if dup || decide (d < 256) then x.acknowledge p.ack p.sack p.window else x
    if dup then (s.setChan c x).ackNow c
    else if 256 ≤ d then s.countPort port ctWin
    else
      let y := Channel.deliver 257 { x with held := x.held ++ [p], ackOwed := true }
      let s := (s.setChan c y).refuseTypes c
      if d ≠ 0 ∨ bit p.flags 3 then s.ackNow c else s

/-- A frame arrives on a sub-port (R247, R250). -/
def State.receiveFrame (s : State) (f : EthFrame) : State :=
  if !s.serdesOn || !s.portEnabled f.port || !(s.subPort f.port f.subPort).link then s
  else
    let s := s.countPort f.port ctRx
    let secured := bit (s.portSecure f.port) f.subPort
    if !f.fcsOk then s.countPort f.port ctFcs
    else if secured && f.kind == .eapolMka then s
    else if !s.sendsFrames then s
    else if secured && !(f.macsecOk && (s.subPort f.port f.subPort).sak.isSome && s.macsecServed f.port) then
      s.countPort f.port ctMacsec
    else if f.kind = .eapolMka then s.exception f 0x5
    else if f.kind = .pauseOrPfc then s.exception f 0x4
    else if f.dst = .broadcastOrMulticast then s.exception f 0x2
    else if f.dst = .other ∨ f.kind = .malformed then s.countPort f.port ctHdr
    else if f.kind = .otherWellFormed then s.exception f 0x3
    else
      match s.headgateOf f with
      | none => s.exception f 0x1
      | some h =>
        if !f.checksumsOk || !rxHeaderOk f then s.countPort f.port ctHdr
        else
          let p := rxPacket f h
          let opens := (p.typ == ltSubmit && bit p.flags 0) || p.typ == ltRetrieve
          match s.resolveChan f h with
          | none => s.countPort f.port ctChan
          | some c =>
            if s.sys.phase ≠ .service ∧ !opens then s.countPort f.port ctChan
            else
              match s.chan c with
              | none => s
              | some x => s.acceptPacket f.port c x p

def execEthFrameReceive (frame : EthFrame) (s : State) : Result := .next (s.receiveFrame frame)

/-! ## Acknowledgements and timers (R260 to R265, R267) -/

/-- The front packet of a channel's inbox, if it is of a type; it is taken off. -/
def State.takeInbox (s : State) (c typ : Nat) : Option (RxPacket × Channel × State) :=
  match s.chan c with
  | none => none
  | some x =>
    match x.inbox with
    | p :: rest => if p.typ = typ then some (p, x, s.setChan c { x with inbox := rest }) else none
    | [] => none

/-- As `takeInbox`, for an unsequenced packet. -/
def State.takeControl (s : State) (c typ : Nat) : Option (RxPacket × Channel × State) :=
  match s.chan c with
  | none => none
  | some x =>
    match x.control with
    | p :: rest => if p.typ = typ then some (p, x, s.setChan c { x with control := rest }) else none
    | [] => none

/-- CREDIT: its acknowledgement fields apply (R262). -/
def execCredit (chan : Nat) (s : State) : Result :=
  match s.takeControl chan ltCredit with
  | none => .next s
  | some (p, _, s) =>
    match s.chan chan with
    | none => .next s
    | some x =>
      let s := s.setChan chan (x.acknowledge p.ack p.sack p.window)
      .next (if bit p.flags 3 then s.ackNow chan else s)

/-- The channel opens when the peer answers the SYNC PING (R259, R260). -/
def State.chanOpens (s : State) (c : Nat) : State :=
  match s.chan c with
  | none => s
  | some x =>
    let s := s.setChan c { x with state := .opened }
    if s.hwk.opening = some c then
      { s with hwk := { s.hwk with opening := none, result := stOk } }
    else s

/-- PING (R254, R260): a SYNC answer opens the channel, a SYNC request resets it, any other request is echoed. -/
def execPing (chan : Nat) (s : State) : Result :=
  match s.takeControl chan ltPing with
  | none => .next s
  | some (p, x, s) =>
    let reply := bit (beAt p.body 0 1) 0
    if bit p.flags 4 then
      if reply then
        if x.state ≠ .opened ∧ !x.quarantined ∧ p.epoch = x.epoch then .next (s.chanOpens chan) else .next s
      else .next (s.resetChan chan)
    else
      let s := s.setChan chan ((s.chan chan).getD x |>.acknowledge p.ack p.sack p.window)
      if reply then .next s
      else .next (s.transmitUnseq chan ltPing 0 ([1] ++ zeros 7 ++ padTo 8 (slice p.body 8 8)))

/-- t_ACK after a packet was accepted: the acknowledgement that is still owed leaves in a CREDIT (R262). -/
def execAckTimer (chan : Nat) (s : State) : Result :=
  match s.chan chan with
  | some x => if x.ackOwed then .next (s.ackNow chan) else .next s
  | none => .next s

/-- A packet's timer expires (R263): retransmission at the first 8 expiries, channel reset at the 9th. -/
def execRetransmitTimeout (chan : Nat) (seq : Word) (s : State) : Result :=
  match s.chan chan with
  | none => .next s
  | some x =>
    match x.sent.find? fun p => p.seq == seq.toNat with
    | none => .next s
    | some p =>
      if p.covered then .next s
      else if 9 ≤ p.sends then .next (s.resetChan chan)
      else
        let s := s.setChan chan { x with sent := x.sent.map fun q => if q.seq = p.seq then { q with sends := q.sends + 1 } else q }
        let s := { s with hwk := { s.hwk with retx := s.hwk.retx + 1 } }
        .next (s.transmit chan p.typ (Nat.lor p.flags flRetx) p.seq p.xid p.body)

/-- Every 1 ms while the peer's window is 0: PING with ACKREQ (R263). -/
def execZeroWindowProbe (chan : Nat) (s : State) : Result :=
  match s.chan chan with
  | some x =>
    if x.state = .opened ∧ x.winPeer = 0 then
      .next (s.transmitUnseq chan ltPing flAckReq (zeros 8 ++ leBytes 8 s.uptimeNs))
    else .next s
  | none => .next s

/-- A window that has stayed at 0 for t_ZWIN (R263). -/
def execZeroWindowTimeout (chan : Nat) (s : State) : Result :=
  match s.chan chan with
  | some x => if x.state = .opened ∧ x.winPeer = 0 then .next (s.resetChan chan) else .next s
  | none => .next s

/-- A SYNC PING is due (R260). -/
def execSyncPingTimer (chan : Nat) (s : State) : Result :=
  match s.chan chan with
  | some x =>
    if x.state ≠ .opened ∧ !x.quarantined then
      .next (s.transmitUnseq chan ltPing flSync (zeros 8 ++ leBytes 8 s.uptimeNs))
    else .next s
  | none => .next s

/-- No answer within t_SYNC (R259, R260). -/
def execSyncTimeout (chan : Nat) (s : State) : Result :=
  match s.chan chan with
  | some x =>
    if x.state = .synchronising ∧ !x.quarantined then
      let s := s.setChan chan { x with state := .unreachable }
      if s.hwk.opening = some chan then
        .next { s with hwk := { s.hwk with opening := none, result := stPeerUnreachable } }
      else .next s
    else .next s
  | none => .next s

/-- t_EPOCHQ since the last use of the channel's EPOCH value has passed (R265). -/
def execEpochQuarantineEnd (chan : Nat) (s : State) : Result :=
  match s.chan chan with
  | some x =>
    if x.quarantined then
      let s := s.setChan chan { x with quarantined := false, epochTicks := tabSet x.epochTicks x.epoch.toNat s.sys.tick }
      .next (s.transmitUnseq chan ltPing flSync (zeros 8 ++ leBytes 8 s.uptimeNs))
    else .next s
  | none => .next s

/-- No FRAG_PUT_ACK within t_PUTACK of the tagged record's acknowledgement (R267). -/
def execPutackTimeout (chan : Nat) (xid : Word) (s : State) : Result :=
  match s.chan chan with
  | some x =>
    if x.exchanges.any fun e => e.mine && e.xid == xid.toNat && e.tagged then .next (s.resetChan chan) else .next s
  | none => .next s

/-- The head of a channel's queue leaves, if its window and weirs let it (R251, R263). -/
def execPacketTransmit (chan : Nat) (s : State) : Result := .next (s.sendHead chan)

/-! ## Channel commands (R259) -/

/-- The channel that HWK_CHAN_SEL names. -/
def State.chanSel (s : State) : Nat := (s.reg 0 0x0010_0800).toNat % 2 ^ 24

/-- The entry in HWK_CHAN_DATA0 to 15. -/
def State.chanData (s : State) : List Byte :=
  ((List.range 16).map fun i => leBytes 4 (s.reg 0 (0x0010_0840 + 4 * i)).toNat).flatten

def State.setChanData (s : State) (e : List Byte) : State :=
  (List.range 16).foldl (fun s i => s.setReg 0 (0x0010_0840 + 4 * i) (BitVec.ofNat 32 (leAt e (4 * i) 4))) s

def State.chanResult (s : State) (st : Status) : State := { s with hwk := { s.hwk with result := st } }

/-- A write to HWK_CHAN_CMD acts: the PF's registers are served and no command is in progress. -/
def State.chanCmdOk (s : State) : Bool := s.mmioOk 0 && s.hwk.opening.isNone

/-- CMD 0x1: READ. -/
def execChanRead (s : State) : Result :=
  if s.chanCmdOk then
    let e := ((s.chan s.chanSel).map (·.entry)).getD (zeros 64)
    let s := s.setChanData e
    .next { s with hwk := { s.hwk with readDone := true, result := stOk } }
  else .next s

/-- A channel entry is well formed and names a storage tenant and a port that is present (R258, R259, R546). -/
def State.entryOk (s : State) (e : List Byte) : Bool :=
  let v6 := bit (byteAt e 2).toNat 0
  let port := bits (byteAt e 1).toNat 0 2
  (s.plan.running.tenants.any fun t => t.tenant == byteAt e 0 && t.storage) && bits (byteAt e 1).toNat 5 3 == 0 &&
    !(s.sys.variant == .ky4200A && decide (2 ≤ port)) && decide ((byteAt e 2).toNat < 2) && decide ((byteAt e 3).toNat ≤ 2) &&
    (v6 || (zeroRange e 20 32 && zeroRange e 36 48)) && zeroRange e 48 64

/-- CMD 0x2: OPEN. -/
def execChanOpen (s : State) : Result :=
  if !s.chanCmdOk then .next s
  else
    let c := s.chanSel
    let e := s.chanData
    let t := byteAt e 0
    let quota := ((s.tenantEntry t).map (·.channelQuota)).getD 0
    let held := (s.hwk.chans.filter fun p => p.2.tenant == t).length
    if !s.entryOk e || c == 0xFFFFFF || (s.chan c).isSome then .next (s.chanResult stBadField)
    else if quota ≤ held ∨ 65536 ≤ s.hwk.chans.length then .next (s.chanResult stNoResource)
    else
      let (ep, s) := s.draw 1
      let x : Channel :=
        { entry := e, state := .synchronising, quarantined := false, epoch := byteAt ep 0, epochTicks := [], rxNext := 0,
          held := [], inbox := [], control := [], txNext := 0, ackPeer := 0, winPeer := 256, unsent := [], sent := [],
          exchanges := [], nextXid := 0, ackOwed := false }
      let s := s.setChan c x
      .next ({ s with hwk := { s.hwk with opening := some c } }.synchronise c)

/-- CMD 0x3: RESET. -/
def execChanReset (s : State) : Result :=
  if s.chanCmdOk then .next ((s.resetChan s.chanSel).chanResult stOk) else .next s

/-- Close a channel: it is reset and becomes inactive. -/
def State.closeChan (s : State) (c : Nat) : State :=
  let s := s.resetChan c
  { s with hwk := { s.hwk with chans := tabErase s.hwk.chans c } }

/-- CMD 0x4: CLOSE. -/
def execChanClose (s : State) : Result :=
  if s.chanCmdOk then .next ((s.closeChan s.chanSel).chanResult stOk) else .next s

/-! ## Exchanges (R254, R266, R267) -/

/-- The item that a first SUBMIT or a RETRIEVE makes (R266): the headgate's tenant and CLASS, with the common checks of
R77. -/
def State.netItem (s : State) (c : Nat) (p : RxPacket) (opcode : Nat) (desc : List Byte) : Item :=
  let it : Item :=
    { id := s.dsp.nextItem, source := .headgate c, desc := desc, tenant := some p.tenant, opcode := opcode, cls := p.cls,
      ready := s.readyListOf p.cls (some p.tenant), inFlow := none, seq := s.dsp.consumed, fence := false, notify := false,
      traceOn := false, phase := .parked, general := false, failed := false, checked := false, claimed := false,
      claimFails := 0, lacked := [], claim := Claim.none, stage := 0, scratch := p.body, bufs := [], readFailed := false,
      written := [], outcome := { status := stOk, origin1 := false, body := [] } }
  match s.commonCheck it with
  | some (st, off) =>
    let o : Outcome := { status := st, origin1 := true, body := padTo 24 (zeros 8 ++ leBytes 2 off) }
    { it with failed := true, outcome := o }
  | none => it

/-- Open a gateway's exchange and create its item, or refuse it (R266). -/
def State.openGateway (s : State) (c : Nat) (x : Channel) (p : RxPacket) (kind : ExchangeKind) (opcode : Nat)
    (desc : List Byte) : State :=
  let theirs := x.exchanges.filter fun e => !e.mine
  if theirs.any (·.xid == p.xid) then s.sendNack c p.typ p.xid stBadField
  else if 64 ≤ theirs.length then s.sendNack c p.typ p.xid stNoResource
  else
    let it := s.netItem c p opcode desc
    let e : Exchange := { xid := p.xid, mine := false, kind := kind, item := it.id, weir := p.weir, got := [], tagged := false }
    let s := match s.chan c with
      | some y => s.setChan c { y with exchanges := y.exchanges ++ [e] }
      | none => s
    let s := { s with dsp := { s.dsp with nextItem := s.dsp.nextItem + 1, consumed := s.dsp.consumed + 1 } }
    let s := if opcode = 0x0201 then
        let st : SubmitStream :=
          { item := it.id, chan := c, xid := p.xid, received := 0, data := [], ended := bit p.flags 1 }
        { s with obj := { s.obj with submits := s.obj.submits ++ [st] } }
      else s
    s.enqueue it 0x00

/-- SUBMIT data (R254): the offset must equal the bytes received so far, and the stream must carry OBJECT_LEN bytes. -/
def State.submitData (s : State) (c : Nat) (p : RxPacket) (st : SubmitStream) : State :=
  match s.item st.item with
  | none => s
  | some it =>
    let objLen := leAt it.scratch 16 8
    let data := p.body.drop 8
    let chunk := ((s.chan c).map Channel.chunk).getD 1024
    let total := st.received + data.length
    let last := bit p.flags 1
    if leAt p.body 0 8 ≠ st.received ∨ data = [] ∨ chunk < data.length ∨ objLen < total ∨ (last ∧ total ≠ objLen) ∨ st.ended then
      s.failItem st.item stBadField
    else
      let st' := { st with received := total, data := st.data ++ data, ended := last }
      let s := { s with obj := { s.obj with submits := s.obj.submits.map fun y => if y.item = st.item then st' else y } }
      if it.stage = 1 then s.endWait st.item else s

/-- A SUBMIT message (R254, R266). -/
def execSubmit (chan : Nat) (s : State) : Result :=
  match s.takeInbox chan ltSubmit with
  | none => .next s
  | some (p, x, s) =>
    if bit p.flags 0 then
      let s := s.openGateway chan x p .submit 0x0201 (leBytes 2 0x0201 ++ [0] ++ leBytes 1 p.cls ++ zeros 60)
      match s.obj.submits.find? fun y => y.chan == chan && y.xid == p.xid && y.ended with
      | some y => if bit p.flags 1 ∧ leAt p.body 16 8 ≠ 0 then .next (s.failItem y.item stBadField) else .next s
      | none => .next s
    else
      match x.exchanges.find? fun e => e.xid == p.xid && !e.mine && e.kind == .submit with
      | none => .next (s.sendNack chan p.typ p.xid stBadOpcode)
      | some e =>
        match s.obj.submits.find? (·.item == e.item) with
        | some st => .next (s.submitData chan p st)
        | none => .next s

/-- A RETRIEVE message (R254, R266). -/
def execRetrieve (chan : Nat) (s : State) : Result :=
  match s.takeInbox chan ltRetrieve with
  | none => .next s
  | some (p, x, s) =>
    .next (s.openGateway chan x p .retrieve 0x0202
      (leBytes 2 0x0202 ++ [0] ++ leBytes 1 p.cls ++ zeros 28 ++ padTo 8 (p.body.take 8) ++ zeros 24))

/-- An exchange that the device opened. -/
def Channel.mine (x : Channel) (xid : Nat) : Option Exchange := x.exchanges.find? fun e => e.mine && e.xid == xid

/-- FRAG_PUT_ACK: the fragment is durable for its seal or repair (R266). -/
def execFragPutAck (chan : Nat) (s : State) : Result :=
  match s.takeInbox chan ltFragPutAck with
  | none => .next s
  | some (p, x, s) =>
    match x.mine p.xid with
    | some e =>
      match e.kind with
      | .put j =>
        let s := s.closeExchange chan p.xid true
        let seals := s.obj.seals.map fun r => if r.item = e.item then { r with unacked := r.unacked.erase j } else r
        let repairs := s.obj.repairs.map fun r => if r.item = e.item then { r with unacked := r.unacked.erase j } else r
        let s := { s with obj := { s.obj with seals := seals, repairs := repairs } }
        let done := (seals.any fun r => r.item == e.item && r.unacked.isEmpty) ||
          (repairs.any fun r => r.item == e.item && r.unacked.isEmpty)
        .next (if done then s.endWait e.item else s)
      | _ => .next (s.sendNack chan p.typ p.xid stBadOpcode)
    | none => .next (s.sendNack chan p.typ p.xid stBadOpcode)

/-- A FRAG_DATA record names the object, seal counter and index of a manifest and fragment (R255). -/
def recordNames (rec man : List Byte) (j : Nat) : Bool :=
  slice rec 0 16 == manObject man && slice rec 16 8 == manCtr man && byteAt rec 31 == BitVec.ofNat 8 j

/-- The data of a FRAG_GET that has arrived whole goes to an open (R207). -/
def State.openData (s : State) (r : OpenRun) (j off : Nat) (str : List Byte) : State :=
  let g := manGeometry r.manifest
  let headOk := off ≠ 0 ∨ (slice str 16 16 = manObject r.manifest ∧ slice str 32 8 = manCtr r.manifest ∧
    byteAt str 6 = BitVec.ofNat 8 j)
  if headOk then
    let unit := padTo (Geo.unitLen g r.stripe) (if off = 0 then str.drop 64 else str)
    let r' := { r with units := r.units.filter (·.1 != j) ++ [(j, unit)] }
    let s := s.setOpen r'
    if r'.asked.all fun k => r'.units.any (·.1 == k) then s.endWait r.item else s
  else
    let t := ((s.item r.item).map (·.tenantByte)).getD 0
    let s := s.setOpen { r with discarded := r.discarded + 1 }
    let s := { s with obj := { s.obj with
      tenants := tabModify s.obj.tenants t.toNat fun x => { x with discards := x.discards + 1 } } }
    s.fragMissing r.item j

/-- Data of a FRAG_GET goes to a repair or verification (R234, R235): the header of stripe 0 must be what the manifest
fixes. -/
def State.repairData (s : State) (r : RepairRun) (j off : Nat) (str tag : List Byte) (whole : Bool) : State :=
  let g := manGeometry r.manifest
  let t := byteAt r.manifest 72
  let want := fragHeader g j t (manObject r.manifest) (manCtr r.manifest)
  if off = 0 ∧ str.take 64 ≠ want then
    (s.setRepair { r with corrupt := r.corrupt.insert j, asked := r.asked.erase j }).endWait r.item
  else
    let old := r.str j
    let r' := { r with
      strings := r.strings.filter (·.1 != j) ++ [(j, old ++ str)]
      tags := if tag = [] then r.tags else r.tags.filter (·.1 != j) ++ [(j, tag)]
      asked := r.asked.erase j }
    let s := s.setRepair r'
    if whole ∧ r'.asked = [] then s.endWait r.item else s

/-- One FRAG_DATA record of an exchange (R256): records come in ascending offset and cover the range. -/
def State.fragDataRecord (s : State) (c : Nat) (p : RxPacket) (e : Exchange) (j off len : Nat) : State :=
  let b := p.body
  let pos := leAt b 24 5
  let n := 64 * leAt b 29 2
  let data := slice b 32 n
  let tag := if bit pos 39 then slice b (32 + n) 16 else []
  let here := 64 * (pos % 2 ^ 35)
  let man := (((s.obj.opens.find? (·.item == e.item)).map (·.manifest)) <|>
    ((s.obj.repairs.find? (·.item == e.item)).map (·.manifest))).getD []
  if !recordNames b man j then
    let s := s.closeExchange c e.xid true
    match s.obj.opens.find? (·.item == e.item), s.obj.repairs.find? (·.item == e.item) with
    | some r, _ =>
      let t := ((s.item r.item).map (·.tenantByte)).getD 0
      let s := s.setOpen { r with discarded := r.discarded + 1 }
      let s := { s with obj := { s.obj with
        tenants := tabModify s.obj.tenants t.toNat fun x => { x with discards := x.discards + 1 } } }
      s.fragMissing r.item j
    | none, some r => (s.setRepair { r with corrupt := r.corrupt.insert j, asked := r.asked.erase j }).endWait r.item
    | none, none => s
  else if here ≠ off + e.got.length ∨ data.length ≠ n ∨ len < e.got.length + n then
    (s.closeExchange c e.xid true).fragMissing e.item j
  else
    let got := e.got ++ data
    if got.length = len then
      let s := s.closeExchange c e.xid true
      match s.obj.opens.find? (·.item == e.item), s.obj.repairs.find? (·.item == e.item) with
      | some r, _ => s.openData r j off got
      | none, some r => s.repairData r j off got tag true
      | none, none => s
    else if bit p.flags 1 then (s.closeExchange c e.xid true).fragMissing e.item j
    else
      match s.chan c with
      | none => s
      | some x => s.setChan c { x with exchanges := x.exchanges.map fun y => if y.mine ∧ y.xid = e.xid then { y with got := got } else y }

/-- FRAG_DATA (R256). -/
def execFragData (chan : Nat) (s : State) : Result :=
  match s.takeInbox chan ltFragData with
  | none => .next s
  | some (p, x, s) =>
    match x.mine p.xid with
    | some e =>
      match e.kind with
      | .get j off len => .next (s.fragDataRecord chan p e j off len)
      | _ => .next (s.sendNack chan p.typ p.xid stBadOpcode)
    | none => .next (s.sendNack chan p.typ p.xid stBadOpcode)

/-- NACK (R267): a fragment is missing, or the channel is reset. -/
def execNack (chan : Nat) (s : State) : Result :=
  match s.takeInbox chan ltNack with
  | none => .next s
  | some (p, x, s) =>
    match x.mine p.xid with
    | some e =>
      match e.kind with
      | .get j _ _ => .next ((s.closeExchange chan p.xid true).fragMissing e.item j)
      | .put _ => .next (s.resetChan chan)
      | _ => .next s
    | none => .next s

end Sys2Proof.Machine
end

