-- ==== Sys2Proof/Machine/HostPort.lean ====
section
/-! DEFINITION. Commands of chapter 12: the link, SR-IOV, function-level resets, IDE and TDISP, dirty-page logging,
suspension and state transfer. -/

namespace Sys2Proof.Machine

/-! ## Link and SR-IOV (R353, R354) -/

/-- Training ends at a rate and width: the link is up at 16 GT/s or more at x4, x8 or x16; below that it stays in
Detect (R353). No training ends while the PCIe PHY is off. -/
def execPcieLinkTrain (speed : BitVec 4) (width : BitVec 6) (flit : Bool) (s : State) : Result :=
  if s.sys.phase = .off ∨ s.sys.phase = .holdUp then .next s
  else
    let up := (speed == 4 || speed == 5 || speed == 6) && (width == 4 || width == 8 || width == 16)
    .next { s with host := { s.host with
      linkUp := up
      linkSpeed := if up then speed else 0
      linkWidth := if up then width else 0
      linkFlit := up && flit } }

/-! ## Function-level reset (R358, R359) -/

/-- Discard one unreleased item (R109): its core and claim are freed; a flow item's sequence number waits to reach the
head, any other leaves with a DROP record at once. -/
def State.discardItem (s : State) (it : Item) : State :=
  let s := s.freeCore it
  let s := s.unlist it.id
  let s := s.releaseClaim it
  let s := if 0x0301 ≤ it.opcode ∧ it.opcode ≤ 0x0304 then
      { s with pke := { s.pke with aborts := s.pke.aborts + 1, work := s.pke.work.filter (·.item != it.id) } } else s
  if it.inFlow.isSome then
    s.setItem { it with phase := .dropped, general := false, claim := Claim.none, bufs := [], scratch := [] }
  else (s.trace 0x07 0 it it.outcome.status).removeItem it.id

/-- Discard every unreleased item of a function and release what that lets go (R109). -/
def State.discardItems (s : State) (fn : Nat) : State :=
  let mine := s.itemList.filter fun it => it.fn == fn && it.phase != .dropped
  let s := mine.foldl State.discardItem s
  let flows := (mine.filterMap (·.inFlow)).dedup
  (flows.foldl (fun s f => State.releaseFlow true f s.itemList.length s) s).afterRelease

/-- Registers of a function back at their reset values: for a VF all of its BAR, for the PF its queue page and MSI-X
table. -/
def State.clearRegs (s : State) (fn : Nat) : State :=
  { s with regs := s.regs.filter fun p =>
      !(if fn = 0 then decide (0x0028_0000 ≤ p.1) && decide (p.1 < 0x002A_0000)
        else decide (p.1 / 2 ^ 26 = fn)) }

/-- Steps 1 to 4 of R358 for a VF. -/
def State.flrVf (s : State) (n : Nat) : State :=
  let aborts := s.itemList.filter fun it => (it.opcode == 0x0755 || it.opcode == 0x0756) && it.isPf && it.le 16 2 == n &&
    (it.isRunning || it.isYielded)
  let s := aborts.foldl (fun s it => s.failItem it.id stAborted) s
  let s := s.discardItems n
  let s := { s with qps := s.qps.filter fun p => p.1 / 16 ≠ n }
  let s := s.clearRegs n
  let s := { s with dsp := { s.dsp with traces := tabErase s.dsp.traces n } }
  let v := s.vf n
  let s := s.setVf n { v with
    stale := false
    outcome := 0
    pba := []
    flrBusy := true
    tdi := if v.tdi = .configLocked ∨ v.tdi = .run then .error else v.tdi }
  s.wakeSuspend

def State.countFlr (s : State) : State := { s with host := { s.host with flrs := s.host.flrs + 1 } }

/-- A function-level reset of a VF (R358). -/
def execVfFlr (vf : Nat) (s : State) : Result :=
  if vf = 0 ∨ !s.fnExists vf then .next s else .next (s.flrVf vf).countFlr

/-- The PF's own part of R359: its items and queue pairs. -/
def State.flrPf (s : State) : State :=
  let s := (s.discardItems 0).dropSteps stAborted
  let s := { s with qps := s.qps.filter fun p => p.1 / 16 ≠ 0 }
  let s := s.clearRegs 0
  { s with host := { s.host with pfPba := [], pfFlrBusy := true } }

/-- Every existing VF's reset (R359). -/
def State.flrAllVfs (s : State) : State :=
  if s.host.vfEnable then ((List.range s.host.numVfs).map (· + 1)).foldl State.flrVf s else s

/-- A function-level reset of the PF (R359): R358 for every VF, the PF's queue pairs, VF Enable. -/
def execPfFlr (s : State) : Result :=
  let s := s.flrAllVfs.flrPf
  .next ({ s with host := { s.host with vfEnable := false } }).countFlr

/-- Every outstanding request of the function has completed or timed out (step 5 of R358). -/
def execFlrDone (fn : Nat) (s : State) : Result :=
  if fn = 0 then
    let done := s.host.vfs.map fun p => (p.1, { p.2 with flrBusy := p.2.flrBusy && !s.host.pfFlrBusy })
    .next { s with host := { s.host with pfFlrBusy := false, vfs := done } }
  else if (s.vf fn).flrBusy then .next (s.setVf fn { s.vf fn with flrBusy := false })
  else .next s

/-- A write of VF Enable and NumVFs (R354). Clearing VF Enable takes the VFs away with all that R358 clears. -/
def execSrIovVfEnable (enable : Bool) (numVfs : Nat) (s : State) : Result :=
  if enable then
    .next { s with host := { s.host with vfEnable := true, numVfs := if s.host.vfEnable then s.host.numVfs else min numVfs 1023 } }
  else
    let s := s.flrAllVfs
    let cleared := s.host.vfs.map fun p => (p.1, { p.2 with flrBusy := false })
    .next { s with host := { s.host with vfEnable := false, numVfs := min numVfs 1023, vfs := cleared } }

/-! ## IDE and TDISP (R360 to R362) -/

/-- An SPDM request establishes a secured session or ends it (R360). -/
def execSpdmRequest (establishesSession : Bool) (s : State) : Result :=
  .next { s with host := { s.host with spdmSession := establishesSession } }

/-- IDE_KM in a secured session (R360): keys are programmed, and a stream goes Secure or stops. Streams 0 to 15 are
selective; 16 is the link stream. -/
def execIdeKm (msg : IdeMessage) (s : State) : Result :=
  if !s.host.spdmSession then .next s
  else
    match msg with
    | .keyProg st rid =>
      if 16 < st then .next s
      else .next { s with host := { s.host with ideKeysSet := s.host.ideKeysSet.insert st, ideRid := tabSet s.host.ideRid st rid } }
    | .keySetGo st =>
      if s.host.ideKeysSet.contains st then
        .next { s with host := { s.host with ideSecure := s.host.ideSecure.insert st } }
      else .next s
    | .keySetStop st =>
      .next { s with host := { s.host with ideSecure := s.host.ideSecure.erase st, ideKeysSet := s.host.ideKeysSet.erase st } }

/-- A TLP fails its IDE check (R361): dropped; the stream enters Insecure, an AER error is logged, and every TDI bound
to the stream moves to ERROR, where it is treated as under R358. -/
def execIdeCheckFail (stream : Nat) (s : State) : Result :=
  let s := { s with host := { s.host with
    ideFail := s.host.ideFail + 1
    aerInternal := s.host.aerInternal + 1
    ideSecure := s.host.ideSecure.erase stream } }
  match (if stream < 16 then tabGet s.host.ideRid stream else none) with
  | none => .next s
  | some n =>
    let v := s.vf n
    if n ≠ 0 ∧ (v.tdi = .configLocked ∨ v.tdi = .run) then
      let s := s.flrVf n
      .next (s.setVf n { s.vf n with tdi := .error, flrBusy := false })
    else .next s

/-- A selective stream that is Secure covers a VF's Routing ID (R362). -/
def State.streamCovers (s : State) (n : Nat) : Bool :=
  (List.range 16).any fun st => s.host.ideSecure.contains st && tabGet s.host.ideRid st == some n

/-- LOCK_INTERFACE under the conditions of R362. -/
def execLockInterface (vf : Nat) (s : State) : Result :=
  let v := s.vf vf
  let idle := (List.range 16).all fun q => !(s.qp vf q).enabled && !(s.qp vf q).draining
  if vf ≠ 0 ∧ s.fnExists vf ∧ v.tdi = .configUnlocked ∧ (s.vfTenant vf).isSome ∧ s.streamCovers vf ∧ idle ∧
     !v.suspended ∧ v.dirty.isNone then
    .next (s.setVf vf { v with tdi := .configLocked })
  else .next s

/-- START_INTERFACE: CONFIG_LOCKED to RUN (R362). -/
def execStartInterface (vf : Nat) (s : State) : Result :=
  let v := s.vf vf
  if v.tdi = .configLocked then .next (s.setVf vf { v with tdi := .run }) else .next s

/-- STOP_INTERFACE: CONFIG_UNLOCKED (R362). -/
def execStopInterface (vf : Nat) (s : State) : Result :=
  let v := s.vf vf
  if v.tdi = .configUnlocked then .next s else .next (s.setVf vf { v with tdi := .configUnlocked })

/-! ## Migration and dirty-log opcodes (R363 to R374) -/

/-- An earlier item of the same kind for the same VF has not ended (R364). -/
def State.vfItemBlocked (s : State) (it : Item) : Bool :=
  let dirtyKind := fun (op : Nat) => decide (0x0750 ≤ op) && decide (op ≤ 0x0752)
  let stateKind := fun (op : Nat) => decide (0x0753 ≤ op) && decide (op ≤ 0x0756)
  s.itemList.any fun o => decide (o.id < it.id) && o.isPf && !o.failed && o.phase != .dropped && o.le 16 2 == it.le 16 2 &&
    ((dirtyKind o.opcode && dirtyKind it.opcode) || (stateKind o.opcode && stateKind it.opcode && !o.isDone))

/-- The field, alignment and TDI checks that the opcodes 0x0750 to 0x0756 share (R362 to R364): `used` are the
descriptor bytes from 18 on that the opcode gives a meaning, `iovas` the fields that must be aligned to 64 bytes. -/
def State.vfOpCheck (s : State) (it : Item) (reservedOk : Bool) (iovas : List Nat) : Option Status :=
  let n := it.le 16 2
  if n = 0 ∨ s.host.numVfs < n ∨ !reservedOk then some stBadField
  else if !(iovas.all fun o => it.le o 8 % 64 == 0) then some stBadAlignment
  else if (s.vf n).tdi ≠ .configUnlocked then some stAccessDenied
  else none

/-- Run an opcode of the migration group on a running item once no earlier item of its kind blocks it. -/
def State.onVfItem (s : State) (item op : Nat) (f : Item → State) : State :=
  s.onRunning item fun it => if it.opcode ≠ op ∨ s.vfItemBlocked it then s else f it

/-- Opcode 0x0750 (R371). -/
def execVfDirtyStart (item : Nat) (s : State) : Result :=
  .next (s.onVfItem item 0x0750 fun it =>
    let n := it.le 16 2
    let log2 := it.byte 18
    let pages := it.le 20 4
    let base := it.le 24 8
    match s.vfOpCheck it (it.byte 19 == 0 && zeroRange it.desc 40 64 && (log2 == 12 || log2 == 21) &&
        decide (1 ≤ pages) && decide (pages ≤ 2 ^ 28)) [32] with
    | some st => s.failItem item st
    | none =>
      let v := s.vf n
      if base % 2 ^ log2 ≠ 0 then s.failItem item stBadAlignment
      else if v.dirty.isSome ∨ 2 ^ 64 < base + pages * 2 ^ log2 then s.failItem item stBadField
      else if 64 ≤ (s.host.vfs.filter fun p => p.2.dirty.isSome).length then s.failItem item stNoResource
      else
        let d : DirtyLog :=
          { pageLog2 := log2, pages := pages, base := base, bitmap := BitVec.ofNat 64 (it.le 32 8), marked := [],
            unmerged := [], outside := 0, failed := false, swapTo := none }
        let s := s.setVf n { v with dirty := some d }
        s.complete item stOk (okBody 0 []))

/-- Opcode 0x0751 (R373): from the swap start on, writes are recorded in both bitmaps; the completion record closes the
old one. -/
def execVfDirtySwap (item : Nat) (s : State) : Result :=
  .next (s.onVfItem item 0x0751 fun it =>
    let n := it.le 16 2
    match s.vfOpCheck it (zeroRange it.desc 18 32 && zeroRange it.desc 40 64) [32] with
    | some st => s.failItem item st
    | none =>
      let v := s.vf n
      match v.dirty with
      | none => s.failItem item stBadField
      | some d =>
        let s := s.setVf n { v with dirty := some { d with swapTo := some (BitVec.ofNat 64 (it.le 32 8), [], 0) } }
        s.complete item stOk (okBody 0 []))

/-- Opcode 0x0752 (R373): a swap with no new bitmap. -/
def execVfDirtyStop (item : Nat) (s : State) : Result :=
  .next (s.onVfItem item 0x0752 fun it =>
    match s.vfOpCheck it (zeroRange it.desc 18 64) [] with
    | some st => s.failItem item st
    | none =>
      if (s.vf (it.le 16 2)).dirty.isNone then s.failItem item stBadField
      else s.complete item stOk (okBody 0 []))

/-- The device merges the set bits that it holds on die, or a bitmap access fails (R374). -/
def execDirtyBitmapMerge (vf : Nat) (accessOk : Bool) (s : State) : Result :=
  let v := s.vf vf
  match v.dirty with
  | none => .next s
  | some d =>
    if d.failed then .next s
    else if accessOk then .next ((s.mergeDirty d).setVf vf { v with dirty := some { d with unmerged := [] } })
    else .next (s.setVf vf { v with dirty := some { d with failed := true } })

/-- Opcode 0x0753 (R365). -/
def execVfSuspend (item : Nat) (s : State) : Result :=
  .next (s.onVfItem item 0x0753 fun it =>
    let n := it.le 16 2
    match s.vfOpCheck it (zeroRange it.desc 18 20 && zeroRange it.desc 24 64 && decide (it.le 20 4 ≤ 10000000)) [] with
    | some st => s.failItem item st
    | none =>
      let s := s.setVf n { s.vf n with suspended := true }
      if s.vfDrained n then s.complete item stOk (okBody 0 []) else s.yieldItem item .suspension)

/-- TIMEOUT_US of a waiting VF_SUSPEND passes: ST_TIMEOUT, and the VF stays suspended (R365). -/
def execVfSuspendTimeout (item : Nat) (s : State) : Result :=
  match s.item item with
  | some it =>
    if it.opcode = 0x0753 ∧ it.phase = .yielded .suspension ∧ it.le 20 4 ≠ 0 then
      .next (s.endWaitWith item { status := stTimeout, origin1 := false, body := zeros 24 })
    else .next s
  | none => .next s

/-- Send the held interrupts of a VF whose vectors are not masked (R365). -/
def State.sendHeld (s : State) (n : Nat) : State :=
  let held := (s.vf n).pba
  let s := s.setVf n { s.vf n with pba := [] }
  held.foldl (fun s v => s.sendVector n v) s

/-- Opcode 0x0754 (R365, R369). -/
def execVfResume (item : Nat) (s : State) : Result :=
  .next (s.onVfItem item 0x0754 fun it =>
    let n := it.le 16 2
    match s.vfOpCheck it (zeroRange it.desc 18 64) [] with
    | some st => s.failItem item st
    | none =>
      let was := (s.vf n).suspended
      let s := s.setVf n { s.vf n with suspended := false }
      let s := s.sendHeld n
      let s := if was && (s.vf n).stale then
          (s.setReg n 0x4000 (s.reg n 0x4000 ||| 0x100)).sendVector n 0
        else s
      s.complete item stOk (okBody (b2n was) []))

/-- The 32-byte queue-pair record of the VF state blob (R366). -/
def State.qpBlob (s : State) (n qp : Nat) : List Byte :=
  let q := s.qp n qp
  leBytes 8 (s.sqBase n qp) ++ leBytes 8 (s.cqBase n qp) ++
  leBytes 1 (bits (s.qpReg n qp 0x110).toNat 0 5) ++ leBytes 1 (bits (s.qpReg n qp 0x110).toNat 8 5) ++
  leBytes 1 (b2n q.enabled + 2 * b2n (s.irqEn n qp) + 4 * b2n q.cqPhase + 8 * b2n q.error + 16 * q.errCode.toNat) ++
  leBytes 1 (s.qpVector n qp) ++ leBytes 1 (bits (s.qpReg n qp 0x118).toNat 0 8) ++ leBytes 1 q.counted ++
  leBytes 2 (bits (s.qpReg n qp 0x118).toNat 8 10) ++ leBytes 2 q.sqHead ++ leBytes 2 q.sqTail ++ leBytes 2 q.cqTail ++
  leBytes 2 q.cqHead

/-- The clear body of the blob, bytes 64 to 895 (R366). -/
def State.vfBlobBody (s : State) (n : Nat) : List Byte :=
  ((List.range 16).map (s.qpBlob n)).flatten ++
  (leBytes 8 (s.reg64 n 0x3000 0x3004) ++ leBytes 1 ((s.reg n 0x3008).toNat % 32) ++ leBytes 1 ((s.reg n 0x300C).toNat % 2) ++
   zeros 2 ++ leBytes 4 (s.traceRing n).prod ++ leBytes 4 (s.reg n 0x3014).toNat ++ leBytes 4 (s.traceRing n).lost.toNat ++ zeros 8) ++
  ((List.range 68).map fun i => leBytes 4 (s.reg n (0x8000 + 4 * i)).toNat).flatten ++
  leBytes 8 ((s.vf n).pba.map (2 ^ ·)).sum ++ leBytes 2 (s.reg n 0x0004).toNat ++ zeros 6

/-- The clear header of the blob (R366); `ringId` and `epoch` are zero outside a ring. -/
def State.vfBlobHead (s : State) (n : Nat) (ring : Option (DWord × DWord)) (nonce : List Byte) : List Byte :=
  leBytes 4 0x4D56594B ++ leBytes 2 1 ++ leBytes 2 912 ++ leBytes 8 s.sys.serial.toNat ++ leBytes 8 s.host.bootId.toNat ++
  leBytes 4 s.vault.storeEpoch.toNat ++ [((s.vfTenant n).map (·.tenant)).getD 0] ++
  leBytes 1 (b2n s.vault.migrationKey.isSome + 2 * b2n ring.isSome) ++ leBytes 2 n ++
  leBytes 8 ((ring.map (·.1.toNat)).getD 0) ++ leBytes 8 ((ring.map (·.2.toNat)).getD 0) ++ nonce ++ zeros 4

/-- The key under which this device seals blobs (R367). -/
def State.blobKey (s : State) : List Byte := s.vault.migrationKey.getD s.host.bootBlobKey

/-- The ring identity and mirror epoch of a ring member. -/
def State.ringIdentity (s : State) : Option (DWord × DWord) :=
  if s.ring.member then some (s.ring.ringId, s.ring.epoch) else none

/-- Opcode 0x0755 (R366). -/
def execVfStateSave (item : Nat) (s : State) : Result :=
  .next (s.onVfItem item 0x0755 fun it =>
    let n := it.le 16 2
    match s.vfOpCheck it (zeroRange it.desc 18 20 && zeroRange it.desc 32 64) [24] with
    | some st => s.failItem item st
    | none =>
      if !((s.vf n).suspended && s.vfDrained n) then s.failItem item stBadField
      else if it.le 20 4 < 912 then s.failItem item stLengthLimit
      else
        let (nonce, s) := s.draw 12
        let head := s.vfBlobHead n s.ringIdentity nonce
        let ct := gcmCrypt s.blobKey nonce (s.vfBlobBody n)
        let s := s.writeOut item (it.le 24 8) (head ++ ct ++ gcmTag s.blobKey nonce head ct)
        s.complete item stOk (okBody 912 []))

/-- Step 6 of R368 for one queue-pair record: its values lie within R64 and R89. -/
def qpRecordOk (r : List Byte) : Bool :=
  let sq := (byteAt r 16).toNat
  let cq := (byteAt r 17).toNat
  let fl := (byteAt r 18).toNat
  decide (leAt r 0 8 % 4096 = 0) && decide (leAt r 8 8 % 4096 = 0) &&
  decide (4 ≤ sq) && decide (sq ≤ cq) && decide (cq ≤ 16) && decide (1 ≤ (byteAt r 19).toNat) &&
  decide ((byteAt r 19).toNat ≤ 16) && decide (leAt r 22 2 < 1024) && decide (fl / 16 ≤ 5) &&
  decide (leAt r 24 2 < 2 ^ sq) && decide (leAt r 26 2 < 2 ^ sq) && decide (leAt r 28 2 < 2 ^ cq) && decide (leAt r 30 2 < 2 ^ cq)

/-- Load one queue-pair record (R368): CQ entries between head and tail stay reserved. -/
def State.loadQp (s : State) (n qp : Nat) (r : List Byte) : State :=
  let fl := (byteAt r 18).toNat
  let put := fun (s : State) (off v : Nat) => s.setReg n (off + 0x40 * qp) (BitVec.ofNat 32 v)
  let s := put s 0x100 (leAt r 0 4)
  let s := put s 0x104 (leAt r 4 4)
  let s := put s 0x108 (leAt r 8 4)
  let s := put s 0x10C (leAt r 12 4)
  let s := put s 0x110 ((byteAt r 16).toNat + 256 * (byteAt r 17).toNat)
  let s := put s 0x114 (2 * b2n (bit fl 1) + 256 * (byteAt r 19).toNat)
  let s := put s 0x118 ((byteAt r 20).toNat + 256 * leAt r 22 2)
  let size := 2 ^ (byteAt r 17).toNat
  s.setQp n qp
    { enabled := bit fl 0, draining := false, error := bit fl 3, errCode := BitVec.ofNat 4 (fl / 16),
      sqHead := leAt r 24 2, sqTail := leAt r 26 2, cqTail := leAt r 28 2, cqPhase := bit fl 2, cqHead := leAt r 30 2,
      reserved := (leAt r 28 2 + size - leAt r 30 2) % size, inflight := 0, fetched := [],
      counted := (byteAt r 21).toNat, discard := false }

/-- The outcome of a restore (R369). -/
def State.restoreOutcome (s : State) (b : List Byte) : BitVec 2 :=
  let same := leAt b 8 8 == s.sys.serial.toNat
  if same && leAt b 16 8 == s.host.bootId.toNat then 0
  else if (same && leAt b 24 4 == s.vault.storeEpoch.toNat) ||
    (match s.ringIdentity with
     | some (rid, ep) => bit (byteAt b 29).toNat 1 && leAt b 32 8 == rid.toNat && decide (leAt b 40 8 ≤ ep.toNat)
     | none => false) then 1
  else 2

def State.rejectBlob (s : State) (item : Nat) (st : Status) : State :=
  ({ s with host := { s.host with blobRejects := s.host.blobRejects + 1 } }).failItem item st

/-- Load the state of a blob whose checks passed (R368, R369). -/
def State.loadBlob (s : State) (n : Nat) (b body : List Byte) : State :=
  let s := (List.range 16).foldl (fun s q => s.loadQp n q (slice body (32 * q) 32)) s
  let t := slice body 512 32
  let s := s.setReg n 0x3000 (BitVec.ofNat 32 (leAt t 0 4))
  let s := s.setReg n 0x3004 (BitVec.ofNat 32 (leAt t 4 4))
  let s := s.setReg n 0x3008 (BitVec.ofNat 32 (leAt t 8 1))
  let s := s.setReg n 0x300C (BitVec.ofNat 32 (leAt t 9 1))
  let s := s.setReg n 0x3014 (BitVec.ofNat 32 (leAt t 16 4))
  let s := { s with dsp := { s.dsp with
    traces := tabSet s.dsp.traces n { prod := leAt t 12 4, lost := BitVec.ofNat 32 (leAt t 20 4) } } }
  let s := (List.range 68).foldl (fun s i => s.setReg n (0x8000 + 4 * i) (BitVec.ofNat 32 (leAt body (544 + 4 * i) 4))) s
  let s := s.setReg n 0x0004 (BitVec.ofNat 32 (leAt body 824 2))
  let o := s.restoreOutcome b
  let pba := (List.range 17).filter fun i => bit (leAt body 816 8) i
  s.setVf n { s.vf n with outcome := o, stale := decide (o ≠ 0), pba := pba }

/-- Opcode 0x0756: the checks of R368 in order, then the load. -/
def execVfStateRestore (item : Nat) (s : State) : Result :=
  .next (s.onVfItem item 0x0756 fun it =>
    let n := it.le 16 2
    match s.vfOpCheck it (zeroRange it.desc 18 20 && zeroRange it.desc 32 64 && it.le 20 4 == 912) [24] with
    | some st => s.failItem item st
    | none =>
      let idle := (List.range 16).all fun q => !(s.qp n q).enabled && !(s.qp n q).draining
      if !((s.vf n).suspended && idle) then s.failItem item stBadField
      else
        match it.hostBytes (it.le 24 8) 912 with
        | none => s
        | some b =>
          let key := if bit (byteAt b 29).toNat 0 then s.vault.migrationKey else some s.host.bootBlobKey
          let ct := slice b 64 832
          if leAt b 0 4 ≠ 0x4D56594B ∨ leAt b 4 2 ≠ 1 ∨ leAt b 6 2 ≠ 912 ∨ !zeroRange b 60 64 ∨
             bits (byteAt b 29).toNat 2 6 ≠ 0 then s.rejectBlob item stBadField
          else
            match key with
            | none => s.rejectBlob item stTagMismatch
            | some k =>
              if gcmTag k (slice b 48 12) (b.take 64) ct ≠ slice b 896 16 then s.rejectBlob item stTagMismatch
              else if some (byteAt b 28) ≠ (s.vfTenant n).map (·.tenant) then s.rejectBlob item stAccessDenied
              else
                let body := gcmCrypt k (slice b 48 12) ct
                let t := slice body 512 32
                if !((List.range 16).all fun q => qpRecordOk (slice body (32 * q) 32)) ∨
                   (byteAt t 8).toNat < 8 ∨ 16 < (byteAt t 8).toNat ∨ 1 < (byteAt t 9).toNat ∨ leAt t 0 8 % 4096 ≠ 0 then
                  s.rejectBlob item stBadField
                else
                  let s := s.loadBlob n b body
                  s.complete item stOk (okBody (s.vf n).outcome.toNat []))

/-- A write of VF_MIG_ACK with ACK 1 clears STALE (R369, R375). -/
def State.migAck (s : State) (vf : Nat) (value : Word) : State :=
  if vf ≠ 0 ∧ s.mmioOk vf ∧ value.getLsbD 0 then s.setVf vf { s.vf vf with stale := false } else s

def execVfMigAck (vf : Nat) (value : Word) (s : State) : Result := .next (s.migAck vf value)

end Sys2Proof.Machine
end

