-- ==== Sys2Proof/Machine/LifeCmd.lean ====
section
/-! DEFINITION. Debug tokens and the life-cycle opcodes (R442, R444, R452 to R457). -/

namespace Sys2Proof.Machine

/-! ## Transitions (R442) -/

/-- A transition by ceremony, or with SESSION 0 in DIAGNOSTIC. -/
def ceremonyPermits (before target : Nat) : Bool :=
  (before == lcPersonalised && target == lcDeployed) || (before == lcDeployed && target == lcDiagnostic) ||
  (before == lcDiagnostic && target == lcDeployed) ||
  ((before == lcPersonalised || before == lcDeployed || before == lcDiagnostic) &&
    (target == lcReturned || target == lcScrapped))

/-- A transition by a token with LC_VENDOR. PERSONALISED needs the PUF helper data and the certificate area. -/
def State.tokenPermits (s : State) (before target : Nat) : Bool :=
  (before == lcBlank && target == lcVendorTest) ||
  (before == lcVendorTest && target == lcPersonalised && s.lcb.helper.isSome && s.vault.certArea != []) ||
  ((before == lcBlank || before == lcVendorTest || before == lcReturned) && target == lcScrapped)

/-- A transition is recorded already or its store is under way. -/
def State.slotBusy (s : State) : Bool :=
  s.lcPending.isSome || s.vault.stores.any fun st => match st.action with
    | .otpSlot .. => true
    | _ => false

/-- The next slot is free for a target: slot 31 only for SCRAPPED (R440). -/
def State.slotFree (s : State) (target : Nat) : Bool :=
  decide (s.nextSlot < 31) || (s.nextSlot == 31 && target == lcScrapped)

/-- The codeword of a target. -/
def codeword (t : Nat) : Word := lcCodewords.getD t 0

/-- The committed slot of the current state. -/
def State.currentSlot (s : State) : Nat := ((s.committedSlots.getLast?).map (·.1)).getD 0

/-! ## Tokens (R452, R453) -/

/-- What a token is presented for: to open scopes, to record a vendor transition, or to reopen debug by ceremony. -/
inductive TokenUse where
  | scopes
  | vendor
  | reopen
  deriving DecidableEq, Repr

/-- SCOPE of a token. -/
def tokenScope (tok : List Byte) : Nat := (byteAt tok 6).toNat

/-- TOKEN_TAG of a token: the first 4 bytes of its SHA-384 digest (R440). -/
def tokenTag (tok : List Byte) : Word := BitVec.ofNat 32 (leAt (sha384 (tok.take 160)) 0 4)

/-- JTAG_DEBUG is permitted in a state (R454). -/
def debugPermitted (t : Nat) : Bool := t == lcBlank || t == lcVendorTest || t == lcDiagnostic || t == lcReturned

/-- The fields of a token are valid. -/
def tokenFields (tok : List Byte) : Bool :=
  leAt tok 0 4 == 0x5444594B && leAt tok 4 2 == 1 && decide (tokenScope tok < 8) && zeroRange tok 18 64 &&
  (if bit (tokenScope tok) 2 then decide ((byteAt tok 17).toNat ≤ 6) else byteAt tok 17 == 0xFF)

/-- LC_SLOT that a token must name. -/
def State.tokenSlot (s : State) (u : TokenUse) : Nat := if u = .scopes then s.currentSlot else s.nextSlot

/-- The state in which the scopes of a token are used. -/
def State.tokenState (s : State) (u : TokenUse) : Nat := if u = .reopen then lcDiagnostic else s.bootLcs

/-- The checks of R453 in order: the status of a refusal. `bytes` is the token followed by its key point. -/
def State.tokenCheck (s : State) (u : TokenUse) (bytes : List Byte) : Option Status :=
  let tok := padTo 160 bytes
  let sc := tokenScope tok
  let sigOk := (s.vendorKey (byteAt tok 7).toNat (slice bytes 160 97)).any fun pub =>
    verifySig 0x01 0x02 0x21 pub (sha384 (tok.take 64)) (tok.drop 64)
  let t := s.tokenState u
  if !tokenFields tok then some stBadField
  else if !sigOk ∨ leAt tok 8 8 ≠ s.sys.serial.toNat ∨ (byteAt tok 16).toNat ≠ s.tokenSlot u then some stAccessDenied
  else if s.bootLcs = lcDiagnostic ∧ (s.lcb.slots[s.currentSlot]?).map (·.tag) ≠ some (tokenTag tok) then some stAccessDenied
  else if bit sc 0 && !debugPermitted t || bit sc 1 && t == lcScrapped then some stBadField
  else if bit sc 2 && !s.tokenPermits s.bootLcs (byteAt tok 17).toNat then some stBadField
  else if u = .vendor ∧ !bit sc 2 ∨ u = .reopen ∧ !bit sc 0 then some stBadField
  else none

/-- An accepted token opens the scopes that it carries (R455). -/
def State.openScopes (s : State) (bytes : List Byte) : State :=
  { s with lcb := { s.lcb with
      scopes := s.lcb.scopes ||| BitVec.ofNat 3 (tokenScope bytes)
      dbgOpen := true } }

/-- A token is presented to open scopes. -/
def State.presentToken (s : State) (bytes : List Byte) : Status × State :=
  match s.tokenCheck .scopes bytes with
  | some st => (st, s)
  | none => (stOk, s.openScopes bytes)

/-- A vendor token records its transition (R444, R453). -/
def State.vendorToken (s : State) (bytes : List Byte) : Status × State :=
  match s.tokenCheck .vendor bytes with
  | some st => (st, s)
  | none =>
    let target := (byteAt bytes 17).toNat
    if s.slotBusy ∨ !s.slotFree target then (stNoResource, s)
    else
      match s.askStore none (.otpSlot s.nextSlot (codeword target) 0) with
      | .refused s => (stReserveLow, s)
      | .admitted s | .held s => (stOk, s)

/-- The bytes of LCB_TOKEN0 to LCB_TOKEN64: the token and its key point. -/
def State.tokenRegs (s : State) : List Byte :=
  (((List.range 65).map fun i => leBytes 4 (s.reg 0 (0x00A0_0100 + 4 * i)).toNat).flatten).take 257

/-- BUSY of LCB_TOKEN_STAT: the store of a vendor transition is in progress. -/
def State.tokenBusy (s : State) : Bool :=
  s.vault.stores.any fun st => st.item.isNone && match st.action with
    | .otpSlot .. => true
    | _ => false

/-- The end of a command of LCB_TOKEN_CMD. -/
def State.tokenEnds (r : Status × State) : State := { r.2 with lcb := { r.2.lcb with tokenStat := r.1 } }

/-- LCB_TOKEN_CMD 0x1. -/
def execTokenOpenScopes (s : State) : Result :=
  if !s.barOk 0 ∨ s.tokenBusy then .next s else .next (State.tokenEnds (s.presentToken s.tokenRegs))

/-- LCB_TOKEN_CMD 0x2. -/
def execTokenVendorTransition (s : State) : Result :=
  if !s.barOk 0 ∨ s.tokenBusy then .next s else .next (State.tokenEnds (s.vendorToken s.tokenRegs))

/-! ## Opcodes 0x0731 and 0x0732 (R456, R457) -/

/-- Steps 1 to 4 of LC_TRANSITION. -/
def State.lcCheck (s : State) (it : Item) : Option Status :=
  let target := it.byte 20
  let iova := it.le 24 8
  if !zeroRange it.desc 21 24 ∨ !zeroRange it.desc 32 64 ∨ 6 < target ∨ (iova ≠ 0) ≠ (target = lcDiagnostic) then
    some stBadField
  else if iova % 64 ≠ 0 then some stBadAlignment
  else if !ceremonyPermits s.bootLcs target ∨ (it.le 16 4 = 0) ≠ (s.bootLcs = lcDiagnostic) then some stBadField
  else if s.slotBusy ∨ !s.slotFree target then some stNoResource
  else none

/-- KIND and SUBJECT of the session that a transition consumes (R479). -/
def lcSubject (target : Nat) (tok : List Byte) : Nat × List Byte :=
  if target = lcDiagnostic then (0x05, (sha384 (tok.take 160)).take 32) else (0x04, leBytes 1 target ++ zeros 31)

/-- The record of a transition is written (R444); RESULT is the slot, and TOKEN_TAG follows. -/
def State.recordSlot (s : State) (it : Item) (target : Nat) (tag : Word) : State :=
  let a := StoreAction.otpSlot s.nextSlot (codeword target) tag
  let o : Outcome :=
    { status := stOk, origin1 := false, body := padTo 24 (leBytes 8 s.nextSlot ++ leBytes 4 tag.toNat) }
  if it.le 16 4 = 0 then s.storeFor it.id a o else s.storeSession it.id a o

/-- Opcode 0x0731. -/
def execLcTransition (item : Nat) (s : State) : Result :=
  .next (s.onRunning item fun it =>
    let target := it.byte 20
    if it.opcode ≠ 0x0731 then s
    else
      match s.lcCheck it with
      | some st => s.failItem item st
      | none =>
        match (if target = lcDiagnostic then it.hostBytes (it.le 24 8) 257 else some []) with
        | none => s
        | some tok =>
          match (if target = lcDiagnostic then s.tokenCheck .reopen tok else none) with
          | some st => s.failItem item st
          | none =>
            let tag := if target = lcDiagnostic then tokenTag tok else 0
            let k := lcSubject target tok
            if it.le 16 4 = 0 then s.recordSlot it target tag
            else
              match s.consumeAsk (BitVec.ofNat 32 (it.le 16 4)) k.1 k.2 with
              | .missing => s.failItem item stQuorumMissing
              | .waits => s.yieldItem item .quorum
              | .ready => s.recordSlot it target tag)

/-- Opcode 0x0732. -/
def execLcDebugOpen (item : Nat) (s : State) : Result :=
  .next (s.onRunning item fun it =>
    if it.opcode ≠ 0x0732 then s
    else if s.bootLcs ≠ lcDiagnostic then s.failItem item stNotServing
    else if !zeroRange it.desc 24 64 then s.failItem item stBadField
    else if it.le 16 8 % 64 ≠ 0 then s.failItem item stBadAlignment
    else
      match it.hostBytes (it.le 16 8) 257 with
      | none => s
      | some tok =>
        let r := s.presentToken tok
        if r.1 = stOk then r.2.complete item stOk (okBody (tokenScope tok) []) else s.failItem item r.1)

end Sys2Proof.Machine
end

