-- ==== Sys2Proof/Machine/Memory.lean ====
section
/-! DEFINITION. Memory commands of chapter 13: the memory key, the initialisation sweep, PU synchronisation, the violation
FIFOs and the zeroing of freed allocations. -/

namespace Sys2Proof.Machine

/-- The memory key is two requests of 32 bytes to the main DRBG; loading it begins the sweep (R381, R382). -/
def execMemoryKeyLoad (s : State) : Result :=
  if !s.mainServes ∨ s.mem.keyLoaded then .next s
  else
    let a := s.draw 32
    let b := a.2.draw 32
    let s := b.2
    .next { s with mem := { s.mem with
      keyLoaded := true
      memKey := a.1 ++ b.1
      sweepDone := false
      initMap := [] } }

/-- The sweep has initialised every granule (R382). -/
def execHbmInitSweepDone (s : State) : Result :=
  if s.mem.keyLoaded ∧ !s.mem.sweepDone then .next { s with mem := { s.mem with sweepDone := true, initMap := [] } }
  else .next s

/-- A synchronisation under R396 answers: every earlier access has completed. -/
def State.sync (s : State) (answer : Word) : State :=
  if !s.mmioOk 0 then s
  else ({ s with mem := { s.mem with syncs := s.mem.syncs + 1 } }).emit (.response answer)

/-- A write of MEM_PU_SYNC: its response. -/
def State.puSyncWrite (s : State) (_value : Word) : State := s.sync 0

def execMemPuSyncWrite (value : Word) (s : State) : Result := .next (s.puSyncWrite value)

/-- A PF read of MEM_PU_SYNC returns 1 (R405). -/
def execMemPuSyncRead (s : State) : Result := .next (s.sync 1)

/-- A write of MEM_VIOLg_POP: bit 0 discards the head record (R402, R405). -/
def State.violPop (s : State) (group : Nat) (value : Word) : State :=
  if !s.mmioOk 0 ∨ !value.getLsbD 0 then s
  else
    match s.mem.fifos[group]? with
    | some q => { s with mem := { s.mem with fifos := s.mem.fifos.set group { q with records := q.records.drop 1 } } }
    | none => s

def execMemViolPop (group : Nat) (value : Word) (s : State) : Result := .next (s.violPop group value)

/-- A freed staging allocation has been zeroed: it and its region can be given again (R387, R394). -/
def execAllocationZeroed (alloc : Nat) (s : State) : Result :=
  match s.mem.allocs.find? fun a => a.id == alloc && a.zeroing with
  | some a =>
    let base := 0x0010_0340_0000 + a.offset
    let s := { s with mem := { s.mem with
      allocs := s.mem.allocs.filter (·.id != alloc)
      cells := memErase s.mem.cells base (base + a.size) } }
    .next (s.wakeLacking [.share])
  | none => .next s

end Sys2Proof.Machine
end

