-- ==== Sys2Proof/Machine/Payment.lean ====
section
/-! DEFINITION. Commands of chapter 10: PIN translation and verification, MACs, EMV cryptograms and key blocks (R310 to
R328). Their checks before the claim and their keys' roles are in PayOps. -/

namespace Sys2Proof.Machine

/-! ## Completion records (R327, R328) -/

/-- Bytes 8 to 31 of a record of 0x0401 to 0x0405: 16 bytes of result, the furrow, NAS. -/
def payBody (it : Item) (result : List Byte) (nas : Bool) : List Byte :=
  padTo 16 result ++ leBytes 1 ((it.claim.shares.head?.map (·.1)).getD 0) ++ zeros 6 ++ leBytes 1 (b2n nas)

/-- A payment item ends with another status than ST_OK: bytes 8 to 30 are zero. -/
def State.payFail (s : State) (it : Item) (st : Status) : State := s.complete it.id st []

/-- The command of a payment opcode: the item runs and holds its claim, and its furrow has masks (R162, R168). -/
def State.onPay (s : State) (item op : Nat) (f : Item → State) : State :=
  s.onRunning item fun it => if it.opcode ≠ op ∨ !it.claimed ∨ s.maskWaits it ∨ (op ≤ 0x0405 ∧ s.cfb.erased) then s else f it

/-- The working key of an item: KEY's material, or the DUKPT key for a usage (R314); none for a KSN that R315 refuses. -/
def Item.payKey (it : Item) (usage : Nat) : Option (List Byte) :=
  if it.ksrc = 1 then (if ksnOk it.ksn then some (dukptKey (it.material it.key) it.ksn usage) else none)
  else some (it.material it.key)

/-- Cipher blocks of the derivation of the working key. -/
def Item.dukptWork (it : Item) : Nat := if it.ksrc = 1 then dukptBlocks (it.material it.key) it.ksn else 0

/-- A KSN is refused (R315). -/
def State.refuseKsn (s : State) (it : Item) : State :=
  { s with pay := { s.pay with ksnRej := s.pay.ksnRej + 1 } }.payFail it stInputRange

/-- Count an item's cipher blocks on its furrow. -/
def State.payWork (s : State) (it : Item) (blocks : Nat) : State := s.countWork it (blocks + it.dukptWork) 0

/-! ## PIN_TRANSLATE and PIN_VERIFY (R307 to R313) -/

/-- Blocks of a PIN field of a format: two passes of AES for format 4. -/
def pinBlocks (fmt : Nat) : Nat := if fmt = 4 then 2 else 1

/-- The incoming PIN block. -/
def Item.pinIn (it : Item) : List Byte := slice it.desc 24 (if it.srcFmt = 4 then 16 else 8)

/-- A key is a TDES key. -/
def Item.tdesKey (it : Item) (h : Word) : Bool := (it.held h).any fun k => algIsTdes (attrAlg k.attr)

/-- Opcode 0x0401. -/
def execPinTranslate (item : Nat) (s : State) : Result :=
  .next (s.onPay item 0x0401 fun it =>
    match it.payKey dukptPin with
    | none => s.refuseKsn it
    | some k =>
      let s := s.payWork it (pinBlocks it.srcFmt)
      match pinDigits it.srcFmt (pinField it.srcFmt k it.pinIn it.pan) with
      | none => s.payFail it stPinFormat
      | some pin =>
        let out := pinEncipher it.dstFmt (it.material it.payKey2) (pinEncode it.dstFmt pin it.scratch) it.pan
        (s.countWork it (pinBlocks it.dstFmt) 0).complete item stOk (payBody it out (it.dstFmt != 4)))

/-- The verdict of a verification method; a PVV without a PAN has an open verdict. -/
def State.pinVerdict (s : State) (it : Item) (params : List Byte) (pin : List Nat) : Bool × State :=
  let pvk := it.material it.payKey2
  if it.byte 21 = 1 then
    (ibm3624 pvk (slice params 16 8) (slice params 24 8) (slice params 32 6) (byteAt params 12).toNat pin, s)
  else if it.srcFmt = 1 then
    let c := s.choose
    (c.1 % 2 == 1, c.2)
  else (visaPvv pvk it.pan pin (byteAt params 13).toNat == nibbles (slice params 38 2), s)

/-- Opcode 0x0402. -/
def execPinVerify (item : Nat) (s : State) : Result :=
  .next (s.onPay item 0x0402 fun it =>
    match it.pinParams with
    | none => s
    | some params =>
      match it.payKey dukptPin with
      | none => s.refuseKsn it
      | some k =>
        let s := s.payWork it (pinBlocks it.srcFmt)
        match pinDigits it.srcFmt (pinField it.srcFmt k it.pinIn it.pan) with
        | none => s.payFail it stPinFormat
        | some pin =>
          let v := s.pinVerdict it params pin
          let s := v.2.countWork it 1 0
          if v.1 then s.complete item stOk (payBody it [] false) else s.payFail it stVerifyFail)

/-! ## MAC_GEN and MAC_VER (R316, R317) -/

/-- The message of a MAC opcode. -/
def Item.macInput (it : Item) : Option (List Byte) := it.hostBytes (it.le 24 8) (it.le 20 4)

/-- The MAC that an item computes under a working key, cut to MAC_LEN. -/
def Item.macOf (it : Item) (k msg : List Byte) : List Byte :=
  (payMac (it.byte 16) (it.byte 17) (it.ksrc == 1 || !it.tdesKey it.key) k msg).take (it.byte 18)

/-- Opcode 0x0403. -/
def execMacGen (item : Nat) (s : State) : Result :=
  .next (s.onPay item 0x0403 fun it =>
    match it.macInput with
    | none => s
    | some msg =>
      match it.payKey dukptMacGen with
      | none => s.refuseKsn it
      | some k =>
        (s.payWork it (msg.length / 8 + 1)).complete item stOk
          (payBody it (it.macOf k msg) (it.ksrc == 0 && it.tdesKey it.key)))

/-- Opcode 0x0404. -/
def execMacVer (item : Nat) (s : State) : Result :=
  .next (s.onPay item 0x0404 fun it =>
    match it.macInput with
    | none => s
    | some msg =>
      match it.payKey dukptMacVer with
      | none => s.refuseKsn it
      | some k =>
        let s := s.payWork it (msg.length / 8 + 1)
        if it.macOf k msg = slice it.desc 32 (it.byte 18) then s.complete item stOk (payBody it [] false)
        else s.payFail it stTagMismatch)

/-! ## ARQC_VERIFY (R318, R319) -/

/-- The response cryptogram that OPT selects. -/
def Item.arpc (it : Item) (aes : Bool) (mk sk : List Byte) : List Byte :=
  if it.byte 16 = 1 then arpc1 aes mk (slice it.desc 32 8) (slice it.desc 50 2)
  else if it.byte 16 = 2 then arpc2 aes sk (slice it.desc 32 8) (slice it.desc 52 4)
  else []

/-- Opcode 0x0405. -/
def execArqcVerify (item : Nat) (s : State) : Result :=
  .next (s.onPay item 0x0405 fun it =>
    match it.macInput with
    | none => s
    | some data =>
      let aes := !it.tdesKey it.key
      let mk := iccKey aes (it.material it.key) it.pan (nibbles (slice it.desc 17 1))
      let sk := emvSession aes mk (slice it.desc 18 2)
      let s := s.payWork it (data.length / 8 + 8)
      if emvMac aes sk data = slice it.desc 32 8 then
        s.complete item stOk (payBody it (it.arpc aes mk sk) (it.byte 16 != 0 && !aes))
      else s.payFail it stVerifyFail)

/-! ## Key blocks (R320 to R324) -/

/-- A key block is refused at step 8 of R325. -/
def State.refuseBlock (s : State) (it : Item) (st : Status) : State :=
  { s with pay := { s.pay with kbRej := s.pay.kbRej + 1 } }.payFail it st

/-- The key that a verified key block's clear data and header give (R321, R322). -/
def kbKey (b pt : List Byte) : Except Status (Nat × Nat × Nat × List Byte) :=
  let nbits := beAt pt 0 2
  let n := nbits / 8
  let alg := byteAt b 7
  let usage := slice b 5 2
  if nbits % 8 ≠ 0 ∨ pt.length < 2 + n then .error stInputRange
  else if alg = 0x41 ∧ (n = 24 ∨ byteAt b 0 = asciiB) then .error stKeyUsage
  else
    match kbMap usage alg (byteAt b 8) n, kbAlg alg n with
    | some (use, eng), some a =>
      let key := slice pt 2 n
      if algIsTdes a && !tdesDistinct key then .error stInputRange else .ok (use, eng, a, key)
    | _, _ => .error stBadField

/-- Step 8 of KEYBLOCK_IMPORT. -/
def State.kbImport (s : State) (it : Item) (b : List Byte) : State :=
  match kbOpen (it.material it.key) b with
  | none => s.refuseBlock it stTagMismatch
  | some pt =>
    match kbKey b pt with
    | .error st => s.refuseBlock it st
    | .ok (use, eng, alg, key) =>
      let attr : DWord := BitVec.ofNat 64 (eng + use * 2 ^ 8 + (if byteAt b 11 = 0x45 then 2 ^ 25 else 0))
      let k : KeySpec :=
        { cls := it.byte 32, alg := alg, format := 0, rsv := 0, attr := attr, noncePrefix := BitVec.ofNat 32 (it.le 36 4) }
      match s.specCheck it.tenantByte k with
      | some st => s.payFail it st
      | none =>
        s.createKey it k.cls
          { attr := finalAttr attr true false it.tenantByte alg, parent := noHandle, depth := 0, noncePrefix := k.noncePrefix,
            material := key, pubOnly := false }
          (newKeyBody alg false key)

/-- The approval of a key-block item (step 7): not needed, consumed, or missing. -/
def State.payApproval (s : State) (it : Item) (off : Nat) (more : List Byte) : Option State :=
  if it.payNeedsApproval then s.consumeApproval it.tenantByte it.approvalField (it.subject off more) else some s

/-- Opcode 0x0406. -/
def execKeyblockImport (item : Nat) (s : State) : Result :=
  .next (s.onPay item 0x0406 fun it =>
    match it.keyBlock with
    | none => s
    | some b =>
      match s.payApproval it 16 b with
      | none => s.payFail it stQuorumMissing
      | some s => s.kbImport it b)

/-- The block of KEYBLOCK_EXPORT for a target whose key, usage and version fit (R322). -/
def State.kbExport (s : State) (it : Item) : Except Status (List Byte × State) :=
  match it.held it.payKey2 with
  | none => .error stKeyNotFound
  | some k =>
    let v := byteAt it.desc 32
    let a := attrAlg k.attr
    let alg : Byte := if algIsTdes a then 0x54 else 0x41
    let mode := byteAt it.desc 36
    let n := k.material.length
    if !attrExport k.attr ∨ !(algIsTdes a || algIsAes a) ∨ (v = asciiB ∧ alg = 0x41) then .error stKeyUsage
    else if kbMap (slice it.desc 34 2) alg mode n ≠ some (attrUsage k.attr, attrEngine k.attr) then .error stKeyUsage
    else
      let m := kbMacLen v
      let r := s.draw ((m - (2 + n) % m) % m)
      .ok (kbSeal v (it.material it.key) (slice it.desc 34 2) alg mode (byteAt it.desc 33) k.material r.1, r.2)

/-- Opcode 0x0407. -/
def execKeyblockExport (item : Nat) (s : State) : Result :=
  .next (s.onPay item 0x0407 fun it =>
    match s.payApproval it 20 [] with
    | none => s.payFail it stQuorumMissing
    | some s =>
      match s.kbExport it with
      | .error st => s.payFail it st
      | .ok (b, s) =>
        if it.le 24 4 < b.length then s.payFail it stLengthLimit
        else
          (s.writeOut item (it.le 40 8) b).complete item stOk
            (leBytes 8 b.length ++ zeros 15 ++ leBytes 1 (b2n (byteAt it.desc 32 == asciiB))))

end Sys2Proof.Machine
end

