-- ==== Sys2Proof/Machine/Ring.lean ====
section
/-! DEFINITION. The cluster ring (chapter 17): the culvert, presence, the token, mirror commits, Mirror Sync, the
propagation of ZEROIZE, and the forming of a ring. -/

namespace Sys2Proof.Machine

/-! ## The culvert (R490) -/

/-- The modes in which a member's culvert may be open: Plan Load has begun, and no Alarm Hold, Diagnostic or reset. -/
def State.culvertMode (s : State) : Bool :=
  s.sys.warmReq.isNone && match s.sys.phase with
    | .planLoad | .mirrorSync | .service => true
    | _ => false

/-- The ring PHY locks, or loses lock and the culvert closes. -/
def execRingPhyLock (locked : Bool) (s : State) : Result :=
  .next { s with ring := { s.ring with locked := locked, culvertOpen := s.ring.culvertOpen && locked } }

/-- t_CULVO after its conditions hold, the culvert opens. -/
def execCulvertOpen (s : State) : Result :=
  if s.ring.member && s.ring.locked && s.culvertMode && !s.ring.culvertOpen then
    .next { s with ring := { s.ring with culvertOpen := true, lastToken := s.sys.tick } }
  else .next s

/-! ## Receiving (R489, R496) -/

/-- A frame of a type arrives at an open culvert: a bad tag is counted and dropped; any other is handled. -/
def State.receive (s : State) (kind : Nat) (f : RingFrame) (handle : State → State) : State :=
  if !s.ring.culvertOpen || !s.ring.member || f.kind != kind then s
  else if !f.tagOk then { s with ring := { s.ring with badFrame := s.ring.badFrame + 1 } }
  else handle s

/-- The frame is this device's own. -/
def State.own (s : State) (f : RingFrame) : Bool := f.origin == s.ring.position

/-- The member stages and originates nothing (R500). -/
def State.syncing (s : State) : Bool := s.sys.phase == .mirrorSync

/-- A member that finds itself behind enters Mirror Sync from Service, Ceremony or Degraded (R6). -/
def State.maySync (s : State) : State :=
  if s.sys.phase = .service ∧ !s.sys.quiesce ∧ s.behind then s.enterMirrorSync else s

/-! ## Presence (R489, R499) -/

/-- t_HB has passed: a HEARTBEAT with the epoch and BOOT_SALT. -/
def execHeartbeatTimer (s : State) : Result :=
  if s.ring.member then .next (s.sendRing rfHeartbeat s.ring.epoch s.ring.bootSalt) else .next s

/-- A HEARTBEAT: presence, and the highest epoch. -/
def execHeartbeat (frame : RingFrame) (s : State) : Result :=
  .next (s.receive rfHeartbeat frame fun s =>
    if s.own frame then s
    else
      let s := { s with ring := { s.ring with
        peers := tabSet s.ring.peers frame.origin { lastBeat := s.sys.tick, salt := frame.salt, epoch := frame.epoch }
        top := if s.ring.top.toNat < frame.epoch.toNat then frame.epoch else s.ring.top } }
      let s := s.relayRing frame
      if s.syncing then (if s.ring.syncFrom.isNone then s.requestSync else s) else s.maySync)

/-- A member is absent. A Mirror Sync from it is asked of the next member (R500). -/
def execPresenceTimeout (position : Nat) (s : State) : Result :=
  let s := { s with ring := { s.ring with peers := tabErase s.ring.peers position } }
  if s.syncing ∧ s.ring.syncFrom = some position then .next s.requestSync else .next s

/-! ## The token (R498, R499) -/

/-- The member takes the token: it originates a waiting commit, or passes the token on. -/
def State.takeToken (s : State) (epoch : DWord) (generation : Word) : State :=
  ({ s with ring := { s.ring with
    token := true
    tokenEpoch := epoch
    generation := generation } }.mirrorGo).passToken

/-- A TOKEN frame. -/
def execToken (frame : RingFrame) (s : State) : Result :=
  .next (s.receive rfToken frame fun s =>
    if frame.generation.toNat < s.ring.generation.toNat then s
    else
      let s := { s with ring := { s.ring with lastToken := s.sys.tick, generation := frame.generation } }
      if !s.own frame ∧ (s.syncing ∨ s.mirrorWaiting = [] ∨ s.ring.epoch ≠ frame.epoch) then s.relayRing frame
      else s.takeToken frame.epoch frame.generation)

/-- No token for t_TOKLOSS: the lowest present member issues a new one. -/
def execTokenLossTimeout (s : State) : Result :=
  let lowest := !(List.range s.ring.position).any s.ringPresent
  if s.ring.member && s.ring.culvertOpen && !s.ring.token && !s.syncing && lowest then
    .next (s.takeToken (if s.ring.top.toNat < s.ring.epoch.toNat then s.ring.epoch else s.ring.top) (s.ring.generation + 1))
  else .next s

/-! ## Mirror commits (R498) -/

/-- The reserve admits a record for another member; a refusal for lack of energy is counted (R429). -/
def State.stageFrame (s : State) (f : RingFrame) : State × Bool :=
  let s := { s with ring := { s.ring with staged := none } }
  if !s.storesOpen then (s, false)
  else if s.reserveCovers mirrorBudget then
    ({ s with ring := { s.ring with staged := some { origin := f.origin, epoch := f.epoch, body := f.body } } }, true)
  else (s.countRefusal, false)

/-- The store whose mirror commit is under way ends without a commit. -/
def State.abandonMirror (s : State) (id : Nat) (st : Status) : State :=
  let s := { s with ring := { s.ring with commit := none, aborts := s.ring.aborts + 1 } }
  match s.vault.stores.find? (·.id == id) with
  | some x => s.failStore x st
  | none => s

/-- The own PREPARE has come back. -/
def State.prepareReturns (s : State) (f : RingFrame) : State :=
  match s.ring.commit with
  | some (id, .prepared) =>
    if f.epoch ≠ s.ring.epoch + 1 then s
    else if f.refused then
      (((s.sendRing rfAbort f.epoch []).abandonMirror id stReserveLow).mirrorGo).passToken
    else
      let s := s.sendRing rfCommit f.epoch []
      { s with ring := { s.ring with commit := some (id, .committed) } }
  | _ => s

/-- A PREPARE frame. -/
def execPrepare (frame : RingFrame) (s : State) : Result :=
  .next (s.receive rfPrepare frame fun s =>
    if s.own frame then s.prepareReturns frame
    else if s.syncing then s.relayRing frame
    else
      let r := s.stageFrame frame
      r.1.relayRing { frame with refused := frame.refused || !r.2 })

/-- What a committed change of another member revokes is looked for in the cache (R139). -/
def State.afterForeign (s : State) (a : StoreAction) : State :=
  match a with
  | .retire h | .purge h => s.revScan h
  | _ => s

/-- A COMMIT for which nothing was staged: the member is behind. -/
def State.missedCommit (s : State) (f : RingFrame) : State :=
  let s := s.relayRing f
  { s with ring := { s.ring with top := if s.ring.top.toNat < f.epoch.toNat then f.epoch else s.ring.top } }.maySync

/-- A COMMIT of another member: the staged record is committed, or the member is behind. -/
def State.foreignCommit (s : State) (f : RingFrame) : State :=
  match s.ring.staged with
  | some x =>
    if x.origin = f.origin ∧ x.epoch = f.epoch then
      let s := match s.actionParse x.body with
        | some a => (s.applyStore a false).afterForeign a
        | none => s
      ({ s with ring := { s.ring with epoch := f.epoch, staged := none } }).relayRing f
    else s.missedCommit f
  | none => s.missedCommit f

/-- A COMMIT frame. -/
def execCommit (frame : RingFrame) (s : State) : Result :=
  .next (s.receive rfCommit frame fun s =>
    if s.own frame then
      match s.ring.commit with
      | some (id, .committed) => { s with ring := { s.ring with commit := some (id, .returned) } }
      | _ => s
    else if s.syncing then s.relayRing frame
    else s.foreignCommit frame)

/-- An ABORT frame: the staged record is discarded. -/
def execAbort (frame : RingFrame) (s : State) : Result :=
  .next (s.receive rfAbort frame fun s =>
    if s.own frame then s
    else
      let mine := s.ring.staged.any fun x => x.origin == frame.origin && x.epoch == frame.epoch
      ({ s with ring := { s.ring with staged := if mine then none else s.ring.staged } }).relayRing frame)

/-- The PREPARE has not come back within t_MRTO; the member keeps the token. -/
def execPrepareTimeout (s : State) : Result :=
  match s.ring.commit with
  | some (id, .prepared) => .next (s.abandonMirror id stPeerUnreachable).mirrorGo
  | _ => .next s

/-- A staged record that nothing has reached for 2 × t_MRTO is discarded. -/
def execStagedDiscardTimeout (s : State) : Result := .next { s with ring := { s.ring with staged := none } }

/-! ## Mirror Sync (R495, R500) -/

/-- A generation-array byte on the wire. -/
def genWire (p : Nat × Byte) : List Byte := leBytes 4 p.1 ++ [p.2]

/-- The whole mirrored state as SYNC_DATA carries it (R497). -/
def State.mirrorWire (s : State) : List Byte :=
  let acts :=
    s.vault.records.map (fun p => StoreAction.putRecord p.1 p.2) ++
    s.vault.templates.map (fun p => StoreAction.putTemplate p.1 p.2) ++
    s.vault.counters.map (fun p => StoreAction.ceiling p.1 p.2.ceiling) ++
    [StoreAction.roster s.ctl.rosterM s.ctl.roster] ++
    s.ctl.tenantRosters.map (fun p => StoreAction.tenantRoster (BitVec.ofNat 8 p.1) p.2.m p.2.handles) ++
    (s.vault.operatorKey.map StoreAction.operatorKey).toList ++ (s.vault.migrationKey.map StoreAction.migrationKey).toList
  lenBytes ((s.vault.genArray.map genWire).flatten) ++ lenBytes ((s.vault.tmplGen.map genWire).flatten) ++
    (acts.map fun a => lenBytes (s.actionWire a)).flatten

/-- Pieces preceded by their lengths, with fuel. -/
def lenPieces : Nat → List Byte → List (List Byte)
  | 0, _ => []
  | f + 1, bs => if bs = [] then [] else (lenTake bs).1 :: lenPieces f (lenTake bs).2

/-- A generation array from the wire. -/
def genParse (b : List Byte) : Tab Byte := (chunks 5 b).foldl (fun t p => tabSet t (leAt p 0 4) (byteAt p 4)) []

/-- A SYNC_REQ: the member that its body names answers with the whole mirrored state. -/
def execSyncReq (frame : RingFrame) (s : State) : Result :=
  .next (s.receive rfSyncReq frame fun s =>
    if s.own frame then s
    else
      let s := s.relayRing frame
      if (byteAt frame.body 0).toNat = s.ring.position ∧ !s.syncing then
        s.sendRing rfSyncData s.ring.epoch (leBytes 1 frame.origin ++ s.mirrorWire)
      else s)

/-- Generation bytes of slots that a purge of this device's own records raises above the source's (R137). -/
def raiseGen (gens : Tab Byte) (h : Word) : Tab Byte :=
  let g := hGen h + 1
  if (tabGetD gens (hIndex h) 0).toNat < g.toNat then tabSet gens (hIndex h) g else gens

/-- The counter of a key that this device had already: what it has reserved stays its own (R149, R497). -/
def State.syncCounters (s : State) (old : Tab Counter) : State :=
  { s with vault := { s.vault with counters := s.vault.counters.map fun p =>
    (p.1, match tabGet old p.1 with
      | some c => { c with ceiling := p.2.ceiling }
      | none => p.2) } }

/-- Apply the mirrored state of the source: its records, and a purge of every record that it does not hold. -/
def State.applyMirror (s : State) (body : List Byte) : State :=
  let ps := lenPieces body.length body
  let acts := (ps.drop 2).filterMap s.actionParse
  let keeps := fun (i : Nat) => acts.any fun a => match a with | .putRecord j _ => j == i | _ => false
  let keepsT := fun (i : Nat) => acts.any fun a => match a with | .putTemplate j _ => j == i | _ => false
  let gone := (s.vault.records.filter fun p => !keeps p.1).map fun p => mkHandle 1 p.1 p.2.gen
  let goneT := (s.vault.templates.filter fun p => !keepsT p.1).map fun p => mkHandle 3 p.1 p.2.gen
  let s := (gone ++ goneT).foldl State.revScan s
  let old := s.vault.counters
  let s := { s with
    vault := { s.vault with
      records := []
      templates := []
      counters := []
      genArray := gone.foldl raiseGen (genParse (ps.getD 0 []))
      tmplGen := goneT.foldl raiseGen (genParse (ps.getD 1 []))
      operatorKey := none
      migrationKey := none }
    ctl := { s.ctl with tenantRosters := [] } }
  (acts.foldl (fun s a => s.applyStore a false) s).syncCounters (old.filter fun p => keeps p.1)

/-- SYNC_DATA: applied while the reserve admits its stores; the epoch is written last. -/
def execSyncData (frame : RingFrame) (s : State) : Result :=
  .next (s.receive rfSyncData frame fun s =>
    if s.own frame then s
    else
      let s := s.relayRing frame
      if !s.syncing ∨ (byteAt frame.body 0).toNat ≠ s.ring.position ∨ s.ring.syncFrom ≠ some frame.origin then s
      else if !s.storesOpen then s
      else if !s.reserveCovers 5 then { s.countRefusal with ring := { s.ring with syncFrom := none } }
      else
        let s := s.applyMirror (frame.body.drop 1)
        let s := { s with ring := { s.ring with epoch := frame.epoch, syncFrom := none } }
        if s.behind then s.requestSync else s.enterPhase .service)

/-! ## Propagation of ZEROIZE (R501) -/

/-- A ZEROIZE frame. -/
def execZeroizeFrame (frame : RingFrame) (s : State) : Result :=
  .next (s.receive rfZeroize frame fun s =>
    if s.own frame then s
    else
      let s := s.relayRing frame
      if !s.ring.zprop then s
      else
        let s := { s with ring := { s.ring with
          zSeen := true
          zOrigin := BitVec.ofNat 4 frame.origin
          zSent := true } }
        s.raiseEvents [kEvent 2 0xFFFF])

/-! ## Forming the ring (R492 to R495) -/

/-- Serials of a ring descriptor. -/
def descSerials (d : List Byte) : List DWord := (chunks 8 (d.drop 16)).map fun b => BitVec.ofNat 64 (ofLe b)

/-- The descriptor's checks of step 1. -/
def State.descOk (s : State) (d : List Byte) : Bool :=
  let n := (byteAt d 6).toNat
  let ss := descSerials d
  decide (1 ≤ n) && decide (n ≤ 16) && d.length == 16 + 8 * n && leAt d 0 4 == 0x4752594B && leAt d 4 2 == 1 &&
  decide ((byteAt d 7).toNat < 2) && leAt d 8 8 != 0 && decide ss.Nodup && ss.contains s.sys.serial

/-- Send a key-exchange frame from a position to another; 0xFF means every other member. The exchange precedes membership,
so the culvert does not matter. -/
def State.sendForm (s : State) (kind position dest : Nat) (payload : List Byte) : State :=
  let f : RingFrame :=
    { kind := kind, origin := position, hops := 0, refused := false, epoch := 0, counter := s.ring.counter, tagOk := true,
      generation := 0, salt := [], body := leBytes 1 dest ++ payload }
  { s.emit (.ring (s.ringWire f)) with ring := { s.ring with counter := s.ring.counter + 1 } }

/-- CHALLENGE of a report in the exchange (R494). -/
def formChallenge (ephemeralPub desc : List Byte) : List Byte := sha256 (ephemeralPub ++ sha256 desc)

/-- The exchange begins: an ephemeral key, its public part, and a report with the certificate chain. -/
def State.startForm (s : State) (it : Item) (d : List Byte) : State :=
  let ss := descSerials d
  let pos := ss.idxOf s.sys.serial
  let e := s.draw 48
  let priv := leBytes 48 (ofLe e.1 % (p384.n - 1) + 1)
  let k := if pos = 0 then e.2.draw 32 else ([], e.2)
  let pub := publicFrom 0x21 priv
  let f : RingForm :=
    { item := it.id, desc := d, serials := ss, ringId := BitVec.ofNat 64 (leAt d 8 8), zprop := bit (byteAt d 7).toNat 0,
      position := pos, ephemeral := priv, passed := [], ringKey := k.1, peerKeys := [] }
  let s := ({ k.2 with ring := { k.2.ring with form := some f } }).yieldItem it.id .ring
  let dest := if pos = 0 then 0xFF else 0
  let s := s.sendForm rfKeyShare pos dest pub
  let r := s.deviceReport 0 (formChallenge pub d)
  r.2.sendForm rfReport pos dest (r.1 ++ r.2.certChain)

/-- Opcode 0x0740. -/
def execRingAssemble (item : Nat) (s : State) : Result :=
  .next (s.onRunning item fun it =>
    let len := it.le 20 4
    if it.opcode ≠ 0x0740 then s
    else if !zeroRange it.desc 32 64 ∨ len < 24 ∨ 144 < len then s.failItem item stBadField
    else
      match it.hostBytes (it.le 24 8) len with
      | none => s
      | some d =>
        if !s.descOk d then s.failItem item stBadField
        else if it.le 24 8 % 64 ≠ 0 then s.failItem item stBadAlignment
        else
          match s.consumeAsk (BitVec.ofNat 32 (it.le 16 4)) 0x08 (sha256 d) with
          | .missing => s.failItem item stQuorumMissing
          | .waits => s.yieldItem item .quorum
          | .ready =>
            if s.lcs ≠ lcDeployed then s.failItem item stNotServing
            else if byteAt d 6 = 1 then
              s.storeSession item .ringLeave { status := stOk, origin1 := false, body := zeros 24 }
            else s.closeSession.startForm it d)

/-- The exchange ends with a status. -/
def State.formFails (s : State) (f : RingForm) (st : Status) : State :=
  ({ s with ring := { s.ring with form := none } }).endWaitWith f.item { status := st, origin1 := false, body := zeros 24 }

/-- t_FORM has passed. -/
def execRingFormTimeout (item : Nat) (s : State) : Result :=
  match s.ring.form with
  | some f => if f.item = item then .next (s.formFails f stPeerUnreachable) else .next s
  | none => .next s

/-- Step 6: the ring key is stored (R493). -/
def State.formStore (s : State) (f : RingForm) : State :=
  match s.item f.item with
  | none => { s with ring := { s.ring with form := none } }
  | some it =>
    let a := StoreAction.ringKey f.ringKey f.position f.serials f.ringId f.zprop
    if s.storesOpen && !s.reserveCovers (storeBudget a) then s.countRefusal.formFails f stReserveLow
    else
      let o : Outcome := { status := stOk, origin1 := false, body := padTo 24 (leBytes 8 f.position) }
      let s := { s with ring := { s.ring with form := none } }
      match (s.setItem { it with outcome := o, stage := 0xFE, phase := .yielded .store }).askStore (some it.id) a with
      | .refused s | .admitted s | .held s => s

/-- The certificates of a chain as KEY_DEVICE_CERT lays them out (R150). -/
def chainParse (b : List Byte) : List (List Byte) := lenPieces (leAt b 0 4) (b.drop 4)

/-- A peer's report passes (R494): its chain, its signature, its serial, its life-cycle state and its challenge. -/
def RingForm.reportOk (f : RingForm) (origin : Nat) (b : List Byte) : Bool :=
  let r := b.take 352
  (Config.chainKey (chainParse (b.drop 352))).any fun pub =>
    verifySig 0x01 0x02 0x21 pub (sha384 (r.take 256)) (slice r 256 96) &&
    f.serials[origin]? == some (BitVec.ofNat 64 (leAt r 8 8)) && (byteAt r 16).toNat == lcDeployed &&
    (tabGet f.peerKeys origin).any fun k => slice r 192 32 == formChallenge k f.desc

/-- The key that wraps the ring key for a peer: the one-step KDF of R293 over the ECDH secret. -/
def RingForm.wrapKey (f : RingForm) (peer : Nat) : List Byte :=
  agreeKey 0x21 0x02 (sharedSecret 0x21 f.ephemeral (tabGetD f.peerKeys peer [])) (sha256 f.desc)

/-- A peer's report has passed: position 0 sends the ring key, and stores it once every member has passed. -/
def State.formPassed (s : State) (f : RingForm) (origin : Nat) : State :=
  let f := { f with passed := f.passed.insert origin }
  let s := { s with ring := { s.ring with form := some f } }
  if f.position ≠ 0 then s
  else
    let s := s.sendForm rfRingKey 0 origin (kwpWrap (f.wrapKey origin) f.ringKey)
    if f.passed.length + 1 = f.serials.length then s.formStore f else s

/-- A key-exchange frame for this device. -/
def State.formFrame (s : State) (f : RingForm) (frame : RingFrame) : State :=
  let b := frame.body.drop 1
  let peer := if f.position = 0 then decide (frame.origin < f.serials.length) else frame.origin == 0
  if !peer then s
  else if frame.kind = rfKeyShare then
    if pointValid 0x21 b then { s with ring := { s.ring with form := some { f with peerKeys := tabSet f.peerKeys frame.origin b } } }
    else s.formFails f stAccessDenied
  else if frame.kind = rfReport then
    if f.reportOk frame.origin b then s.formPassed f frame.origin else s.formFails f stAccessDenied
  else if f.position ≠ 0 ∧ f.passed.contains 0 then
    match kwpUnwrap (f.wrapKey 0) b with
    | some k => s.formStore { f with ringKey := k }
    | none => s.formFails f stAccessDenied
  else s

/-- A frame of types 0x09 to 0x0B. -/
def execKeyExchangeFrame (frame : RingFrame) (s : State) : Result :=
  if frame.kind < rfKeyShare ∨ rfRingKey < frame.kind ∨ !frame.tagOk then .next s
  else
    let dest := (byteAt frame.body 0).toNat
    match s.ring.form with
    | some f =>
      if frame.origin = f.position then .next s
      else
        let s := if dest = f.position then s else s.emit (.ring (s.ringWire { frame with hops := frame.hops + 1 }))
        if dest = f.position ∨ dest = 0xFF then .next (s.formFrame f frame) else .next s
    | none => if s.ring.culvertOpen then .next (s.relayRing frame) else .next s

end Sys2Proof.Machine
end

