-- ==== Sys2Proof/Machine/Registers.lean ====
section
/-! DEFINITION. The registers of PF BAR0 and of the VF BARs (R4, R12 to R14, and the register tables of each chapter): what a
read gives, and REGISTER_WRITE. -/

namespace Sys2Proof.Machine

/-! ## Assembling a value -/

/-- Fields of a register, each as (lowest bit, width, value). -/
def fields (fs : List (Nat × Nat × Nat)) : Nat := (fs.map fun f => f.2.2 % 2 ^ f.2.1 * 2 ^ f.1).sum

/-- One bit for each number below `n` that satisfies a test. -/
def bitSet (n : Nat) (p : Nat → Bool) : Nat := ((List.range n).map fun i => if p i then 2 ^ i else 0).sum

/-- The low or the high half of a 64-bit value. -/
def half (v : Nat) (hi : Bool) : Nat := if hi then v / 2 ^ 32 % 2 ^ 32 else v % 2 ^ 32

/-- A count that saturates at a field's largest value. -/
def saturate (width v : Nat) : Nat := min v (2 ^ width - 1)

/-- Word `i` of a byte string. -/
def wordAt (bs : List Byte) (i : Nat) : Nat := leAt bs (4 * i) 4

/-- The index of an offset in an array of registers: its element, and the offset within it. -/
def element (off base stride n : Nat) : Option (Nat × Nat) :=
  if base ≤ off ∧ off < base + stride * n then some ((off - base) / stride, (off - base) % stride) else none

/-! ## GLB: identity, mode, reset, plan and certification (R4, R60, R515, R529, R547) -/

/-- PART of R545. -/
def Variant.part : Variant → Nat
  | .ky4800A => 0x4800
  | .ky4800N => 0x4801
  | .ky4200A => 0x4200

/-- The TAP IDCODE of a variant (R545). -/
def Variant.idcode : Variant → Nat
  | .ky4800A => 0x1480_055B
  | .ky4800N => 0x1480_155B
  | .ky4200A => 0x1420_055B

/-- GLB_ID (R547). -/
def State.glbId (s : State) : Nat :=
  fields [(0, 16, s.sys.variant.part), (16, 4, if s.sys.variant = .ky4800N then 1 else 0), (20, 4, s.sys.stepping.toNat)]

/-- GLB_MODE (R4). -/
def State.glbMode (s : State) : Nat :=
  fields [(0, 4, s.mode.toNat), (4, 4, s.sys.prevMode.toNat), (8, 1, b2n s.ceremonyOpen), (9, 1, b2n s.anyFenced),
    (10, 1, b2n (s.mode == 0x7 && s.drainHolds)), (16, 8, s.sys.changes.toNat)]

/-- The seven conditions of GLB_CERT, from bit 1 on (R504, R511, R515). Service, Ceremony or Degraded holds whether or not
Quiesce holds too. -/
def State.certBits (s : State) : List Bool :=
  [decide (s.bootLcs = lcDeployed), s.sys.phase == .service, s.sen.level.isNone,
   decide (s.plan.result = 0x0) && !s.plan.empty, decide (s.lcb.stage = 0x8),
   decide (500 ≤ s.eUse), !s.anyClassLost]

/-- GLB_CERT (R515). -/
def State.glbCert (s : State) : Nat :=
  b2n (s.certBits.all id) + (s.certBits.zipIdx.map fun p => b2n p.1 * 2 ^ (p.2 + 1)).sum

def State.readGlb (s : State) (off : Nat) : Nat :=
  if 0x140 ≤ off ∧ off < 0x170 then wordAt s.plan.digest ((off - 0x140) / 4)
  else match off with
  | 0x000 => s.glbId
  | 0x004 => fields [(0, 4, bitSet 4 s.portPresent), (4, 8, bitSet 8 s.enginePresent), (12, 1, b2n s.hasTdes), (13, 1, b2n s.hasTdes)]
  | 0x008 => bitSet 20 s.furrowPresent
  | 0x010 => s.glbMode
  | 0x024 => fields [(0, 3, s.sys.cause.toNat), (3, 1, b2n s.sys.deferred), (16, 16, s.sys.warmCount.toNat)]
  | 0x028 => fields [(0, 1, b2n s.sys.pllLock), (1, 1, b2n s.sys.refSenref), (16, 16, s.sys.pllLosses.toNat)]
  | 0x02C => fields [(0, 1, b2n s.sys.pwrfailN), (2, 8, s.sys.railsOk.toNat)]
  | 0x100 => fields [(0, 4, s.plan.result.toNat), (4, 1, b2n s.plan.empty), (5, 1, b2n s.plan.waiting), (8, 8, s.plan.failSection.toNat)]
  | 0x104 => s.plan.failEntry.toNat
  | 0x118 => half s.plan.serial.toNat false
  | 0x11C => half s.plan.serial.toNat true
  | 0x120 => s.plan.amendSeq.toNat
  | 0x180 => s.glbCert
  | 0x184 => half s.pay.nas.toNat false
  | 0x188 => half s.pay.nas.toNat true
  | 0x190 => (tabGetD s.pay.nasTenant (s.reg 0 0x18C).toNat 0).toNat
  | _ => (s.reg 0 off).toNat

/-! ## HWK, HPT and MEM (R270, R376, R405) -/

/-- Plan Load has ended: the plan, or the empty plan, is applied. -/
def State.planApplied (s : State) : Bool := s.plan.result != 0xF

def ChanState.code : ChanState → Nat
  | .synchronising => 1
  | .opened => 2
  | .unreachable => 3

/-- HWK_CHAN_RESULT: the status of the last command, and STATE and EPOCH of the selected channel. -/
def State.chanResultReg (s : State) : Nat :=
  let x := s.chan s.chanSel
  fields [(0, 16, s.hwk.result.toNat), (16, 4, (x.map (·.state.code)).getD 0), (24, 8, (x.map (·.epoch.toNat)).getD 0)]

/-- A register of HWK_PORTn by its offset within the port. -/
def State.readPort (s : State) (n off : Nat) : Nat :=
  match s.hwk.ports[n]? with
  | none => 0
  | some p =>
    if off = 0x04 then fields [(0, 8, bitSet 8 fun i => (p.subs[i]?).any (·.link)), (8, 8, bitSet 8 fun i => (p.subs[i]?).any (·.sak.isSome))]
    else if 0x10 ≤ off ∧ off < 0x38 then (p.counters.getD ((off - 0x10) / 4) 0).toNat
    else (s.reg 0 (0x0010_0100 + 0x40 * n + off)).toNat

def State.readHwk (s : State) (off : Nat) : Nat :=
  match element off 0x100 0x40 4 with
  | some (n, o) => s.readPort n o
  | none =>
    if 0x840 ≤ off ∧ off < 0x880 then (if s.hwk.readDone then (s.reg 0 (0x0010_0000 + off)).toNat else 0)
    else match off with
    | 0x000 => b2n s.planApplied
    | 0x004 => s.hwk.chans.length
    | 0x804 => 2 ^ 8 * b2n s.hwk.opening.isSome
    | 0x808 => s.chanResultReg
    | 0x900 => s.hwk.retx.toNat
    | 0x904 => s.hwk.resets.toNat
    | 0xA0C => s.hwk.excProd
    | 0xA30 => s.hwk.injCons
    | 0xA34 => s.hwk.injLost.toNat
    | _ => (s.reg 0 (0x0010_0000 + off)).toNat

def TdiState.code : TdiState → Nat
  | .configUnlocked => 0
  | .configLocked => 1
  | .run => 2
  | .error => 3

/-- HPT_VF_STAT of the queried VF. -/
def State.vfStat (s : State) (n : Nat) : Nat :=
  let v := s.vf n
  fields [(0, 1, b2n v.suspended), (1, 1, b2n (s.vfDrained n)), (2, 1, b2n v.stale), (3, 2, v.outcome.toNat),
    (5, 1, b2n v.dirty.isSome), (6, 1, b2n (v.dirty.any (·.failed))), (7, 1, b2n v.flrBusy), (8, 3, v.tdi.code)]

/-- HPT registers. OUTSTANDING, which the model's events leave open, is an open value of at most 96. -/
def State.readHpt (s : State) (off : Nat) : Nat :=
  match element off 0x100 4 8 with
  | some (n, _) => fields [(0, 7, Config.freeChoice s.fresh % 97), (16, 16, saturate 16 (s.host.dmaErrors.getD n 0))]
  | none =>
    let q := (s.reg 0 0x0020_0020).toNat
    match off with
    | 0x00 => fields [(0, 4, s.host.linkSpeed.toNat), (4, 6, s.host.linkWidth.toNat), (10, 1, b2n s.host.linkFlit), (11, 1, b2n s.host.linkUp)]
    | 0x08 => fields [(0, 11, s.host.numVfs), (16, 1, b2n s.host.vfEnable)]
    | 0x10 => fields [(0, 16, bitSet 16 fun i => s.host.ideSecure.contains i), (16, 1, b2n (s.host.ideSecure.contains 16))]
    | 0x14 => s.host.ideFail.toNat
    | 0x24 => s.vfStat q
    | 0x28 => ((s.vf q).dirty.map (·.outside.toNat)).getD 0
    | 0x30 => (s.host.vfs.filter fun p => p.2.dirty.isSome).length
    | 0x34 => b2n s.vault.migrationKey.isSome
    | 0x38 => s.host.blobRejects.toNat
    | 0x3C => s.host.flrs.toNat
    | _ => (s.reg 0 (0x0020_0000 + off)).toNat

/-- The access tenant of a master (R392). -/
def State.accessTenant (s : State) (master : Nat) : Option Byte :=
  if master < 64 then (s.itemList.find? fun it => it.core? == some master).bind (·.tenant) else none

/-- A register of a violation FIFO by its offset within the group. -/
def State.readViol (s : State) (g off : Nat) : Nat :=
  match s.mem.fifos[g]? with
  | none => 0
  | some q =>
    if off = 0 then q.records.length
    else if off = 4 then q.lost.toNat
    else if 0x20 ≤ off then wordAt ((q.records.head?.map Violation.bytes).getD (zeros 32)) ((off - 0x20) / 4)
    else 0

def State.readMem (s : State) (off : Nat) : Nat :=
  match element off 0x100 0x40 6 with
  | some (g, o) => s.readViol g o
  | none =>
    let sel := (s.reg 0 0x0030_0030).toNat
    let m := bits sel 0 8
    let r := s.region m (bits sel 8 5)
    match off with
    | 0x000 => fields [(0, 1, b2n s.mem.keyLoaded), (1, 1, b2n s.mem.sweepDone), (2, 1, b2n s.mem.hbm0Ok), (3, 1, b2n s.mem.hbm1Ok)]
    | 0x004 => if s.mem.sweepDone then 0 else 786432 - s.mem.initMap.length
    | 0x008 => s.mem.ce.toNat
    | 0x00C => s.mem.ue.toNat
    | 0x010 => half s.mem.ueAddr.toNat false
    | 0x014 => half s.mem.ueAddr.toNat true
    | 0x018 => s.mem.decodeErr.toNat
    | 0x020 => 1
    | 0x034 => half r.base false
    | 0x038 => half r.base true
    | 0x03C => fields [(0, 6, r.sizeLog2), (8, 1, b2n r.permR), (9, 1, b2n r.permW), (10, 1, b2n r.permX), (11, 1, b2n r.permA),
        (16, 8, r.tag.toNat), (24, 1, b2n r.tagValid), (25, 1, b2n r.valid), (26, 1, b2n (s.mem.stewardLocked && (m == 0x40 || m == 0x41)))]
    | 0x040 => fields [(0, 8, ((s.accessTenant m).getD 0).toNat), (8, 1, b2n (s.accessTenant m).isSome)]
    | 0x300 => fields [(0, 6, s.mem.irqPending.toNat)] + (s.reg 0 0x0030_0300).toNat
    | _ => (s.reg 0 (0x0030_0000 + off)).toNat

/-! ## DSP, CFB and SPR (R61, R117, R189, R239, R329) -/

def State.readDsp (s : State) (off : Nat) : Nat :=
  match element off 0x100 4 8 with
  | some (c, _) =>
    let ofC := s.itemList.filter (·.cls == c)
    fields [(0, 16, saturate 16 (ofC.filter (·.phase == .ready)).length), (16, 7, (ofC.filter (·.isRunning)).length),
      (24, 8, s.dsp.credits.getD c 0)]
  | none => match element off 0x200 4 64 with
    | some (n, _) => ((s.dsp.lists[n]?).map fun l => fields [(0, 24, l.items.length), (24, 1, b2n l.barrier)]).getD 0
    | none =>
      let f := (s.reg 0 0x0040_0310).toNat
      let op := s.traceRing 0
      match off with
      | 0x000 => fields [(0, 7, (s.dsp.cores.filter fun c => !c.fenced).length), (16, 2, s.dsp.stewardState.toNat), (24, 8, s.dsp.stewardFails.toNat)]
      | 0x008 => bitSet 32 fun i => (s.dsp.cores[i]?).any (·.fenced)
      | 0x00C => bitSet 32 fun i => (s.dsp.cores[i + 32]?).any (·.fenced)
      | 0x010 => s.dsp.coreResets.toNat
      | 0x300 => s.dsp.claimFails.toNat
      | 0x304 => s.dsp.flowHit.toNat
      | 0x308 => s.dsp.flowMiss.toNat
      | 0x314 => (s.flow f).headSeq.toNat
      | 0x318 => (s.flow f).nextSeq.toNat
      | 0x31C => fields [(0, 8, s.flowHeld f), (8, 8, s.flowDone f)]
      | 0x410 => op.prod
      | 0x418 => op.lost.toNat
      | _ => (s.reg 0 (0x0040_0000 + off)).toNat

/-- A furrow takes no work: it has stopped for want of a mask seed (R162). -/
def Furrow.maskWait (f : Furrow) : Bool := f.genA.stopped || f.genB.stopped

/-- A register of CFB_FURn by its offset within the furrow. -/
def State.readFurrow (s : State) (n off : Nat) : Nat :=
  if !s.furrowPresent n then 0
  else match s.cfb.furrows[n]? with
  | none => 0
  | some f => match off with
    | 0x0 => fields [(0, 8, bitSet 8 (s.shareTaken n)), (8, 1, b2n f.maskWait), (9, 1, b2n (s.hasTdes && decide (16 ≤ n))),
        (12, 4, saturate 4 f.fences), (16, 1, b2n (s.sen.lockedOut.contains n))]
    | 0x4 => half f.blocks.toNat false
    | 0x8 => half f.blocks.toNat true
    | 0xC => f.reseeds.toNat
    | _ => 0

/-- A register of CFB_HLn by its offset within the lane. -/
def State.readLane (s : State) (n off : Nat) : Nat :=
  match s.cfb.lanes[n]? with
  | none => 0
  | some l => match off with
    | 0x0 => fields [(0, 4, bitSet 4 (s.shareTaken (24 + n))), (12, 4, saturate 4 l.fences), (16, 1, b2n (s.sen.lockedOut.contains (24 + n)))]
    | 0x4 => half l.bytes.toNat false
    | 0x8 => half l.bytes.toNat true
    | _ => 0

def UnitState.code : UnitState → Nat
  | .unassigned => 0
  | .owned => 1
  | .leaving => 2
  | .draining => 3
  | .scrubbing => 4
  | .scrubbed => 5
  | .fenced => 6

/-- CFB_SLU_UNITn (R61). No command of the model leaves beats inside a unit, so BUSY reads 0. -/
def State.readUnit (s : State) (n : Nat) : Nat :=
  match s.sluice.units[n]? with
  | none => 0
  | some u =>
    if !s.unitPresent n then 0
    else fields [(0, 8, u.owner.toNat), (8, 4, u.state.code), (12, 8, u.role.toNat)]

/-- Two entries of a sluice bank; a bank never written holds 0x003F everywhere. -/
def bankWord (t : List (BitVec 16)) (i : Nat) : Nat :=
  (t.getD (2 * i) 0x003F).toNat + 2 ^ 16 * (t.getD (2 * i + 1) 0x003F).toNat

/-- The frame number since bank A became active: 640 ns to a frame (R62). -/
def State.frameNo (s : State) : Nat := (s.sys.tick - s.sluice.frameBase) * 1000 / 640

/-- A payment furrow, F16 + n, has role payment. -/
def State.payRole (s : State) (n : Nat) : Bool := (s.sluice.units[16 + n]?).any fun u => u.role == 1 && u.assigned

def State.readCfb (s : State) (off : Nat) : Nat :=
  match element off 0x100 0x10 20, element off 0x300 0x10 16, element off 0xF100 4 40 with
  | some (n, o), _, _ => s.readFurrow n o
  | _, some (n, o), _ => s.readLane n o
  | _, _, some (n, _) => s.readUnit n
  | none, none, none =>
    if 0x1_0000 ≤ off ∧ off < 0x2_0000 then bankWord s.sluice.bankA ((off - 0x1_0000) / 4)
    else if 0x2_0000 ≤ off ∧ off < 0x3_0000 then bankWord s.sluice.bankB ((off - 0x2_0000) / 4)
    else
      let up := fun n => s.furrowPresent n && !s.sluFenced n
      match off with
      | 0x000 => fields
          [(0, 1, b2n (!s.cfb.erased && (List.range 20).all fun n =>
              !up n || (s.cfb.furrows[n]?).any fun f => f.genA.seeded && f.genB.seeded)),
           (8, 5, ((List.range 20).filter fun n => up n && !(s.cfb.furrows[n]?).any (·.maskWait)).length),
           (16, 5, ((List.range 16).filter fun n => !s.sluFenced (24 + n)).length)]
      | 0x004 => bitSet 20 s.sluFenced
      | 0x008 => bitSet 16 fun n => s.sluFenced (24 + n)
      | 0x00C => s.cfb.mismatches.toNat
      | 0x010 => fields [(0, 6, s.cfb.mmUnit), (6, 2, s.cfb.mmKind.toNat), (8, 3, s.cfb.mmContext), (16, 8, s.cfb.mmTenant.toNat)]
      | 0x014 => half s.cfb.mmTick false
      | 0x018 => half s.cfb.mmTick true
      | 0x400 => fields [(0, 4, bitSet 4 s.payRole), (4, 4, bitSet 4 fun n => s.payRole n && (s.sluice.units[16 + n]?).any (·.state == .owned)),
          (8, 1, b2n s.hasTdes)]
      | 0x404 => s.pay.pinErr.toNat
      | 0x408 => s.pay.verFail.toNat
      | 0x40C => s.pay.ksnRej.toNat
      | 0x410 => s.pay.kbRej.toNat
      | 0x414 => half s.pay.done.toNat false
      | 0x418 => half s.pay.done.toNat true
      | 0x41C => s.pay.approvals.toNat
      | 0xF000 => fields [(0, 1, b2n s.sluice.activeB), (1, 1, b2n s.sluice.checking), (2, 1, b2n s.sluice.swapPending),
          (3, 1, b2n s.sluice.amend.isSome), (4, 1, b2n s.sluice.halted)]
      | 0xF008 => half s.frameNo false
      | 0xF00C => half s.frameNo true
      | 0xF010 => s.sluice.swaps.toNat
      | _ => 0

def State.readSpr (s : State) (off : Nat) : Nat :=
  match element off 0x100 0x10 4 with
  | some (n, o) =>
    match s.spr.units[n]?, o with
    | some u, 0x0 => fields [(0, 16, bitSet 16 (s.shareTaken (20 + n))), (16, 4, saturate 4 u.fences), (20, 1, b2n (s.sen.lockedOut.contains (20 + n)))]
    | some _, 0x4 => s.accFree n / 1024
    | some u, 0x8 => half u.bytes.toNat false
    | some u, 0xC => half u.bytes.toNat true
    | _, _ => 0
  | none => match off with
    | 0x00 => fields [(0, 1, b2n s.planApplied), (4, 3, ((List.range 4).filter fun n => !s.sluFenced (20 + n)).length),
        (8, 4, bitSet 4 fun n => s.sluFenced (20 + n))]
    | 0x04 => s.spr.mismatches.toNat
    | 0x08 => fields [(0, 2, s.spr.mmUnit), (4, 4, s.spr.mmShare), (16, 8, s.spr.mmTenant.toNat), (24, 2, s.spr.mmKind.toNat)]
    | 0x0C => half s.spr.mmTick false
    | 0x10 => half s.spr.mmTick true
    | 0x14 => s.spr.schedHit.toNat
    | 0x18 => s.spr.schedMiss.toNat
    | 0x1C => s.spr.crcFail.toNat
    | 0x20 => if s.planApplied then s.schedSlots else 0
    | 0x24 => ((s.spr.parts.head?).map (·.size)).getD 0
    | 0x28 => s.spr.repairs.toNat
    | 0x2C => s.spr.abandoned.toNat
    | _ => 0

/-! ## PKE, VLT and ENT (R157, R218, R302, R350) -/

/-- STATE of PKE_ENGn_STAT. -/
def PkEngine.code (k : PkEngine) : Nat :=
  if k.testing then 5
  else if k.fenced then 4
  else match k.running with
    | none => 0
    | some j => if j.long then 2 else if k.parked.isSome then 3 else 1

/-- PKE_ENGn_STAT of an engine; the odd engine of a fused pair reads as the even one. -/
def State.engineStat (s : State) (n : Nat) : Nat :=
  let e := if s.oddFused n then n - 1 else n
  match s.pke.engines[e]?, s.pkeEntry e with
  | some k, some p =>
    fields [(0, 3, p.slotL), (3, 1, b2n p.pinned), (4, 1, b2n p.fused), (5, 1, b2n p.longOk), (6, 1, b2n (s.scratchSlots p != [])),
      (8, 8, if p.pinned then p.owner.toNat else 0), (16, 3, k.code), (20, 4, saturate 4 k.fences),
      (24, 1, b2n (k.locked || s.sen.lockedOut.contains (0x40 + e)))]
  | some k, none => fields [(16, 3, k.code), (20, 4, saturate 4 k.fences), (24, 1, b2n (k.locked || s.sen.lockedOut.contains (0x40 + e)))]
  | none, _ => 0

/-- A register of PKE_ENGn by its offset within the engine. -/
def State.readEngine (s : State) (n off : Nat) : Nat :=
  if !s.enginePresent n then 0
  else if off = 0 then s.engineStat n
  else if s.oddFused n then 0
  else match s.pke.engines[n]? with
  | none => 0
  | some k =>
    let pool := ((s.pkeEntry n).map s.poolSlots).getD []
    match off with
    | 0x04 => fields [(0, 16, (pool.filter fun i => !s.slotTaken n i).length), (16, 16, pool.length)]
    | 0x08 => fields [(0, 8, saturate 8 k.shortQ.length), (8, 8, saturate 8 k.longQ.length)]
    | 0x0C => half k.busy.toNat false
    | 0x10 => half k.busy.toNat true
    | 0x14 => k.jobs.toNat
    | 0x18 => k.parks.toNat
    | _ => 0

/-- An engine is fenced: both numbers of a fused pair. -/
def State.engineFenced (s : State) (n : Nat) : Bool :=
  (s.pke.engines[if s.oddFused n then n - 1 else n]?).any (·.fenced)

def State.readPke (s : State) (off : Nat) : Nat :=
  match element off 0x100 0x20 8 with
  | some (n, o) => s.readEngine n o
  | none => match off with
    | 0x00 => fields [(0, 1, b2n s.planApplied),
        (8, 4, ((List.range 8).filter fun n => s.enginePresent n && !s.oddFused n && s.engineOwned n).length),
        (16, 8, bitSet 8 s.engineFenced)]
    | 0x04 => bitSet 4 fun p => (s.pkeEntry (2 * p)).any (·.fused)
    | 0x08 => s.pke.faults.toNat
    | 0x0C => fields [(0, 3, s.pke.mmEngine), (4, 4, s.pke.mmKind.toNat), (16, 8, s.pke.mmTenant.toNat)]
    | 0x10 => half s.pke.mmTick false
    | 0x14 => half s.pke.mmTick true
    | 0x18 => s.pke.aborts.toNat
    | 0x1C => s.pke.valFail.toNat
    | _ => 0

/-- Bound records, and those with a blob for a measurement's MTAG. -/
def State.boundRecords (s : State) : List KeyRecord := (s.vault.records.map (·.2)).filter fun r => attrBound r.attr
def State.boundFor (s : State) (mtag : List Byte) : Nat := (s.boundRecords.filter fun r => r.blobs.any (·.1 == mtag)).length

/-- A store of the vault, as against an OTP store, is in progress. -/
def State.vaultStoring (s : State) : Bool := s.vault.stores.any fun st => storeBudget st.action == 5

/-- The tenant that VLT_TENANT_QUERY names. -/
def State.vltQuery (s : State) : Byte := BitVec.ofNat 8 (s.reg 0 0x0080_0048).toNat

/-- The seal-counter value that the queried tenant's open object root takes next. -/
def State.sealCtr (s : State) : Nat := ((s.openRoot s.vltQuery 0x60).map fun h => (s.counterOf h).toNat).getD (2 ^ 64 - 1)

/-- VLT_TENANT_EPSTATE (R218). -/
def State.epochState (s : State) (t : Byte) : Nat :=
  match s.tenantObj t with
  | none => fields [(25, 1, b2n (s.leafBase t).isNone)]
  | some x => fields [(0, 21, x.leaves.length), (21, 3, x.waiting.length), (24, 1, b2n x.overdue), (25, 1, b2n (s.leafBase t).isNone)]

def State.readVlt (s : State) (off : Nat) : Nat :=
  let t := s.vltQuery
  let x := s.tenantObj t
  let carry := ((s.vault.carryOver).map (·.measurement.take 8)).getD (zeros 8)
  match off with
  | 0x00 => fields [(0, 1, b2n s.vault.ready), (1, 1, b2n s.vault.formatted), (2, 1, b2n (s.vault.fills.any fun f => !f.started)),
      (3, 1, b2n (s.vault.carryOver.any (·.complete))), (4, 1, b2n s.vault.promoting), (5, 1, b2n s.vaultStoring)]
  | 0x04 => s.vault.storeEpoch.toNat
  | 0x08 => leAt s.mtag 0 4
  | 0x0C => leAt s.mtag 4 4
  | 0x10 => leAt carry 0 4
  | 0x14 => leAt carry 4 4
  | 0x18 => if s.vault.carryOver.isSome then s.boundFor carry else 0
  | 0x1C => s.boundRecords.length
  | 0x20 => (s.vault.records.filter fun p => !p.2.retired).length
  | 0x24 => (s.vault.genArray.filter fun p => p.2 == 0xFF).length
  | 0x28 => 78592 - s.heapUsed
  | 0x2C => (s.vault.sessions.filter (·.2.live)).length
  | 0x30 => (s.vault.templates.filter fun p => !p.2.retired).length
  | 0x34 => fields [(0, 15, (s.vault.cache.map (·.lines)).sum), (16, 15, ((s.vault.cache.filter fun e => e.pins != 0).map (·.lines)).sum)]
  | 0x38 => s.vault.cacheHit.toNat
  | 0x3C => s.vault.cacheMiss.toNat
  | 0x40 => s.vault.kdfCount.toNat
  | 0x44 => s.vault.sessTagFail.toNat
  | 0x4C => s.heldRecords t
  | 0x50 => s.heldSessions t
  | 0x54 => half s.sealCtr false
  | 0x58 => half s.sealCtr true
  | 0x5C => (x.map fun y => leAt y.epoch 0 4).getD 0
  | 0x60 => (x.map fun y => leAt y.epoch 4 4).getD 0
  | 0x64 => s.epochState t
  | 0x68 => (x.map (·.seals.toNat)).getD 0
  | 0x6C => (x.map (·.stopped.toNat)).getD 0
  | 0x70 => (x.map (·.discards.toNat)).getD 0
  | _ => (s.reg 0 (0x0080_0000 + off)).toNat

def State.readEnt (s : State) (off : Nat) : Nat :=
  let n := (s.reg 0 0x0090_0030).toNat
  let src := s.ent.sources[n]?
  let td := s.tenantDrbg (BitVec.ofNat 8 (s.reg 0 0x0090_0040).toNat)
  match off with
  | 0x00 => fields [(0, 1, b2n s.ent.ready), (1, 1, b2n s.ent.fenced), (2, 1, b2n s.ent.fault), (3, 1, b2n s.ent.mainServing), (8, 6, s.healthy)]
  | 0x04 => bitSet 32 fun i => (s.ent.sources[i]?).any (·.healthy)
  | 0x08 => bitSet 32 fun i => (s.ent.sources[i]?).any (·.fenced)
  | 0x0C => bitSet 32 fun i => (s.ent.sources[i]?).any (·.locked)
  | 0x10 => half s.ent.blkOk.toNat false
  | 0x14 => half s.ent.blkOk.toNat true
  | 0x18 => s.ent.blkFail.toNat
  | 0x1C => s.ent.rctFail.toNat
  | 0x20 => s.ent.aptFail.toNat
  | 0x24 => s.ent.mainReseeds.toNat
  | 0x28 => s.mainSince
  | 0x34 => fields [(0, 5, saturate 5 (s.windowFails n).length), (8, 4, saturate 4 ((src.map (·.fences)).getD 0))]
  | 0x38 => half ((src.map (·.last)).getD 0) false
  | 0x3C => half ((src.map (·.last)).getD 0) true
  | 0x44 => fields [(0, 25, (td.map (·.drbg.since)).getD 0), (25, 1, b2n (td.any fun d => d.waiting != [])), (26, 1, b2n td.isSome)]
  | 0x48 => (td.map (·.waiting.length)).getD 0
  | _ => (s.reg 0 (0x0090_0000 + off)).toNat

/-! ## LCB, SEN and CTL (R436, R458, R486, R502) -/

/-- LCB_STATE (R458). -/
def State.lcbState (s : State) : Nat :=
  let free := (s.lcb.slots.filter fun x => x.class' == .vacant).length
  fields [(0, 3, s.bootLcs), (8, 1, b2n s.lcb.torn), (9, 1, b2n s.lcb.invalid), (10, 1, b2n s.lcPending.isSome),
    (12, 3, s.lcPending.getD 0), (16, 5, s.currentSlot), (24, 6, free)]

/-- LCB_BOOT (R458). -/
def State.lcbBoot (s : State) : Nat :=
  fields [(0, 4, s.lcb.stage.toNat), (4, 1, b2n s.lcb.runSlot), (5, 1, b2n s.lcb.fallback), (6, 1, b2n s.lcb.noImage),
    (7, 1, b2n s.lcb.pufFail), (8, 1, b2n s.lcb.romFail), (9, 1, b2n s.lcb.prefer), (10, 2, s.lcb.tries)]

def State.readLcb (s : State) (off : Nat) : Nat :=
  if 0x10 ≤ off ∧ off < 0x40 then wordAt s.lcb.meas ((off - 0x10) / 4)
  else match off with
  | 0x000 => s.lcbState
  | 0x004 => s.lcbBoot
  | 0x008 => fields [(0, 6, s.lcb.runSvn), (8, 7, s.minSvn)]
  | 0x00C => s.sys.variant.idcode
  | 0x040 => half s.lcb.version.toNat false
  | 0x044 => half s.lcb.version.toNat true
  | 0x048 => half s.sys.serial.toNat false
  | 0x04C => half s.sys.serial.toNat true
  | 0x050 => fields [(0, 1, b2n s.lcb.dbgOpen), (1, 3, s.lcb.scopes.toNat)]
  | 0x208 => fields [(0, 16, s.lcb.tokenStat.toNat), (16, 1, b2n s.tokenBusy)]
  | 0x220 => s.lcb.recStat.toNat
  | _ => (s.reg 0 (0x00A0_0000 + off)).toNat

/-- LEVEL of SEN_STATUS. -/
def State.levelCode (s : State) : Nat := (s.sen.level.map Level.rank).getD 0

/-- Events of an instance that count in its window now (R409). -/
def State.windowCount (s : State) (c i : Nat) : Nat :=
  (inWindow s.sys.tick (s.senParam c i 2) (s.monitor c i).events).length

/-- SEN_INST_STAT of the queried instance. -/
def State.instStat (s : State) (c i : Nat) : Nat :=
  if instances c ≤ i then 0
  else fields [(0, 1, 1), (1, 1, b2n (s.monitor c i).failed), (2, 1, b2n (s.sen.underTest == some (c, i))),
    (4, 4, saturate 4 (s.windowCount c i)), (8, 2, (s.levelFor c i).rank)]

/-- BELOW_MIN of SEN_RES_STAT. -/
def State.belowMin (s : State) : Bool := decide (s.eUse < 500)

def State.readSen (s : State) (off : Nat) : Nat :=
  let q := (s.reg 0 0x00B0_0020).toNat
  let c := bits q 0 4
  let i := bits q 8 8
  match off with
  | 0x00 => fields [(0, 2, s.levelCode), (4, 1, b2n (s.sys.phase == .holdUp)), (5, 1, b2n s.sen.underTest.isSome),
      (6, 1, b2n (s.sen.zstate == .pending)), (7, 1, b2n s.sen.zeroDone), (8, 1, b2n s.anyClassLost)]
  | 0x04 => half s.sys.tick false
  | 0x08 => half s.sys.tick true
  | 0x0C => s.sen.logNext.toNat
  | 0x10 => (s.sen.logNext - BitVec.ofNat 32 s.sen.log.length).toNat
  | 0x14 => b2n s.sen.irqPending + (s.reg 0 0x00B0_0014).toNat
  | 0x24 => s.instStat c i
  | 0x28 => if instances c ≤ i then 0 else (s.monitor c i).value.toNat
  | 0x40 => s.sen.vresMv
  | 0x44 => s.sen.capUf
  | 0x48 => s.sen.esrMohm
  | 0x4C => saturate 16 s.eUse
  | 0x50 => s.reserved
  | 0x54 => s.sen.refusals.toNat
  | 0x58 => fields [(0, 1, b2n (s.sys.ioUp && s.sys.phase != .holdUp)), (1, 1, b2n s.sen.measured), (2, 1, b2n s.belowMin)]
  | 0x5C => s.sen.boots.toNat
  | _ => (s.reg 0 (0x00B0_0000 + off)).toNat

/-- Milliseconds until the open session's limit. -/
def State.cerLeft (s : State) : Nat :=
  match s.ctl.session with
  | some c => if c.isOpen then (c.opened + 1000000 * c.limitS - s.sys.tick) / 1000 else 0
  | none => 0

/-- CTL_CER_STAT. -/
def State.cerStat (s : State) : Nat :=
  match s.ctl.session with
  | some c => fields [(0, 1, b2n c.isOpen), (1, 4, c.kind), (5, 1, b2n (s.hasQuorum c)), (8, 5, c.counted.length)]
  | none => 0

/-- A register of CTL_CPn by its offset within the port. -/
def State.readCard (s : State) (n off : Nat) : Nat :=
  match s.ctl.ports[n]? with
  | none => 0
  | some p => match off with
    | 0x00 => fields [(0, 1, b2n p.present), (1, 1, b2n p.powered), (2, 1, b2n p.classB), (3, 1, b2n p.protoT1),
        (4, 3, p.phase.toNat), (7, 1, b2n p.lesengo), (8, 8, p.ta1.toNat)]
    | 0x04 => p.clkKhz
    | 0x08 => p.removals.toNat
    | 0x0C => p.errors.toNat
    | 0x10 => fields [(0, 16, p.lastStatus.toNat), (16, 3, p.lastPhase.toNat)]
    | _ => 0

def State.readCtl (s : State) (off : Nat) : Nat :=
  match element off 0x100 0x20 4 with
  | some (n, o) => s.readCard n o
  | none => match off with
    | 0x000 => s.cerStat
    | 0x004 => (s.ctl.session.map (·.session.toNat)).getD 0
    | 0x008 => s.cerLeft
    | 0x00C => fields [(0, 5, s.ctl.roster.length), (8, 5, s.ctl.rosterM), (16, 1, b2n (s.ctl.roster == []))]
    | 0x014 => fields [(0, 4, s.ctl.irqInsert.toNat), (4, 4, s.ctl.irqRemove.toNat)]
    | 0x400 => fields [(0, 1, b2n s.ring.member), (1, 1, b2n s.ring.culvertOpen), (2, 1, b2n s.ring.locked), (3, 1, b2n s.ring.token),
        (4, 1, b2n s.ring.zprop), (8, 4, s.ring.position), (12, 5, s.ringSize)]
    | 0x404 => if s.ring.member then bitSet s.ringSize s.ringPresent else 0
    | 0x408 => half s.ring.ringId.toNat false
    | 0x40C => half s.ring.ringId.toNat true
    | 0x410 => half s.ring.epoch.toNat false
    | 0x414 => half s.ring.epoch.toNat true
    | 0x418 => half s.ring.top.toNat false
    | 0x41C => half s.ring.top.toNat true
    | 0x420 => s.ring.commits.toNat
    | 0x424 => s.ring.aborts.toNat
    | 0x428 => s.ring.badFrame.toNat
    | 0x42C => fields [(0, 4, s.ring.zOrigin.toNat), (8, 1, b2n s.ring.zSeen)]
    | _ => (s.reg 0 (0x00C0_0000 + off)).toNat

/-! ## The queue page and the VF BAR (R86, R89, R118, R355, R375) -/

/-- A register of a queue pair by its offset within the pair. -/
def State.readQp (s : State) (fn n off : Nat) : Nat :=
  let q := s.qp fn n
  let stored := (s.qpReg fn n (0x100 + off)).toNat
  match off with
  | 0x14 => stored + b2n q.enabled
  | 0x1C => fields [(0, 1, b2n (q.enabled || q.draining)), (1, 1, b2n q.error), (4, 4, q.errCode.toNat), (16, 16, q.sqHead)]
  | 0x20 => fields [(0, 16, q.cqTail), (16, 1, b2n q.cqPhase)]
  | 0x24 => q.inflight
  | _ => stored

/-- Two halves of a Pending Bit Array. -/
def pbaWord (pending : List Nat) (i : Nat) : Nat := bitSet 32 fun b => pending.contains (32 * i + b)

/-- A register of a function's queue page; the page of a VF is its whole BAR. -/
def State.readPage (s : State) (fn off : Nat) : Nat :=
  match element off 0x100 0x40 16 with
  | some (n, o) => s.readQp fn n o
  | none =>
    if off = 0 then
      (if fn = 0 then 0 else match s.vfTenant fn with
        | some t => fields [(0, 8, t.tenant.toNat), (8, 1, 1)]
        | none => 0)
    else if off = 4 then (s.reg fn (queueOff fn 4)).toNat
    else if fn = 0 then 0
    else
      let v := s.vf fn
      match off with
      | 0x3010 => (s.traceRing fn).prod
      | 0x3018 => (s.traceRing fn).lost.toNat
      | 0x4000 => fields [(0, 1, b2n v.suspended), (1, 1, b2n v.stale), (2, 2, v.outcome.toNat)] + (s.reg fn 0x4000).toNat
      | 0x9000 => pbaWord v.pba 0
      | 0x9004 => pbaWord v.pba 1
      | _ => (s.reg fn off).toNat

/-- What a read of a register gives, by its function and its offset in that function's BAR0; reserved bits, WO registers and
unassigned space read zero. -/
def State.readReg (s : State) (fn off : Nat) : Word :=
  let off := off / 4 * 4
  let v :=
    if fn ≠ 0 then (if off < 0x1_0000 then s.readPage fn off else 0)
    else if off < 0x10_0000 then s.readGlb off
    else if off < 0x20_0000 then s.readHwk (off - 0x10_0000)
    else if 0x28_0000 ≤ off ∧ off < 0x29_0000 then s.readPage 0 (off - 0x28_0000)
    else if 0x29_0000 ≤ off ∧ off < 0x29_0400 then (s.reg 0 off).toNat
    else if 0x29_1000 ≤ off ∧ off < 0x29_1008 then pbaWord s.host.pfPba ((off - 0x29_1000) / 4)
    else if off < 0x30_0000 then s.readHpt (off - 0x20_0000)
    else if off < 0x40_0000 then s.readMem (off - 0x30_0000)
    else if off < 0x50_0000 then s.readDsp (off - 0x40_0000)
    else if off < 0x60_0000 then s.readCfb (off - 0x50_0000)
    else if off < 0x70_0000 then s.readSpr (off - 0x60_0000)
    else if off < 0x80_0000 then s.readPke (off - 0x70_0000)
    else if off < 0x90_0000 then s.readVlt (off - 0x80_0000)
    else if off < 0xA0_0000 then s.readEnt (off - 0x90_0000)
    else if off < 0xB0_0000 then s.readLcb (off - 0xA0_0000)
    else if off < 0xC0_0000 then s.readSen (off - 0xB0_0000)
    else if off < 0xD0_0000 then s.readCtl (off - 0xC0_0000)
    else 0
  BitVec.ofNat 32 v

/-! ## Latched halves (R61, R189, R218, R239, R302, R329, R350, R436, R458, R502, R515) -/

/-- The _LO registers, by PF BAR0 offset, a read of which latches the _HI register that follows. -/
def latchesHi (off : Nat) : Bool :=
  (match element off 0x0050_0100 0x10 20, element off 0x0050_0300 0x10 16 with
    | some (_, o), _ => o == 0x4
    | _, some (_, o) => o == 0x4
    | none, none => false) ||
  (match element off 0x0060_0100 0x10 4, element off 0x0070_0100 0x20 8 with
    | some (_, o), _ => o == 0x8
    | _, some (_, o) => o == 0xC
    | none, none => false) ||
  [0x0000_0184, 0x0050_0014, 0x0050_0414, 0x0050_F008, 0x0060_000C, 0x0070_0010, 0x0080_0054, 0x0080_005C, 0x0090_0010,
   0x0090_0038, 0x00A0_0040, 0x00A0_0048, 0x00B0_0004, 0x00C0_0408, 0x00C0_0410, 0x00C0_0418].contains off

/-- A read of a _LO register latches its _HI half; the latch stands in the _HI register's place in the register file. -/
def State.latch (s : State) (off : Nat) : State :=
  if latchesHi off then s.setReg 0 (off + 4) (s.readReg 0 (off + 4)) else s

/-- What a read of a PF register answers: a _HI register gives the half that was latched, or, before any latch, the present
one (DESIGN CHOICE). -/
def State.latchedReg (s : State) (off : Nat) : Word :=
  let off := off / 4 * 4
  if 4 ≤ off ∧ latchesHi (off - 4) then tabGetD s.regs (regKey 0 off) (s.readReg 0 off) else s.readReg 0 off

/-! ## Writes (R12 to R14) -/

/-- The bits of a PF register without a row of its own that software writes; none where the offset names no such
register. -/
def pfMask (off : Nat) : Option Word :=
  if 0x0010_0840 ≤ off ∧ off < 0x0010_0880 then some 0xFFFF_FFFF
  else if 0x00A0_0100 ≤ off ∧ off < 0x00A0_0204 then some 0xFFFF_FFFF
  else match element off 0x0010_0100 0x40 4 with
  | some (_, 0x08) => some 0xFFFF_FFFF
  | some (_, 0x0C) => some 0x0000_FFFF
  | some _ => none
  | none => match off with
    | 0x0000_0108 => some 0xFFFF_FFFF
    | 0x0000_010C => some 0xFFFF_FFFF
    | 0x0000_0110 => some 0xFFFF_FFFF
    | 0x0000_018C => some 0x0000_00FF
    | 0x0010_0800 => some 0x00FF_FFFF
    | 0x0010_0A00 => some 0xFFFF_FFFF
    | 0x0010_0A04 => some 0xFFFF_FFFF
    | 0x0010_0A08 => some 0x0000_001F
    | 0x0010_0A10 => some 0x0000_FFFF
    | 0x0010_0A20 => some 0xFFFF_FFFF
    | 0x0010_0A24 => some 0xFFFF_FFFF
    | 0x0010_0A28 => some 0x0000_001F
    | 0x0020_0020 => some 0x0000_03FF
    | 0x0030_0030 => some 0x0000_1FFF
    | 0x0030_0300 => some 0x0000_3F00
    | 0x0040_0310 => some 0x003F_FFFF
    | 0x0040_0400 => some 0xFFFF_FFFF
    | 0x0040_0404 => some 0xFFFF_FFFF
    | 0x0040_0408 => some 0x0000_001F
    | 0x0040_040C => some 0x0000_0003
    | 0x0040_0414 => some 0x000F_FFFF
    | 0x0080_0048 => some 0x0000_00FF
    | 0x0090_0030 => some 0x0000_001F
    | 0x0090_0040 => some 0x0000_00FF
    | 0x00A0_0210 => some 0xFFFF_FFFF
    | 0x00A0_0214 => some 0xFFFF_FFFF
    | 0x00A0_0218 => some 0x007F_FFFF
    | 0x00B0_0014 => some 0x0000_0100
    | 0x00B0_0020 => some 0x0000_FF0F
    | 0x00C0_0010 => some 0x0001_1F0F
    | _ => none

/-- The operator or tenant trace's base and size ignore writes while the trace is on (R117, R118). -/
def State.traceHeld (s : State) (fn off : Nat) : Bool :=
  if fn = 0 then (off == 0x0040_0400 || off == 0x0040_0404 || off == 0x0040_0408) && (s.reg 0 0x0040_040C).getLsbD 0
  else (off == 0x3000 || off == 0x3004 || off == 0x3008) && (s.reg fn 0x300C).getLsbD 0

/-- Bits of a VF's trace registers that software writes (R118). -/
def vfMask (off : Nat) : Option Word :=
  match off with
  | 0x3000 => some 0xFFFF_FFFF
  | 0x3004 => some 0xFFFF_FFFF
  | 0x3008 => some 0x0000_001F
  | 0x300C => some 0x0000_0001
  | 0x3014 => some 0x000F_FFFF
  | _ => none

/-- Bits of a word of an MSI-X table entry that software writes: message address, data and the vector's mask bit. -/
def msixMask (off : Nat) : Word :=
  match off % 16 with
  | 0 => 0xFFFF_FFFC
  | 12 => 0x0000_0001
  | _ => 0xFFFF_FFFF

/-- Send a vector that stands in the Pending Bit Array, if it may now be sent (R86). -/
def State.sendPending (s : State) (fn v : Nat) : State :=
  if fn = 0 then
    if s.host.pfPba.contains v then ({ s with host := { s.host with pfPba := s.host.pfPba.erase v } }).sendVector 0 v else s
  else if (s.vf fn).pba.contains v && !(s.vf fn).suspended then
    (s.setVf fn { s.vf fn with pba := (s.vf fn).pba.erase v }).sendVector fn v
  else s

/-- A write into a function's MSI-X table (R86): a vector that it unmasks is sent if it is pending. -/
def State.writeMsix (s : State) (fn base off : Nat) (value : Word) : State :=
  let s' := s.setReg fn off (value &&& msixMask off)
  if (off - base) % 16 = 12 ∧ !value.getLsbD 0 then s'.sendPending fn ((off - base) / 16) else s'

/-- A write to a register of a queue pair (R89): the base and size registers only while ENABLED reads 0. -/
def State.writeQp (s : State) (fn qp off : Nat) (value : Word) : State :=
  let q := s.qp fn qp
  let put := fun (m : Word) => s.setReg fn (queueOff fn (0x100 + off + 0x40 * qp)) (value &&& m)
  if off < 0x10 then (if q.enabled || q.draining then s else put 0xFFFF_FFFF)
  else if off = 0x10 then (if q.enabled || q.draining then s else put 0x0000_1F1F)
  else if off = 0x14 then (if value.getLsbD 0 then s.qpEnable fn qp value else s.qpDisable fn qp value)
  else if off = 0x18 then put 0x0003_FFFF
  else s

/-- A write into a function's queue page: the page of a VF is its whole BAR. -/
def State.writePage (s : State) (fn off : Nat) (value : Word) : State :=
  match element off 0x100 0x40 16, element off 0x1000 8 16, element off 0x2000 0x40 16 with
  | some (n, o), _, _ => s.writeQp fn n o value
  | _, some (n, 0), _ => s.sqDoorbell fn n value
  | _, some (n, 4), _ => s.cqDoorbell fn n value
  | _, _, some (n, _) => s.pushWrite fn n (leBytes 4 value.toNat) false
  | _, _, _ =>
    if off = 4 then s.setReg fn (queueOff fn 4) (s.reg fn (queueOff fn 4) &&& ~~~value)
    else if fn = 0 then s
    else if off = 0x4000 then s.setReg fn 0x4000 (s.reg fn 0x4000 &&& ~~~value)
    else if off = 0x4004 then s.migAck fn value
    else if 0x8000 ≤ off ∧ off < 0x8110 then s.writeMsix fn 0x8000 off value
    else match vfMask off with
      | some m => if s.traceHeld fn off then s else s.setReg fn off (value &&& m)
      | none => s

/-- The state that a command leaves. -/
def after (r : Result) (s : State) : State :=
  match r with
  | .next t => t
  | _ => s

/-- A write of HWK_CHAN_CMD, by its CMD. -/
def State.writeChanCmd (s : State) (value : Word) : State :=
  match bits value.toNat 0 3 with
  | 1 => after (execChanRead s) s
  | 2 => after (execChanOpen s) s
  | 3 => after (execChanReset s) s
  | 4 => after (execChanClose s) s
  | _ => s

/-- A write of LCB_TOKEN_CMD, by its CMD. -/
def State.writeTokenCmd (s : State) (value : Word) : State :=
  match bits value.toNat 0 2 with
  | 1 => after (execTokenOpenScopes s) s
  | 2 => after (execTokenVendorTransition s) s
  | _ => s

/-- Registers of the PF with an effect of their own; none for any other register. -/
def State.writeSpecial (s : State) (off : Nat) (value : Word) : Option State :=
  match element off 0x0010_0100 0x40 4, element off 0x0030_0100 0x40 6 with
  | some (n, 0), _ => some (s.writePortCfg n value)
  | _, some (g, 8) => some (s.violPop g value)
  | _, _ => match off with
    | 0x0000_0020 => some (s.softReset value)
    | 0x0000_0114 => some (s.planGo value)
    | 0x0010_0804 => some (s.writeChanCmd value)
    | 0x0010_0A2C => some (s.injectFrames value [])
    | 0x0030_0020 => some (s.puSyncWrite value)
    | 0x00A0_0204 => some (s.writeTokenCmd value)
    | 0x00A0_021C => some (s.recGo value)
    | _ => none

/-- The W1C bits of the PF's interrupt registers (R405, R436, R486). -/
def State.clearBits (s : State) (off : Nat) (value : Word) : State :=
  match off with
  | 0x0030_0300 => { s with mem := { s.mem with irqPending := s.mem.irqPending &&& ~~~(value.setWidth 6) } }
  | 0x00B0_0014 => { s with sen := { s.sen with irqPending := s.sen.irqPending && !value.getLsbD 0 } }
  | 0x00C0_0014 => { s with ctl := { s.ctl with
      irqInsert := s.ctl.irqInsert &&& ~~~(value.setWidth 4)
      irqRemove := s.ctl.irqRemove &&& ~~~((value >>> 4).setWidth 4) } }
  | _ => s

/-- A write to a register of the PF outside its queue page and MSI-X table. -/
def State.writePf (s : State) (off : Nat) (value : Word) : State :=
  match s.writeSpecial off value with
  | some t => t
  | none =>
    let s := s.clearBits off value
    match pfMask off with
    | some m => if s.traceHeld 0 off then s else s.setReg 0 off (value &&& m)
    | none => s

/-- A write that reaches a register: RO bits and unassigned space ignore it. -/
def State.writeReg (s : State) (fn off : Nat) (value : Word) : State :=
  if off % 4 ≠ 0 then s
  else if fn ≠ 0 then (if off < 0x1_0000 then s.writePage fn off value else s)
  else if 0x28_0000 ≤ off ∧ off < 0x29_0000 then s.writePage 0 (off - 0x28_0000) value
  else if 0x29_0000 ≤ off ∧ off < 0x29_0400 then s.writeMsix 0 0x29_0000 off value
  else s.writePf off value

/-- A register of the LCB block, which serves from the first cycle of Boot (R447). -/
def isLcb (fn off : Nat) : Bool := fn == 0 && decide (0x00A0_0000 ≤ off) && decide (off < 0x00B0_0000)

/-- REGISTER_WRITE: a host write to a register takes effect by its access type (R13). -/
def execRegisterWrite (fn offset : Nat) (value : Word) (s : State) : Result :=
  if s.barOk fn && (!s.bootHeld || isLcb fn offset) then .next (s.writeReg fn offset value) else .next s

end Sys2Proof.Machine
end

