-- ==== Sys2Proof/Machine/Jtag.lean ====
section
/-! DEFINITION. The TAP (R454) and the debug port (R403, R404, R455). The spec gives no layout to what the debug port's data
register shifts out; an answer here is a byte that is 1 for an error response, then the bytes read. -/

namespace Sys2Proof.Machine

/-- Outside Off and Reset the TAP takes instructions. -/
def State.tapRuns (s : State) : Bool :=
  match s.sys.phase with
  | .off | .reset => false
  | _ => true

/-- Another instruction than EXTEST is loaded: the boundary cells no longer drive the pins. -/
def State.endExtest (s : State) : State := { s with lcb := { s.lcb with extest := false } }

/-- BYPASS: the one-bit register shifts out a 0. -/
def State.tapBypass (s : State) : State := s.endExtest.emit (.jtag [0])

/-- An instruction that is accepted under a condition, and acts as BYPASS otherwise; nothing while the TAP is held. -/
def State.tap (s : State) (accepted : Bool) (act : State → State) : State :=
  if !s.tapRuns then s else if accepted then act s else s.tapBypass

/-- A scope of an accepted token is open (R455). -/
def State.scopeOpen (s : State) (i : Nat) : Bool := s.lcb.scopes.getLsbD i

/-- EXTEST is accepted in the current state. -/
def State.extestOk (s : State) : Bool :=
  let t := s.bootLcs
  if t = lcBlank then true
  else if t = lcScrapped then false
  else if t = lcPersonalised ∨ t = lcDeployed then s.scopeOpen 1 && s.sys.phase == .boot
  else s.scopeOpen 1

/-- DBG_ACCESS is accepted in the current state. -/
def State.dbgOk (s : State) : Bool :=
  let t := s.bootLcs
  if t = lcBlank then true else debugPermitted t && s.scopeOpen 0

/-- BYPASS, and every code that names no instruction. -/
def execBypass (_ir : Byte) (s : State) : Result := .next (s.tap true State.tapBypass)

/-- IDCODE shifts out the variant's code (R454, R545). -/
def execIdcode (s : State) : Result :=
  .next (s.tap true fun s => s.endExtest.emit (.jtag (leBytes 4 s.sys.variant.idcode)))

/-- SAMPLE/PRELOAD: the pins' levels are shifted out, and the boundary register is loaded. -/
def execSamplePreload (levels : List Bool) (s : State) : Result :=
  .next (s.tap (decide (s.bootLcs ≠ lcScrapped)) fun s =>
    let r := s.freeBytes ((levels.length + 7) / 8)
    ({ r.2 with lcb := { r.2.lcb with boundary := levels, extest := false } }).emit (.jtag r.1))

/-- EXTEST: the boundary register drives the pins. -/
def execExtest (drive : List Bool) (s : State) : Result :=
  .next (s.tap s.extestOk fun s =>
    let r := s.freeBytes ((drive.length + 7) / 8)
    ({ r.2 with lcb := { r.2.lcb with boundary := drive, extest := true } }).emit (.jtag r.1))

/-- DBG_TOKEN: a token with LC_VENDOR performs its transition, any other opens its scopes (R453). -/
def execDbgToken (bytes : List Byte) (s : State) : Result :=
  .next (s.tap (decide (s.bootLcs ≠ lcScrapped)) fun s =>
    let s := s.endExtest
    let bytes := padTo 257 bytes
    let r := if bit (tokenScope bytes) 2 then (if s.tokenBusy then (stNoResource, s) else s.vendorToken bytes) else s.presentToken bytes
    r.2.emit (.jtag (leBytes 2 r.1.toNat)))

/-! ## DBG_ACCESS -/

/-- A Cistern is locked to the debug port (R404): its engine, or the fused pair's, has a claimed pool slot or a job, or is
fenced, scrubbing or testing. -/
def State.cisternLocked (s : State) (n : Nat) : Bool :=
  let e := if s.oddFused n then n - 1 else n
  (s.itemList.any fun it => (it.claim.cistern.map (·.1)) == some e) ||
    match s.pke.engines[e]? with
    | some k => k.running.isSome || k.parked.isSome || k.shortQ != [] || k.longQ != [] || k.fenced || k.testing || k.zeroing != []
    | none => false

/-- The region that debug authorisation grants: the whole address space, with every permission. -/
def dbgRegion : Region :=
  { base := 0, sizeLog2 := 47, permR := true, permW := true, permX := true, permA := true, tag := 0, tagValid := false,
    valid := true }

/-- An address range lies in a target. -/
def inHbm (a : Nat) : Bool := decide (a ≤ 0x000B_FFFF_FFFF)
def inRegs (a : Nat) : Bool := decide (0x0014_0000_0000 ≤ a) && decide (a ≤ 0x0014_03FF_FFFF)
def inRom (a : Nat) : Bool := decide (0x0018_0000_0000 ≤ a) && decide (a ≤ 0x0018_0003_FFFF)

/-- 64-byte lines that an access touches, and those that it covers. -/
def linesOf (a len : Nat) : List Nat := (List.range ((a + len - 1) / 64 - a / 64 + 1)).map fun i => 64 * (a / 64 + i)
def linesIn (a len : Nat) : List Nat := (linesOf a len).filter fun l => decide (a ≤ l) && decide (l + 64 ≤ a + len)

/-- The registers that a part covers whole, by offset. -/
def wordsIn (a len : Nat) : List Nat := ((List.range (len / 4 + 1)).map fun i => 4 * ((a + 3) / 4 + i)).filter fun w => decide (w + 4 ≤ a + len)

/-- The registers that a part touches, by offset. -/
def wordsOn (a len : Nat) : List Nat := (List.range ((a + len - 1) / 4 - a / 4 + 1)).map fun i => 4 * (a / 4 + i)

/-- Read a part that its checks have passed: whether it got an error response, the bytes, and the state after. -/
def State.dbgRead (s : State) (a len : Nat) : Bool × List Byte × State :=
  if !mapped a then (true, zeros len, { s with mem := { s.mem with decodeErr := s.mem.decodeErr + 1 } })
  else if inHbm a ∧ !s.mem.keyLoaded then (true, zeros len, s)
  else if inHbm a ∧ (linesOf a len).any s.mem.ueLines.contains then
    (true, zeros len, s.hbmError (((linesOf a len).find? s.mem.ueLines.contains).getD a))
  else if inRegs a then
    let s := (wordsOn (a - 0x0014_0000_0000) len).foldl State.latch s
    (false, (List.range len).map fun i =>
      let o := a + i - 0x0014_0000_0000
      byteAt (leBytes 4 (s.latchedReg o).toNat) (o % 4), s)
  else if inRom a then let r := s.freeBytes len
    (false, r.1, r.2)
  else (false, memRead s.mem.cells a len, s)

/-- Write a part that its checks have passed. Only whole registers are written; the ROM is read-only. -/
def State.dbgWrite (s : State) (a : Nat) (data : List Byte) : Bool × State :=
  if !mapped a then (true, { s with mem := { s.mem with decodeErr := s.mem.decodeErr + 1 } })
  else if inHbm a ∧ !s.mem.keyLoaded then (true, s)
  else if inRegs a then
    let o := a - 0x0014_0000_0000
    (false, (wordsIn o data.length).foldl (fun s w => s.writeReg 0 w (BitVec.ofNat 32 (leAt data (w - o) 4))) s)
  else if inRom a then (true, s)
  else
    let s := s.memStore a data
    let whole := linesIn a data.length
    (false, { s with mem := { s.mem with ueLines := s.mem.ueLines.filter fun l => !whole.contains l } })

/-- One part of a debug access: error, bytes read, state. An atomic answers the old bytes; what it writes is open. -/
def State.dbgPart (s : State) (kind : AccessKind) (a len : Nat) (data : List Byte) : Bool × List Byte × State :=
  match kind with
  | .read | .fetch => s.dbgRead a len
  | .write =>
    let w := s.dbgWrite a data
    (w.1, [], w.2)
  | .atomic =>
    let r := s.dbgRead a len
    if r.1 then r
    else
      let f := r.2.2.freeBytes len
      let w := f.2.dbgWrite a f.1
      (w.1, r.2.1, w.2)

/-- The parts of an access in ascending order (R398): a refused part is recorded and gets an error response. -/
def State.dbgParts (s : State) (a : Access) (data : List Byte) (parts : List ((Nat × Nat) × Option Violation)) :
    Bool × List Byte × State :=
  parts.foldl (fun acc p =>
    match p.2 with
    | some v => (true, acc.2.1 ++ (if a.kind = .write then [] else zeros p.1.2), acc.2.2.recordViolation v)
    | none =>
      let r := acc.2.2.dbgPart a.kind p.1.1 p.1.2 (padTo p.1.2 (data.drop (p.1.1 - a.addr)))
      (acc.1 || r.1, acc.2.1 ++ r.2.1, r.2.2)) (false, [], s)

/-- DBG_ACCESS: a memory access as master 0x7F, checked by the debug port's protection unit (R403, R455). -/
def execDbgAccess (access : Access) (data : List Byte) (s : State) : Result :=
  .next (s.tap s.dbgOk fun s =>
    let s := s.endExtest
    let parts := (s.setRegion 0x7F 0 dbgRegion).checkAccess s.cisternLocked 0x7F none 0xFFFF access
    let r := s.dbgParts access data parts
    r.2.2.emit (.jtag (leBytes 1 (b2n r.1) ++ r.2.1)))

end Sys2Proof.Machine
end

