-- ==== Sys2Proof/Machine/Sideband.lean ====
section
/-! DEFINITION. The SMBus sideband (R540 to R542). It is read-only; an answer is emitted, and the Alert Response Address
releases SMB_ALERT_N. -/

namespace Sys2Proof.Machine

/-- The sideband is served while VDD_AON and VDD_IO are up (R540). -/
def State.smbServed (s : State) : Bool := s.sys.aonUp && s.sys.ioUp

/-- Answer a command, if the sideband is served. -/
def State.smbAnswer (s : State) (bytes : List Byte) : State := if s.smbServed then s.emit (.smbus bytes) else s

/-- The 7-bit address (R540). -/
def State.smbAddr (s : State) : Nat := 0x60 + 2 * b2n s.sys.strap1 + b2n s.sys.strap0

/-- The larger of two signed readings. -/
def maxInt (a b : Int) : Int := if a ≤ b then b else a

/-- TEMP: the highest of T0 to T7 in sixteenths of a degree (R541); class T samples count degrees (R412). -/
def State.smbTempValue (s : State) : Int :=
  16 * (List.range 8).foldl (fun m i => maxInt m (signed (s.monitor 0x2 i).value.toNat)) (signed (s.monitor 0x2 0).value.toNat)

/-- TEMP_LIMIT: the lowest class T high threshold in force among T0 to T7, in degrees. -/
def State.smbTempLimitValue (s : State) : Int :=
  (List.range 8).foldl (fun m i => if signed (s.senParam 0x2 i 1) ≤ m then signed (s.senParam 0x2 i 1) else m) (signed (s.senParam 0x2 0 1))

/-- The conditions of R542 that hold, by number: 0 a response level, 1 the temperature. -/
def State.alertConditions (s : State) : List Nat :=
  (if s.sen.level.isSome then [0] else []) ++ (if s.smbTempLimitValue * 16 ≤ s.smbTempValue + 80 then [1] else [])

/-- SMB_ALERT_N is driven low: a condition holds that the last alert read did not release (R542). -/
def State.alertLow (s : State) : Bool := s.smbServed && s.alertConditions.any fun c => !s.sys.alertSeen.contains c

/-- 0x01 MODE. -/
def execSmbMode (s : State) : Result := .next (s.smbAnswer (leBytes 1 s.mode.toNat))

/-- 0x02 LCS. -/
def execSmbLcs (s : State) : Result := .next (s.smbAnswer (leBytes 1 (if s.sys.otpRead then s.bootLcs else 0xFF)))

/-- 0x03 TEMP. -/
def execSmbTemp (s : State) : Result := .next (s.smbAnswer (leBytes 2 (s.smbTempValue % 65536).toNat))

/-- 0x04 TEMP_LIMIT. -/
def execSmbTempLimit (s : State) : Result := .next (s.smbAnswer (leBytes 1 (s.smbTempLimitValue % 256).toNat))

/-- 0x05 POWER: the package power as the rail monitors measure it; 0 in Off and Hold-up. -/
def execSmbPower (quarterWatts : BitVec 16) (s : State) : Result :=
  let p := match s.sys.phase with
    | .off | .holdUp => (0 : BitVec 16)
    | _ => quarterWatts
  .next (s.smbAnswer (leBytes 2 p.toNat))

/-- 0x06 VRES. -/
def execSmbVres (s : State) : Result := .next (s.smbAnswer (leBytes 2 s.sen.vresMv))

/-- 0x07 EUSE. -/
def execSmbEuse (s : State) : Result := .next (s.smbAnswer (leBytes 2 (saturate 16 s.eUse)))

/-- 0x08 ALARM. -/
def execSmbAlarm (s : State) : Result :=
  .next (s.smbAnswer (leBytes 1 (fields [(0, 2, s.levelCode), (2, 1, b2n (s.sys.phase == .holdUp)), (3, 1, b2n (s.sen.zstate == .pending)),
    (4, 1, b2n s.anyFenced), (5, 1, b2n s.anyClassLost)])))

/-- 0x09 LOGSEQ: a block of 4 bytes. -/
def execSmbLogseq (s : State) : Result := .next (s.smbAnswer (leBytes 1 4 ++ leBytes 4 s.sen.logNext.toNat))

/-- 0x0A IDENT: a block of 16 bytes. -/
def execSmbIdent (s : State) : Result :=
  .next (s.smbAnswer (leBytes 1 16 ++ leBytes 2 s.sys.variant.part ++ leBytes 1 (if s.sys.variant = .ky4800N then 1 else 0) ++
    leBytes 1 s.sys.stepping.toNat ++ leBytes 8 (if s.sys.otpRead then s.sys.serial.toNat else 0) ++ leBytes 4 s.sys.variant.idcode))

/-- A read of the Alert Response Address: the device answers while it drives SMB_ALERT_N low, and releases it until another
condition arises. -/
def execAlertResponse (s : State) : Result :=
  if s.alertLow then
    .next { s.smbAnswer (leBytes 1 (2 * s.smbAddr)) with sys := { s.sys with alertSeen := s.alertConditions } }
  else .next s

end Sys2Proof.Machine
end

