-- ==== Sys2Proof/Machine/Dispatch.lean ====
section
/-! DEFINITION. exec: the meaning of each command, one arm for each constructor of Instr. -/

namespace Sys2Proof.Machine

def exec (i : Instr) (s : State) : Host.Outcome State Fault Refusal :=
  match i with
  | .powerStable => Sys2Proof.Machine.execPowerStable s
  | .coldResetRelease => Sys2Proof.Machine.execColdResetRelease s
  | .supplyLoss => Sys2Proof.Machine.execSupplyLoss s
  | .perstFall => Sys2Proof.Machine.execPerstFall s
  | .perstRise => Sys2Proof.Machine.execPerstRise s
  | .glbSoftReset value => Sys2Proof.Machine.execGlbSoftReset value s
  | .warmResetStoresDone => Sys2Proof.Machine.execWarmResetStoresDone s
  | .resetHoldEnd => Sys2Proof.Machine.execResetHoldEnd s
  | .pllLockLost => Sys2Proof.Machine.execPllLockLost s
  | .mainPowerLost detector vresMv => Sys2Proof.Machine.execMainPowerLost detector vresMv s
  | .holdUpStoresEnded => Sys2Proof.Machine.execHoldUpStoresEnded s
  | .mainPowerRestored => Sys2Proof.Machine.execMainPowerRestored s
  | .reserveSpent => Sys2Proof.Machine.execReserveSpent s
  | .bootStart probe => Sys2Proof.Machine.execBootStart probe s
  | .bootOtpWriteAdmitted => Sys2Proof.Machine.execBootOtpWriteAdmitted s
  | .entStartupDone first again knownAnswersOk => Sys2Proof.Machine.execEntStartupDone first again knownAnswersOk s
  | .bootResumeEntReady => Sys2Proof.Machine.execBootResumeEntReady s
  | .memoryKeyLoad => Sys2Proof.Machine.execMemoryKeyLoad s
  | .hbmInitSweepDone => Sys2Proof.Machine.execHbmInitSweepDone s
  | .lcbRecGo value => Sys2Proof.Machine.execLcbRecGo value s
  | .glbPlanGo value => Sys2Proof.Machine.execGlbPlanGo value s
  | .planWaitTimeout => Sys2Proof.Machine.execPlanWaitTimeout s
  | .planImageReadDone image => Sys2Proof.Machine.execPlanImageReadDone image s
  | .mirrorEpochCompare => Sys2Proof.Machine.execMirrorEpochCompare s
  | .qpEnable fn qp value => Sys2Proof.Machine.execQpEnable fn qp value s
  | .qpDisable fn qp value => Sys2Proof.Machine.execQpDisable fn qp value s
  | .sqDoorbell fn qp value => Sys2Proof.Machine.execSqDoorbell fn qp value s
  | .pushWrite fn qp bytes oneTlp => Sys2Proof.Machine.execPushWrite fn qp bytes oneTlp s
  | .cqDoorbell fn qp value => Sys2Proof.Machine.execCqDoorbell fn qp value s
  | .descriptorConsume fn qp => Sys2Proof.Machine.execDescriptorConsume fn qp s
  | .dispatch core => Sys2Proof.Machine.execDispatch core s
  | .keyFillDone handle tagOk => Sys2Proof.Machine.execKeyFillDone handle tagOk s
  | .itemResume item => Sys2Proof.Machine.execItemResume item s
  | .coreWatchdog core => Sys2Proof.Machine.execCoreWatchdog core s
  | .recordRelease item cqWriteOk => Sys2Proof.Machine.execRecordRelease item cqWriteOk s
  | .coalTimeout fn qp => Sys2Proof.Machine.execCoalTimeout fn qp s
  | .quiesce item => Sys2Proof.Machine.execQuiesce item s
  | .resume item => Sys2Proof.Machine.execResume item s
  | .planStage item => Sys2Proof.Machine.execPlanStage item s
  | .planAmend item => Sys2Proof.Machine.execPlanAmend item s
  | .amendDeadline => Sys2Proof.Machine.execAmendDeadline s
  | .drainFramesElapsed => Sys2Proof.Machine.execDrainFramesElapsed s
  | .unitScrubDone unit => Sys2Proof.Machine.execUnitScrubDone unit s
  | .sluiceCheckDone => Sys2Proof.Machine.execSluiceCheckDone s
  | .sluiceSwap => Sys2Proof.Machine.execSluiceSwap s
  | .gcmEnc item => Sys2Proof.Machine.execGcmEnc item s
  | .gcmDec item => Sys2Proof.Machine.execGcmDec item s
  | .ctrEnc item => Sys2Proof.Machine.execCtrEnc item s
  | .ctrDec item => Sys2Proof.Machine.execCtrDec item s
  | .cbcEnc item => Sys2Proof.Machine.execCbcEnc item s
  | .cbcDec item => Sys2Proof.Machine.execCbcDec item s
  | .cmacGen item => Sys2Proof.Machine.execCmacGen item s
  | .cmacVer item => Sys2Proof.Machine.execCmacVer item s
  | .xtsEnc item => Sys2Proof.Machine.execXtsEnc item s
  | .xtsDec item => Sys2Proof.Machine.execXtsDec item s
  | .hash item => Sys2Proof.Machine.execHash item s
  | .hmacGen item => Sys2Proof.Machine.execHmacGen item s
  | .hmacVer item => Sys2Proof.Machine.execHmacVer item s
  | .furrowMismatch furrow ctx kind => Sys2Proof.Machine.execFurrowMismatch furrow ctx kind s
  | .maskReseedRequest furrow pipe => Sys2Proof.Machine.execMaskReseedRequest furrow pipe s
  | .maskWaitStop furrow pipe => Sys2Proof.Machine.execMaskWaitStop furrow pipe s
  | .maskSeedArrive furrow pipe => Sys2Proof.Machine.execMaskSeedArrive furrow pipe s
  | .furrowReadmit furrow testOk => Sys2Proof.Machine.execFurrowReadmit furrow testOk s
  | .hashLaneParityError lane share => Sys2Proof.Machine.execHashLaneParityError lane share s
  | .hashLaneReadmit lane testOk => Sys2Proof.Machine.execHashLaneReadmit lane testOk s
  | .objSeal item => Sys2Proof.Machine.execObjSeal item s
  | .objOpen item => Sys2Proof.Machine.execObjOpen item s
  | .objEpochKey item => Sys2Proof.Machine.execObjEpochKey item s
  | .objEpochFetch item => Sys2Proof.Machine.execObjEpochFetch item s
  | .epochBoundary tenant => Sys2Proof.Machine.execEpochBoundary tenant s
  | .epochClose item => Sys2Proof.Machine.execEpochClose item s
  | .sealIdleTimeout item => Sys2Proof.Machine.execSealIdleTimeout item s
  | .verifyFragments item => Sys2Proof.Machine.execVerifyFragments item s
  | .repair item => Sys2Proof.Machine.execRepair item s
  | .spreadCheckFail su share kind => Sys2Proof.Machine.execSpreadCheckFail su share kind s
  | .spreadUnitReadmit su testOk => Sys2Proof.Machine.execSpreadUnitReadmit su testOk s
  | .fragGetTimeout item frag => Sys2Proof.Machine.execFragGetTimeout item frag s
  | .ethFrameReceive frame => Sys2Proof.Machine.execEthFrameReceive frame s
  | .ethLinkChange port subPort up => Sys2Proof.Machine.execEthLinkChange port subPort up s
  | .eapolMka port subPort installsSak => Sys2Proof.Machine.execEapolMka port subPort installsSak s
  | .sakRekeyThreshold port subPort => Sys2Proof.Machine.execSakRekeyThreshold port subPort s
  | .submit chan => Sys2Proof.Machine.execSubmit chan s
  | .retrieve chan => Sys2Proof.Machine.execRetrieve chan s
  | .fragPutAck chan => Sys2Proof.Machine.execFragPutAck chan s
  | .fragData chan => Sys2Proof.Machine.execFragData chan s
  | .nack chan => Sys2Proof.Machine.execNack chan s
  | .credit chan => Sys2Proof.Machine.execCredit chan s
  | .ping chan => Sys2Proof.Machine.execPing chan s
  | .ackTimer chan => Sys2Proof.Machine.execAckTimer chan s
  | .retransmitTimeout chan seq => Sys2Proof.Machine.execRetransmitTimeout chan seq s
  | .zeroWindowProbe chan => Sys2Proof.Machine.execZeroWindowProbe chan s
  | .zeroWindowTimeout chan => Sys2Proof.Machine.execZeroWindowTimeout chan s
  | .syncPingTimer chan => Sys2Proof.Machine.execSyncPingTimer chan s
  | .syncTimeout chan => Sys2Proof.Machine.execSyncTimeout chan s
  | .epochQuarantineEnd chan => Sys2Proof.Machine.execEpochQuarantineEnd chan s
  | .putackTimeout chan xid => Sys2Proof.Machine.execPutackTimeout chan xid s
  | .packetTransmit chan => Sys2Proof.Machine.execPacketTransmit chan s
  | .chanRead => Sys2Proof.Machine.execChanRead s
  | .chanOpen => Sys2Proof.Machine.execChanOpen s
  | .chanReset => Sys2Proof.Machine.execChanReset s
  | .chanClose => Sys2Proof.Machine.execChanClose s
  | .portCfgWrite port value => Sys2Proof.Machine.execPortCfgWrite port value s
  | .injectFrame prod slots => Sys2Proof.Machine.execInjectFrame prod slots s
  | .pkSign item => Sys2Proof.Machine.execPkSign item s
  | .pkVerify item => Sys2Proof.Machine.execPkVerify item s
  | .pkAgree item => Sys2Proof.Machine.execPkAgree item s
  | .pkProgram item => Sys2Proof.Machine.execPkProgram item s
  | .pkAbort item => Sys2Proof.Machine.execPkAbort item s
  | .pkValidationWindowEnd item => Sys2Proof.Machine.execPkValidationWindowEnd item s
  | .pkYieldPoint engine => Sys2Proof.Machine.execPkYieldPoint engine s
  | .pkJobComplete engine => Sys2Proof.Machine.execPkJobComplete engine s
  | .pkEndCheckFail engine kind => Sys2Proof.Machine.execPkEndCheckFail engine kind s
  | .pkEngineReadmit engine testOk => Sys2Proof.Machine.execPkEngineReadmit engine testOk s
  | .pinTranslate item => Sys2Proof.Machine.execPinTranslate item s
  | .pinVerify item => Sys2Proof.Machine.execPinVerify item s
  | .macGen item => Sys2Proof.Machine.execMacGen item s
  | .macVer item => Sys2Proof.Machine.execMacVer item s
  | .arqcVerify item => Sys2Proof.Machine.execArqcVerify item s
  | .keyblockImport item => Sys2Proof.Machine.execKeyblockImport item s
  | .keyblockExport item => Sys2Proof.Machine.execKeyblockExport item s
  | .keyGenerate item => Sys2Proof.Machine.execKeyGenerate item s
  | .keyImport item => Sys2Proof.Machine.execKeyImport item s
  | .keyExport item => Sys2Proof.Machine.execKeyExport item s
  | .keyDerive item => Sys2Proof.Machine.execKeyDerive item s
  | .keyRetire item => Sys2Proof.Machine.execKeyRetire item s
  | .keyPurge item => Sys2Proof.Machine.execKeyPurge item s
  | .keyFree item => Sys2Proof.Machine.execKeyFree item s
  | .keyInfo item => Sys2Proof.Machine.execKeyInfo item s
  | .keyPublic item => Sys2Proof.Machine.execKeyPublic item s
  | .keyAttest item => Sys2Proof.Machine.execKeyAttest item s
  | .keyDeviceCert item => Sys2Proof.Machine.execKeyDeviceCert item s
  | .keyTemplate item => Sys2Proof.Machine.execKeyTemplate item s
  | .revocationScanDone item => Sys2Proof.Machine.execRevocationScanDone item s
  | .storeCommit store => Sys2Proof.Machine.execStoreCommit store s
  | .goodBoot => Sys2Proof.Machine.execGoodBoot s
  | .random item => Sys2Proof.Machine.execRandom item s
  | .randomReseed item => Sys2Proof.Machine.execRandomReseed item s
  | .entropyBlock source samples => Sys2Proof.Machine.execEntropyBlock source samples s
  | .sourceRetest source => Sys2Proof.Machine.execSourceRetest source s
  | .sourceRetestDone source passed => Sys2Proof.Machine.execSourceRetestDone source passed s
  | .mainDrbgReseed => Sys2Proof.Machine.execMainDrbgReseed s
  | .mainDrbgStop => Sys2Proof.Machine.execMainDrbgStop s
  | .tenantReseedRequest tenant => Sys2Proof.Machine.execTenantReseedRequest tenant s
  | .tenantReseed tenant => Sys2Proof.Machine.execTenantReseed tenant s
  | .vfFlr vf => Sys2Proof.Machine.execVfFlr vf s
  | .pfFlr => Sys2Proof.Machine.execPfFlr s
  | .flrDone fn => Sys2Proof.Machine.execFlrDone fn s
  | .dmaReadComplete target result inner => Sys2Proof.Machine.execDmaReadComplete target result inner s
  | .pcieLinkTrain speed width flit => Sys2Proof.Machine.execPcieLinkTrain speed width flit s
  | .ideKm msg => Sys2Proof.Machine.execIdeKm msg s
  | .ideCheckFail stream => Sys2Proof.Machine.execIdeCheckFail stream s
  | .lockInterface vf => Sys2Proof.Machine.execLockInterface vf s
  | .startInterface vf => Sys2Proof.Machine.execStartInterface vf s
  | .stopInterface vf => Sys2Proof.Machine.execStopInterface vf s
  | .vfDirtyStart item => Sys2Proof.Machine.execVfDirtyStart item s
  | .vfDirtySwap item => Sys2Proof.Machine.execVfDirtySwap item s
  | .vfDirtyStop item => Sys2Proof.Machine.execVfDirtyStop item s
  | .vfSuspend item => Sys2Proof.Machine.execVfSuspend item s
  | .vfResume item => Sys2Proof.Machine.execVfResume item s
  | .vfStateSave item => Sys2Proof.Machine.execVfStateSave item s
  | .vfStateRestore item => Sys2Proof.Machine.execVfStateRestore item s
  | .vfMigAck vf value => Sys2Proof.Machine.execVfMigAck vf value s
  | .memPuSyncWrite value => Sys2Proof.Machine.execMemPuSyncWrite value s
  | .memPuSyncRead => Sys2Proof.Machine.execMemPuSyncRead s
  | .memViolPop group value => Sys2Proof.Machine.execMemViolPop group value s
  | .allocationZeroed alloc => Sys2Proof.Machine.execAllocationZeroed alloc s
  | .alarmRaise samples => Sys2Proof.Machine.execAlarmRaise samples s
  | .zeroiseVerify regionMatches => Sys2Proof.Machine.execZeroiseVerify regionMatches s
  | .bistRotation => Sys2Proof.Machine.execBistRotation s
  | .bistTestDone cls inst passed => Sys2Proof.Machine.execBistTestDone cls inst passed s
  | .reserveMeasure reading => Sys2Proof.Machine.execReserveMeasure reading s
  | .senLogRead item => Sys2Proof.Machine.execSenLogRead item s
  | .senBist item => Sys2Proof.Machine.execSenBist item s
  | .senFence item => Sys2Proof.Machine.execSenFence item s
  | .senReadmit item => Sys2Proof.Machine.execSenReadmit item s
  | .senReserve item reading => Sys2Proof.Machine.execSenReserve item reading s
  | .lcTransition item => Sys2Proof.Machine.execLcTransition item s
  | .lcDebugOpen item => Sys2Proof.Machine.execLcDebugOpen item s
  | .tokenOpenScopes => Sys2Proof.Machine.execTokenOpenScopes s
  | .tokenVendorTransition => Sys2Proof.Machine.execTokenVendorTransition s
  | .extest drive => Sys2Proof.Machine.execExtest drive s
  | .idcode => Sys2Proof.Machine.execIdcode s
  | .samplePreload levels => Sys2Proof.Machine.execSamplePreload levels s
  | .dbgToken bytes => Sys2Proof.Machine.execDbgToken bytes s
  | .dbgAccess access data => Sys2Proof.Machine.execDbgAccess access data s
  | .bypass ir => Sys2Proof.Machine.execBypass ir s
  | .cerOpen item => Sys2Proof.Machine.execCerOpen item s
  | .cerCard item => Sys2Proof.Machine.execCerCard item s
  | .cerClose item => Sys2Proof.Machine.execCerClose item s
  | .cerApply item => Sys2Proof.Machine.execCerApply item s
  | .ceremonyLimit => Sys2Proof.Machine.execCeremonyLimit s
  | .cardInsert port => Sys2Proof.Machine.execCardInsert port s
  | .cardRemove port => Sys2Proof.Machine.execCardRemove port s
  | .cardResponse port reply => Sys2Proof.Machine.execCardResponse port reply s
  | .cardWaitTimeout port => Sys2Proof.Machine.execCardWaitTimeout port s
  | .cardClassRetry port => Sys2Proof.Machine.execCardClassRetry port s
  | .cardOvercurrent port => Sys2Proof.Machine.execCardOvercurrent port s
  | .approvalOpen item => Sys2Proof.Machine.execApprovalOpen item s
  | .approvalSign item => Sys2Proof.Machine.execApprovalSign item s
  | .rosterSet item => Sys2Proof.Machine.execRosterSet item s
  | .approvalTimeout tenant session => Sys2Proof.Machine.execApprovalTimeout tenant session s
  | .ringAssemble item => Sys2Proof.Machine.execRingAssemble item s
  | .heartbeatTimer => Sys2Proof.Machine.execHeartbeatTimer s
  | .heartbeat frame => Sys2Proof.Machine.execHeartbeat frame s
  | .presenceTimeout position => Sys2Proof.Machine.execPresenceTimeout position s
  | .token frame => Sys2Proof.Machine.execToken frame s
  | .tokenLossTimeout => Sys2Proof.Machine.execTokenLossTimeout s
  | .prepare frame => Sys2Proof.Machine.execPrepare frame s
  | .commit frame => Sys2Proof.Machine.execCommit frame s
  | .abort frame => Sys2Proof.Machine.execAbort frame s
  | .prepareTimeout => Sys2Proof.Machine.execPrepareTimeout s
  | .stagedDiscardTimeout => Sys2Proof.Machine.execStagedDiscardTimeout s
  | .syncReq frame => Sys2Proof.Machine.execSyncReq frame s
  | .syncData frame => Sys2Proof.Machine.execSyncData frame s
  | .zeroizeFrame frame => Sys2Proof.Machine.execZeroizeFrame frame s
  | .keyExchangeFrame frame => Sys2Proof.Machine.execKeyExchangeFrame frame s
  | .ringPhyLock locked => Sys2Proof.Machine.execRingPhyLock locked s
  | .culvertOpen => Sys2Proof.Machine.execCulvertOpen s
  | .smbMode => Sys2Proof.Machine.execSmbMode s
  | .smbLcs => Sys2Proof.Machine.execSmbLcs s
  | .smbTemp => Sys2Proof.Machine.execSmbTemp s
  | .smbTempLimit => Sys2Proof.Machine.execSmbTempLimit s
  | .smbPower quarterWatts => Sys2Proof.Machine.execSmbPower quarterWatts s
  | .smbVres => Sys2Proof.Machine.execSmbVres s
  | .smbEuse => Sys2Proof.Machine.execSmbEuse s
  | .smbAlarm => Sys2Proof.Machine.execSmbAlarm s
  | .smbLogseq => Sys2Proof.Machine.execSmbLogseq s
  | .smbIdent => Sys2Proof.Machine.execSmbIdent s
  | .alertResponse => Sys2Proof.Machine.execAlertResponse s
  | .registerWrite fn offset value => Sys2Proof.Machine.execRegisterWrite fn offset value s
  | .quiesceTimeout item => Sys2Proof.Machine.execQuiesceTimeout item s
  | .vfSuspendTimeout item => Sys2Proof.Machine.execVfSuspendTimeout item s
  | .ringFormTimeout item => Sys2Proof.Machine.execRingFormTimeout item s
  | .cisternPoolZeroed engine firstSlot count => Sys2Proof.Machine.execCisternPoolZeroed engine firstSlot count s
  | .dirtyBitmapMerge vf accessOk => Sys2Proof.Machine.execDirtyBitmapMerge vf accessOk s
  | .cardBusyDetect port => Sys2Proof.Machine.execCardBusyDetect port s
  | .srIovVfEnable enable numVfs => Sys2Proof.Machine.execSrIovVfEnable enable numVfs s
  | .spdmRequest establishesSession => Sys2Proof.Machine.execSpdmRequest establishesSession s
  | .vddAonRise => Sys2Proof.Machine.execVddAonRise s
  | .vddIoRise addr0 addr1 reading => Sys2Proof.Machine.execVddIoRise addr0 addr1 reading s

end Sys2Proof.Machine
end

