-- ==== Sys2Proof/WellFormed.lean ====
section
/-! DEFINITION. Which commands are well formed: the operands stand in the ranges of the units that the spec gives the device.
A meaning is total all the same; a command whose operand names nothing changes nothing. -/

namespace Sys2Proof

/-- A sample names an instance of a class of R410. -/
def Sample.wf (x : Sample) : Bool := decide (x.cls ≤ 0xA) && decide (x.inst < 49)

/-- A slot of the injection ring names a sub-port and holds at most 2,032 bytes (R269). -/
def InjectSlot.wf (x : InjectSlot) : Bool := decide (x.port < 4) && decide (x.subPort < 8) && decide (x.frame.length ≤ 2032)

/-- A received frame names a sub-port (R242). -/
def EthFrame.wf (f : EthFrame) : Bool := decide (f.port < 4) && decide (f.subPort < 8)

/-- An IDE_KM message names one of the 16 selective streams or the link stream (R360). -/
def IdeMessage.wf : IdeMessage → Bool
  | .keyProg st rid => decide (st ≤ 16) && decide (rid < 1024)
  | .keySetGo st => decide (st ≤ 16)
  | .keySetStop st => decide (st ≤ 16)

/-- A DMA read names a queue pair of a function, an item or the recovery image (R356). -/
def DmaTarget.wf : DmaTarget → Bool
  | .fetch fn qp _ => decide (fn < 1024) && decide (qp < 16)
  | .item _ _ => true
  | .recovery => true

/-- A debug access stays in the 48-bit address space, and a write brings as many bytes as it names (R378). -/
def Access.wf (a : Access) (data : List Byte) : Bool :=
  decide (a.addr + a.len ≤ 2 ^ 48) && (a.kind != .write || decide (data.length = a.len))

/-- A command is well formed. -/
def Instr.wf : Instr → Bool
  | .powerStable | .coldResetRelease | .supplyLoss | .perstFall | .perstRise | .glbSoftReset _ | .warmResetStoresDone
    | .resetHoldEnd | .pllLockLost | .holdUpStoresEnded | .mainPowerRestored | .reserveSpent | .bootStart _
    | .bootOtpWriteAdmitted | .entStartupDone _ _ _ | .bootResumeEntReady | .memoryKeyLoad | .hbmInitSweepDone
    | .lcbRecGo _ | .glbPlanGo _ | .planWaitTimeout | .planImageReadDone _ | .mirrorEpochCompare | .keyFillDone _ _
    | .itemResume _ | .recordRelease _ _ | .quiesce _ | .resume _ | .planStage _ | .planAmend _ | .amendDeadline
    | .drainFramesElapsed | .sluiceCheckDone | .sluiceSwap | .gcmEnc _ | .gcmDec _ | .ctrEnc _ | .ctrDec _ | .cbcEnc _
    | .cbcDec _ | .cmacGen _ | .cmacVer _ | .xtsEnc _ | .xtsDec _ | .hash _ | .hmacGen _ | .hmacVer _ | .objSeal _
    | .objOpen _ | .objEpochKey _ | .objEpochFetch _ | .epochBoundary _ | .epochClose _ | .sealIdleTimeout _
    | .verifyFragments _ | .repair _ | .chanRead | .chanOpen | .chanReset | .chanClose | .pkSign _ | .pkVerify _
    | .pkAgree _ | .pkProgram _ | .pkAbort _ | .pkValidationWindowEnd _ | .pinTranslate _ | .pinVerify _ | .macGen _
    | .macVer _ | .arqcVerify _ | .keyblockImport _ | .keyblockExport _ | .keyGenerate _ | .keyImport _ | .keyExport _
    | .keyDerive _ | .keyRetire _ | .keyPurge _ | .keyFree _ | .keyInfo _ | .keyPublic _ | .keyAttest _
    | .keyDeviceCert _ | .keyTemplate _ | .revocationScanDone _ | .storeCommit _ | .goodBoot | .random _
    | .randomReseed _ | .mainDrbgReseed | .mainDrbgStop | .tenantReseedRequest _ | .tenantReseed _ | .pfFlr
    | .pcieLinkTrain _ _ _ | .vfDirtyStart _ | .vfDirtySwap _ | .vfDirtyStop _ | .vfSuspend _ | .vfResume _
    | .vfStateSave _ | .vfStateRestore _ | .memPuSyncWrite _ | .memPuSyncRead | .allocationZeroed _ | .zeroiseVerify _
    | .bistRotation | .reserveMeasure _ | .senLogRead _ | .senBist _ | .senFence _ | .senReadmit _ | .senReserve _ _
    | .lcTransition _ | .lcDebugOpen _ | .tokenOpenScopes | .tokenVendorTransition | .extest _ | .idcode
    | .samplePreload _ | .bypass _ | .cerOpen _ | .cerCard _ | .cerClose _ | .cerApply _ | .ceremonyLimit
    | .approvalOpen _ | .approvalSign _ | .rosterSet _ | .approvalTimeout _ _ | .ringAssemble _ | .heartbeatTimer
    | .tokenLossTimeout | .prepareTimeout | .stagedDiscardTimeout | .ringPhyLock _ | .culvertOpen | .smbMode | .smbLcs
    | .smbTemp | .smbTempLimit | .smbPower _ | .smbVres | .smbEuse | .smbAlarm | .smbLogseq | .smbIdent
    | .alertResponse | .quiesceTimeout _ | .vfSuspendTimeout _ | .ringFormTimeout _ | .spdmRequest _ | .vddAonRise
    | .vddIoRise _ _ _ => true
  | .mainPowerLost detector _ => (detector == 2 || detector == 3)
  | .qpEnable fn qp _ => decide (fn < 1024) && decide (qp < 16)
  | .qpDisable fn qp _ => decide (fn < 1024) && decide (qp < 16)
  | .sqDoorbell fn qp _ => decide (fn < 1024) && decide (qp < 16)
  | .pushWrite fn qp bytes _ => decide (fn < 1024) && decide (qp < 16) && decide (bytes.length ≤ 64) && decide (1 ≤ bytes.length)
  | .cqDoorbell fn qp _ => decide (fn < 1024) && decide (qp < 16)
  | .descriptorConsume fn qp => decide (fn < 1024) && decide (qp < 16)
  | .dispatch core => decide (core < 64)
  | .coreWatchdog core => decide (core < 64)
  | .coalTimeout fn qp => decide (fn < 1024) && decide (qp < 16)
  | .unitScrubDone unit => decide (unit < 40)
  | .furrowMismatch furrow ctx _ => decide (furrow < 20) && decide (ctx < 8)
  | .maskReseedRequest furrow pipe => decide (furrow < 20) && decide (pipe < 2)
  | .maskWaitStop furrow pipe => decide (furrow < 20) && decide (pipe < 2)
  | .maskSeedArrive furrow pipe => decide (furrow < 20) && decide (pipe < 2)
  | .furrowReadmit furrow _ => decide (furrow < 20)
  | .hashLaneParityError lane share => decide (lane < 16) && decide (share < 4)
  | .hashLaneReadmit lane _ => decide (lane < 16)
  | .spreadCheckFail su share _ => decide (su < 4) && decide (share < 16)
  | .spreadUnitReadmit su _ => decide (su < 4)
  | .fragGetTimeout _ frag => decide (frag < 48)
  | .ethFrameReceive frame => frame.wf
  | .ethLinkChange port subPort _ => decide (port < 4) && decide (subPort < 8)
  | .eapolMka port subPort _ => decide (port < 4) && decide (subPort < 8)
  | .sakRekeyThreshold port subPort => decide (port < 4) && decide (subPort < 8)
  | .submit chan => decide (chan < 2 ^ 24)
  | .retrieve chan => decide (chan < 2 ^ 24)
  | .fragPutAck chan => decide (chan < 2 ^ 24)
  | .fragData chan => decide (chan < 2 ^ 24)
  | .nack chan => decide (chan < 2 ^ 24)
  | .credit chan => decide (chan < 2 ^ 24)
  | .ping chan => decide (chan < 2 ^ 24)
  | .ackTimer chan => decide (chan < 2 ^ 24)
  | .retransmitTimeout chan _ => decide (chan < 2 ^ 24)
  | .zeroWindowProbe chan => decide (chan < 2 ^ 24)
  | .zeroWindowTimeout chan => decide (chan < 2 ^ 24)
  | .syncPingTimer chan => decide (chan < 2 ^ 24)
  | .syncTimeout chan => decide (chan < 2 ^ 24)
  | .epochQuarantineEnd chan => decide (chan < 2 ^ 24)
  | .putackTimeout chan _ => decide (chan < 2 ^ 24)
  | .packetTransmit chan => decide (chan < 2 ^ 24)
  | .portCfgWrite port _ => decide (port < 4)
  | .injectFrame _ slots => slots.all InjectSlot.wf
  | .pkYieldPoint engine => decide (engine < 8)
  | .pkJobComplete engine => decide (engine < 8)
  | .pkEndCheckFail engine _ => decide (engine < 8)
  | .pkEngineReadmit engine _ => decide (engine < 8)
  | .entropyBlock source _ => decide (source < 32)
  | .sourceRetest source => decide (source < 32)
  | .sourceRetestDone source _ => decide (source < 32)
  | .vfFlr vf => decide (1 ≤ vf) && decide (vf < 1024)
  | .flrDone fn => decide (fn < 1024)
  | .dmaReadComplete target _ _ => target.wf
  | .ideKm msg => msg.wf
  | .ideCheckFail stream => decide (stream ≤ 16)
  | .lockInterface vf => decide (1 ≤ vf) && decide (vf < 1024)
  | .startInterface vf => decide (1 ≤ vf) && decide (vf < 1024)
  | .stopInterface vf => decide (1 ≤ vf) && decide (vf < 1024)
  | .vfMigAck vf _ => decide (1 ≤ vf) && decide (vf < 1024)
  | .memViolPop group _ => decide (group < 6)
  | .alarmRaise samples => samples.all Sample.wf
  | .bistTestDone cls inst _ => decide (cls ≤ 0xA) && decide (inst < 49)
  | .dbgToken bytes => decide (bytes.length = 257)
  | .dbgAccess access data => access.wf data
  | .cardInsert port => decide (port < 4)
  | .cardRemove port => decide (port < 4)
  | .cardResponse port _ => decide (port < 4)
  | .cardWaitTimeout port => decide (port < 4)
  | .cardClassRetry port => decide (port < 4)
  | .cardOvercurrent port => decide (port < 4)
  | .heartbeat frame => decide (frame.origin < 16)
  | .presenceTimeout position => decide (position < 16)
  | .token frame => decide (frame.origin < 16)
  | .prepare frame => decide (frame.origin < 16)
  | .commit frame => decide (frame.origin < 16)
  | .abort frame => decide (frame.origin < 16)
  | .syncReq frame => decide (frame.origin < 16)
  | .syncData frame => decide (frame.origin < 16)
  | .zeroizeFrame frame => decide (frame.origin < 16)
  | .keyExchangeFrame frame => decide (frame.origin < 16)
  | .registerWrite fn offset _ => decide (fn < 1024) && decide (offset < 2 ^ 26) && decide (offset % 4 = 0)
  | .cisternPoolZeroed engine _ _ => decide (engine < 8)
  | .dirtyBitmapMerge vf _ => decide (1 ≤ vf) && decide (vf < 1024)
  | .cardBusyDetect port => decide (port < 4)
  | .srIovVfEnable _ numVfs => decide (numVfs < 1024)

end Sys2Proof
end

