-- ==== Sys2Proof/Machine/Step.lean ====
section
/-! DEFINITION. One step of the block: the command at the front of the queue, or, on an empty queue, a microsecond of the
Sentinel tick. -/

namespace Sys2Proof.Machine

/-- The block idles: one Sentinel tick passes while VDD_AON is up (R407). DESIGN CHOICE: the table has no row for a
tick. -/
def State.idle (s : State) : State :=
  if s.sys.aonUp then { s with sys := { s.sys with tick := s.sys.tick + 1 } } else s

/-- A step takes the command at the front of the queue and runs it on the state with the queue's rest. -/
def step (s : State) : Host.Outcome State Fault Refusal :=
  match s.pending with
  | [] => .next s.idle
  | c :: rest => exec c { s with pending := rest }

/-- `s` with the command that a word of the opcode table spells at the front of its queue; no word spells one. -/
def State.withFetchWord (s : State) (nbits w : Nat) : State :=
  match decodeTableWord nbits w with
  | some c => { s with pending := c :: s.pending }
  | none => s

end Sys2Proof.Machine
end

