-- ==== Sys2Proof/Safety.lean ====
section
/-! DEFINITION. What counts as a safe state and how claims speak of items: the invariant that every step keeps, and
when an item runs, waits or has its record ready. -/

namespace Sys2Proof.Machine

/-! ## The invariant -/

/-- SEQ of the log's entries, newest first, falls by one from entry to entry, and `next` is the number of the next entry
(R424). -/
def logOk : Word → List LogEntry → Prop
  | _, [] => True
  | next, e :: r => e.seq + 1 = next ∧ logOk e.seq r

/-- The bounds and forms that the device keeps in the parts of its state that have one: device memory in its canonical
form, the log ring of 2,040 numbered entries (R424), the pool of 4 conditioned outputs (R337), 64 records in each
violation FIFO (R402), and 32 life-cycle slots (R440). -/
structure Consistent (cells : List Host.Cell) (log : List LogEntry) (next : Word) (pool : List (List Byte))
    (fifos : List ViolFifo) (slots : List LcSlot) : Prop where
  memory : Memory.wf cells = true
  logSeq : logOk next log
  logLen : log.length ≤ 2040
  pool : pool.length ≤ 4
  fifos : ∀ q ∈ fifos, q.records.length ≤ 64
  slots : slots.length = 32

/-- The invariant of a state. -/
def State.Inv (s : State) : Prop :=
  Consistent s.mem.cells s.sen.log s.sen.logNext s.ent.pool s.mem.fifos s.lcb.slots

/-! ## Items -/

/-- An item runs on a core with an opcode. -/
def State.Runs (s : State) (it : Item) (op : Nat) : Prop :=
  s.item it.id = some it ∧ it.isRunning = true ∧ it.opcode = op

/-- The record of an item is ready with an outcome. -/
def State.Ended (s : State) (id : Nat) (o : Outcome) : Prop :=
  ∃ it, s.item id = some it ∧ it.phase = .done ∧ it.outcome = o

/-- The outcome of an opcode: ORIGIN 0, a status, and bytes 8 to 31 of the record padded with zeros (R76). -/
def outcome (st : Status) (body : List Byte) : Outcome := { status := st, origin1 := false, body := padTo 24 body }

/-- The record of an item is ready with a status of its opcode and bytes 8 to 31. -/
def State.Completed (s : State) (id : Nat) (st : Status) (body : List Byte) : Prop := s.Ended id (outcome st body)

/-- An item has yielded its core and waits. -/
def State.Waits (s : State) (id : Nat) (why : WaitFor) : Prop :=
  ∃ it, s.item id = some it ∧ it.phase = .yielded why

/-- The parts of the state that the end, the yield and the waking of items leave as they are. -/
structure ItemFrame (s t : State) : Prop where
  pending : t.pending = s.pending
  fresh : t.fresh = s.fresh
  sys : t.sys = s.sys
  plan : t.plan = s.plan
  regs : t.regs = s.regs
  qps : t.qps = s.qps
  sen : t.sen = s.sen
  ent : t.ent = s.ent
  cfb : t.cfb = s.cfb
  hwk : t.hwk = s.hwk
  lcb : t.lcb = s.lcb
  ctl : t.ctl = s.ctl
  ring : t.ring = s.ring
  flows : t.dsp.flows = s.dsp.flows
  nextItem : t.dsp.nextItem = s.dsp.nextItem
  consumed : t.dsp.consumed = s.dsp.consumed
  dspHalted : t.dsp.halted = s.dsp.halted
  vault : { t.vault with cache := [] } = { s.vault with cache := [] }
  mem : { t.mem with regions := [], allocs := [] } = { s.mem with regions := [], allocs := [] }
  host : { t.host with vfs := [], pfPba := [] } = { s.host with vfs := [], pfPba := [] }
  seals : t.obj.seals = s.obj.seals
  opens : t.obj.opens = s.obj.opens
  repairs : t.obj.repairs = s.obj.repairs
  units : t.sluice.units = s.sluice.units
  activeB : t.sluice.activeB = s.sluice.activeB
  swaps : t.sluice.swaps = s.sluice.swaps
  pke : { t.pke with engines := [] } = { s.pke with engines := [] }

end Sys2Proof.Machine
end

