-- ==== Sys2Proof/Certificates/Slice0/Obligations.lean ====
section
/-! DEFINITION. The statements for the provers: what each command of the opcode table does, by family, in terms of `exec`,
with what it leaves as it was; the queue's step; reset; the invariant that every step keeps. A `Prop` of `Sys2Proof` that
is no obligation is one part of the obligation that follows it. -/

open Sys2Proof Sys2Proof.Machine

/-! ## The queue, reset, the invariant, the modes -/

/-- A step takes the command at the front of the queue and is exec of that command on the state with the queue's rest. -/
def Obligations.StepRunsTheFrontCommand : Prop :=
  ∀ (s : State) (c : Instr) (rest : List Instr), s.pending = c :: rest → step s = exec c { s with pending := rest }

/-- The model's choice (log entry 1): with no command waiting, one microsecond passes while VDD_AON is up, and nothing
else changes. -/
def Obligations.AnIdleStepIsATick : Prop :=
  (∀ (s : State), s.pending = [] → s.sys.aonUp = true →
    step s = .next { s with sys := { s.sys with tick := s.sys.tick + 1 } }) ∧
  (∀ (s : State), s.pending = [] → s.sys.aonUp = false → step s = .next s)

/-- Right after reset no register has been written, no queue pair, item, session, key record, region, flow or log entry
exists, no command waits, the pool is empty, no plan runs, and the device is in Boot: GLB_MODE reads MODE Boot with PREV_MODE
Reset and nothing else, and GLB_RESET_CAUSE reads 0. -/
def Obligations.ResetHoldsItsValues : Prop :=
  State.reset.pending = [] ∧ State.reset.regs = [] ∧ State.reset.qps = [] ∧ State.reset.dsp.items = [] ∧
  State.reset.dsp.flows = [] ∧ State.reset.vault.sessions = [] ∧ State.reset.vault.records = [] ∧
  State.reset.mem.cells = [] ∧ State.reset.mem.regions = [] ∧ State.reset.sen.log = [] ∧ State.reset.ent.pool = [] ∧
  State.reset.sys.phase = .boot ∧ State.reset.plan = PlanState.reset ∧
  State.reset.readReg 0 0x10 = 0x12 ∧ State.reset.readReg 0 0x24 = 0

/-- The invariant holds of the machine right after reset. -/
def Obligations.ResetMeetsTheInvariant : Prop := State.reset.Inv

/-- Every step from a state that meets the invariant gives a state that meets it, whatever command it runs: device memory
keeps its canonical form, the log is a ring of at most 2,040 entries whose SEQ rises by one, the pool holds at most four
outputs, each violation FIFO at most 64 records, and the life-cycle record 32 slots. -/
def Obligations.StepsKeepTheInvariant : Prop :=
  ∀ (s t : State), s.Inv → step s = .next t → t.Inv

/-- In Service, MODE of GLB_MODE reports Quiesce, Ceremony, Degraded or Service, the first that holds in this order, and
CEREMONY_OPEN and UNITS_FENCED show the conditions that the order hides. -/
def Obligations.ModeReportsTheFirstThatHolds : Prop :=
  ∀ (s : State), s.sys.phase = .service →
    (s.readReg 0 0x10).extractLsb' 0 4 =
      (if s.sys.quiesce then 0x7 else if s.ceremonyOpen then 0x6 else if s.anyFenced then 0x8 else 0x5) ∧
    (s.readReg 0 0x10).getLsbD 8 = s.ceremonyOpen ∧ (s.readReg 0 0x10).getLsbD 9 = s.anyFenced

/-- In Diagnostic a QUIESCE or RESUME that fails the field checks completes with ST_BAD_FIELD, and one that passes them with
ST_NOT_SERVING, ORIGIN 0 and RESULT 0; neither changes the mode or any other part of the device. -/
def Obligations.DiagnosticHasNoQuiesce : Prop :=
  (∀ (s : State) (it : Item), s.Runs it 0x0701 → s.sys.phase = .diagnostic →
    10000000 < it.le 16 4 ∨ zeroRange it.desc 20 64 = false →
    ∃ t, exec (.quiesce it.id) s = .next t ∧ t.Completed it.id stBadField [] ∧ ItemFrame s t) ∧
  (∀ (s : State) (it : Item), s.Runs it 0x0701 → s.sys.phase = .diagnostic → it.le 16 4 ≤ 10000000 →
    zeroRange it.desc 20 64 = true →
    ∃ t, exec (.quiesce it.id) s = .next t ∧ t.Completed it.id stNotServing [] ∧ ItemFrame s t) ∧
  (∀ (s : State) (it : Item), s.Runs it 0x0702 → s.sys.phase = .diagnostic → zeroRange it.desc 16 64 = false →
    ∃ t, exec (.resume it.id) s = .next t ∧ t.Completed it.id stBadField [] ∧ ItemFrame s t) ∧
  (∀ (s : State) (it : Item), s.Runs it 0x0702 → s.sys.phase = .diagnostic → zeroRange it.desc 16 64 = true →
    ∃ t, exec (.resume it.id) s = .next t ∧ t.Completed it.id stNotServing [] ∧ ItemFrame s t)

/-- A boot whose life-cycle slot 0 is not committed to BLANK, or that finds a committed slot above a pending one, boots as
SCRAPPED: LCS reads SCRAPPED and INVALID reads 1. -/
def Obligations.InvalidRecordBootsScrapped : Prop :=
  ∀ (s : State) (puf : Bool), s.sys.phase = .boot → s.lcb.stage = 0x1 → s.lcb.stopped = false →
    ((s.lcb.slots.head?.map LcSlot.class') ≠ some (.committed lcBlank) ∨
      ∃ (i j : Nat) (x y : LcSlot) (a b : Nat), i < j ∧ s.lcb.slots[i]? = some x ∧ s.lcb.slots[j]? = some y ∧
        x.class' = .pending a ∧ y.class' = .committed b) →
    ∃ t, exec (.bootStart { romOk := true, pufOk := puf }) s = .next t ∧
      (t.readReg 0 0x00A0_0000).extractLsb' 0 3 = 0x6 ∧ (t.readReg 0 0x00A0_0000).getLsbD 9 = true

/-- What an item's end, its yield and the end of its wait leave: the record ready with the outcome given, a yielded item,
or a resumable one; and the rest of the device as it was. -/
def Obligations.ItemEndsLeaveTheRest : Prop :=
  (∀ (s : State) (it : Item) (op : Nat) (st : Status) (body : List Byte), s.Runs it op → op ≠ 0x0201 ∨ st = stOk →
    (s.complete it.id st body).Completed it.id st body ∧ ItemFrame s (s.complete it.id st body)) ∧
  (∀ (s : State) (it : Item) (why : WaitFor), s.item it.id = some it →
    (s.yieldItem it.id why).Waits it.id why ∧ ItemFrame s (s.yieldItem it.id why)) ∧
  (∀ (s : State) (it : Item) (why : WaitFor) (o : Outcome), s.item it.id = some it → it.phase = .yielded why →
    (s.endWaitWith it.id o).item it.id = some { it with phase := .resumable, stage := 0xFF, outcome := o } ∧
      ItemFrame s (s.endWaitWith it.id o))

/-! ## Queue pairs (R64 to R70, R73, R74) -/

/-- A queue pair that is enabled starts empty with phase 1; a disable stops consumption and drops what has been fetched;
a tail write, a push and a head write move the pointers that they name. Nothing else changes. -/
def Sys2Proof.QueuePairCommandsTakeEffect : Prop :=
  (∀ (s : State) (fn qp : Nat) (v : Word), s.mmioOk fn = true → qp < 16 → (s.qp fn qp).enabled = false →
    (s.qp fn qp).draining = false → s.enableOk fn qp (bits v.toNat 8 6) = true →
    exec (.qpEnable fn qp v) s = .next ((s.setReg fn (queueOff fn (0x114 + 0x40 * qp)) (v &&& 0x0000_3F02)).setQp fn qp
      { Qp.idle with enabled := true, cqPhase := true })) ∧
  (∀ (s : State) (fn qp : Nat) (v : Word), s.mmioOk fn = true → qp < 16 → (s.qp fn qp).enabled = true →
    exec (.qpDisable fn qp v) s = .next ((s.setReg fn (queueOff fn (0x114 + 0x40 * qp)) (v &&& 0x0000_3F02)).setQp fn qp
      { s.qp fn qp with enabled := false, draining := decide ((s.qp fn qp).inflight ≠ 0), fetched := [] })) ∧
  (∀ (s : State) (fn qp : Nat) (v : Word), s.qpListens fn qp = true → bits v.toNat 0 16 < s.sqSize fn qp →
    exec (.sqDoorbell fn qp v) s = .next (s.setQp fn qp { s.qp fn qp with sqTail := bits v.toNat 0 16 })) ∧
  (∀ (s : State) (fn qp : Nat) (bytes : List Byte), s.qpListens fn qp = true → bytes.length = 64 →
    ((s.qp fn qp).sqTail + 1) % s.sqSize fn qp ≠ (s.qp fn qp).sqHead →
    exec (.pushWrite fn qp bytes true) s = .next (s.setQp fn qp { s.qp fn qp with
      sqTail := ((s.qp fn qp).sqTail + 1) % s.sqSize fn qp
      fetched := ((s.qp fn qp).sqTail, bytes) :: (s.qp fn qp).fetched })) ∧
  (∀ (s : State) (fn qp : Nat) (v : Word), s.qpListens fn qp = true → bits v.toNat 0 16 < s.cqSize fn qp →
    (bits v.toNat 0 16 + s.cqSize fn qp - (s.qp fn qp).cqHead) % s.cqSize fn qp ≤
      (s.qp fn qp).reserved - (s.qp fn qp).inflight →
    exec (.cqDoorbell fn qp v) s = .next (s.setQp fn qp { s.qp fn qp with
      cqHead := bits v.toNat 0 16
      reserved := (s.qp fn qp).reserved -
        (bits v.toNat 0 16 + s.cqSize fn qp - (s.qp fn qp).cqHead) % s.cqSize fn qp }))

/-- A doorbell out of range, a push into a full submission queue and an enable against R64 set ERROR with their codes,
the queue pair's VF_EVENT bit and send vector 0 (R73). -/
def Sys2Proof.QueueErrorsAreReported : Prop :=
  (∀ (s : State) (fn qp : Nat) (v : Word), s.qpListens fn qp = true → s.sqSize fn qp ≤ bits v.toNat 0 16 →
    exec (.sqDoorbell fn qp v) s = .next (s.queueError fn qp 0x1)) ∧
  (∀ (s : State) (fn qp : Nat) (bytes : List Byte) (one : Bool), s.qpListens fn qp = true →
    ((s.qp fn qp).sqTail + 1) % s.sqSize fn qp = (s.qp fn qp).sqHead →
    exec (.pushWrite fn qp bytes one) s = .next (s.queueError fn qp 0x1)) ∧
  (∀ (s : State) (fn qp : Nat) (v : Word), s.qpListens fn qp = true → s.cqSize fn qp ≤ bits v.toNat 0 16 →
    exec (.cqDoorbell fn qp v) s = .next (s.queueError fn qp 0x2)) ∧
  (∀ (s : State) (fn qp : Nat) (code : BitVec 4), (s.queueError fn qp code).qp fn qp =
    { s.qp fn qp with error := true, errCode := code }) ∧
  (∀ (s : State) (fn qp : Nat) (code : BitVec 4), s.hostServed = true → s.vectorMasked fn 0 = false →
    (fn ≠ 0 → (s.vf fn).suspended = false) → (s.queueError fn qp code).out = .msix fn 0 :: s.out)

/-- Queue pairs take their enables, doorbells and pushes, and report their errors. -/
def Obligations.QueuePairsTakeTheirCommands : Prop :=
  QueuePairCommandsTakeEffect ∧ QueueErrorsAreReported

/-! ## Consumption, dispatch and release (R68, R70, R77, R87, R93 to R101, R106) -/

/-- A descriptor that can be consumed is: its queue pair reserves a CQ entry and counts the item as in flight, the item
takes the next sequence number of its flow, and it stands in the device with the descriptor. Registers, device memory and
the other queue pairs keep what they hold. -/
def Sys2Proof.DescriptorIsConsumed : Prop :=
  ∀ (s : State) (fn qp : Nat) (desc : List Byte), s.canConsume fn qp = true →
    (s.qp fn qp).fetched.find? (·.1 == (s.qp fn qp).sqHead) = some ((s.qp fn qp).sqHead, desc) →
    (∀ f, s.flowOf fn desc = some f → s.mem.ueLines.contains (s.flowLine f) = false) →
    ∃ t it, exec (.descriptorConsume fn qp) s = .next t ∧
      t.qp fn qp = { s.qp fn qp with
        sqHead := ((s.qp fn qp).sqHead + 1) % s.sqSize fn qp
        reserved := (s.qp fn qp).reserved + 1
        inflight := (s.qp fn qp).inflight + 1
        fetched := (s.qp fn qp).fetched.filter (·.1 != (s.qp fn qp).sqHead) } ∧
      t.item s.dsp.nextItem = some it ∧ it.desc = desc ∧ it.source = .queue fn qp (s.qp fn qp).sqHead ∧
      it.inFlow = s.flowOf fn desc ∧ t.dsp.nextItem = s.dsp.nextItem + 1 ∧ t.dsp.consumed = s.dsp.consumed + 1 ∧
      (∀ f, s.flowOf fn desc = some f → (t.flow f).nextSeq = (s.flow f).nextSeq + 1) ∧
      (∀ f, s.flowOf fn desc ≠ some f → t.flow f = s.flow f) ∧
      (∀ f q, qpKey f q ≠ qpKey fn qp → t.qp f q = s.qp f q) ∧ t.regs = s.regs ∧ t.mem.cells = s.mem.cells ∧
      t.plan = s.plan ∧ t.sys = s.sys

/-- A consumed descriptor that fails a common check has its record ready at once, with ORIGIN 1, the check's status and
FIELD_OFFSET, where it is not ordered in a flow. -/
def Sys2Proof.CommonCheckFailureIsRecorded : Prop :=
  ∀ (s : State) (fn qp : Nat) (desc : List Byte) (st : Status) (off : Nat), s.canConsume fn qp = true →
    (s.qp fn qp).fetched.find? (·.1 == (s.qp fn qp).sqHead) = some ((s.qp fn qp).sqHead, desc) →
    s.flowOf fn desc = none →
    s.commonCheck (s.newItem fn qp (s.qp fn qp).sqHead desc) = some (st, off) →
    ∃ t, exec (.descriptorConsume fn qp) s = .next t ∧ t.Ended s.dsp.nextItem
      { status := st, origin1 := true, body := padTo 24 (zeros 8 ++ leBytes 2 off) }

/-- A consumed descriptor becomes an item; one that fails a common check has its record ready. -/
def Obligations.DescriptorsAreConsumed : Prop :=
  DescriptorIsConsumed ∧ CommonCheckFailureIsRecorded

/-- An idle core takes the item that the class rule chooses; one whose opcode claims nothing is claimed at once and
runs on the core. Only items, their lists, the class credits and the trace change. -/
def Sys2Proof.DispatchPutsAnItemOnTheCore : Prop :=
  ∀ (s s1 : State) (core id : Nat) (it : Item), s.takesItems = true → s.coreIdle core = true → s.dsp.resumeQ = [] →
    s.runChecks.chooseItem = some (id, s1) → s1.item id = some it → it.id = id → it.source ≠ .internal →
    0x0502 ≤ it.opcode → it.opcode ≠ 0x050A → it.opcode ≠ 0x0511 →
    ∃ t, exec (.dispatch core) s = .next t ∧ ItemFrame s1 t ∧
      t.item id = some { it with phase := .running core, claim := Claim.none, claimed := true, lacked := [] } ∧
      (∀ j, j ≠ id → t.item j = s1.item j) ∧ (t.dsp.cores[core]?).map (·.item) = some (some id) ∧ id ∉ t.dsp.resumeQ

/-- The item at the head of the resume queue takes the lowest idle core: it runs there, or completes with the outcome
that its wait left it. -/
def Sys2Proof.OldestWaitEndsFirst : Prop :=
  (∀ (s : State) (it : Item) (core : Nat) (rest : List Nat), s.takesItems = true → s.dsp.resumeQ = it.id :: rest →
    lowest 64 s.coreIdle = some core → s.item it.id = some it → it.stage ≠ 0xFF →
    ∃ t, exec (.itemResume it.id) s = .next t ∧ t.item it.id = some { it with phase := .running core } ∧
      t.dsp.resumeQ = rest ∧ ItemFrame s t) ∧
  (∀ (s : State) (it : Item) (core : Nat) (rest : List Nat), s.takesItems = true → s.dsp.resumeQ = it.id :: rest →
    lowest 64 s.coreIdle = some core → s.item it.id = some it → it.stage = 0xFF → it.opcode ≠ 0x0201 →
    ∃ t, exec (.itemResume it.id) s = .next t ∧ t.Ended it.id it.outcome ∧ ItemFrame s t)

/-- Idle cores take the item of the class rule, and resumed items before it. -/
def Obligations.CoresTakeItems : Prop :=
  DispatchPutsAnItemOnTheCore ∧ OldestWaitEndsFirst

/-- A record is written where its queue pair's CQ_TAIL points, with the queue pair's phase bit; CQ_TAIL advances and
wraps with a turned phase, and the item is no longer in flight. -/
def Obligations.RecordIsWrittenAtTheTail : Prop :=
  ∀ (s : State) (it : Item) (fn qp slot : Nat), s.item it.id = some it → it.isDone = true → it.inFlow = none →
    it.source = .queue fn qp slot → it.opcode ≠ 0x0751 → it.opcode ≠ 0x0752 → (s.qp fn qp).discard = false →
    ∃ t, exec (.recordRelease it.id true) s = .next t ∧
      .host { fn := fn, iova := BitVec.ofNat 64 (s.cqBase fn qp + 32 * (s.qp fn qp).cqTail),
              bytes := completionRecord it (s.qp fn qp).cqPhase } ∈ t.out ∧
      (t.qp fn qp).cqTail = (if (s.qp fn qp).cqTail + 1 = s.cqSize fn qp then 0 else (s.qp fn qp).cqTail + 1) ∧
      (t.qp fn qp).cqPhase = (if (s.qp fn qp).cqTail + 1 = s.cqSize fn qp then !(s.qp fn qp).cqPhase
        else (s.qp fn qp).cqPhase) ∧
      (t.qp fn qp).inflight = (s.qp fn qp).inflight - 1 ∧ (t.qp fn qp).reserved = (s.qp fn qp).reserved ∧
      (∀ f q, qpKey f q ≠ qpKey fn qp → t.qp f q = s.qp f q) ∧ t.regs = s.regs ∧ t.mem.cells = s.mem.cells ∧
      t.sys = s.sys

/-- The coalescing time sends the queue pair's vector and starts its count again; a finished fill puts its key into the
cache, which keeps what it had where there is room; an item whose core is reset completes with ST_TIMEOUT, and CORE_RESETS
counts it. -/
def Obligations.DispatcherTimersTakeEffect : Prop :=
  (∀ (s : State) (fn qp : Nat), (s.qp fn qp).counted ≠ 0 → bits (s.qpReg fn qp 0x118).toNat 8 10 ≠ 0 →
    exec (.coalTimeout fn qp) s =
      .next ((s.setQp fn qp { s.qp fn qp with counted := 0 }).sendVector fn (s.qpVector fn qp))) ∧
  (∀ (s : State) (h : Word) (f : KeyFill) (k : KeyView), s.vault.fills.find? (·.handle == h) = some f →
    f.started = true → s.keyView h = some k → k.material ≠ [] →
    linesUsed s.vault.cache + s.keyLines h ≤ 16384 →
    ∃ t, exec (.keyFillDone h true) s = .next t ∧
      t.vault.cache = s.vault.cache ++ [CacheEntry.mk h (s.keyLines h) 0 false s.vault.useClock] ∧
      t.vault.fills = s.vault.fills.filter (·.handle != f.handle) ∧ t.vault.records = s.vault.records ∧
      t.vault.sessions = s.vault.sessions ∧ t.regs = s.regs ∧ t.qps = s.qps ∧ t.mem = s.mem ∧ t.sys = s.sys) ∧
  (∀ (s : State) (it : Item) (core : Nat) (k : ServiceCore),
    s.itemList.find? (fun i => i.phase == .running core) = some it → s.item it.id = some it → it.opcode ≠ 0x0201 →
    s.watchdogHolds it = false → s.dsp.cores[core]? = some k →
    (inWindow s.sys.tick 1000000 (s.sys.tick :: k.resets)).length < 3 →
    ∃ t, exec (.coreWatchdog core) s = .next t ∧ t.Completed it.id stTimeout [] ∧
      t.dsp.coreResets = s.dsp.coreResets + 1 ∧
      (t.dsp.cores[core]?).map (·.resets) = some (inWindow s.sys.tick 1000000 (s.sys.tick :: k.resets)) ∧
      (t.dsp.cores[core]?).map (·.fenced) = some k.fenced ∧ t.regs = s.regs ∧ t.qps = s.qps ∧ t.sys = s.sys ∧
      t.sen = s.sen ∧ (∀ a, a < scratchBase core ∨ scratchBase (core + 1) ≤ a →
        memByte t.mem.cells a = memByte s.mem.cells a) ∧
      (∀ a, scratchBase core ≤ a → a < scratchBase (core + 1) → memByte t.mem.cells a = 0))

/-- QUIESCE brings the device into Quiesce and completes once it holds no other item; RESUME leaves Quiesce and reports
in RESULT whether the device was in it. -/
def Obligations.QuiesceAndResume : Prop :=
  (∀ (s : State) (it : Item), s.Runs it 0x0701 → it.le 16 4 ≤ 10000000 → zeroRange it.desc 20 64 = true →
    s.sys.phase = .service → s.dsp.items = [(it.id, it)] → it.isPf = true →
    ∃ t, exec (.quiesce it.id) s = .next t ∧ t.mode = 0x7 ∧ t.Completed it.id stOk (okBody 0 []) ∧
      t.regs = s.regs ∧ t.qps = s.qps ∧ t.plan = s.plan ∧ t.mem.cells = s.mem.cells) ∧
  (∀ (s : State) (it : Item), s.Runs it 0x0702 → zeroRange it.desc 16 64 = true → s.sys.phase = .service →
    ∃ t, exec (.resume it.id) s = .next t ∧ t.sys.quiesce = false ∧
      t.Completed it.id stOk (okBody (b2n s.sys.quiesce) []) ∧
      ItemFrame (s.noteMode { s with sys := { s.sys with quiesce := false } }) t)

/-! ## The host port (R353 to R375) -/

/-- A reset of a VF gives its registers and queue pairs back their reset values and clears what R358 names, leaving its
suspension and every other function's registers; the PF's reset clears its queue page, its MSI-X table and VF Enable; the
end of a reset clears its busy flag. -/
def Sys2Proof.FunctionResetsClearTheFunction : Prop :=
  (∀ (s : State) (vf : Nat), vf ≠ 0 → s.fnExists vf = true → ∃ t, exec (.vfFlr vf) s = .next t ∧
    t.host.flrs = s.host.flrs + 1 ∧ (t.vf vf).flrBusy = true ∧ (t.vf vf).stale = false ∧ (t.vf vf).outcome = 0 ∧
    (t.vf vf).pba = [] ∧ (t.vf vf).suspended = (s.vf vf).suspended ∧ (∀ q, q < 16 → t.qp vf q = Qp.idle) ∧
    (∀ off, off < 2 ^ 26 → t.reg vf off = regReset vf off) ∧
    (∀ f off, f ≠ vf → off < 2 ^ 26 → t.reg f off = s.reg f off) ∧
    t.mem.cells = s.mem.cells ∧ t.sys = s.sys) ∧
  (∀ (s : State), ∃ t, exec .pfFlr s = .next t ∧ t.host.vfEnable = false ∧ t.host.pfFlrBusy = true ∧
    t.host.pfPba = [] ∧ t.host.flrs = s.host.flrs + 1 ∧ (∀ q, q < 16 → t.qp 0 q = Qp.idle) ∧
    (∀ off, 0x0028_0000 ≤ off → off < 0x002A_0000 → t.reg 0 off = regReset 0 off) ∧ t.mem.cells = s.mem.cells ∧
    t.sys = s.sys) ∧
  (∀ (s : State) (fn : Nat), fn ≠ 0 → (s.vf fn).flrBusy = true →
    exec (.flrDone fn) s = .next (s.setVf fn { s.vf fn with flrBusy := false })) ∧
  (∀ (s : State), s.host.pfFlrBusy = true → ∃ t, exec (.flrDone 0) s = .next t ∧ t.host.pfFlrBusy = false ∧
    (∀ n, (t.vf n).flrBusy = false) ∧ t.regs = s.regs ∧ t.qps = s.qps ∧ t.dsp = s.dsp)

/-- A host read that ends gives a descriptor to its queue pair's slot or its bytes to its item; one that fails sets queue
error 0x3, or ends its item with ST_ACCESS_DENIED, and counts on the engine that made it. -/
def Obligations.HostReadsEndAsRequested : Prop :=
  (∀ (s : State) (fn qp slot ce : Nat) (bytes : List Byte), s.mmioOk 0 = true → s.qpListens fn qp = true →
    slot < s.sqSize fn qp →
    (slot + s.sqSize fn qp - (s.qp fn qp).sqHead) % s.sqSize fn qp <
      ((s.qp fn qp).sqTail + s.sqSize fn qp - (s.qp fn qp).sqHead) % s.sqSize fn qp →
    (s.qp fn qp).fetched.any (·.1 == slot) = false →
    exec (.dmaReadComplete (.fetch fn qp slot) (.ok bytes) { access := none, hbmUe := none, hbmCe := ce }) s =
      .next ({ s with mem := { s.mem with ce := s.mem.ce + BitVec.ofNat 32 ce } }.setQp fn qp
        { s.qp fn qp with fetched := (slot, padTo 64 bytes) :: (s.qp fn qp).fetched })) ∧
  (∀ (s : State) (it : Item) (iova : DWord) (bytes : List Byte), s.mmioOk 0 = true → s.item it.id = some it →
    it.isRunning = true →
    exec (.dmaReadComplete (.item it.id iova) (.ok bytes) { access := none, hbmUe := none, hbmCe := 0 }) s =
      .next (s.setItem { it with bufs := it.bufs ++ [(iova, bytes)] })) ∧
  (∀ (s : State) (it : Item) (iova : DWord) (why : ReadFailure) (core : Nat), s.mmioOk 0 = true →
    s.item it.id = some it → it.phase = .running core → it.written = [] → it.opcode ≠ 0x0201 →
    ∃ t, exec (.dmaReadComplete (.item it.id iova) (.failed why) { access := none, hbmUe := none, hbmCe := 0 }) s = .next t ∧
      t.Completed it.id stAccessDenied [] ∧
      t.host.dmaErrors = s.host.dmaErrors.modify (dmaEngine (s.readFn (.item it.id iova))) (fun n => min (n + 1) 0xFFFF) ∧
      t.regs = s.regs ∧ t.qps = s.qps ∧ t.mem.cells = s.mem.cells)

/-- Link training, SR-IOV, SPDM sessions, IDE keys and the TDISP messages move the states that R353 to R362 give them,
and nothing else. -/
def Sys2Proof.LinkAndInterfaceStates : Prop :=
  (∀ (s : State) (speed : BitVec 4) (width : BitVec 6) (flit : Bool), s.sys.phase ≠ .off → s.sys.phase ≠ .holdUp →
    (speed = 4 ∨ speed = 5 ∨ speed = 6) → (width = 4 ∨ width = 8 ∨ width = 16) →
    exec (.pcieLinkTrain speed width flit) s = .next { s with host := { s.host with
      linkUp := true, linkSpeed := speed, linkWidth := width, linkFlit := flit } }) ∧
  (∀ (s : State) (n : Nat), s.host.vfEnable = false → n ≤ 1023 → exec (.srIovVfEnable true n) s =
    .next { s with host := { s.host with vfEnable := true, numVfs := n } }) ∧
  (∀ (s : State) (b : Bool), exec (.spdmRequest b) s =
    .next { s with host := { s.host with spdmSession := b } }) ∧
  (∀ (s : State) (st rid : Nat), s.host.spdmSession = true → st ≤ 16 → exec (.ideKm (.keyProg st rid)) s =
    .next { s with host := { s.host with ideKeysSet := s.host.ideKeysSet.insert st,
                                         ideRid := tabSet s.host.ideRid st rid } }) ∧
  (∀ (s : State) (st : Nat), s.host.spdmSession = true → s.host.ideKeysSet.contains st = true →
    exec (.ideKm (.keySetGo st)) s =
      .next { s with host := { s.host with ideSecure := s.host.ideSecure.insert st } }) ∧
  (∀ (s : State) (st : Nat), s.host.spdmSession = true → exec (.ideKm (.keySetStop st)) s =
    .next { s with host := { s.host with ideSecure := s.host.ideSecure.erase st,
                                         ideKeysSet := s.host.ideKeysSet.erase st } }) ∧
  (∀ (s : State) (st : Nat), (16 ≤ st ∨ tabGet s.host.ideRid st = none) → exec (.ideCheckFail st) s =
    .next { s with host := { s.host with ideFail := s.host.ideFail + 1, aerInternal := s.host.aerInternal + 1,
                                         ideSecure := s.host.ideSecure.erase st } }) ∧
  (∀ (s : State) (st n : Nat), st < 16 → tabGet s.host.ideRid st = some n → n ≠ 0 →
    (s.vf n).tdi = .configLocked ∨ (s.vf n).tdi = .run → ∃ t, exec (.ideCheckFail st) s = .next t ∧
      (t.vf n).tdi = .error ∧ t.host.ideFail = s.host.ideFail + 1 ∧ t.host.aerInternal = s.host.aerInternal + 1 ∧
      t.host.ideSecure = s.host.ideSecure.erase st ∧
      t.mem.cells = s.mem.cells ∧ t.sys = s.sys ∧ t.plan = s.plan) ∧
  (∀ (s : State) (vf : Nat), vf ≠ 0 → s.fnExists vf = true → (s.vf vf).tdi = .configUnlocked →
    (s.vfTenant vf).isSome = true → s.streamCovers vf = true →
    (∀ q, q < 16 → (s.qp vf q).enabled = false ∧ (s.qp vf q).draining = false) → (s.vf vf).suspended = false →
    (s.vf vf).dirty = none → exec (.lockInterface vf) s = .next (s.setVf vf { s.vf vf with tdi := .configLocked })) ∧
  (∀ (s : State) (vf : Nat), (s.vf vf).tdi = .configLocked →
    exec (.startInterface vf) s = .next (s.setVf vf { s.vf vf with tdi := .run })) ∧
  (∀ (s : State) (vf : Nat), (s.vf vf).tdi ≠ .configUnlocked →
    exec (.stopInterface vf) s = .next (s.setVf vf { s.vf vf with tdi := .configUnlocked }))

/-- Function resets, the link, IDE streams and TDISP interface states. -/
def Obligations.HostPortStates : Prop :=
  FunctionResetsClearTheFunction ∧ LinkAndInterfaceStates

/-- VF_DIRTY_START opens a log of the pages asked for, VF_DIRTY_SWAP begins a second bitmap, VF_DIRTY_STOP ends the log at
its record, and a merge writes the set bits that the device holds. -/
def Sys2Proof.DirtyLogCommands : Prop :=
  (∀ (s : State) (it : Item), s.Runs it 0x0750 → s.vfItemBlocked it = false → s.vfOpCheck it true [32] = none →
    it.byte 19 = 0 → zeroRange it.desc 40 64 = true → it.byte 18 = 12 ∨ it.byte 18 = 21 → 1 ≤ it.le 20 4 →
    it.le 20 4 ≤ 2 ^ 28 → it.le 24 8 % 2 ^ it.byte 18 = 0 → it.le 24 8 + it.le 20 4 * 2 ^ it.byte 18 ≤ 2 ^ 64 →
    (s.vf (it.le 16 2)).dirty = none → (s.host.vfs.filter fun p => p.2.dirty.isSome).length < 64 →
    exec (.vfDirtyStart it.id) s = .next ((s.setVf (it.le 16 2) { s.vf (it.le 16 2) with dirty := some {
        pageLog2 := it.byte 18, pages := it.le 20 4, base := it.le 24 8, bitmap := BitVec.ofNat 64 (it.le 32 8),
        marked := [], unmerged := [], outside := 0, failed := false, swapTo := none } }).complete it.id stOk
      (okBody 0 []))) ∧
  (∀ (s : State) (it : Item) (d : DirtyLog), s.Runs it 0x0751 → s.vfItemBlocked it = false →
    s.vfOpCheck it true [32] = none → zeroRange it.desc 18 32 = true → zeroRange it.desc 40 64 = true →
    (s.vf (it.le 16 2)).dirty = some d →
    exec (.vfDirtySwap it.id) s = .next ((s.setVf (it.le 16 2) { s.vf (it.le 16 2) with
      dirty := some { d with swapTo := some (BitVec.ofNat 64 (it.le 32 8), [], 0) } }).complete it.id stOk
        (okBody 0 []))) ∧
  (∀ (s : State) (it : Item), s.Runs it 0x0752 → s.vfItemBlocked it = false → s.vfOpCheck it true [] = none →
    zeroRange it.desc 18 64 = true → (s.vf (it.le 16 2)).dirty.isSome = true →
    exec (.vfDirtyStop it.id) s = .next (s.complete it.id stOk (okBody 0 []))) ∧
  (∀ (s : State) (vf : Nat) (d : DirtyLog), (s.vf vf).dirty = some d → d.failed = false →
    exec (.dirtyBitmapMerge vf true) s =
      .next ((s.mergeDirty d).setVf vf { s.vf vf with dirty := some { d with unmerged := [] } })) ∧
  (∀ (s : State) (vf : Nat) (d : DirtyLog), (s.vf vf).dirty = some d → d.failed = false →
    exec (.dirtyBitmapMerge vf false) s = .next (s.setVf vf { s.vf vf with dirty := some { d with failed := true } }))

/-- A VF is suspended, resumed, saved and restored as R365 to R369 say: VF_SUSPEND completes when nothing of the VF is in
flight and waits otherwise, a save writes its 912-byte blob, and a restore loads one that passes every check. -/
def Sys2Proof.VfStateTransfer : Prop :=
  (∀ (s : State) (it : Item), s.Runs it 0x0753 → s.vfItemBlocked it = false → s.vfOpCheck it true [] = none →
    zeroRange it.desc 18 20 = true → zeroRange it.desc 24 64 = true → it.le 20 4 ≤ 10000000 →
    exec (.vfSuspend it.id) s = .next (
      if s.vfDrained (it.le 16 2) then
        (s.setVf (it.le 16 2) { s.vf (it.le 16 2) with suspended := true }).complete it.id stOk (okBody 0 [])
      else (s.setVf (it.le 16 2) { s.vf (it.le 16 2) with suspended := true }).yieldItem it.id .suspension)) ∧
  (∀ (s : State) (it : Item), s.item it.id = some it → it.opcode = 0x0753 → it.phase = .yielded .suspension →
    it.le 20 4 ≠ 0 → exec (.vfSuspendTimeout it.id) s = .next (s.endWaitWith it.id (outcome stTimeout []))) ∧
  (∀ (s : State) (it : Item), s.item it.id = some it → it.opcode = 0x0701 → it.phase = .yielded .drained →
    it.le 16 4 ≠ 0 → exec (.quiesceTimeout it.id) s = .next (s.endWaitWith it.id (outcome stTimeout []))) ∧
  (∀ (s : State) (it : Item), s.Runs it 0x0754 → s.vfItemBlocked it = false → s.vfOpCheck it true [] = none →
    zeroRange it.desc 18 64 = true → ∃ t, exec (.vfResume it.id) s = .next t ∧
      (t.vf (it.le 16 2)).suspended = false ∧
      t.Completed it.id stOk (okBody (b2n (s.vf (it.le 16 2)).suspended) []) ∧
      t.reg (it.le 16 2) 0x4000 = (if (s.vf (it.le 16 2)).suspended && (s.vf (it.le 16 2)).stale then
        s.reg (it.le 16 2) 0x4000 ||| 0x100 else s.reg (it.le 16 2) 0x4000) ∧
      t.qps = s.qps ∧ t.mem.cells = s.mem.cells ∧ t.sys = s.sys) ∧
  (∀ (s s' : State) (it : Item) (nonce : List Byte), s.Runs it 0x0755 → s.vfItemBlocked it = false →
    s.vfOpCheck it true [24] = none → zeroRange it.desc 18 20 = true → zeroRange it.desc 32 64 = true →
    (s.vf (it.le 16 2)).suspended = true → s.vfDrained (it.le 16 2) = true → 912 ≤ it.le 20 4 →
    s.draw 12 = (nonce, s') →
    exec (.vfStateSave it.id) s = .next ((s'.writeOut it.id (it.le 24 8)
      (s'.vfBlobHead (it.le 16 2) s'.ringIdentity nonce ++
        gcmCrypt s'.blobKey nonce (s'.vfBlobBody (it.le 16 2)) ++
        gcmTag s'.blobKey nonce (s'.vfBlobHead (it.le 16 2) s'.ringIdentity nonce)
          (gcmCrypt s'.blobKey nonce (s'.vfBlobBody (it.le 16 2))))).complete it.id stOk (okBody 912 []))) ∧
  (∀ (s : State) (it : Item) (b k : List Byte), s.Runs it 0x0756 → s.vfItemBlocked it = false →
    s.vfOpCheck it true [24] = none → zeroRange it.desc 18 20 = true → zeroRange it.desc 32 64 = true →
    it.le 20 4 = 912 → (s.vf (it.le 16 2)).suspended = true →
    (∀ q, q < 16 → (s.qp (it.le 16 2) q).enabled = false ∧ (s.qp (it.le 16 2) q).draining = false) →
    it.hostBytes (it.le 24 8) 912 = some b → leAt b 0 4 = 0x4D56594B → leAt b 4 2 = 1 → leAt b 6 2 = 912 →
    zeroRange b 60 64 = true → bits (byteAt b 29).toNat 2 6 = 0 →
    (if bit (byteAt b 29).toNat 0 then s.vault.migrationKey else some s.host.bootBlobKey) = some k →
    ∃ t body, body = gcmCrypt k (slice b 48 12) (slice b 64 832) ∧ t = s.loadBlob (it.le 16 2) b body ∧
      exec (.vfStateRestore it.id) s = .next (
        if gcmTag k (slice b 48 12) (b.take 64) (slice b 64 832) ≠ slice b 896 16 then s.rejectBlob it.id stTagMismatch
        else if some (byteAt b 28) ≠ (s.vfTenant (it.le 16 2)).map (·.tenant) then s.rejectBlob it.id stAccessDenied
        else if ((List.range 16).all fun q => qpRecordOk (slice body (32 * q) 32)) = true ∧
            8 ≤ (byteAt (slice body 512 32) 8).toNat ∧ (byteAt (slice body 512 32) 8).toNat ≤ 16 ∧
            (byteAt (slice body 512 32) 9).toNat ≤ 1 ∧ leAt (slice body 512 32) 0 8 % 4096 = 0 then
          t.complete it.id stOk (okBody (t.vf (it.le 16 2)).outcome.toNat [])
        else s.rejectBlob it.id stBadField)) ∧
  (∀ (s : State) (vf : Nat) (v : Word), vf ≠ 0 → s.mmioOk vf = true → v.getLsbD 0 = true →
    exec (.vfMigAck vf v) s = .next (s.setVf vf { s.vf vf with stale := false }))

/-- Dirty logs and the suspension, saving and restoring of a VF. -/
def Obligations.MigrationCommands : Prop :=
  DirtyLogCommands ∧ VfStateTransfer

/-! ## Device memory, the TAP and the sideband (R378 to R406, R454, R455, R540 to R542) -/

/-- The memory key begins the sweep, the sweep ends, a synchronisation answers and is counted, a pop discards the oldest
violation record of one FIFO, and a freed allocation reads zero and can be given again. -/
def Obligations.MemoryCommands : Prop :=
  (∀ (s s1 s2 : State) (a b : List Byte), s.mainServes = true → s.mem.keyLoaded = false → s.draw 32 = (a, s1) →
    s1.draw 32 = (b, s2) → exec .memoryKeyLoad s = .next { s2 with mem := { s2.mem with
      keyLoaded := true, memKey := a ++ b, sweepDone := false, initMap := [] } }) ∧
  (∀ (s : State), s.mem.keyLoaded = true → s.mem.sweepDone = false → exec .hbmInitSweepDone s =
    .next { s with mem := { s.mem with sweepDone := true, initMap := [] } }) ∧
  (∀ (s : State) (v : Word), s.mmioOk 0 = true → exec (.memPuSyncWrite v) s =
    .next { s with mem := { s.mem with syncs := s.mem.syncs + 1 }, out := .response 0 :: s.out }) ∧
  (∀ (s : State), s.mmioOk 0 = true → exec .memPuSyncRead s =
    .next { s with mem := { s.mem with syncs := s.mem.syncs + 1 }, out := .response 1 :: s.out }) ∧
  (∀ (s : State) (g : Nat) (v : Word) (q : ViolFifo), s.mmioOk 0 = true → v.getLsbD 0 = true →
    s.mem.fifos[g]? = some q → exec (.memViolPop g v) s =
      .next { s with mem := { s.mem with fifos := s.mem.fifos.set g { q with records := q.records.drop 1 } } }) ∧
  (∀ (s : State) (n : Nat) (a : StagingAlloc), s.mem.allocs.find? (fun x => x.id == n && x.zeroing) = some a →
    ∃ t, exec (.allocationZeroed n) s = .next t ∧ t.mem.allocs = s.mem.allocs.filter (·.id != n) ∧
      (∀ x, stagingBase + a.offset ≤ x → x < stagingBase + a.offset + a.size → memByte t.mem.cells x = 0) ∧
      (∀ x, x < stagingBase + a.offset ∨ stagingBase + a.offset + a.size ≤ x →
        memByte t.mem.cells x = memByte s.mem.cells x) ∧
      t.regs = s.regs ∧ t.qps = s.qps ∧ t.sys = s.sys) ∧
  (∀ (s : State) (e first n : Nat) (k : PkEngine), s.pke.engines[e]? = some k → k.zeroing.contains (first, n) = true →
    ∃ t, exec (.cisternPoolZeroed e first n) s = .next t ∧
      t.pke.engines = s.pke.engines.modify e (fun k => { k with zeroing := k.zeroing.erase (first, n) }) ∧
      t.mem = s.mem ∧ t.regs = s.regs ∧ t.sys = s.sys)

/-- A debug write that the debug port's protection unit permits whole stores its bytes at its address and nowhere else, and
a debug read answers them and leaves every byte as it was. -/
def Sys2Proof.DebugAccessReadsWhatWasWritten : Prop :=
  (∀ (s : State) (a : Nat) (data : List Byte), s.tapRuns = true → s.dbgOk = true →
    (s.setRegion 0x7F 0 dbgRegion).checkAccess s.cisternLocked 0x7F none 0xFFFF
      { addr := a, kind := .write, len := data.length } = [((a, data.length), none)] →
    mapped a = true → inRegs a = false → inRom a = false → (inHbm a = true → s.mem.keyLoaded = true) →
    ∃ t, exec (.dbgAccess { addr := a, kind := .write, len := data.length } data) s = .next t ∧
      (∀ i, i < data.length → memByte t.mem.cells (a + i) = byteAt data i) ∧
      (∀ x, x < a ∨ a + data.length ≤ x → memByte t.mem.cells x = memByte s.mem.cells x) ∧
      t.out = .jtag [0] :: s.out ∧ t.regs = s.regs ∧ t.dsp = s.dsp ∧ t.vault = s.vault) ∧
  (∀ (s : State) (a n : Nat), s.tapRuns = true → s.dbgOk = true →
    (s.setRegion 0x7F 0 dbgRegion).checkAccess s.cisternLocked 0x7F none 0xFFFF
      { addr := a, kind := .read, len := n } = [((a, n), none)] →
    mapped a = true → inRegs a = false → inRom a = false →
    (inHbm a = true → s.mem.keyLoaded = true ∧ (linesOf a n).any s.mem.ueLines.contains = false) →
    exec (.dbgAccess { addr := a, kind := .read, len := n } []) s = .next (s.endExtest.emit
      (.jtag (0 :: memRead s.mem.cells a n))))

/-- A refused access leaves memory as it was and puts one record of 64 at most into its master's FIFO, and counts it as
lost where the FIFO is full. -/
def Sys2Proof.RefusedAccessIsRecorded : Prop :=
  (∀ (s : State) (a : Access) (data : List Byte) (v : Violation), s.tapRuns = true → s.dbgOk = true →
    (s.setRegion 0x7F 0 dbgRegion).checkAccess s.cisternLocked 0x7F none 0xFFFF a = [((a.addr, a.len), some v)] →
    ∃ t, exec (.dbgAccess a data) s = .next t ∧ t.mem.cells = s.mem.cells ∧ t.regs = s.regs ∧
      t.mem.fifos = (s.recordViolation v).mem.fifos) ∧
  (∀ (s : State) (v : Violation) (q : ViolFifo), s.mem.fifos[violGroup v.master]? = some q → q.records.length < 64 →
    (s.recordViolation v).mem.fifos = s.mem.fifos.set (violGroup v.master) { q with records := q.records ++ [v] }) ∧
  (∀ (s : State) (v : Violation) (q : ViolFifo), s.mem.fifos[violGroup v.master]? = some q → 64 ≤ q.records.length →
    s.recordViolation v =
      { s with mem := { s.mem with fifos := s.mem.fifos.set (violGroup v.master) { q with lost := q.lost + 1 } } })

/-- A debug read gives what was written, and a refused access is recorded. -/
def Obligations.DebugAccessIsGuarded : Prop :=
  DebugAccessReadsWhatWasWritten ∧ RefusedAccessIsRecorded

/-- The TAP's instructions: BYPASS shifts a 0, IDCODE the variant's code, SAMPLE/PRELOAD and EXTEST load the boundary
register, and any other instruction than EXTEST ends the drive of the pins. -/
def Sys2Proof.TapInstructions : Prop :=
  (∀ (s : State) (ir : Byte), s.tapRuns = true → exec (.bypass ir) s =
    .next { s with lcb := { s.lcb with extest := false }, out := .jtag [0] :: s.out }) ∧
  (∀ (s : State), s.tapRuns = true → exec .idcode s =
    .next { s with lcb := { s.lcb with extest := false }, out := .jtag (leBytes 4 s.sys.variant.idcode) :: s.out }) ∧
  (∀ (s : State) (levels : List Bool), s.tapRuns = true → s.bootLcs ≠ lcScrapped →
    ∃ out, exec (.samplePreload levels) s = .next { s with
      fresh := s.fresh + 1, lcb := { s.lcb with boundary := levels, extest := false }, out := .jtag out :: s.out }) ∧
  (∀ (s : State) (drive : List Bool), s.tapRuns = true → s.extestOk = true →
    ∃ out, exec (.extest drive) s = .next { s with
      fresh := s.fresh + 1, lcb := { s.lcb with boundary := drive, extest := true }, out := .jtag out :: s.out }) ∧
  (∀ (s : State) (drive : List Bool), s.tapRuns = true → s.extestOk = false →
    exec (.extest drive) s = exec (.bypass 0xFF) s) ∧
  (∀ (s : State) (a : Access) (data : List Byte), s.tapRuns = true → s.dbgOk = false →
    exec (.dbgAccess a data) s = exec (.bypass 0xFF) s) ∧
  (∀ (s : State) (bytes : List Byte), bytes.length = 257 → s.tapRuns = true → s.bootLcs ≠ lcScrapped →
    bit (tokenScope bytes) 2 = false → exec (.dbgToken bytes) s = .next (
      match s.endExtest.tokenCheck .scopes bytes with
      | some st => s.endExtest.emit (.jtag (leBytes 2 st.toNat))
      | none => (s.endExtest.openScopes bytes).emit (.jtag (leBytes 2 stOk.toNat)))) ∧
  (∀ (s : State) (bytes : List Byte), bytes.length = 257 → s.tapRuns = true → s.bootLcs ≠ lcScrapped →
    bit (tokenScope bytes) 2 = true → s.tokenBusy = false → exec (.dbgToken bytes) s = .next
      ((s.endExtest.vendorToken bytes).2.emit (.jtag (leBytes 2 (s.endExtest.vendorToken bytes).1.toNat))))

/-- The sideband answers each command with the value that R541 gives it, and an alert read that it answers releases
SMB_ALERT_N. -/
def Sys2Proof.SidebandAnswers : Prop :=
  ∀ (s : State), s.smbServed = true →
    exec .smbMode s = .next (s.emit (.smbus (leBytes 1 s.mode.toNat))) ∧
    exec .smbLcs s = .next (s.emit (.smbus (leBytes 1 (if s.sys.otpRead then s.bootLcs else 0xFF)))) ∧
    exec .smbTemp s = .next (s.emit (.smbus (leBytes 2 (s.smbTempValue % 65536).toNat))) ∧
    exec .smbTempLimit s = .next (s.emit (.smbus (leBytes 1 (s.smbTempLimitValue % 256).toNat))) ∧
    (∀ p : BitVec 16, s.sys.phase ≠ .off → s.sys.phase ≠ .holdUp →
      exec (.smbPower p) s = .next (s.emit (.smbus (leBytes 2 p.toNat)))) ∧
    (∀ p : BitVec 16, s.sys.phase = .off ∨ s.sys.phase = .holdUp →
      exec (.smbPower p) s = .next (s.emit (.smbus [0, 0]))) ∧
    exec .smbVres s = .next (s.emit (.smbus (leBytes 2 s.sen.vresMv))) ∧
    exec .smbEuse s = .next (s.emit (.smbus (leBytes 2 (saturate 16 s.eUse)))) ∧
    exec .smbAlarm s = .next (s.emit (.smbus (leBytes 1 (fields [(0, 2, s.levelCode),
      (2, 1, b2n (s.sys.phase == .holdUp)), (3, 1, b2n (s.sen.zstate == .pending)), (4, 1, b2n s.anyFenced),
      (5, 1, b2n s.anyClassLost)])))) ∧
    exec .smbLogseq s = .next (s.emit (.smbus (leBytes 1 4 ++ leBytes 4 s.sen.logNext.toNat))) ∧
    exec .smbIdent s = .next (s.emit (.smbus (leBytes 1 16 ++ leBytes 2 s.sys.variant.part ++
      leBytes 1 (if s.sys.variant = .ky4800N then 1 else 0) ++ leBytes 1 s.sys.stepping.toNat ++
      leBytes 8 (if s.sys.otpRead then s.sys.serial.toNat else 0) ++ leBytes 4 s.sys.variant.idcode))) ∧
    (s.alertLow = true → ∃ t, exec .alertResponse s = .next t ∧ t.out = .smbus (leBytes 1 (2 * s.smbAddr)) :: s.out ∧
      t.alertLow = false ∧ { t with sys := s.sys, out := s.out } = s)

/-- TAP instructions and SMBus commands answer as their tables give. -/
def Obligations.TapAndSidebandAnswer : Prop :=
  TapInstructions ∧ SidebandAnswers

/-! ## Registers and resets (R12 to R14, R451, R453, R521 to R529) -/

/-- A write to a plain register stores the bits that software may write; a write of ones to VF_EVENT clears them; and a write
of LCB_TOKEN_CMD or LCB_REC_GO does what its rule says. -/
def Obligations.RegisterWritesTakeEffect : Prop :=
  (∀ (s : State) (off : Nat) (v m : Word), s.barOk 0 = true → s.bootHeld = false → off % 4 = 0 → pfMask off = some m →
    s.writeSpecial off v = none → s.traceHeld 0 off = false →
    off < 0x0028_0000 ∨ 0x0029_0400 ≤ off →
    exec (.registerWrite 0 off v) s = .next ((s.clearBits off v).setReg 0 off (v &&& m))) ∧
  (∀ (s : State) (fn : Nat) (v : Word), fn ≠ 0 → s.barOk fn = true → s.bootHeld = false →
    exec (.registerWrite fn 4 v) s = .next (s.setReg fn 4 (s.reg fn 4 &&& ~~~v))) ∧
  (∀ (s : State), s.barOk 0 = true → s.tokenBusy = false → exec .tokenOpenScopes s = .next (
    match s.tokenCheck .scopes s.tokenRegs with
    | some st => { s with lcb := { s.lcb with tokenStat := st } }
    | none => { s with lcb := { s.lcb with
        tokenStat := stOk
        scopes := s.lcb.scopes ||| BitVec.ofNat 3 (tokenScope s.tokenRegs)
        dbgOpen := true } })) ∧
  (∀ (s : State), s.barOk 0 = true → s.tokenBusy = false → s.ring.member = false → s.storesOpen = true →
    s.reserveCovers 200 = true → exec .tokenVendorTransition s = .next (
      match s.tokenCheck .vendor s.tokenRegs with
      | some st => { s with lcb := { s.lcb with tokenStat := st } }
      | none =>
        if s.slotBusy = true ∨ s.slotFree (byteAt s.tokenRegs 17).toNat = false then
          { s with lcb := { s.lcb with tokenStat := stNoResource } }
        else { s.addStore none (.otpSlot s.nextSlot (codeword (byteAt s.tokenRegs 17).toNat) 0) true false with
          lcb := { s.lcb with tokenStat := stOk } })) ∧
  (∀ (s : State) (v : Word), s.barOk 0 = true → s.sys.phase = .boot → s.lcb.noImage = true → s.lcb.recBusy = false →
    v.getLsbD 0 = true → exec (.lcbRecGo v) s = .next (
      if 3145888 < (s.reg 0 0x00A0_0218).toNat % 2 ^ 23 then { s with lcb := { s.lcb with recStat := stLengthLimit } }
      else { s with lcb := { s.lcb with recBusy := true } }))

/-- What every reset clears, and what it keeps: registers, queue pairs, items, the plan, sessions and the key cache are at
their reset values; the vault's records, the log and the life-cycle record stay. -/
def Sys2Proof.WipedByReset (s t : State) : Prop :=
  t.sys.phase = .reset ∧ t.sys.quiesce = false ∧ t.regs = [] ∧ t.qps = [] ∧ t.dsp.items = [] ∧ t.dsp.resumeQ = [] ∧
  t.plan = PlanState.reset ∧ t.sluice = SluiceState.reset ∧ t.mem = MemState.reset ∧ t.ent = EntState.reset ∧
  t.vault.sessions = [] ∧ t.vault.cache = [] ∧ t.vault.records = s.vault.records ∧ t.vault.salt = s.vault.salt ∧
  t.sen.log = s.sen.log ∧ t.sen.logNext = s.sen.logNext ∧ t.lcb.slots = s.lcb.slots ∧ t.ctl.roster = s.ctl.roster ∧
  t.sys.tick = s.sys.tick

/-- The three ways into Reset clear what a reset clears: stable power from Off, the end of a warm reset's stores, and the
end of Hold-up with main power back. -/
def Sys2Proof.ResetClearsAndKeeps : Prop :=
  (∀ (s : State), s.sys.phase = .off → s.sys.aonUp = true → s.sys.ioUp = true →
    ∃ t, exec .powerStable s = .next t ∧ WipedByReset s t ∧ t.sys.nextCause = 0x0 ∧ t.sys.railsOk = 0xFF ∧
      t.sys.warmCount = 0) ∧
  (∀ (s : State) (c : WarmCause), s.sys.warmReq = some c → s.vault.stores.any (·.admitted) = false →
    s.zeroising = false → ∃ t, exec .warmResetStoresDone s = .next t ∧ WipedByReset s t ∧ t.sys.nextCause = c.code ∧
      t.sys.warmReq = none ∧ (s.sys.warmCount ≠ 0xFFFF → t.sys.warmCount = s.sys.warmCount + 1) ∧
      (c ≠ .perst → t.host.linkUp = s.host.linkUp)) ∧
  (∀ (s : State), s.sys.phase = .holdUp → s.sen.holdUpDone = true → ∃ t, exec .mainPowerRestored s = .next t ∧
    WipedByReset s t ∧ t.sys.nextCause = 0x1) ∧
  (∀ (s : State), s.sys.phase = .holdUp → s.sen.holdUpDone = false → exec .mainPowerRestored s =
    .next { s with sys := { s.sys with pwrfailN := true }, sen := { s.sen with mainPower := true } })

/-- Boot begins: the fields of GLB_RESET_CAUSE are written, the boot is counted, and nothing else changes. -/
def Sys2Proof.BootBegun (s t : State) : Prop :=
  t = { s with
    sys := { s.sys with
      phase := .boot
      prevMode := 0x1
      changes := 0
      resetTick := s.sys.tick
      cause := s.sys.nextCause
      deferred := s.sys.nextDeferred
      pllLock := true
      refSenref := false
      perstHigh := true }
    sluice := { s.sluice with frameBase := s.sys.tick }
    sen := { s.sen with boots := s.sen.boots + 1, carried := none } }

/-- The releases of a cold and of a warm reset and the rise of PERST# that the device waited for begin Boot; PERST# low
holds the device in Reset, and a response carried forward from Reset acts as Boot begins. -/
def Sys2Proof.ResetIsReleased : Prop :=
  (∀ (s : State), s.sys.phase = .reset → s.sys.nextCause.toNat ≤ 1 → s.sys.resetOver = false → s.sen.carried = none →
    s.sys.perstHigh = true → ∃ t, exec .coldResetRelease s = .next t ∧ BootBegun s t) ∧
  (∀ (s : State), s.sys.phase = .reset → 2 ≤ s.sys.nextCause.toNat → s.sys.resetOver = false → s.sen.carried = none →
    s.sys.perstHigh = true → ∃ t, exec .resetHoldEnd s = .next t ∧ BootBegun s t) ∧
  (∀ (s : State), s.sys.phase = .reset → s.sys.resetOver = true → s.sen.carried = none →
    ∃ t, exec .perstRise s = .next t ∧ BootBegun s t) ∧
  (∀ (s : State), s.sys.phase = .reset → s.sys.nextCause.toNat ≤ 1 → s.sys.resetOver = false → s.sys.perstHigh = false →
    exec .coldResetRelease s = .next { s with sys := { s.sys with resetOver := true } }) ∧
  (∀ (s : State) (l : Level), s.sys.phase = .reset → s.sys.nextCause.toNat ≤ 1 → s.sys.resetOver = false →
    s.sen.carried = some l → s.sys.perstHigh = true → ∃ t, exec .coldResetRelease s = .next t ∧
      t.sys.phase = .alarmHold ∧ t.sen.carried = none ∧ t.sen.boots = s.sen.boots + 1)

/-- PERST# and GLB_SOFT_RESET request a warm reset: PERST# takes the link down at once, GLB_SOFT_RESET leaves it up. -/
def Sys2Proof.WarmResetIsRequested : Prop :=
  (∀ (s : State), s.sys.phase ≠ .off → s.sys.phase ≠ .reset → s.sys.phase ≠ .holdUp →
    ∃ t, exec .perstFall s = .next t ∧ t.sys.perstHigh = false ∧ t.sys.warmReq = some .perst ∧ t.host.linkUp = false ∧
      t.ring.culvertOpen = (if s.sys.warmReq = none then false else s.ring.culvertOpen) ∧
      t.sys.phase = s.sys.phase ∧ t.dsp = s.dsp ∧ t.mem = s.mem ∧ t.vault = s.vault ∧ t.regs = s.regs) ∧
  (∀ (s : State) (v : Word), s.mmioOk 0 = true → v.getLsbD 0 = true → v.toNat / 2 ^ 16 = 0xA55A →
    s.sen.steward2nd = false → s.sys.phase ≠ .off → s.sys.phase ≠ .reset → s.sys.phase ≠ .holdUp → s.sys.warmReq = none →
    exec (.glbSoftReset v) s = .next { s with
      sys := { s.sys with warmReq := some .softReset, nextDeferred := s.vault.stores.any (·.admitted) }
      ring := { s.ring with culvertOpen := false } }) ∧
  (∀ (s : State) (v : Word), v.toNat / 2 ^ 16 ≠ 0xA55A → exec (.glbSoftReset v) s = .next s)

/-- Resets clear all but what they keep, and are requested and released as given. -/
def Obligations.ResetsClearAndKeep : Prop :=
  ResetClearsAndKeeps ∧ ResetIsReleased ∧ WarmResetIsRequested

/-- Supplies: VDD_AON starts the tick anew, VDD_IO samples the straps and measures the reserve, a loss in Reset and a spent
reserve lead to Off, and Off keeps no volatile state. -/
def Sys2Proof.SuppliesComeAndGo : Prop :=
  (∀ (s : State), s.sys.phase = .off → s.sys.aonUp = false → exec .vddAonRise s = .next { s with
    sys := { s.sys with aonUp := true, tick := 0, resetTick := 0, railsOk := s.sys.railsOk ||| 0x20 }
    dsp := { s.dsp with stewardAt := none }
    sen := { s.sen with
      monitors := [], level := none, carried := none, measured := false, vresMv := 0, capUf := 0, esrMohm := 0 } }) ∧
  (∀ (s : State) (a0 a1 : Bool) (r : ReserveReading), s.sys.phase = .off → s.sys.aonUp = true → s.sys.ioUp = false →
    s.vault.retryRetire = [] → exec (.vddIoRise a0 a1 r) s = .next { s with
      sys := { s.sys with ioUp := true, strap0 := a0, strap1 := a1, alertSeen := [], railsOk := s.sys.railsOk ||| 0x10 }
      sen := { s.sen with vresMv := r.vresMv, capUf := r.capUf, esrMohm := r.esrMohm, measured := true } }) ∧
  (∀ (s : State), s.sys.phase = .reset → ∃ t, exec .supplyLoss s = .next t ∧ t.sys.phase = .off ∧ t.regs = [] ∧
    t.qps = [] ∧ t.dsp.items = [] ∧ t.vault.stores = [] ∧ t.mem = MemState.reset ∧ t.sys.pllLock = false ∧
    t.sys.aonUp = t.sys.ioUp ∧ t.vault.records = s.vault.records) ∧
  (∀ (s : State), s.sys.phase = .holdUp → ∃ t, exec .reserveSpent s = .next t ∧ t.sys.phase = .off ∧ t.sys.aonUp = false ∧
    t.sys.ioUp = false ∧ t.sys.railsOk = 0 ∧ t.regs = [] ∧ t.qps = [] ∧ t.dsp.items = [] ∧ t.vault.stores = [] ∧
    t.mem = MemState.reset ∧ t.sen.measured = false ∧ t.vault.records = s.vault.records)

/-- Loss of main power leads to Hold-up: every item is abandoned without a record, no queue pair remains, sessions and the
key cache are erased, the link is down and the PLL runs from SENREF; the vault's records and the admitted stores stay. When
the last store has ended, the device root is erased. -/
def Sys2Proof.MainPowerIsLost : Prop :=
  (∀ (s : State) (d mv : Nat), d = 2 ∨ d = 3 → s.sys.phase ≠ .off → s.sys.phase ≠ .reset → s.sys.phase ≠ .holdUp →
    ∃ t, exec (.mainPowerLost d mv) s = .next t ∧ t.sys.phase = .holdUp ∧ t.dsp.items = [] ∧ t.qps = [] ∧
      t.vault.cache = [] ∧ t.vault.sessions = [] ∧ t.vault.sessionKey = [] ∧ t.mem.keyLoaded = false ∧
      t.host.linkUp = false ∧ t.sys.refSenref = true ∧ t.sen.mainPower = false ∧ t.sen.vresMv = mv ∧
      t.vault.records = s.vault.records ∧ t.regs = s.regs ∧
      (∀ a, a < 0xC_0000_0000 → memByte t.mem.cells a = 0)) ∧
  (∀ (s : State), s.sys.phase = .holdUp → s.vault.stores.any (·.admitted) = false → s.sen.mainPower = false →
    exec .holdUpStoresEnded s = .next { s with
      vault := { s.vault with deviceRoot := [], dak := [], ready := false }
      ring := { s.ring with culvertOpen := false }
      sen := { s.sen with holdUpDone := true } }) ∧
  (∀ (s : State), s.sys.phase ≠ .off → s.sys.phase ≠ .holdUp → s.sys.pllLock = true →
    ∃ t, exec .pllLockLost s = .next t ∧ t.sys.pllLock = false ∧
      t.sys.pllLosses = (if s.sys.pllLosses = 0xFFFF then s.sys.pllLosses else s.sys.pllLosses + 1) ∧
      (s.sys.aonUp = true → s.sen.level = none → s.senParam 0x1 0 4 = 2 → s.senParam 0x1 1 4 = 2 →
        s.sys.phase = .service → t.sys.phase = .alarmHold ∧ t.sen.level = some .halt))

/-- Supplies come and go, and the loss of main power leads to Hold-up. -/
def Obligations.SuppliesAndHoldUp : Prop :=
  SuppliesComeAndGo ∧ MainPowerIsLost

/-! ## Boot, stores and zeroisation (R121, R146, R421, R428, R429, R445 to R450) -/

/-- The boot ROM reads the OTP and loads the Steward's regions, or stops on a failed self-test; on a BLANK part it stops
after the record is resolved; and an admitted OTP write of a pending slot is asked for. -/
def Sys2Proof.BootRomStarts : Prop :=
  (∀ (s : State) (p : BootProbe), s.sys.phase = .boot → s.lcb.stage = 0x1 → s.lcb.stopped = false →
    ∃ t, exec (.bootStart p) s = .next t ∧ t.mem.hbm0Ok = true ∧ t.mem.hbm1Ok = true ∧ t.mem.stewardLocked = true ∧
      (p.romOk = false → t.lcb.romFail = true ∧ t.lcb.stopped = true ∧ t.sys = s.sys) ∧
      (p.romOk = true → t.sys.otpRead = true ∧ t.lcb.invalid = s.recordInvalid) ∧
      t.mem.cells = s.mem.cells ∧ t.regs = s.regs ∧ t.vault.records = s.vault.records) ∧
  (∀ (s : State) (puf : Bool) (n : Nat) (x : LcSlot), s.sys.phase = .boot → s.lcb.stage = 0x1 → s.lcb.stopped = false →
    s.sen.zstate ≠ .pending → s.recordInvalid = false → s.topSlot = some (n, x) → x.class' = .committed lcBlank →
    s.lcs = lcBlank → exec (.bootStart { romOk := true, pufOk := puf }) s = .next { s with
      mem := { s.mem with hbm0Ok := true, hbm1Ok := true, stewardLocked := true }
      sys := { s.sys with otpRead := true }
      lcb := { s.lcb with stage := 0x3, invalid := false, probeOk := puf, stopped := true } }) ∧
  (∀ (s : State) (n t : Nat) (x : LcSlot), s.lcb.waitOtp = true → s.inResolve = true → s.sen.zstate ≠ .pending →
    s.lcb.invalid = false → s.topSlot = some (n, x) → x.class' = .pending t → wipes s.lcs t = false → t ≠ lcScrapped →
    s.ring.member = false → s.storesOpen = true → s.reserveCovers 200 = true →
    exec .bootOtpWriteAdmitted s = .next ({ s with lcb := { s.lcb with waitOtp := false } }.addStore none (.otpCommit n)
      true false))

/-- Boot goes on when the entropy unit is ready: the vault opens with a session key of its own for this boot, the DAK is
derived, and DIAGNOSTIC or Plan Load begins; without an installed-plan record the empty plan applies at once. -/
def Sys2Proof.BootOpensTheVault : Prop :=
  ∀ (s : State), s.sys.phase = .boot → s.lcb.stage = 0x7 → s.lcb.stopped = false → s.mainServes = true →
    s.vault.salt.isSome = true → s.vault.carryOver = none →
    ∃ t, exec .bootResumeEntReady s = .next t ∧ t.lcb.stage = 0x8 ∧ t.vault.ready = true ∧
      t.vault.sessionKey = (s.draw 32).1 ∧ t.vault.dak = s.deriveDak ∧ t.vault.records = s.vault.records ∧
      (s.lcs = lcDiagnostic → t.sys.phase = .diagnostic) ∧
      (s.lcs ≠ lcDiagnostic → s.vault.planRecord.isSome = true → t.sys.phase = .planLoad ∧ t.plan.waiting = true) ∧
      (s.lcs ≠ lcDiagnostic → s.vault.planRecord = none → s.ring.member = false →
        t.sys.phase = .service ∧ t.plan.empty = true ∧ t.plan.running = s.emptyPlan ∧ t.plan.result = 0x1)

/-- Boot reads the OTP, resolves the record and opens the vault. -/
def Obligations.BootRunsToPlanLoad : Prop :=
  BootRomStarts ∧ BootOpensTheVault

/-- A committed store is gone from the list, its record is written, and the item that waited for it can be resumed with its
outcome; a life-cycle slot keeps every bit that it had. -/
def Sys2Proof.StoreCommits : Prop :=
  (∀ (s : State) (st : Store) (it : Item), s.vault.stores.find? (·.id == st.id) = some st → st.admitted = true →
    st.mirror = false → s.ring.commit = none → st.item = some it.id → (∀ h, st.action ≠ .retire h) →
    s.item it.id = some it → it.phase = .yielded .store → it.stage = 0xFE →
    ∃ t, exec (.storeCommit st.id) s = .next t ∧ t.vault.stores = s.vault.stores.filter (·.id != st.id) ∧
      t.item it.id = some { it with phase := .resumable, stage := 0xFF } ∧ it.id ∈ t.dsp.resumeQ ∧
      t.vault.records = (s.applyStore st.action true).vault.records ∧
      t.lcb = (s.applyStore st.action true).lcb ∧ t.ctl = (s.applyStore st.action true).ctl ∧
      t.mem = s.mem ∧ t.regs = s.regs ∧ t.qps = s.qps) ∧
  (∀ (s : State) (i : Nat) (r : KeyRecord), tabGet (s.applyStore (.putRecord i r) true).vault.records i = some r) ∧
  (∀ (s : State) (n : Nat) (w tag : Word) (x : LcSlot), s.lcb.slots[n]? = some x →
    (s.applyStore (.otpSlot n w tag) true).lcb.slots[n]? = some
      { premark := x.premark ||| 0x3C3C_3C3C, intent := x.intent ||| w, commit := x.commit, tag := x.tag ||| tag }) ∧
  (∀ (s : State) (i : Nat) (c : DWord), (s.applyStore (.ceiling i c) true).counter i =
    { value := (if (s.counter i).live && (s.counter i).limit == (s.counter i).ceiling then (s.counter i).value
        else (s.counter i).ceiling), ceiling := c, limit := c, live := true, raising := false, refused := false })

/-- A full measurement holds its reading; a good boot asks for the boot-control record of the running slot, beside the
carry-over record once no bound key is left to promote, and MIN_SVN where it is behind; a zeroisation is verified, or is
attempted again and at last fails. -/
def Sys2Proof.ReserveAndGoodBoot : Prop :=
  (∀ (s : State) (r : ReserveReading), s.mayMeasure = true → s.vault.retryRetire = [] → s.lcb.waitOtp = false →
    s.lcb.waitTries = false → exec (.reserveMeasure r) s = .next { s with
      sen := { s.sen with vresMv := r.vresMv, capUf := r.capUf, esrMohm := r.esrMohm, measured := true } }) ∧
  (∀ (s : State), s.goodBoot = true → s.vault.promoting = true → s.lcb.runSvn ≤ s.minSvn → s.storesOpen = true →
    s.reserveCovers 5 = true → exec .goodBoot s = .next (s.addStore none (.bootControl s.lcb.runSlot 0) true false)) ∧
  (∀ (s : State), s.goodBoot = true → s.vault.promoting = true → s.minSvn < s.lcb.runSvn → s.storesOpen = true →
    s.reserveCovers 205 = true → exec .goodBoot s = .next ((s.addStore none (.bootControl s.lcb.runSlot 0) true false).addStore
      none (.otpMinSvn s.lcb.runSvn) true false)) ∧
  (∀ (s : State), s.goodBoot = true → s.vault.promoting = false → s.toPromote = none → s.lcb.runSvn ≤ s.minSvn →
    s.storesOpen = true → s.reserveCovers 10 = true → exec .goodBoot s = .next ((s.addStore none (.carryOver none) true
      false).addStore none (.bootControl s.lcb.runSlot 0) true false)) ∧
  (∀ (s : State), s.zeroising = true → s.sys.phase ≠ .boot → exec (.zeroiseVerify true) s =
    .next { s with sen := { s.sen with zstate := .verified, zeroDone := true, zeroRepeat := false } }) ∧
  (∀ (s : State), s.zeroising = true → s.sen.zeroTries < 3 → exec (.zeroiseVerify false) s =
    .next { s with sen := { s.sen with zeroTries := s.sen.zeroTries + 1 } }) ∧
  (∀ (s : State), s.zeroising = true → 3 ≤ s.sen.zeroTries → ∃ t, exec (.zeroiseVerify false) s = .next t ∧
    t.zeroising = false ∧ t.sen.zeroRepeat = false)

/-- Stores commit, the reserve is measured, a good boot is noted, zeroisation is verified. -/
def Obligations.StoresCommit : Prop :=
  StoreCommits ∧ ReserveAndGoodBoot

/-! ## Entropy (R332 to R350) -/

/-- Start-up conditions eight blocks into four pool entries when every source passes, and sets FAULT on a failed known
answer; a block that passes both tests joins the pool, one that fails is counted; a source is tested again and comes back
healthy, or counts a fence. -/
def Sys2Proof.EntropySourcesAndPool : Prop :=
  (∀ (s : State), s.sys.phase = .boot → s.ent.ready = false → s.ent.fault = false → s.ent.awaitMtag = false →
    s.ent.erased = false → s.ent.sources.length = 32 → s.lcb.stage ≠ 0x7 →
    ∃ t, exec (.entStartupDone (BitVec.allOnes 32) 0 true) s = .next t ∧ t.ent.awaitMtag = true ∧ t.ent.pool.length = 4 ∧
      t.ent.blkOk = s.ent.blkOk + 8 ∧ t.ent.sources.all (fun x => x.healthy && !x.fenced) = true ∧ t.ent.ready = false ∧
      t.sen = s.sen ∧ t.mem = s.mem ∧ t.regs = s.regs) ∧
  (∀ (s : State), s.sys.phase = .boot → s.ent.ready = false → s.ent.fault = false → s.ent.awaitMtag = false →
    s.ent.erased = false → ∃ t, exec (.entStartupDone (BitVec.allOnes 32) 0 false) s = .next t ∧ t.ent.fault = true ∧
      t.ent.ready = false) ∧
  (∀ (s : State) (n : Nat) (x : EntSource) (b : List Byte), s.ent.sources[n]? = some x → b.length = 512 →
    x.healthy = true → s.ent.ready = true → s.ent.erased = false → (rctRun x.run b).1 = false → aptFails b = false →
    s.ent.pool.length < 4 → s.ent.fenced = false ∨ 16 ≤ s.healthy → ∃ t, exec (.entropyBlock n b) s = .next t ∧
      t.ent = { s.ent with
        sources := s.ent.sources.modify n fun x => { x with run := (rctRun x.run b).2 }
        blkOk := s.ent.blkOk + 1
        pool := s.ent.pool ++ [sha384 (b ++ [BitVec.ofNat 8 n])] } ∧ { t with ent := s.ent } = s) ∧
  (∀ (s : State) (n : Nat) (x : EntSource) (b : List Byte), s.ent.sources[n]? = some x → b.length = 512 →
    x.healthy = true → s.ent.ready = true → s.ent.erased = false → (rctRun x.run b).1 = true →
    (s.windowFails n).length + 1 < s.senParam 0x7 n 3 → ∃ t, exec (.entropyBlock n b) s = .next t ∧
      t.ent.blkFail = s.ent.blkFail + 1 ∧ t.ent.rctFail = s.ent.rctFail + 1 ∧ t.ent.blkOk = s.ent.blkOk ∧
      t.ent.pool = s.ent.pool ∧ (t.ent.sources[n]?).map (·.last) = some s.sys.tick ∧ { t with ent := s.ent } = s) ∧
  (∀ (s : State) (n : Nat) (x : EntSource), s.ent.sources[n]? = some x → x.fenced = true → x.locked = false →
    x.testing = false → s.ent.erased = false →
    exec (.sourceRetest n) s = .next (s.modifySource n fun x => { x with testing := true })) ∧
  (∀ (s : State) (n : Nat) (x : EntSource), s.ent.sources[n]? = some x → x.testing = true → s.ent.erased = false →
    exec (.sourceRetestDone n true) s = .next (s.modifySource n fun x =>
      { x with testing := false, healthy := true, fenced := false, fails := [], run := none })) ∧
  (∀ (s : State) (n : Nat) (x : EntSource), s.ent.sources[n]? = some x → x.testing = true → s.ent.erased = false →
    exec (.sourceRetestDone n false) s = .next (s.modifySource n fun x =>
      { x with testing := false, fences := x.fences + 1, locked := decide (3 ≤ x.fences + 1) }))

/-- The main DRBG reseeds from the oldest pool entry, and a fenced entropy unit with 16 healthy sources is re-admitted with
it; a fenced one stops serving after 2^20 requests; a tenant's instance asks for a reseed at 2^23 requests and gets 48 bytes
of the main DRBG. -/
def Sys2Proof.DrbgReseeds : Prop :=
  (∀ (s : State) (d : Drbg) (seed : List Byte) (rest : List (List Byte)), s.ent.main = some d →
    s.ent.pool = seed :: rest → s.ent.erased = false → s.ent.ready = true → s.ent.fenced = false ∨ 16 ≤ s.healthy →
    ∃ t, exec .mainDrbgReseed s = .next t ∧ t.ent = { s.ent with
        pool := rest
        main := some (d.reseed (padTo 48 seed) (zeros 48))
        mainServing := true
        mainReseeds := s.ent.mainReseeds + 1
        fenced := false } ∧
      t.vault = { s.vault with fills := s.vault.fills.map fun f => { f with started := true } } ∧
      t.mem = s.mem ∧ t.regs = s.regs ∧ t.dsp = s.dsp) ∧
  (∀ (s : State), s.ent.fenced = true → 2 ^ 20 ≤ s.mainSince →
    exec .mainDrbgStop s = .next { s with ent := { s.ent with mainServing := false } }) ∧
  (∀ (s : State) (n : Byte) (d : TenantDrbg), s.tenantDrbg n = some d → 2 ^ 23 ≤ d.drbg.since → d.asked = false →
    exec (.tenantReseedRequest n) s = .next (s.setTenantDrbg n { d with asked := true })) ∧
  (∀ (s s' : State) (n : Byte) (d : TenantDrbg) (r : List Byte), s.tenantDrbg n = some d → d.asked = true →
    s.ent.fenced = false → s.mainServes = true → s.draw 48 = (r, s') → exec (.tenantReseed n) s =
      .next (s'.setTenantDrbg n { d with drbg := d.drbg.reseed (padTo 48 r) (zeros 48), asked := false }))

/-- Entropy sources, the pool, the main DRBG and the tenant instances. -/
def Obligations.EntropyAndItsGenerators : Prop :=
  EntropySourcesAndPool ∧ DrbgReseeds

/-- RANDOM writes the bytes that its tenant's instance generates and reports the instance's count; with PREDICTION the main
DRBG and then the instance are reseeded first; RANDOM_RESEED does both reseeds, with ADDIN for the instance. -/
def Obligations.RandomOpcodes : Prop :=
  (∀ (s : State) (it : Item) (d : TenantDrbg), s.Runs it 0x0601 → s.ent.erased = false →
    s.tenantDrbg it.tenantByte = some d → d.waiting = [] ∨ d.waiting.head? = some it.id → bit (it.byte 28) 0 = false →
    d.drbg.since < 2 ^ 24 → exec (.random it.id) s = .next (
      ((s.randomServed it { d with drbg := (d.drbg.generate (it.le 24 4) it.addin).2 }).writeOut it.id (it.le 16 8)
        (d.drbg.generate (it.le 24 4) it.addin).1).complete it.id stOk (okBody (it.le 24 4)
          (randomRest (d.drbg.generate (it.le 24 4) it.addin).2.since (it.stage == 1) s.ent.fenced)))) ∧
  (∀ (s s' : State) (it : Item) (d : TenantDrbg) (r : List Byte) (e : Drbg), s.Runs it 0x0601 → s.ent.erased = false →
    s.tenantDrbg it.tenantByte = some d → d.waiting = [] ∨ d.waiting.head? = some it.id → bit (it.byte 28) 0 = true →
    s.freshReseed = true → s.reseedMain.draw 48 = (r, s') → e = d.drbg.reseed (padTo 48 r) (zeros 48) →
    exec (.random it.id) s = .next (
      ((s'.randomServed it { d with drbg := (e.generate (it.le 24 4) it.addin).2 }).writeOut it.id (it.le 16 8)
        (e.generate (it.le 24 4) it.addin).1).complete it.id stOk (okBody (it.le 24 4)
          (randomRest (e.generate (it.le 24 4) it.addin).2.since true s.ent.fenced)))) ∧
  (∀ (s s' : State) (it : Item) (d : TenantDrbg) (r : List Byte), s.Runs it 0x0602 → s.ent.erased = false →
    s.tenantDrbg it.tenantByte = some d → d.waiting = [] ∨ d.waiting.head? = some it.id → s.freshReseed = true →
    s.reseedMain.draw 48 = (r, s') → exec (.randomReseed it.id) s = .next (
      (s'.randomServed it { d with drbg := d.drbg.reseed (padTo 48 r) it.addin, asked := false }).complete it.id stOk
        (okBody 0 (randomRest (d.drbg.reseed (padTo 48 r) it.addin).since true s.ent.fenced))))

/-! ## Plans and the sluice (R43, R44, R51 to R59) -/

/-- Plan Load reads the announced image on GO, applies it when its checks pass and the empty plan when they do not, when GO
does not come in time, and when the announcement or the read fails; a member compares its epoch before it leaves. -/
def Obligations.PlanLoadAppliesAPlan : Prop :=
  (∀ (s : State) (v : Word), s.mmioOk 0 = true → s.plan.waiting = true → v.getLsbD 0 = true → exec (.glbPlanGo v) s = .next (
    if (s.reg 0 0x108).toNat % 64 ≠ 0 ∨ (s.reg 0 0x110).toNat = 0 ∨ imageMax < (s.reg 0 0x110).toNat then
      { s with plan := { s.plan with waiting := false } }.planLoadFails (planFail 0xB)
    else { s with plan := { s.plan with waiting := false, reading := true } })) ∧
  (∀ (s : State), s.plan.waiting = true → exec .planWaitTimeout s = .next (s.planLoadFails (planFail 0x2))) ∧
  (∀ (s : State) (why : ReadFailure), s.plan.reading = true →
    exec (.planImageReadDone (.failed why)) s = .next (s.planLoadFails (planFail 0xC))) ∧
  (∀ (s : State) (bytes : List Byte), s.plan.reading = true → bytes.length = (s.reg 0 0x110).toNat →
    exec (.planImageReadDone (.ok bytes)) s = .next (match s.loadCheck bytes bytes.length with
      | some f => s.planLoadFails f
      | none => s.planLoads bytes)) ∧
  (∀ (s : State) (f : PlanFail), f.code < 16 → (s.planLoadFails f).plan.running = s.emptyPlan ∧
    (s.planLoadFails f).plan.empty = true ∧ (s.planLoadFails f).plan.result = BitVec.ofNat 4 f.code ∧
    (s.planLoadFails f).plan.serial = 0 ∧ (s.planLoadFails f).vault.records = s.vault.records) ∧
  (∀ (s : State) (img : List Byte), (s.planLoads img).plan.running = (parseImage img).plan ∧
    (s.planLoads img).plan.empty = false ∧ (s.planLoads img).plan.result = 0 ∧
    (s.planLoads img).plan.serial = (parseImage img).serial ∧ (s.planLoads img).sluice.bankA = (parseImage img).sluice ∧
    (s.planLoads img).sluice.activeB = false ∧ (s.planLoads img).vault.records = s.vault.records) ∧
  (∀ (s : State), s.sys.phase = .planLoad → s.ring.member = true → s.ring.culvertOpen = true → s.plan.result ≠ 0xF →
    s.ring.epoch.toNat < s.ring.top.toNat → ∃ t, exec .mirrorEpochCompare s = .next t ∧ t.sys.phase = .mirrorSync ∧
      t.ring.compared = true) ∧
  (∀ (s : State), s.sys.phase = .planLoad → s.ring.member = true → s.ring.culvertOpen = true → s.plan.result ≠ 0xF →
    s.ring.top.toNat ≤ s.ring.epoch.toNat → ∃ t, exec .mirrorEpochCompare s = .next t ∧ t.sys.phase = .service ∧
      t.ring.compared = true)

/-- PLAN_STAGE ends with the failed check of its image, waits for its quorum, or stores the installed-plan record of the
image; PLAN_AMEND ends with the failed check or begins its amendment, which takes its changed units out of use and waits. -/
def Sys2Proof.PlanOpcodes : Prop :=
  (∀ (s : State) (it : Item) (img : List Byte), s.Runs it 0x0710 → planDescCheck it = none →
    it.hostBytes (it.le 16 8) (it.le 24 4) = some img → leAt img 12 4 = img.length →
    exec (.planStage it.id) s = .next (
      match s.stageCheck img, s.consumeAsk (BitVec.ofNat 32 (it.le 28 4)) 0x02 (sha256 img) with
      | some f, _ => s.complete it.id (if f.code = 0x4 then stAccessDenied else stBadField) (planBody 0 f.secNo f.entry)
      | none, .missing => s.complete it.id stQuorumMissing planNoBody
      | none, .waits => s.yieldItem it.id .quorum
      | none, .ready => s.storeSession it.id (.planRecord
          { serial := BitVec.ofNat 64 (leAt img 16 8), digest := sha384 img, fingerprint := slice img 32 8 })
          { status := stOk, origin1 := false, body := planNoBody })) ∧
  (∀ (s : State) (it : Item) (img : List Byte), s.Runs it 0x0711 → s.sys.phase = .service → planDescCheck it = none →
    s.sluice.amend = none → s.plan.empty = false → it.hostBytes (it.le 16 8) (it.le 24 4) = some img →
    leAt img 12 4 = img.length → exec (.planAmend it.id) s = .next (
      match s.amendCheck img with
      | some f => s.complete it.id (if f.code = 0x4 then stAccessDenied else stBadField) (planBody 0 f.secNo f.entry)
      | none =>
        if (s.changedUnits (parseImage img)).any fun c => s.sluFenced c.unitNo then
          s.complete it.id stNoResource planNoBody
        else s.beginAmend it (parseImage img))) ∧
  (∀ (s : State) (it : Item) (m : Image), s.item it.id = some it → (s.beginAmend it m).Waits it.id .amendment) ∧
  (∀ (s : State) (it : Item) (m : Image), s.item it.id = some it → s.changedUnits m = [] →
    (s.beginAmend it m).sluice.checking = true ∧ (s.beginAmend it m).inactiveBank = m.sluice ∧
    (s.beginAmend it m).sluice.units = s.sluice.units) ∧
  (∀ (s : State) (it : Item) (m : Image), s.item it.id = some it → s.changedUnits m ≠ [] →
    (s.beginAmend it m).sluice.units =
      ((s.changedUnits m).foldl (fun s c => s.modifyUnit c.unitNo fun x => { x with state := .leaving }) s).sluice.units ∧
    (s.beginAmend it m).plan = s.plan)

/-- The steps of an amendment: its deadline rolls it back, the end of its drain frames begins the scrubs, and the last scrub
writes the final table and begins its check. -/
def Sys2Proof.AmendmentDrainsAndScrubs : Prop :=
  (∀ (s : State) (a : Amendment), s.sluice.amend = some a → a.stage.timed = true → a.drainLive = false →
    exec .amendDeadline s = .next ((a.changes.foldl State.returnUnit s).endAmend stTimeout planNoBody)) ∧
  (∀ (s : State) (a : Amendment), s.sluice.amend = some a → a.stage.timed = true → a.drainLive = true →
    ∃ t, exec .amendDeadline s = .next t ∧ t.sluice.checking = true ∧ t.sluice.swapPending = false ∧
      t.sluice.amend = some { a with stage := .rollbackCheck, failStatus := stTimeout } ∧ t.inactiveBank = a.preTable ∧
      t.dsp = s.dsp ∧ t.plan = s.plan) ∧
  (∀ (s : State) (a : Amendment), s.sluice.amend = some a → a.stage = .drainFrames →
    ∃ t, exec .drainFramesElapsed s = .next t ∧ t.sluice.amend = some { a with stage := .scrubbing } ∧
      t.sluice.units = (a.changes.foldl (fun s c => s.modifyUnit c.unitNo fun x => { x with state := .scrubbing }) s).sluice.units ∧
      t.dsp = s.dsp ∧ t.plan = s.plan) ∧
  (∀ (s : State) (a : Amendment) (c : UnitChange) (u : Nat) (x : SluUnit), s.sluice.units[u]? = some x →
    x.state = .scrubbing → 20 ≤ u → s.sluice.lateScrubs.contains u = false → s.sluice.amend = some a →
    a.changes.find? (·.unitNo == u) = some c → ∃ t, exec (.unitScrubDone u) s = .next t ∧
      t.sluice.units[u]? = some { owner := c.newOwner, role := c.newRole, assigned := true, state := .scrubbed } ∧
      t.dsp = s.dsp ∧ t.plan = s.plan ∧ t.regs = s.regs ∧ t.mem = s.mem ∧
      ((∀ d ∈ a.changes, (t.sluice.units[d.unitNo]?).map (·.state) = some .scrubbed) → t.sluice.checking = true ∧
        t.inactiveBank = a.image.sluice ∧ t.sluice.amend = some { a with stage := .finalCheck })) ∧
  (∀ (s : State) (u : Nat) (x : SluUnit), s.sluice.units[u]? = some x → x.state = .scrubbing → 20 ≤ u →
    s.sluice.lateScrubs.contains u = true → ∃ t, exec (.unitScrubDone u) s = .next t ∧
      t.sluice.units[u]? = some { x with state := if x.assigned then .owned else .unassigned } ∧
      t.sluice.lateScrubs = s.sluice.lateScrubs.erase u ∧ t.dsp = s.dsp)

/-- PLAN_STAGE, PLAN_AMEND and the course of an amendment. -/
def Obligations.PlanOpcodesAndAmendment : Prop :=
  PlanOpcodes ∧ AmendmentDrainsAndScrubs

/-- The crossbar makes a table that passes its check pending and refuses one that does not; a pending swap makes the other
bank active and is counted, and the final one applies the amendment and ends its item's wait with ST_OK. -/
def Obligations.SluiceChecksAndSwaps : Prop :=
  (∀ (s : State) (a : Amendment), s.sluice.checking = true → s.sluice.amend = some a → a.stage = .drainCheck →
    s.swapOk false = true → exec .sluiceCheckDone s = .next { s with sluice := { s.sluice with
      checking := false, swapPending := true, amend := some { a with stage := .drainSwap } } }) ∧
  (∀ (s : State) (a : Amendment), s.sluice.checking = true → s.sluice.amend = some a → a.stage = .finalCheck →
    s.swapOk false = true → exec .sluiceCheckDone s = .next { s with sluice := { s.sluice with
      checking := false, swapPending := true, amend := some { a with stage := .finalSwap } } }) ∧
  (∀ (s : State) (a : Amendment), s.sluice.checking = true → s.sluice.amend = some a → a.stage = .finalCheck →
    s.swapOk false = false → exec .sluiceCheckDone s = .next
      ({ s with sluice := { s.sluice with checking := false } }.rollback stBadField)) ∧
  (∀ (s : State) (a : Amendment), s.sluice.swapPending = true → s.sluice.amend = some a →
    ∃ t, exec .sluiceSwap s = .next t ∧ t.sluice.activeB = !s.sluice.activeB ∧ t.sluice.swapPending = false ∧
      t.sluice.swaps = s.sluice.swaps + 1 ∧ t.regs = s.regs ∧ t.qps = s.qps ∧ t.mem.cells = s.mem.cells ∧
      t.vault.records = s.vault.records ∧ t.sluice.bankA = s.sluice.bankA ∧ t.sluice.bankB = s.sluice.bankB ∧
      (a.stage = .drainSwap → t.sluice.amend = some { a with stage := .drainFrames, drainLive := true }) ∧
      (a.stage = .finalSwap → t.sluice.amend = none ∧ t.plan.amendSeq = a.image.amendSeq ∧
        ∀ it, s.item a.item = some it → it.phase = .yielded .amendment → t.item a.item =
          some { it with phase := .resumable, stage := 0xFF,
                         outcome := { status := stOk, origin1 := false, body := planBody s.frameNumber noSection noEntry } }))

/-! ## Faults and re-admission of units (R165 to R167, R172, R226, R227, R286, R287) -/

/-- The Sentinel acts on unit faults with the vendor defaults: VDD_AON is up, the mode is of the Service phase, no response
is in force and the plan sets no parameter. -/
def Sys2Proof.VendorDefaults (s : State) : Prop :=
  s.sys.aonUp = true ∧ s.sys.phase = .service ∧ s.sen.level = none ∧ s.plan.running.sentinel = []

/-- A fault of a furrow, a hash lane or a spread unit is counted with its unit, kind and share; the item that holds the share
ends with ST_FAULT_DETECTED; and with the vendor defaults the unit is fenced and one entry is logged. -/
def Sys2Proof.UnitFaultsFence : Prop :=
  (∀ (s : State) (u ctx : Nat) (kind : BitVec 2), s.furrowPresent u = true → ctx < 8 → kind ≠ 0x3 → s.sluFenced u = false →
    s.cfb.erased = false → ∃ t, exec (.furrowMismatch u ctx kind) s = .next t ∧
      t.cfb.mismatches = s.cfb.mismatches + 1 ∧ t.cfb.mmUnit = u ∧ t.cfb.mmKind = kind ∧ t.cfb.mmContext = ctx ∧
      t.cfb.mmTick = s.sys.tick ∧ t.regs = s.regs ∧ t.qps = s.qps ∧ t.vault.records = s.vault.records ∧
      (∀ it, s.shareHolder u ctx = some it → s.item it.id = some it → it.isDone = false → it.opcode ≠ 0x0201 →
        t.Completed it.id stFaultDetected []) ∧
      (VendorDefaults s → s.sluice.units.length = 40 → t.sluFenced u = true ∧ t.sen.logNext = s.sen.logNext + 1)) ∧
  (∀ (s : State) (lane share : Nat), lane < 16 → share < 4 → s.sluFenced (24 + lane) = false → s.cfb.erased = false →
    ∃ t, exec (.hashLaneParityError lane share) s = .next t ∧ t.cfb.mismatches = s.cfb.mismatches + 1 ∧
      t.cfb.mmUnit = 24 + lane ∧ t.cfb.mmKind = 0x3 ∧ t.cfb.mmContext = share ∧ t.regs = s.regs ∧ t.qps = s.qps ∧
      t.vault.records = s.vault.records ∧
      (∀ it, s.shareHolder (24 + lane) share = some it → s.item it.id = some it → it.isDone = false →
        it.opcode ≠ 0x0201 → t.Completed it.id stFaultDetected []) ∧
      (VendorDefaults s → s.sluice.units.length = 40 → t.sluFenced (24 + lane) = true)) ∧
  (∀ (s : State) (su share : Nat) (kind : BitVec 2), su < 4 → share < 16 → s.sluFenced (20 + su) = false →
    s.cfb.erased = false → ∃ t, exec (.spreadCheckFail su share kind) s = .next t ∧
      t.spr.mismatches = s.spr.mismatches + 1 ∧ t.spr.mmUnit = su ∧ t.spr.mmShare = share ∧ t.spr.mmKind = kind ∧
      t.regs = s.regs ∧ t.qps = s.qps ∧ t.vault.records = s.vault.records ∧
      (∀ it, s.shareHolder (20 + su) share = some it → s.item it.id = some it → it.isDone = false →
        it.opcode ≠ 0x0201 → t.Completed it.id stFaultDetected []) ∧
      (VendorDefaults s → s.sluice.units.length = 40 → t.sluFenced (20 + su) = true))

/-- A fenced unit whose test passes returns under its plan owner, and the SEN_READMIT that waits for it ends with ST_OK; a
furrow or a lane that fails counts a fence, and a spread unit or an engine that fails is locked out. -/
def Obligations.UnitsAreReadmitted : Prop :=
  (∀ (s : State) (u : Nat), s.furrowPresent u = true → s.mayReadmit u = true → s.mainServes = true →
    ∃ t, exec (.furrowReadmit u true) s = .next t ∧ t.sluFenced u = false ∧ t.mem.cells = s.mem.cells ∧ t.regs = s.regs) ∧
  (∀ (s : State) (u : Nat), s.furrowPresent u = true → s.mayReadmit u = true → s.mainServes = true →
    ∃ t, exec (.furrowReadmit u false) s = .next t ∧ t.sluFenced u = true ∧ t.regs = s.regs ∧ t.qps = s.qps ∧
      t.mem.cells = s.mem.cells ∧
      (t.cfb.furrows[u]?).map (·.fences) = (s.cfb.furrows[u]?).map (·.fences + 1)) ∧
  (∀ (s : State) (n : Nat), n < 16 → s.mayReadmit (24 + n) = true → ∃ t, exec (.hashLaneReadmit n true) s = .next t ∧
    t.sluFenced (24 + n) = false ∧ t.mem.cells = s.mem.cells ∧ t.regs = s.regs) ∧
  (∀ (s : State) (n : Nat), n < 4 → s.mayReadmit (20 + n) = true → ∃ t, exec (.spreadUnitReadmit n true) s = .next t ∧
    t.sluFenced (20 + n) = false ∧ t.mem.cells = s.mem.cells ∧ t.regs = s.regs) ∧
  (∀ (s : State) (n : Nat), n < 4 → s.mayReadmit (20 + n) = true → ∃ t, exec (.spreadUnitReadmit n false) s = .next t ∧
    t.sen.lockedOut = s.sen.lockedOut.insert (20 + n) ∧ t.sluFenced (20 + n) = true ∧ t.regs = s.regs ∧ t.qps = s.qps ∧
    t.mem.cells = s.mem.cells) ∧
  (∀ (s : State) (e : Nat), e < 8 → s.mayReadmit (0x40 + e) = true → ∃ t, exec (.pkEngineReadmit e true) s = .next t ∧
    (t.pke.engines[e]?).map (·.fenced) = some false ∧ t.regs = s.regs ∧ t.qps = s.qps ∧
    (∀ a, cisternBase e ≤ a → a < cisternBase e + 0x1_0000 → memByte t.mem.cells a = 0)) ∧
  (∀ (s : State) (it : Item), s.mayReadmit 24 = true → s.sen.readmits = [(24, some it.id)] → s.Runs it 0x0763 →
    ∃ t, exec (.hashLaneReadmit 0 true) s = .next t ∧ t.Completed it.id stOk [] ∧ t.sen.readmits = [] ∧
    t.regs = s.regs ∧ t.qps = s.qps ∧ t.mem.cells = s.mem.cells)

/-- The mask generators: one asks for its seed at 2^20 blocks, stops at 2^22 without it, and takes 32 bytes of the main DRBG
when it arrives. -/
def Sys2Proof.MaskGenerators : Prop :=
  (∀ (s : State) (u p : Nat) (g : MaskGen), s.liveGen u p = some g → g.seeded = true → 2 ^ 20 ≤ g.blocks →
    g.asked = false → exec (.maskReseedRequest u p) s = .next (s.modifyGen u p fun g => { g with asked := true })) ∧
  (∀ (s : State) (u p : Nat) (g : MaskGen), s.liveGen u p = some g → g.asked = true → 2 ^ 22 ≤ g.blocks →
    g.stopped = false → exec (.maskWaitStop u p) s = .next (s.modifyGen u p fun g => { g with stopped := true })) ∧
  (∀ (s : State) (u p : Nat) (g : MaskGen) (f : Furrow), s.liveGen u p = some g → g.asked = true → s.mainServes = true →
    s.cfb.furrows[u]? = some f → ∃ t f', exec (.maskSeedArrive u p) s = .next t ∧ t.cfb.furrows[u]? = some f' ∧
      f'.gen p = { seeded := true, blocks := 0, asked := false, stopped := false } ∧ f'.gen (1 - p) = f.gen (1 - p) ∧
      f'.reseeds = f.reseeds + 1 ∧ t.mem = s.mem ∧ t.regs = s.regs ∧ t.dsp = s.dsp)

/-- Faults of furrows, lanes and spread units, and the mask generators. -/
def Obligations.UnitFaultsAndMasks : Prop :=
  UnitFaultsFence ∧ MaskGenerators

/-! ## The Sentinel (R408 to R436) -/

/-- A tick whose samples hold no condition notes their values and nothing else; one with a condition of HALT level in the
Service phase leads to Alarm Hold, erases what a HALT erases, ends every item with ST_ALARM_HALT and logs one entry. -/
def Sys2Proof.SampledAlarmsAct : Prop :=
  (∀ (s : State) (x : Sample), s.sys.aonUp = true → sampled x = true → x.cls ≠ 0 → s.condition x = false →
    exec (.alarmRaise [x]) s = .next (s.setMonitor x.cls x.inst { s.monitor x.cls x.inst with value := x.value })) ∧
  (∀ (s : State) (x : Sample), VendorDefaults s → sampled x = true → x.cls = 0x2 → s.condition x = true →
    s.sen.underTest = none → (s.monitor x.cls x.inst).lastEntry = none → ∃ t, exec (.alarmRaise [x]) s = .next t ∧ t.sys.phase = .alarmHold ∧
      t.sen.level = some .halt ∧ t.sen.logNext = s.sen.logNext + 1 ∧ t.vault.cache = [] ∧ t.vault.sessions = [] ∧
      t.ent.main = none ∧ t.mem.keyLoaded = false ∧ t.dsp.halted = true ∧ t.dsp.cores.all (·.fenced) = true ∧
      t.vault.records = s.vault.records ∧
      (∀ it, s.item it.id = some it → it ∈ s.itemList → it.phase = .ready → it.opcode ≠ 0x0201 →
        t.Ended it.id { status := stAlarmHalt, origin1 := true, body := padTo 24 (zeros 8 ++ leBytes 2 0xFFFF) }))

/-- The rotation puts the next instance under test; a test that passes clears FAILED, one that fails sets it and logs an
entry of its own, and the last test of a SEN_BIST completes it with its counts. -/
def Sys2Proof.BuiltInTests : Prop :=
  (∀ (s : State), s.sys.phase = .service → s.sen.bist = none → s.sen.underTest = none → exec .bistRotation s =
    .next { s with sen := { s.sen with
      rotation := (s.sen.rotation % bistInstances.length + 1) % bistInstances.length
      underTest := bistInstances[s.sen.rotation % bistInstances.length]? } }) ∧
  (∀ (s : State) (c i : Nat), s.sys.phase ≠ .boot → s.sen.bist = none → s.sen.underTest = some (c, i) →
    exec (.bistTestDone c i true) s = .next
      { s.setMonitor c i { s.monitor c i with failed := false } with sen :=
        { (s.setMonitor c i { s.monitor c i with failed := false }).sen with underTest := none } }) ∧
  (∀ (s : State) (i : Nat), s.sys.aonUp = true → s.sys.phase = .service → s.sen.level = none → s.sen.bist = none →
    s.sen.underTest = some (0x2, i) → i < 8 → (∃ j, j < 8 ∧ j ≠ i ∧ (s.monitor 0x2 j).failed = false) →
    ∃ t, exec (.bistTestDone 0x2 i false) s = .next t ∧ (t.monitor 0x2 i).failed = true ∧ t.sen.underTest = none ∧
      t.sen.logNext = s.sen.logNext + 1 ∧ t.sys.phase = .service ∧ t.regs = s.regs ∧ t.qps = s.qps ∧
      t.mem.cells = s.mem.cells ∧ t.vault = s.vault) ∧
  (∀ (s : State) (it : Item) (r : BistRun) (c i : Nat), s.sys.phase ≠ .boot → s.sen.underTest = some (c, i) →
    s.sen.bist = some r → r.item = some it.id → r.todo.length = 1 → s.Runs it 0x0761 →
    ∃ t, exec (.bistTestDone c i true) s = .next t ∧ t.regs = s.regs ∧ t.qps = s.qps ∧ t.mem.cells = s.mem.cells ∧
    ∃ lost, t.Completed it.id stOk
      (leBytes 8 (r.tested + 1) ++ leBytes 4 r.failed ++ leBytes 1 lost)) ∧
  (∀ (s : State) (it : Item), s.Runs it 0x0761 → it.stage ≠ 1 → zeroRange it.desc 18 64 = true →
    it.byte 16 ≤ 0x5 ∨ it.byte 16 = 0x9 ∨ it.byte 16 = 0xFF → it.bistNamed ≠ [] → s.sen.bist = none →
    exec (.senBist it.id) s = .next ((s.setItem { it with stage := 1 }).startBist
      { item := some it.id, todo := it.bistNamed, tested := 0, failed := 0 }))

/-- Sampled alarms and built-in tests act as their levels say. -/
def Obligations.SentinelActs : Prop :=
  SampledAlarmsAct ∧ BuiltInTests

/-- SEN_LOG_READ writes the entries that it finds from FIRST on; SEN_FENCE fences a unit and logs K1; SEN_READMIT waits for
the tests of its unit, or resets a core; SEN_RESERVE reports a full measurement. -/
def Obligations.SentinelOpcodes : Prop :=
  (∀ (s : State) (it : Item) (es : List LogEntry), s.Runs it 0x0760 → zeroRange it.desc 36 64 = true →
    1 ≤ it.le 20 4 → it.le 20 4 ≤ 2040 → it.le 24 8 % 64 = 0 → 32 ≤ it.le 32 4 → es ≠ [] →
    es = (s.sen.log.reverse.filter fun e => decide (max (it.le 16 4) s.logOldest ≤ e.seq.toNat)).take
      (min (it.le 20 4) (it.le 32 4 / 32)) →
    exec (.senLogRead it.id) s = .next ((s.writeOut it.id (it.le 24 8) (es.map LogEntry.bytes).flatten).complete it.id stOk
      (leBytes 8 es.length ++ leBytes 4 (max (it.le 16 4) s.logOldest) ++
        leBytes 4 (max (it.le 16 4) s.logOldest + es.length) ++ leBytes 1 (b2n (decide (it.le 16 4 < s.logOldest)))))) ∧
  (∀ (s : State) (it : Item) (u : Nat), s.Runs it 0x0762 → VendorDefaults s → s.sluice.units.length = 40 →
    zeroRange it.desc 18 64 = true → s.namedUnit it = some u → u < 40 → s.unitFenced u = false →
    (∀ j ∈ s.itemList, j.id = it.id → j.claim.shares = []) → (∀ a, s.sluice.amend = some a → a.item ≠ it.id) →
    ∃ t, exec (.senFence it.id) s = .next t ∧ t.sluFenced u = true ∧
      t.sen.operatorFenced = s.sen.operatorFenced.insert u ∧ t.sen.logNext = s.sen.logNext + 1 ∧
      t.Completed it.id stOk (okBody 1 []) ∧ t.regs = s.regs ∧ t.qps = s.qps ∧ t.mem.cells = s.mem.cells ∧
      t.vault.records = s.vault.records) ∧
  (∀ (s : State) (it : Item) (u : Nat), s.Runs it 0x0763 → it.stage ≠ 1 → zeroRange it.desc 18 64 = true →
    s.namedUnit it = some u → s.sen.operatorFenced.contains u = true → s.sen.lockedOut.contains u = false → u < 0x80 →
    exec (.senReadmit it.id) s = .next { s.setItem { it with stage := 1 } with
      sen := { s.sen with readmits := s.sen.readmits ++ [(u, some it.id)] } }) ∧
  (∀ (s : State) (it : Item) (c : Nat), s.Runs it 0x0763 → it.stage ≠ 1 → zeroRange it.desc 18 64 = true →
    s.namedUnit it = some (0x80 + c) → s.sen.operatorFenced.contains (0x80 + c) = true →
    s.sen.lockedOut.contains (0x80 + c) = false → c < s.dsp.cores.length → ∃ t, exec (.senReadmit it.id) s = .next t ∧
      (t.dsp.cores[c]?).map (·.fenced) = some false ∧ t.Completed it.id stOk (okBody 0 []) ∧
      t.sen.operatorFenced = s.sen.operatorFenced.erase (0x80 + c) ∧ t.regs = s.regs ∧ t.qps = s.qps ∧
      t.plan = s.plan) ∧
  (∀ (s : State) (it : Item) (r : ReserveReading), s.Runs it 0x0764 → zeroRange it.desc 16 64 = true →
    s.mayMeasure = true → s.vault.retryRetire = [] → ∃ t, t = { s with
      sen := { s.sen with vresMv := r.vresMv, capUf := r.capUf, esrMohm := r.esrMohm, measured := true } } ∧
    exec (.senReserve it.id r) s = .next (t.complete it.id stOk (leBytes 8 t.eUse ++ leBytes 2 r.vresMv ++
      leBytes 2 r.esrMohm ++ leBytes 4 r.capUf ++ leBytes 2 t.reserved)))

/-! ## The symmetric opcodes (R147, R173 to R183) -/

/-- A symmetric item can produce its result: it runs with its claim, no furrow that it holds waits for a mask seed, and its
input has arrived, AAD before the payload and the expected tag behind it. -/
def Sys2Proof.SymReady (s : State) (it : Item) (op : Nat) (b : List Byte) : Prop :=
  s.Runs it op ∧ it.claimed = true ∧ s.maskWaits it = false ∧ s.cfb.erased = false ∧
    it.hostBytes it.symSrc (it.symAad + it.symLen + it.symExpect) = some b

/-- The AAD, the payload and the expected tag of the input. -/
def Sys2Proof.symAadOf (it : Item) (b : List Byte) : List Byte := slice b 0 it.symAad
def Sys2Proof.symTextOf (it : Item) (b : List Byte) : List Byte := slice b it.symAad it.symLen
def Sys2Proof.symTagOf (it : Item) (b : List Byte) : List Byte := slice b (it.symAad + it.symLen) it.symExpect

/-- An item has completed with ST_OK: its output stands at DST, its record carries the output's length and the nonce, and
registers, queue pairs, device memory and keys are as they were. -/
def Sys2Proof.SymWrites (s t : State) (it : Item) (out nonce : List Byte) : Prop :=
  t.Completed it.id stOk (okBody out.length nonce) ∧
  (out ≠ [] → .host { fn := it.fn, iova := BitVec.ofNat 64 it.symDst, bytes := out } ∈ t.out) ∧
  t.regs = s.regs ∧ t.qps = s.qps ∧ t.mem.cells = s.mem.cells ∧ t.sys = s.sys ∧ t.plan = s.plan ∧ t.sen = s.sen ∧
  t.vault.records = s.vault.records ∧ t.vault.sessions = s.vault.sessions ∧ t.vault.counters = s.vault.counters

/-- CTR, CBC, XTS and CMAC_GEN write what their mode of AES gives under the claimed key; HASH and HMAC_GEN write a digest
and its truncated MAC. -/
def Sys2Proof.SymmetricResultsAreWritten : Prop :=
  (∀ (s : State) (it : Item) (b : List Byte), SymReady s it 0x0103 b → ∃ t, exec (.ctrEnc it.id) s = .next t ∧
    SymWrites s t it (ctrMode (ctrWidth it.symOpt) (it.material it.key) it.symIv (symTextOf it b)) []) ∧
  (∀ (s : State) (it : Item) (b : List Byte), SymReady s it 0x0104 b → ∃ t, exec (.ctrDec it.id) s = .next t ∧
    SymWrites s t it (ctrMode (ctrWidth it.symOpt) (it.material it.key) it.symIv (symTextOf it b)) []) ∧
  (∀ (s : State) (it : Item) (b : List Byte), SymReady s it 0x0105 b → ∃ t, exec (.cbcEnc it.id) s = .next t ∧
    SymWrites s t it (Sys2Proof.Machine.cbcEnc (aesBlock true (it.material it.key)) 16 it.symIv (symTextOf it b)) []) ∧
  (∀ (s : State) (it : Item) (b : List Byte), SymReady s it 0x0106 b → ∃ t, exec (.cbcDec it.id) s = .next t ∧
    SymWrites s t it (Sys2Proof.Machine.cbcDec (aesBlock false (it.material it.key)) 16 it.symIv (symTextOf it b)) []) ∧
  (∀ (s : State) (it : Item) (b : List Byte), SymReady s it 0x0107 b → ∃ t, exec (.cmacGen it.id) s = .next t ∧
    SymWrites s t it ((aesCmac (it.material it.key) (symTextOf it b)).take it.symTag) []) ∧
  (∀ (s : State) (it : Item) (b : List Byte), SymReady s it 0x0109 b → ∃ t, exec (.xtsEnc it.id) s = .next t ∧
    SymWrites s t it (xtsUnits true (it.material it.key) (it.material it.symKey2) it.symIv it.symAux (symTextOf it b)) []) ∧
  (∀ (s : State) (it : Item) (b : List Byte), SymReady s it 0x010A b → ∃ t, exec (.xtsDec it.id) s = .next t ∧
    SymWrites s t it (xtsUnits false (it.material it.key) (it.material it.symKey2) it.symIv it.symAux (symTextOf it b)) []) ∧
  (∀ (s : State) (it : Item) (b : List Byte), SymReady s it 0x0110 b → ∃ t, exec (.hash it.id) s = .next t ∧
    SymWrites s t it (digest it.symOpt (symTextOf it b)) []) ∧
  (∀ (s : State) (it : Item) (b : List Byte), SymReady s it 0x0111 b → ∃ t, exec (.hmacGen it.id) s = .next t ∧
    SymWrites s t it ((hmac it.symOpt (it.material it.key) (symTextOf it b)).take it.symTag) [])

/-- CMAC_VER and HMAC_VER write nothing and complete with ST_OK on the expected tag and ST_TAG_MISMATCH on any other. -/
def Sys2Proof.MacVerdicts : Prop :=
  (∀ (s : State) (it : Item) (b : List Byte), SymReady s it 0x0108 b → ∃ t, exec (.cmacVer it.id) s = .next t ∧
    ((aesCmac (it.material it.key) (symTextOf it b)).take it.symTag = symTagOf it b → SymWrites s t it [] []) ∧
    ((aesCmac (it.material it.key) (symTextOf it b)).take it.symTag ≠ symTagOf it b →
      t.Completed it.id stTagMismatch [] ∧ t.regs = s.regs ∧ t.qps = s.qps ∧ t.mem.cells = s.mem.cells)) ∧
  (∀ (s : State) (it : Item) (b : List Byte), SymReady s it 0x0112 b → ∃ t, exec (.hmacVer it.id) s = .next t ∧
    ((hmac it.symOpt (it.material it.key) (symTextOf it b)).take it.symTag = symTagOf it b → SymWrites s t it [] []) ∧
    ((hmac it.symOpt (it.material it.key) (symTextOf it b)).take it.symTag ≠ symTagOf it b →
      t.Completed it.id stTagMismatch [] ∧ t.regs = s.regs ∧ t.qps = s.qps ∧ t.mem.cells = s.mem.cells))

/-- The nonce of a GCM_ENC: the key's prefix, then its counter value. -/
def Sys2Proof.gcmNonce (it : Item) (c : DWord) : List Byte :=
  leBytes 4 (((it.held it.key).map (·.noncePrefix.toNat)).getD 0) ++ leBytes 8 c.toNat

/-- GCM_ENC takes one value of its key's counter and writes the ciphertext and the truncated tag under the nonce that it
makes; GCM_DEC writes the plaintext only under the expected tag, and up to 1 MiB writes nothing under any other. -/
def Sys2Proof.GcmSealsAndOpens : Prop :=
  (∀ (s s' : State) (it : Item) (b : List Byte) (c : DWord), SymReady s it 0x0101 b →
    s.takeNonce it.key 1 false = .taken c s' → s'.item it.id = some it → ∃ t, exec (.gcmEnc it.id) s = .next t ∧
      SymWrites s' t it (gcmCrypt (it.material it.key) (gcmNonce it c) (symTextOf it b) ++
        (gcmTag (it.material it.key) (gcmNonce it c) (symAadOf it b)
          (gcmCrypt (it.material it.key) (gcmNonce it c) (symTextOf it b))).take it.symTag) (gcmNonce it c)) ∧
  (∀ (s : State) (it : Item) (b : List Byte), SymReady s it 0x0102 b → ∃ t, exec (.gcmDec it.id) s = .next t ∧
    ((gcmTag (it.material it.key) (it.symIv.take 12) (symAadOf it b) (symTextOf it b)).take it.symTag = symTagOf it b →
      SymWrites s t it (gcmCrypt (it.material it.key) (it.symIv.take 12) (symTextOf it b)) []) ∧
    ((gcmTag (it.material it.key) (it.symIv.take 12) (symAadOf it b) (symTextOf it b)).take it.symTag ≠ symTagOf it b →
      t.Completed it.id stTagMismatch [] ∧
      (it.symLen ≤ 2 ^ 20 → t = (s.countWork it ((it.symLen + 15) / 16) it.symLen).failItem it.id stTagMismatch)))

/-- Symmetric opcodes write their results, verify tags and open only what verifies. -/
def Obligations.SymmetricOpcodes : Prop :=
  SymmetricResultsAreWritten ∧ MacVerdicts ∧ GcmSealsAndOpens

/-- No counter value is given twice: a request of a session key or of a live counter gets the value that the counter holds,
and the counter moves past it; one that would pass 2^64 − 1 is refused. -/
def Obligations.CounterValuesAreTakenOnce : Prop :=
  (∀ (s : State) (h : Word) (n : Nat), hClass h = 2 → counterServes (s.session (hIndex h)).counter n = true →
    ∃ t, s.takeNonce h n false = .taken (s.session (hIndex h)).counter t ∧
      (t.session (hIndex h)).counter = (s.session (hIndex h)).counter + BitVec.ofNat 64 n ∧
      (∀ i, i ≠ hIndex h → t.session i = s.session i) ∧ t.vault.records = s.vault.records) ∧
  (∀ (s : State) (h : Word) (n : Nat), hClass h ≠ 2 → (s.counter (hIndex h)).live = true →
    counterServes (s.counter (hIndex h)).value n = true →
    (s.counter (hIndex h)).value.toNat + n + 2 ^ 19 < (s.counter (hIndex h)).limit.toNat →
    s.takeNonce h n false = .taken (s.counter (hIndex h)).value (s.setCounter (hIndex h)
      { s.counter (hIndex h) with value := (s.counter (hIndex h)).value + BitVec.ofNat 64 n })) ∧
  (∀ (s : State) (h : Word) (n : Nat), hClass h = 2 → counterServes (s.session (hIndex h)).counter n = false →
    ∃ t, s.takeNonce h n false = .refused stNonceExhausted t ∧ (t.session (hIndex h)).live = false)

/-! ## Stores and the vault's opcodes (R102, R129 to R156, R429, R442 to R457) -/

/-- A store is admitted at once: it is no mirror commit, stores are open and the reserve covers its budget. -/
def Sys2Proof.StoreReady (s : State) (a : StoreAction) : Prop :=
  (s.ring.member && a.mirrored) = false ∧ s.storesOpen = true ∧ s.reserveCovers (storeBudget a) = true

/-- The state after a running item has asked for an admitted store: it has yielded its core with the outcome that the
commit will give it, and the store is the newest of the list. -/
def Sys2Proof.asked (s : State) (it : Item) (a : StoreAction) (o : Outcome) : State :=
  ((s.setItem { it with outcome := o, stage := 0xFE }).yieldItem it.id .store).addStore (some it.id) a true false

/-- An outcome ST_OK with RESULT and bytes 16 to 31. -/
def Sys2Proof.okOutcome (result : Nat) (rest : List Byte) : Outcome := outcome stOk (okBody result rest)

/-- KEY_GENERATE draws its material and creates the key; KEY_IMPORT creates a symmetric key, and opens the validation
window of an asymmetric one; KEY_DERIVE derives material from the parent by the KDF and creates a key one generation
deeper; KEY_TEMPLATE asks for the store of a template. -/
def Sys2Proof.KeysAreMadeAsSpecified : Prop :=
  (∀ (s s' : State) (it : Item) (m : List Byte), s.Runs it 0x0501 → s.generateCheck it = none →
    s.newMaterial it.tenantByte it.keySpec.alg = some (m, s') →
    exec (.keyGenerate it.id) s = .next (s'.createKey it it.keySpec.cls
      { attr := finalAttr it.keySpec.attr false (attrBound it.keySpec.attr) it.tenantByte it.keySpec.alg, parent := noHandle
        depth := 0, noncePrefix := it.keySpec.noncePrefix, material := m, pubOnly := false }
      (newKeyBody it.keySpec.alg false m))) ∧
  (∀ (s : State) (it : Item) (blob : List Byte), s.Runs it 0x0502 → s.workOf it.id = none → s.importCheck it = none →
    it.hostBytes (it.le 40 8) (it.le 32 4) = some blob →
    ∃ t, exec (.keyImport it.id) s = .next t ∧
      (∀ st, s.importMaterial it blob = .error st → t.Completed it.id st [] ∧ ItemFrame s t) ∧
      (∀ m, s.importMaterial it blob = .ok m → algIsAsym it.keySpec.alg = true →
        t.workOf it.id = some { item := it.id, engine := 0xFF, stage := .window, status := stOk, out := [], body := []
                                jobs := 0, cycles := 0 } ∧ t.vault = s.vault ∧ t.dsp = s.dsp) ∧
      (∀ m, s.importMaterial it blob = .ok m → algIsAsym it.keySpec.alg = false →
        t = s.createKey it it.keySpec.cls
          { attr := finalAttr it.keySpec.attr true (attrBound it.keySpec.attr) it.tenantByte it.keySpec.alg
            parent := noHandle, depth := 0, noncePrefix := it.keySpec.noncePrefix, material := m
            pubOnly := it.keySpec.format == 1 } (newKeyBody it.keySpec.alg (it.keySpec.format == 1) m))) ∧
  (∀ (s : State) (it : Item) (ctx : List Byte), s.Runs it 0x0504 → it.byte 33 ≤ 64 →
    zeroRange it.desc 34 36 = true → zeroRange it.desc 56 64 = true → hClass it.key ≠ 3 → it.byte 18 = 0 →
    labelOk (it.byte 32) (slice it.desc 36 12) = true → s.parentCheck it.key = none →
    s.derivedOk it.key it.keySpec = true → s.specCheck it.tenantByte it.keySpec = none →
    it.hostBytes (it.le 48 8) (it.byte 33) = some ctx →
    exec (.keyDerive it.id) s =
      .next (s.deriveKey it it.key it.keySpec ((slice it.desc 36 12).take (it.byte 32)) ctx)) ∧
  (∀ (s : State) (it : Item) (ctx : List Byte) (x : Template), s.Runs it 0x0504 → it.byte 33 ≤ 64 →
    zeroRange it.desc 34 36 = true → zeroRange it.desc 56 64 = true → hClass it.key = 3 →
    tabGet s.vault.templates (hIndex it.key) = some x → zeroRange it.desc 16 33 = true → zeroRange it.desc 36 48 = true →
    s.ancestorsOk 3 it.key = true → s.parentCheck x.parent = none → s.derivedOk x.parent x.spec = true →
    s.specCheck it.tenantByte x.spec = none → it.hostBytes (it.le 48 8) (it.byte 33) = some ctx →
    exec (.keyDerive it.id) s = .next (s.deriveKey it x.parent x.spec x.label ctx)) ∧
  (∀ (s : State) (it : Item) (parent : Word) (k : KeySpec) (label ctx m : List Byte) (p : KeyView),
    s.keyView parent = some p → k.alg ≠ 0x10 →
    m = kdf p.material label ctx (8 * ((algRow k.alg).map AlgRow.matMax).getD 0) →
    s.deriveKey it parent k label ctx =
      { s with vault := { s.vault with kdfCount := s.vault.kdfCount + 1 } }.createKey it k.cls
        { attr := finalAttr k.attr (attrOrigin p.attr) (attrBound p.attr) it.tenantByte k.alg, parent := parent
          depth := p.depth + 1, noncePrefix := k.noncePrefix, material := m, pubOnly := false }
        (newKeyBody k.alg false m)) ∧
  (∀ (s : State) (it : Item) (i : Nat) (p : KeyView) (a : StoreAction), s.Runs it 0x050C → it.byte 18 = 0 →
    zeroRange it.desc 33 36 = true → zeroRange it.desc 48 64 = true →
    labelOk (it.byte 32) (slice it.desc 36 12) = true → hClass it.key ≠ 3 → s.parentCheck it.key = none →
    s.specOk it.keySpec = true → s.derivedOk it.key it.keySpec = true → s.quotaLeft it.tenantByte 3 = true →
    s.freeTemplateIndex = some i → s.keyView it.key = some p →
    a = .putTemplate i
      { attr := finalAttr it.keySpec.attr (attrOrigin p.attr) (attrBound p.attr) it.tenantByte it.keySpec.alg
        parent := it.key, gen := tabGetD s.vault.tmplGen i 0, depth := p.depth + 1
        label := (slice it.desc 36 12).take (it.byte 32), outClass := it.keySpec.cls, outPrefix := it.keySpec.noncePrefix
        retired := false } → StoreReady s a →
    exec (.keyTemplate it.id) s =
      .next (asked s it a (okOutcome (mkHandle 3 i (tabGetD s.vault.tmplGen i 0)).toNat [])))

/-- A session key takes the lowest free index of its tenant's range at once, with the next write serial and a counter at
zero; a persistent key takes the lowest free index when its store commits. The handle names class, index and generation. -/
def Sys2Proof.CreatedKeysTakeTheirIndex : Prop :=
  (∀ (s : State) (it : Item) (op : Nat) (k : NewKey) (body : Word → List Byte) (i : Nat), s.Runs it op →
    s.freeSessionIndex (attrTenant k.attr) = some i →
    (s.createKey it 2 k body).Completed it.id stOk (body (mkHandle 2 i (s.session i).gen)) ∧
    (s.createKey it 2 k body).session i =
      { gen := (s.session i).gen, live := true, depth := k.depth, parent := k.parent
        writeSerial := s.vault.writeSerial + 1, attr := k.attr, counter := 0, noncePrefix := k.noncePrefix
        material := k.material, pubOnly := k.pubOnly } ∧
    (∀ j, j ≠ i → (s.createKey it 2 k body).session j = s.session j) ∧
    (s.createKey it 2 k body).vault.records = s.vault.records ∧ (s.createKey it 2 k body).regs = s.regs ∧
    (s.createKey it 2 k body).qps = s.qps ∧ (s.createKey it 2 k body).mem.cells = s.mem.cells) ∧
  (∀ (s : State) (it : Item) (op : Nat) (k : NewKey) (body : Word → List Byte) (i : Nat), s.Runs it op →
    s.freeRecordIndex = some i → s.heapUsed + heapBlocksOf k ≤ 78592 →
    StoreReady s (.putRecord i (s.newRecord k (tabGetD s.vault.genArray i 0))) →
    s.createKey it 1 k body = asked s it (.putRecord i (s.newRecord k (tabGetD s.vault.genArray i 0)))
      (outcome stOk (body (mkHandle 1 i (tabGetD s.vault.genArray i 0)))))

/-- Keys are generated, imported, derived and given their index. -/
def Obligations.KeysAreMadeAndIndexed : Prop :=
  KeysAreMadeAsSpecified ∧ CreatedKeysTakeTheirIndex

/-- KEY_RETIRE and KEY_PURGE ask for the store of their change; a second closing of seals completes at once; KEY_FREE
frees the entry at once with the next generation and completes after the revocation scan, which marks the cached
descendants. -/
def Obligations.KeysAreRetiredPurgedAndFreed : Prop :=
  (∀ (s : State) (it : Item), s.Runs it 0x0505 → it.byte 16 = 0 → zeroRange it.desc 17 64 = true → hClass it.key ≠ 2 →
    StoreReady s (.retire it.key) →
    exec (.keyRetire it.id) s = .next (asked s it (.retire it.key) (okOutcome (hGen it.key + 1).toNat []))) ∧
  (∀ (s : State) (it : Item) (r : KeyRecord), s.Runs it 0x0505 → it.byte 16 = 1 → zeroRange it.desc 17 64 = true →
    hClass it.key = 1 → tabGet s.vault.records (hIndex it.key) = some r → isRootAlg (attrAlg r.attr) = true →
    r.sealsClosed = false → StoreReady s (.closeSeals it.key) →
    exec (.keyRetire it.id) s =
      .next (asked s it (.closeSeals it.key) (okOutcome (s.currentGen it.key).toNat []))) ∧
  (∀ (s : State) (it : Item) (r : KeyRecord), s.Runs it 0x0505 → it.byte 16 = 1 → zeroRange it.desc 17 64 = true →
    hClass it.key = 1 → tabGet s.vault.records (hIndex it.key) = some r → isRootAlg (attrAlg r.attr) = true →
    r.sealsClosed = true →
    exec (.keyRetire it.id) s = .next (s.complete it.id stOk (okBody (s.currentGen it.key).toNat []))) ∧
  (∀ (s : State) (it : Item) (a : DWord), s.Runs it 0x0506 → zeroRange it.desc 16 64 = true →
    s.slotAttr it.key = some (a, true) → StoreReady s (.purge it.key) →
    exec (.keyPurge it.id) s = .next (asked s it (.purge it.key) (okOutcome 0 []))) ∧
  (∀ (s : State) (it : Item), s.Runs it 0x0507 → zeroRange it.desc 16 64 = true → hClass it.key = 2 →
    ∃ t, exec (.keyFree it.id) s = .next t ∧ t.Waits it.id .keyCommit ∧ (t.session (hIndex it.key)).live = false ∧
      (t.session (hIndex it.key)).gen = (s.session (hIndex it.key)).gen + 1 ∧
      (t.session (hIndex it.key)).material = [] ∧ (∀ j, j ≠ hIndex it.key → t.session j = s.session j) ∧
      t.vault.scans = s.vault.scans ++ [{ item := it.id, handle := it.key, result := hGen it.key + 1 }] ∧
      t.vault.records = s.vault.records ∧ t.regs = s.regs ∧ t.qps = s.qps ∧ t.mem.cells = s.mem.cells) ∧
  (∀ (s : State) (it : Item) (x : RevScan), s.item it.id = some it → it.phase = .yielded .keyCommit →
    s.vault.scans.find? (·.item == it.id) = some x →
    ∃ t, exec (.revocationScanDone it.id) s = .next t ∧
      t.item it.id = some { it with phase := .resumable, stage := 0xFF, outcome := okOutcome x.result.toNat [] } ∧
      t.vault.scans = s.vault.scans.filter (·.item != it.id) ∧
      t.vault.cache = s.vault.cache.map (fun e =>
        if s.descends x.handle 3 e.handle || e.handle == x.handle then { e with stale := true } else e) ∧
      t.vault.records = s.vault.records ∧ t.vault.sessions = s.vault.sessions ∧ t.regs = s.regs ∧ t.qps = s.qps ∧
      t.mem = s.mem)

/-- A reporting opcode writes its bytes to the descriptor's address and completes with their length; the vault keeps all
that it holds. -/
def Sys2Proof.Reports (s t : State) (it : Item) (iova : Nat) (out : List Byte) : Prop :=
  t = (s.writeOut it.id iova out).complete it.id stOk (okBody out.length [])

/-- KEY_EXPORT, KEY_INFO, KEY_PUBLIC, KEY_ATTEST and KEY_DEVICE_CERT write what they report. -/
def Obligations.KeyReportsAreWritten : Prop :=
  (∀ (s : State) (it : Item) (tgt : Word) (k : KeyView), s.Runs it 0x0503 → tgt = BitVec.ofNat 32 (it.le 16 4) →
    zeroRange it.desc 32 64 = true → it.le 24 8 % 8 = 0 → s.itemHandle it tgt = none → s.wrapCheck it.key useWrap = none →
    s.readCheck tgt = none → s.keyView tgt = some k → attrExport k.attr = true →
    (kwpWrap (s.keyMaterial it.key) (wrapPayload (attrAlg k.attr) k.attr k.material)).length ≤ it.le 20 4 →
    ∃ t, exec (.keyExport it.id) s = .next t ∧
      Reports s t it (it.le 24 8) (kwpWrap (s.keyMaterial it.key) (wrapPayload (attrAlg k.attr) k.attr k.material))) ∧
  (∀ (s : State) (it : Item) (a : DWord) (parent np : Word) (depth : Nat) (id : List Byte), s.Runs it 0x0508 →
    zeroRange it.desc 24 64 = true → it.le 16 8 % 64 = 0 → s.reportCheck it.key = none →
    s.describe it.key = some (a, parent, depth, np, id) →
    exec (.keyInfo it.id) s = .next ((s.writeOut it.id (it.le 16 8) (leBytes 4 it.key.toNat ++ [s.currentGen it.key] ++
      leBytes 1 depth ++ leBytes 1 (s.keyFlags it.key) ++ [0] ++ leBytes 8 a.toNat ++ leBytes 4 parent.toNat ++
      leBytes 8 (s.reportCounter it.key a) ++ leBytes 4 np.toNat ++ id.take 8 ++ zeros 24)).complete it.id stOk
      (okBody 64 []))) ∧
  (∀ (s : State) (it : Item) (k : KeyView), s.Runs it 0x0509 → zeroRange it.desc 20 24 = true →
    zeroRange it.desc 32 64 = true → s.reportCheck it.key = none → s.keyView it.key = some k →
    algIsAsym (attrAlg k.attr) = true → (publicPart (attrAlg k.attr) k.pubOnly k.material).length ≤ it.le 16 4 →
    ∃ t, exec (.keyPublic it.id) s = .next t ∧
      Reports s t it (it.le 24 8) (publicPart (attrAlg k.attr) k.pubOnly k.material)) ∧
  (∀ (s : State) (it : Item), s.Runs it 0x050A → s.attestCheck it = none → it.key = noHandle →
    exec (.keyAttest it.id) s = .next (((s.deviceReport it.tenantByte (slice it.desc 16 32)).2.writeOut it.id (it.le 48 8)
      (s.deviceReport it.tenantByte (slice it.desc 16 32)).1).complete it.id stOk (okBody 352 []))) ∧
  (∀ (s : State) (it : Item) (a : DWord) (parent np : Word) (depth : Nat) (id : List Byte) (r : List Byte × State),
    s.Runs it 0x050A → s.attestCheck it = none → it.key ≠ noHandle → s.reportCheck it.key = none →
    s.describe it.key = some (a, parent, depth, np, id) →
    r = s.signReport (s.reportHead 1 it.tenantByte it.key a parent depth (s.keyFlags it.key) (s.reportCounter it.key a) id
      (slice it.desc 16 32)) →
    exec (.keyAttest it.id) s =
      .next ((r.2.writeOut it.id (it.le 48 8) r.1).complete it.id stOk (okBody 352 []))) ∧
  (∀ (s : State) (it : Item), s.Runs it 0x050B → zeroRange it.desc 20 24 = true → zeroRange it.desc 32 64 = true →
    s.certChain.length ≤ it.le 16 4 →
    ∃ t, exec (.keyDeviceCert it.id) s = .next t ∧ Reports s t it (it.le 24 8) s.certChain)

/-- LC_TRANSITION consumes its session and asks for the store of the next slot's INTENT, in DIAGNOSTIC without a session;
to DIAGNOSTIC it asks only under a valid token. LC_DEBUG_OPEN opens the scopes of a valid token, and ends with the status
of the check that refuses it. -/
def Obligations.LifeCycleOpcodes : Prop :=
  (∀ (s : State) (it : Item) (a : StoreAction), s.Runs it 0x0731 → s.lcCheck it = none → it.byte 20 ≠ lcDiagnostic →
    it.le 16 4 = 0 → a = .otpSlot s.nextSlot (codeword (it.byte 20)) 0 → StoreReady s a →
    exec (.lcTransition it.id) s =
      .next (asked s it a (outcome stOk (leBytes 8 s.nextSlot ++ leBytes 4 0)))) ∧
  (∀ (s : State) (it : Item) (a : StoreAction), s.Runs it 0x0731 → s.lcCheck it = none → it.byte 20 ≠ lcDiagnostic →
    it.le 16 4 ≠ 0 → s.consumeAsk (BitVec.ofNat 32 (it.le 16 4)) 0x04 (leBytes 1 (it.byte 20) ++ zeros 31) = .ready →
    a = .otpSlot s.nextSlot (codeword (it.byte 20)) 0 → StoreReady s a →
    exec (.lcTransition it.id) s =
      .next (s.closeSession.storeFor it.id a (outcome stOk (leBytes 8 s.nextSlot ++ leBytes 4 0)))) ∧
  (∀ (s : State) (it : Item) (tok : List Byte), s.Runs it 0x0731 → s.lcCheck it = none → it.byte 20 = lcDiagnostic →
    it.le 16 4 ≠ 0 → it.hostBytes (it.le 24 8) 257 = some tok →
    ∃ t, exec (.lcTransition it.id) s = .next t ∧
      (∀ st, s.tokenCheck .reopen tok = some st → t.Completed it.id st [] ∧ ItemFrame s t) ∧
      (s.tokenCheck .reopen tok = none →
        (s.consumeAsk (BitVec.ofNat 32 (it.le 16 4)) 0x05 ((sha384 (tok.take 160)).take 32) = .missing →
          t.Completed it.id stQuorumMissing [] ∧ ItemFrame s t) ∧
        (s.consumeAsk (BitVec.ofNat 32 (it.le 16 4)) 0x05 ((sha384 (tok.take 160)).take 32) = .waits →
          t.Waits it.id .quorum ∧ ItemFrame s t) ∧
        (s.consumeAsk (BitVec.ofNat 32 (it.le 16 4)) 0x05 ((sha384 (tok.take 160)).take 32) = .ready →
          t = s.recordSlot it lcDiagnostic (tokenTag tok)))) ∧
  (∀ (s : State) (it : Item) (tok : List Byte), s.Runs it 0x0732 → s.bootLcs = lcDiagnostic →
    zeroRange it.desc 24 64 = true → it.le 16 8 % 64 = 0 → it.hostBytes (it.le 16 8) 257 = some tok →
    ∃ t, exec (.lcDebugOpen it.id) s = .next t ∧
      (∀ st, s.tokenCheck .scopes tok = some st → st ≠ stOk → t.Completed it.id st [] ∧ ItemFrame s t) ∧
      (s.tokenCheck .scopes tok = none → t.Completed it.id stOk (okBody (tokenScope tok) []) ∧
        t.lcb.scopes = s.lcb.scopes ||| BitVec.ofNat 3 (tokenScope tok) ∧ t.lcb.dbgOpen = true ∧ t.regs = s.regs ∧
        t.qps = s.qps ∧ t.mem.cells = s.mem.cells ∧ t.sys = s.sys ∧ t.vault.records = s.vault.records))

/-! ## Objects, epochs and fragments (R188 to R239) -/

/-- An object opcode runs with its claim, and no furrow that it holds waits for a mask seed. -/
def Sys2Proof.ObjReady (s : State) (it : Item) (op : Nat) : Prop :=
  s.Runs it op ∧ it.claimed = true ∧ s.maskWaits it = false ∧ s.cfb.erased = false

/-- OBJ_SEAL of a host item takes the next value of the object root's seal counter, derives the object and the fragment
key from the roots, object ID and counter, seals and stripes the object and waits for its fragments' acknowledgements; when
the last has arrived it appends the leaf, writes the authenticated manifest and completes with its length, counter and leaf. -/
def Sys2Proof.SealsProduceAManifest : Prop :=
  (∀ (s s' : State) (it : Item) (b d : List Byte) (o f : Word) (c : DWord), ObjReady s it 0x0201 → it.isNet = false →
    s.obj.seals.find? (·.item == it.id) = none → it.sealBlock = some b → s.openRoot it.tenantByte 0x60 = some o →
    s.openRoot it.tenantByte 0x61 = some f → s.takeNonce o 1 true = .taken c s' → s'.item it.id = some it →
    s'.staleKey o = false → s'.staleKey f = false → s'.obj.seals.find? (·.item == it.id) = none →
    (placeChans b ((byteAt b 32).toNat + (byteAt b 33).toNat)).all s'.chanOpen = true →
    it.hostBytes (it.le 16 8) (leAt b 16 8) = some d → d.length = leAt b 16 8 → 4096 ≤ (s'.sealGeometry it.tenantByte b).segLen →
    ∃ t r, exec (.objSeal it.id) s = .next t ∧ t.Waits it.id .data ∧ t.obj.seals.find? (·.item == it.id) = some r ∧
      r.params = b ∧ r.ctr = c ∧ r.objRoot = o ∧ r.frgRoot = f ∧
      r.objKey = kdf (it.material o) (ascii "OBJ") (slice b 0 16 ++ leBytes 8 c.toNat) 256 ∧
      r.frgKey = kdf (it.material f) (ascii "FRG") (slice b 0 16 ++ leBytes 8 c.toNat) 256 ∧
      r.segsDone = Geo.segCount (s'.sealGeometry it.tenantByte b) ∧ r.manifest = [] ∧ t.regs = s'.regs ∧ t.qps = s'.qps ∧
      t.sys = s'.sys ∧ t.vault.records = s'.vault.records) ∧
  (∀ (s : State) (it : Item) (r : SealRun) (x : TenantObj), ObjReady s it 0x0201 → it.stage = 2 → it.isNet = false →
    it.id ≠ s.dsp.nextItem → s.obj.seals.find? (·.item == it.id) = some r → r.item = it.id → s.staleKey r.objRoot = false →
    s.staleKey r.frgRoot = false → s.tenantObj it.tenantByte = some x →
    (placeChans r.params ((byteAt r.params 32).toNat + (byteAt r.params 33).toNat)).all s.chanOpen = true →
    r.unacked = [] →
    ∃ t man, exec (.objSeal it.id) s = .next t ∧
      t.Completed it.id stOk (okBody man.length (leBytes 8 r.ctr.toNat ++ leBytes 4 x.leaves.length)) ∧
      .host { fn := it.fn, iova := BitVec.ofNat 64 (it.le 32 8), bytes := man } ∈ t.out ∧
      man = man.take (man.length - 16) ++ gmac r.objKey manNonce (man.take (man.length - 16)) ∧
      (x.leaves.length + 1 < 2 ^ 20 → (t.tenantObj it.tenantByte).map (·.leaves) = some (x.leaves ++ [leafHash man])) ∧
      t.regs = s.regs ∧ t.qps = s.qps ∧ t.vault.records = s.vault.records)

/-- OBJ_OPEN begins nothing under a manifest whose MAC differs; with the units of its last stripe in, it releases every
segment whose tag verifies and completes with the bytes released, and the first tag that differs ends it in failure. -/
def Sys2Proof.OpensReleaseVerifiedSegments : Prop :=
  (∀ (s : State) (it : Item) (man : List Byte), ObjReady s it 0x0202 → s.obj.opens.find? (·.item == it.id) = none →
    it.openManifest = some man →
    ∃ t, exec (.objOpen it.id) s = .next t ∧
      (gmac (kdf (it.material (BitVec.ofNat 32 (leAt man 76 4))) (ascii "OBJ") (manObject man ++ manCtr man) 256) manNonce
          (man.take (man.length - 16)) ≠ man.drop (man.length - 16) →
        t.Completed it.id stTagMismatch [] ∧ t.obj.opens = s.obj.opens ∧ t.regs = s.regs ∧ t.qps = s.qps ∧
        t.mem.cells = s.mem.cells)) ∧
  (∀ (s : State) (it : Item) (r : OpenRun) (want : List Nat) (p : State × OpenRun × Bool), ObjReady s it 0x0202 →
    it.isNet = false → s.obj.opens.find? (·.item == it.id) = some r → r.item = it.id → r.gate = none →
    r.wanted (manGeometry r.manifest) = some want → (want.all fun j => (r.units.map (·.1)).contains j) = true →
    p = State.openSegments it (manGeometry r.manifest) (Geo.segCount (manGeometry r.manifest))
      (s, r.decode (manGeometry r.manifest)) →
    ∃ t, exec (.objOpen it.id) s = .next t ∧
      (p.2.2 = true → p.2.1.segNext = p.2.1.segEnd → t.Completed it.id stOk p.2.1.body) ∧
      (p.2.2 = false → t.Completed it.id stTagMismatch ({ p.2.1 with written := 0 } : OpenRun).body) ∧
      (p.2.1.segNext = p.2.1.segEnd ∨ p.2.2 = false → t.regs = s.regs ∧ t.qps = s.qps ∧ t.mem.cells = s.mem.cells ∧
        t.vault = { s.vault with cache := t.vault.cache }))

/-- OBJ_SEAL makes a manifest and OBJ_OPEN releases only verified segments. -/
def Obligations.ObjectsAreSealedAndOpened : Prop :=
  SealsProduceAManifest ∧ OpensReleaseVerifiedSegments

/-- An epoch without leaves opens anew at its boundary; one with leaves closes, with its tree's root, into the waiting
list, and the next epoch takes the next number. -/
def Sys2Proof.EpochBoundariesCloseEpochs : Prop :=
  (∀ (s : State) (b : Byte) (x : TenantObj), s.tenantObj b = some x → s.sys.phase = .service → x.leaves = [] →
    exec (.epochBoundary b) s = .next (s.setTenantObj b { x with firstTick := s.sys.tick })) ∧
  (∀ (s : State) (b : Byte) (x : TenantObj) (n : Nat), s.tenantObj b = some x → s.sys.phase = .service → x.leaves ≠ [] →
    x.freeSlot = some n →
    ∃ t it, exec (.epochBoundary b) s = .next t ∧
      t.tenantObj b = some { x with
        number := x.number + 1, firstTick := s.sys.tick, slot := n, leaves := [], overdue := false
        prevRoot := merkleRoot x.leaves
        waiting := x.waiting ++ [{ epoch := BitVec.ofNat 64 (ofLe x.epoch), slot := x.slot, count := x.leaves.length
                                   firstTick := x.firstTick, lastTick := s.sys.tick, root := merkleRoot x.leaves
                                   prevRoot := x.prevRoot, item := s.dsp.nextItem, record := none }] } ∧
      t.item s.dsp.nextItem = some it ∧ it.source = .internal ∧ it.cls = 7 ∧ it.tenant = some b ∧
      t.dsp.nextItem = s.dsp.nextItem + 1 ∧ (∀ c, c ≠ b → t.tenantObj c = s.tenantObj c) ∧ t.regs = s.regs ∧
      t.qps = s.qps ∧ t.mem.cells = s.mem.cells) ∧
  (∀ (s : State) (b : Byte) (x : TenantObj), s.tenantObj b = some x → s.sys.phase = .service → x.leaves ≠ [] →
    x.freeSlot = none → exec (.epochBoundary b) s = .next (s.setTenantObj b { x with overdue := true }))

/-- The epoch item writes an unsigned record where no key is set or its key fails a check, and a record signed over its
first 128 bytes otherwise; OBJ_EPOCH_KEY sets and clears the key; OBJ_EPOCH_FETCH writes the oldest record with its leaf
digests and takes it off the waiting list. -/
def Sys2Proof.EpochRecordsAreSignedAndFetched : Prop :=
  (∀ (s : State) (it : Item) (x : TenantObj) (e : ClosedEpoch), s.Runs it 0 → s.tenantObj it.tenantByte = some x →
    x.waiting.find? (·.item == it.id) = some e → x.signKey = none →
    exec (.epochClose it.id) s = .next ((s.storeEpoch it.tenantByte it.id
      (padTo 256 (s.epochHead it.tenantByte e 0 noHandle stOk))).complete it.id stOk [])) ∧
  (∀ (s : State) (it : Item) (x : TenantObj) (e : ClosedEpoch) (h : Word) (st : Status), s.Runs it 0 →
    s.tenantObj it.tenantByte = some x → x.waiting.find? (·.item == it.id) = some e → x.signKey = some h →
    s.checkHandle it.tenantByte h = some st →
    exec (.epochClose it.id) s = .next ((s.storeEpoch it.tenantByte it.id
      (padTo 256 (s.epochHead it.tenantByte e 0 h st))).complete it.id stOk [])) ∧
  (∀ (s : State) (it : Item) (x : TenantObj) (e : ClosedEpoch) (h : Word) (k : KeyView) (sc ha : Nat) (head : List Byte)
    (r : List Byte × State), s.Runs it 0 → s.tenantObj it.tenantByte = some x →
    x.waiting.find? (·.item == it.id) = some e → x.signKey = some h → s.checkHandle it.tenantByte h = none →
    s.useCheck h [useSign] [engPke] 0 = none → s.keyView h = some k → epochScheme (attrAlg k.attr) = some (sc, ha) →
    head = s.epochHead it.tenantByte e (attrAlg k.attr) h stOk →
    r = s.signWith sc ha (attrAlg k.attr) k.material (if ha = 0 then head else digest ha head) →
    exec (.epochClose it.id) s =
      .next ((r.2.storeEpoch it.tenantByte it.id (padTo 256 (head ++ r.1))).complete it.id stOk [])) ∧
  (∀ (s : State) (it : Item) (x : TenantObj), s.Runs it 0x0203 → zeroRange it.desc 16 64 = true →
    s.tenantObj it.tenantByte = some x → it.key = noHandle →
    exec (.objEpochKey it.id) s = .next ((s.setTenantObj it.tenantByte { x with signKey := none }).complete it.id stOk
      (okBody 0 []))) ∧
  (∀ (s : State) (it : Item) (x : TenantObj) (k : KeyView), s.Runs it 0x0203 → zeroRange it.desc 16 64 = true →
    s.tenantObj it.tenantByte = some x → it.key ≠ noHandle → s.useCheck it.key [useSign] [engPke] 0 = none →
    s.keyView it.key = some k → (epochScheme (attrAlg k.attr)).isSome = true →
    exec (.objEpochKey it.id) s = .next ((s.setTenantObj it.tenantByte { x with signKey := some it.key }).complete it.id
      stOk (okBody 0 []))) ∧
  (∀ (s : State) (it : Item) (x : TenantObj) (e : ClosedEpoch) (rest : List ClosedEpoch) (rec : List Byte),
    s.Runs it 0x0204 → zeroRange it.desc 28 64 = true → it.le 16 8 % 64 = 0 → s.tenantObj it.tenantByte = some x →
    x.waiting = e :: rest → e.record = some rec → 256 + 32 * e.count ≤ it.le 24 4 →
    exec (.objEpochFetch it.id) s = .next (((s.writeOut it.id (it.le 16 8) (rec ++ memRead s.mem.cells
      ((s.leafBase it.tenantByte).getD 0 + 2 ^ 25 * e.slot) (32 * e.count))).setTenantObj it.tenantByte
        { x with waiting := rest }).complete it.id stOk (okBody (256 + 32 * e.count) (leBytes 8 e.epoch.toNat)))) ∧
  (∀ (s : State) (it : Item) (x : TenantObj), s.Runs it 0x0204 → zeroRange it.desc 28 64 = true → it.le 16 8 % 64 = 0 →
    s.tenantObj it.tenantByte = some x → x.waiting = [] →
    exec (.objEpochFetch it.id) s = .next (s.complete it.id stOk (okBody 0 [])))

/-- Epochs close at their boundary, are signed and are fetched. -/
def Obligations.EpochsCloseAndAreFetched : Prop :=
  EpochBoundariesCloseEpochs ∧ EpochRecordsAreSignedAndFetched

/-- VERIFY_FRAGMENTS asks for every candidate and, with all of them settled, reports the ones whose tag is the manifest's;
REPAIR reports its targets once their acknowledgements are in; a survivor that is missing costs a pass, and too few end the
repair. -/
def Obligations.FragmentsAreVerifiedAndRepaired : Prop :=
  (∀ (s : State) (it : Item) (r : RepairRun), ObjReady s it 0x0210 → s.obj.repairs.find? (·.item == it.id) = some r →
    s.staleKey it.key = false → (r.cand.all fun j => r.corrupt.contains j || r.missing.contains j ||
      decide (64 + Geo.fragLen (manGeometry r.manifest) ≤ (r.str j).length)) = true →
    ∃ (t : State) (good corrupt : List Nat), exec (.verifyFragments it.id) s = .next t ∧
      (∀ j, j ∈ good ↔ j ∈ r.cand ∧ j ∉ r.corrupt ∧ j ∉ r.missing ∧
        gmac r.frgKey (segNonce j) (r.str j) = manTag r.manifest j ∧ r.tag j = manTag r.manifest j) ∧
      (∀ j, j ∈ corrupt ↔ j ∈ r.corrupt ∨ (j ∈ r.cand ∧ j ∉ r.missing ∧ j ∉ good)) ∧
      t.Completed it.id stOk ({ r with corrupt := corrupt }.body good.length good 0) ∧ ItemFrame s t) ∧
  (∀ (s : State) (it : Item) (man : List Byte) (places : List (Nat × Nat)), ObjReady s it 0x0210 →
    s.obj.repairs.find? (·.item == it.id) = none → it.hostBytes (it.le 16 8) (it.le 24 4) = some man →
    it.placeList = some places → (∀ p, p ∈ places → s.chanOpen p.2 = true) → it.candMask ≠ 0 → maskList it.candMask = places.map (·.1) →
    ∃ t r, exec (.verifyFragments it.id) s = .next t ∧ t.Waits it.id .data ∧
      t.obj.repairs.find? (·.item == it.id) = some r ∧ r.asked = maskList it.candMask ∧
      r.frgKey = kdf (it.material it.key) (ascii "FRG") (manObject man ++ manCtr man) 256 ∧
      t.vault.kdfCount = s.vault.kdfCount + 1 ∧ t.regs = s.regs ∧ t.qps = s.qps ∧ t.mem.cells = s.mem.cells) ∧
  (∀ (s : State) (it : Item) (r : RepairRun), ObjReady s it 0x0211 → it.stage = 2 →
    s.obj.repairs.find? (·.item == it.id) = some r → s.staleKey it.key = false →
    (r.targets.all fun j => s.chanOpen (r.chanOf j)) = true → r.unacked = [] →
    ∃ t, exec (.repair it.id) s = .next t ∧
      t.Completed it.id stOk (r.body r.targets.length r.surv r.passes) ∧ ItemFrame s t) ∧
  (∀ (s : State) (it : Item) (r : RepairRun), ObjReady s it 0x0211 → it.stage = 1 →
    s.obj.repairs.find? (·.item == it.id) = some r → s.staleKey it.key = false →
    (r.targets.all fun j => s.chanOpen (r.chanOf j)) = true →
    (r.surv.any fun j => r.corrupt.contains j || r.missing.contains j) = true →
    r.nextSurv (manGeometry r.manifest).k = none →
    ∃ t, exec (.repair it.id) s = .next t ∧ t.Completed it.id stTooFewFragments (r.body 0 r.surv r.passes) ∧
      t.spr.abandoned = s.spr.abandoned + 1 ∧ t.regs = s.regs ∧ t.qps = s.qps ∧ t.mem.cells = s.mem.cells) ∧
  (∀ (s : State) (it : Item) (frag : Nat) (why : WaitFor), s.item it.id = some it → it.phase = .yielded why →
    ((s.obj.opens.any fun r => r.item == it.id && r.asked.contains frag) ||
      (s.obj.repairs.any fun r => r.item == it.id && r.asked.contains frag)) = true →
    ∃ t, exec (.fragGetTimeout it.id frag) s = .next t ∧ t.item it.id = some { it with phase := .resumable } ∧
      it.id ∈ t.dsp.resumeQ ∧ t.obj.opens = s.obj.opens.map (fun r =>
        if r.item = it.id ∧ r.asked.contains frag then
          { r with missing := r.missing.insert frag, asked := r.asked.erase frag, units := r.units.filter (·.1 != frag) }
        else r) ∧
      t.obj.repairs = s.obj.repairs.map (fun r =>
        if r.item = it.id ∧ r.asked.contains frag then
          { r with missing := r.missing.insert frag, asked := r.asked.erase frag } else r) ∧
      t.obj.seals = s.obj.seals ∧ t.regs = s.regs ∧ t.mem = s.mem) ∧
  (∀ (s : State) (it : Item), s.item it.id = some it → it.opcode = 0x0201 → it.isNet = true → it.phase ≠ .done →
    it.phase ≠ .dropped → (s.obj.submits.any fun x => x.item == it.id && !x.ended) = true →
    ∃ t o, exec (.sealIdleTimeout it.id) s = .next t ∧ t.Ended it.id o ∧ o.status = stTimeout ∧ ItemFrame s t)

/-! ## The headworks (R241 to R270) -/

/-- A write to a port's configuration register takes the writable bits, SPLIT only while ENABLE is 0; a link changes where
the SerDes is powered; an MKA exchange that installs a SAK draws it and starts its packet number at 1; at the threshold a new
SAK is requested. -/
def Sys2Proof.PortsTakeTheirConfiguration : Prop :=
  (∀ (s : State) (port : Nat) (v : Word), s.mmioOk 0 = true → port < 4 → (s.sys.variant = .ky4200A → port < 2) →
    (s.portCfg port).getLsbD 0 = false →
    exec (.portCfgWrite port v) s = .next (s.setReg 0 (0x0010_0100 + 0x40 * port) (v &&& 0x0000_FF1F))) ∧
  (∀ (s : State) (port : Nat) (v : Word), s.mmioOk 0 = true → port < 4 → (s.sys.variant = .ky4200A → port < 2) →
    (s.portCfg port).getLsbD 0 = true → v.getLsbD 0 = true →
    exec (.portCfgWrite port v) s = .next (s.setReg 0 (0x0010_0100 + 0x40 * port)
      ((v &&& 0x0000_FF19) ||| (s.portCfg port &&& 0x0000_0006)))) ∧
  (∀ (s : State) (port sub : Nat) (up : Bool), s.serdesOn = true → s.portEnabled port = true → s.subExists port sub = true →
    exec (.ethLinkChange port sub up) s = .next (s.modifySub port sub fun x => { x with link := up })) ∧
  (∀ (s : State) (port sub : Nat), s.mkaRuns port sub = true → s.ent.ready = true →
    exec (.eapolMka port sub true) s = .next ((s.draw 32).2.modifySub port sub fun x =>
      { x with sak := some (s.draw 32).1, pn := 1, rekey := false })) ∧
  (∀ (s : State) (port sub : Nat), s.mkaRuns port sub = true → s.rekeyAt port ≤ (s.subPort port sub).pn →
    exec (.sakRekeyThreshold port sub) s = .next (s.modifySub port sub fun x => { x with rekey := true }))

/-- The sub-port serves and a frame on it has passed its frame check, and the sub-port is not secured. -/
def Sys2Proof.FrameArrives (s : State) (f : EthFrame) : Prop :=
  s.serdesOn = true ∧ s.portEnabled f.port = true ∧ (s.subPort f.port f.subPort).link = true ∧ f.fcsOk = true ∧
    bit (s.portSecure f.port) f.subPort = false ∧ s.sendsFrames = true

/-- A frame is dropped and counted by the first ingress step that it fails, goes to the exception ring where a step says so,
and a sequenced packet that is next in order is delivered to its channel with its acknowledgement owed. -/
def Obligations.FramesAreSortedOnArrival : Prop :=
  (∀ (s : State) (f : EthFrame), s.serdesOn = true → s.portEnabled f.port = true → (s.subPort f.port f.subPort).link = true →
    f.fcsOk = false → exec (.ethFrameReceive f) s = .next ((s.countPort f.port ctRx).countPort f.port ctFcs)) ∧
  (∀ (s : State) (f : EthFrame), FrameArrives s f → f.kind = .eapolMka →
    exec (.ethFrameReceive f) s = .next ((s.countPort f.port ctRx).exception f 0x5)) ∧
  (∀ (s : State) (f : EthFrame), FrameArrives s f → f.kind = .udp → f.dst = .own → s.headgateOf f = none →
    exec (.ethFrameReceive f) s = .next ((s.countPort f.port ctRx).exception f 0x1)) ∧
  (∀ (s : State) (f : EthFrame) (h : Headgate) (c : Nat) (x : Channel), FrameArrives s f → f.kind = .udp →
    f.dst = .own → s.headgateOf f = some h → f.checksumsOk = true → rxHeaderOk f = true →
    s.resolveChan f h = some c → s.sys.phase = .service → s.chan c = some x → x.state = .opened →
    (rxPacket f h).epoch = x.epoch → (rxPacket f h).seq = x.rxNext → x.rxNext < 2 ^ 32 → x.held = [] →
    (rxPacket f h).typ ≠ ltPing → (rxPacket f h).typ ≠ ltCredit → neverAccepted (rxPacket f h).typ = false →
    (x.inbox.all fun p => !neverAccepted p.typ) = true → bit (rxPacket f h).flags 3 = false →
    ∃ t, exec (.ethFrameReceive f) s = .next t ∧
      t.chan c = some { x.acknowledge (rxPacket f h).ack (rxPacket f h).sack (rxPacket f h).window with
        rxNext := (x.rxNext + 1) % 2 ^ 32, held := [], inbox := x.inbox ++ [rxPacket f h], ackOwed := true } ∧
      (∀ d, d ≠ c → t.chan d = s.chan d) ∧ t.dsp = s.dsp ∧ t.obj = s.obj ∧ t.regs = s.regs ∧ t.qps = s.qps ∧
      t.mem = s.mem)

/-- A write to HWK_INJ_PROD sends the slots between consumer and producer, and drops a frame from a channel's own address. -/
def Sys2Proof.InjectionSendsItsSlots : Prop :=
  (∀ (s : State) (prod : Word) (slots : List InjectSlot), s.mmioOk 0 = true → s.sendsFrames = false →
    exec (.injectFrame prod slots) s = .next (s.setReg 0 0x0010_0A2C (prod &&& 0x0000_FFFF))) ∧
  (∀ (s : State) (prod : Word) (x : InjectSlot) (n : Nat), s.mmioOk 0 = true → s.sendsFrames = true →
    n = 2 ^ ((s.reg 0 0x0010_0A28).toNat % 32) → 1 < n → s.hwk.injCons < n →
    (prod &&& 0x0000_FFFF).toNat = (s.hwk.injCons + 1) % n →
    exec (.injectFrame prod [x]) s = .next ((s.setReg 0 0x0010_0A2C (prod &&& 0x0000_FFFF)).injectOne x)) ∧
  (∀ (s : State) (x : InjectSlot) (a : List Byte) (p : BitVec 16), x.udpSrc = some (a, p) →
    (s.hwk.chans.any fun c => c.2.isLocal a p) = true →
    ∃ t, s.injectOne x = t ∧ t.hwk.injLost = s.hwk.injLost + 1 ∧ t.out = s.out ∧ t.regs = s.regs)

/-- Ports take their configuration and injection sends its slots. -/
def Obligations.PortsAndInjection : Prop :=
  PortsTakeTheirConfiguration ∧ InjectionSendsItsSlots

/-- READ copies the selected entry, OPEN draws an EPOCH and synchronises an inactive channel, RESET restarts a channel under
the next EPOCH, and CLOSE makes it inactive; a command that is refused leaves the channels as they are. -/
def Sys2Proof.ChannelCommandsTakeEffect : Prop :=
  (∀ (s : State) (x : Channel), s.chanCmdOk = true → s.chan s.chanSel = some x →
    ∃ t, exec .chanRead s = .next t ∧ t = { s.setChanData x.entry with
      hwk := { (s.setChanData x.entry).hwk with readDone := true, result := stOk } }) ∧
  (∀ (s : State), s.chanCmdOk = true → s.entryOk s.chanData = true → s.chanSel ≠ 0xFFFFFF → s.chan s.chanSel = none →
    (s.hwk.chans.filter fun p => p.2.tenant == byteAt s.chanData 0).length <
      ((s.tenantEntry (byteAt s.chanData 0)).map TenantEntry.channelQuota).getD 0 → s.hwk.chans.length < 65536 →
    ∃ t x, exec .chanOpen s = .next t ∧ t.hwk.opening = some s.chanSel ∧ t.chan s.chanSel = some x ∧
      x.entry = s.chanData ∧ x.state = .synchronising ∧ x.epoch = byteAt (s.draw 1).1 0 ∧ x.txNext = 0 ∧ x.rxNext = 0 ∧
      x.unsent = [] ∧ x.exchanges = [] ∧ (∀ d, d ≠ s.chanSel → t.chan d = s.chan d) ∧ t.regs = s.regs ∧ t.dsp = s.dsp) ∧
  (∀ (s : State), s.chanCmdOk = true →
    s.entryOk s.chanData = false ∨ s.chanSel = 0xFFFFFF ∨ (s.chan s.chanSel).isSome = true →
    exec .chanOpen s = .next { s with hwk := { s.hwk with result := stBadField } }) ∧
  (∀ (s : State), s.chanCmdOk = true → exec .chanReset s = .next ((s.resetChan s.chanSel).chanResult stOk)) ∧
  (∀ (s : State), s.chanCmdOk = true → ∃ t, exec .chanClose s = .next t ∧ t.hwk.result = stOk ∧
    t.hwk.chans = tabErase (s.resetChan s.chanSel).hwk.chans s.chanSel ∧ t.dsp = (s.resetChan s.chanSel).dsp ∧
    t.obj = (s.resetChan s.chanSel).obj) ∧
  (∀ (s : State) (c : Nat) (x : Channel), s.chan c = some x → x.exchanges = [] →
    (∀ r, r ∈ s.obj.seals → r.unacked ≠ [] → c ∉ r.channels) →
    s.resetChan c = ({ s with hwk := { s.hwk with resets := s.hwk.resets + 1 } }.setChan c { x with
      state := .synchronising, epoch := x.epoch + 1, rxNext := 0, held := [], inbox := [], control := [], txNext := 0
      ackPeer := 0, winPeer := 256, unsent := [], sent := [], exchanges := [], ackOwed := false }).synchronise c)

/-- An owed acknowledgement leaves in a CREDIT; a packet is sent again eight times and resets its channel at the ninth
expiry; a window of zero is probed and at last resets the channel; SYNC PINGs are repeated until the peer is unreachable; a
quarantine and an overdue FRAG_PUT_ACK end; and the head of a queue leaves where its window and weirs let it. -/
def Sys2Proof.ChannelTimersTakeEffect : Prop :=
  (∀ (s : State) (c : Nat) (x : Channel), s.chan c = some x → x.ackOwed = true →
    exec (.ackTimer c) s = .next (s.transmitUnseq c ltCredit 0 [])) ∧
  (∀ (s : State) (c : Nat) (x : Channel) (p : TxPacket), s.chan c = some x → p.seq < 2 ^ 32 →
    x.sent.find? (·.seq == p.seq) = some p → p.covered = false → p.sends < 9 →
    exec (.retransmitTimeout c (BitVec.ofNat 32 p.seq)) s = .next (({ s with
      hwk := { s.hwk with
        chans := tabSet s.hwk.chans c { x with
          sent := x.sent.map fun (q : TxPacket) => if q.seq = p.seq then { q with sends := q.sends + 1 } else q }
        retx := s.hwk.retx + 1 } }).transmit c p.typ (Nat.lor p.flags flRetx) p.seq p.xid p.body)) ∧
  (∀ (s : State) (c : Nat) (x : Channel) (p : TxPacket), s.chan c = some x → p.seq < 2 ^ 32 →
    x.sent.find? (·.seq == p.seq) = some p → p.covered = false → 9 ≤ p.sends →
    exec (.retransmitTimeout c (BitVec.ofNat 32 p.seq)) s = .next (s.resetChan c)) ∧
  (∀ (s : State) (c : Nat) (x : Channel), s.chan c = some x → x.state = .opened → x.winPeer = 0 →
    exec (.zeroWindowProbe c) s = .next (s.transmitUnseq c ltPing flAckReq (zeros 8 ++ leBytes 8 s.uptimeNs)) ∧
    exec (.zeroWindowTimeout c) s = .next (s.resetChan c)) ∧
  (∀ (s : State) (c : Nat) (x : Channel), s.chan c = some x → x.state ≠ .opened → x.quarantined = false →
    exec (.syncPingTimer c) s = .next (s.transmitUnseq c ltPing flSync (zeros 8 ++ leBytes 8 s.uptimeNs))) ∧
  (∀ (s : State) (c : Nat) (x : Channel), s.chan c = some x → x.state = .synchronising → x.quarantined = false →
    ∃ t, exec (.syncTimeout c) s = .next t ∧ t.chan c = some { x with state := .unreachable } ∧
      (∀ d, d ≠ c → t.chan d = s.chan d) ∧
      (s.hwk.opening = some c → t.hwk.opening = none ∧ t.hwk.result = stPeerUnreachable) ∧
      (s.hwk.opening ≠ some c → t.hwk.opening = s.hwk.opening ∧ t.hwk.result = s.hwk.result) ∧ t.dsp = s.dsp ∧
      t.regs = s.regs) ∧
  (∀ (s : State) (c : Nat) (x : Channel), s.chan c = some x → x.quarantined = true →
    exec (.epochQuarantineEnd c) s = .next ((s.setChan c { x with
      quarantined := false, epochTicks := tabSet x.epochTicks x.epoch.toNat s.sys.tick }).transmitUnseq c ltPing flSync
        (zeros 8 ++ leBytes 8 s.uptimeNs))) ∧
  (∀ (s : State) (c : Nat) (xid : Word) (x : Channel), s.chan c = some x →
    (x.exchanges.any fun e => e.mine && e.xid == xid.toNat && e.tagged) = true →
    exec (.putackTimeout c xid) s = .next (s.resetChan c)) ∧
  (∀ (s : State) (c : Nat) (x : Channel) (p : TxPacket) (rest : List TxPacket), s.chan c = some x → x.unsent = p :: rest →
    s.headMayLeave c x p = true →
    ∃ t, exec (.packetTransmit c) s = .next t ∧
      t.chan c = some { x with unsent := rest, sent := x.sent ++ [{ p with sends := 1 }], ackOwed := false } ∧
      (∀ d, d ≠ c → t.chan d = s.chan d) ∧ t.obj = s.obj ∧ t.regs = s.regs ∧ t.qps = s.qps ∧ t.mem = s.mem)

/-- Channel commands and channel timers. -/
def Obligations.ChannelsTakeCommandsAndTimers : Prop :=
  ChannelCommandsTakeEffect ∧ ChannelTimersTakeEffect

/-- CREDIT and PING apply their acknowledgement fields; a SYNC answer opens the channel, a SYNC request resets it, and any
other request is echoed. -/
def Sys2Proof.ControlPacketsAreAnswered : Prop :=
  (∀ (s : State) (c : Nat) (x : Channel) (p : RxPacket) (rest : List RxPacket), s.chan c = some x → x.control = p :: rest →
    p.typ = ltCredit → bit p.flags 3 = false →
    ∃ t, exec (.credit c) s = .next t ∧
      t.chan c = some { x.acknowledge p.ack p.sack p.window with control := rest } ∧ (∀ d, d ≠ c → t.chan d = s.chan d) ∧
      t.dsp = s.dsp ∧ t.obj = s.obj ∧ t.regs = s.regs) ∧
  (∀ (s : State) (c : Nat) (x : Channel) (p : RxPacket) (rest : List RxPacket), s.chan c = some x → x.control = p :: rest →
    p.typ = ltPing → bit p.flags 4 = true → bit (beAt p.body 0 1) 0 = true → x.state ≠ .opened → x.quarantined = false →
    p.epoch = x.epoch →
    ∃ t, exec (.ping c) s = .next t ∧ t.chan c = some { x with control := rest, state := .opened } ∧
      (s.hwk.opening = some c → t.hwk.opening = none ∧ t.hwk.result = stOk) ∧
      (∀ d, d ≠ c → t.chan d = s.chan d) ∧ t.dsp = s.dsp ∧ t.obj = s.obj ∧ t.regs = s.regs) ∧
  (∀ (s : State) (c : Nat) (x : Channel) (p : RxPacket) (rest : List RxPacket), s.chan c = some x → x.control = p :: rest →
    p.typ = ltPing → bit p.flags 4 = true → bit (beAt p.body 0 1) 0 = false →
    exec (.ping c) s = .next ((s.setChan c { x with control := rest }).resetChan c)) ∧
  (∀ (s : State) (c : Nat) (x : Channel) (p : RxPacket) (rest : List RxPacket), s.chan c = some x → x.control = p :: rest →
    p.typ = ltPing → bit p.flags 4 = false → bit (beAt p.body 0 1) 0 = false →
    exec (.ping c) s = .next (((s.setChan c { x with control := rest }).setChan c
      ({ x with control := rest }.acknowledge p.ack p.sack p.window)).transmitUnseq c ltPing 0
      ([1] ++ zeros 7 ++ padTo 8 (slice p.body 8 8))))

/-- The first SUBMIT and a RETRIEVE create the gateway's exchange and its item; later SUBMIT data joins its stream at the
offset that the stream has reached; FRAG_PUT_ACK settles a fragment, FRAG_DATA extends what its FRAG_GET has got, and NACK
makes a fragment missing or resets the channel. -/
def Sys2Proof.ExchangesTakeTheirMessages : Prop :=
  (∀ (s s' : State) (c : Nat) (x y : Channel) (p : RxPacket), s.takeInbox c ltSubmit = some (p, x, s') →
    bit p.flags 0 = true → bit p.flags 1 = false → s'.chan c = some y →
    (x.exchanges.all fun e => e.mine || e.xid != p.xid) = true → (x.exchanges.filter fun e => !e.mine).length < 64 →
    (s.obj.submits.all fun z => !(z.chan == c && z.xid == p.xid)) = true →
    ∃ t it, exec (.submit c) s = .next t ∧ t.item s.dsp.nextItem = some it ∧ it.opcode = 0x0201 ∧
      it.source = .headgate c ∧ it.tenant = some p.tenant ∧ it.cls = p.cls ∧ it.scratch = p.body ∧
      t.chan c = some { y with exchanges := y.exchanges ++ [{ xid := p.xid, mine := false, kind := .submit
                                                              item := s.dsp.nextItem, weir := p.weir, got := []
                                                              tagged := false }] } ∧
      t.obj.submits = s.obj.submits ++ [{ item := s.dsp.nextItem, chan := c, xid := p.xid, received := 0, data := []
                                          ended := false }] ∧
      t.dsp.nextItem = s.dsp.nextItem + 1 ∧ t.regs = s.regs ∧ t.mem.cells = s.mem.cells) ∧
  (∀ (s s' : State) (c : Nat) (x : Channel) (p : RxPacket) (e : Exchange) (st : SubmitStream) (it : Item),
    s.takeInbox c ltSubmit = some (p, x, s') → bit p.flags 0 = false →
    x.exchanges.find? (fun e => e.xid == p.xid && !e.mine && e.kind == .submit) = some e →
    s.obj.submits.find? (·.item == e.item) = some st → s.item st.item = some it → it.stage ≠ 1 → st.ended = false →
    leAt p.body 0 8 = st.received → p.body.drop 8 ≠ [] → (p.body.drop 8).length ≤ x.chunk →
    st.received + (p.body.drop 8).length ≤ leAt it.scratch 16 8 →
    (bit p.flags 1 = true → st.received + (p.body.drop 8).length = leAt it.scratch 16 8) →
    exec (.submit c) s = .next { s' with obj := { s'.obj with
      submits := s'.obj.submits.map fun z => if z.item = st.item then
        { st with received := st.received + (p.body.drop 8).length, data := st.data ++ p.body.drop 8
                  ended := bit p.flags 1 } else z } }) ∧
  (∀ (s s' : State) (c : Nat) (x y : Channel) (p : RxPacket), s.takeInbox c ltRetrieve = some (p, x, s') →
    s'.chan c = some y → (x.exchanges.all fun e => e.mine || e.xid != p.xid) = true →
    (x.exchanges.filter fun e => !e.mine).length < 64 →
    ∃ t it, exec (.retrieve c) s = .next t ∧ t.item s.dsp.nextItem = some it ∧ it.opcode = 0x0202 ∧
      it.source = .headgate c ∧ it.tenant = some p.tenant ∧ it.cls = p.cls ∧ it.scratch = p.body ∧
      t.chan c = some { y with exchanges := y.exchanges ++ [{ xid := p.xid, mine := false, kind := .retrieve
                                                              item := s.dsp.nextItem, weir := p.weir, got := []
                                                              tagged := false }] } ∧
      t.obj.submits = s.obj.submits ∧ t.dsp.nextItem = s.dsp.nextItem + 1 ∧ t.regs = s.regs) ∧
  (∀ (s s' : State) (c j : Nat) (x : Channel) (p : RxPacket) (e : Exchange), s.takeInbox c ltFragPutAck = some (p, x, s') →
    x.mine p.xid = some e → e.kind = .put j →
    ∃ t, exec (.fragPutAck c) s = .next t ∧
      t.obj.seals = s.obj.seals.map (fun r => if r.item = e.item then { r with unacked := r.unacked.erase j } else r) ∧
      t.obj.repairs = s.obj.repairs.map (fun r => if r.item = e.item then { r with unacked := r.unacked.erase j } else r) ∧
      t.obj.opens = s.obj.opens ∧ (t.chan c).map (·.exchanges) =
        (s'.chan c).map (fun y => y.exchanges.filter fun e => !(e.xid == p.xid && e.mine == true)) ∧ t.regs = s.regs ∧
      t.mem = s.mem) ∧
  (∀ (s s' : State) (c j off len : Nat) (x y : Channel) (p : RxPacket) (e : Exchange) (r : OpenRun),
    s.takeInbox c ltFragData = some (p, x, s') → s'.chan c = some y → x.mine p.xid = some e → e.kind = .get j off len →
    s.obj.opens.find? (·.item == e.item) = some r → recordNames p.body r.manifest j = true →
    64 * (leAt p.body 24 5 % 2 ^ 35) = off + e.got.length →
    (slice p.body 32 (64 * leAt p.body 29 2)).length = 64 * leAt p.body 29 2 →
    e.got.length + 64 * leAt p.body 29 2 < len → bit p.flags 1 = false →
    exec (.fragData c) s = .next (s'.setChan c { y with exchanges := y.exchanges.map fun z =>
      if z.mine ∧ z.xid = e.xid then { z with got := e.got ++ slice p.body 32 (64 * leAt p.body 29 2) } else z })) ∧
  (∀ (s s' : State) (c j off len : Nat) (x : Channel) (p : RxPacket) (e : Exchange) (r : OpenRun),
    s.takeInbox c ltFragData = some (p, x, s') → x.mine p.xid = some e → e.kind = .get j off len →
    s.obj.opens.find? (·.item == e.item) = some r → recordNames p.body r.manifest j = true →
    64 * (leAt p.body 24 5 % 2 ^ 35) = off + e.got.length →
    (slice p.body 32 (64 * leAt p.body 29 2)).length = 64 * leAt p.body 29 2 →
    e.got.length + 64 * leAt p.body 29 2 = len →
    exec (.fragData c) s = .next ((s'.closeExchange c e.xid true).openData r j off
      (e.got ++ slice p.body 32 (64 * leAt p.body 29 2)))) ∧
  (∀ (s s' : State) (c : Nat) (x : Channel) (p : RxPacket) (e : Exchange), s.takeInbox c ltNack = some (p, x, s') →
    x.mine p.xid = some e →
    (∀ j off len, e.kind = .get j off len →
      exec (.nack c) s = .next ((s'.closeExchange c p.xid true).fragMissing e.item j)) ∧
    (∀ j, e.kind = .put j → exec (.nack c) s = .next (s'.resetChan c)))

/-- Control packets and the messages of exchanges. -/
def Obligations.ChannelMessagesTakeEffect : Prop :=
  ControlPacketsAreAnswered ∧ ExchangesTakeTheirMessages

/-! ## Public-key engines (R272 to R300) and payment opcodes (R301 to R328) -/

/-- PK_SIGN, PK_VERIFY and PK_AGREE open their validation window on the engine of their claim; a PK_SIGN whose LONG job is
complete delivers its signature. -/
def Sys2Proof.PublicKeyItemsOpenTheirWindow : Prop :=
  (∀ (s : State) (it : Item) (op e f n : Nat), op = 0x0301 ∨ op = 0x0302 ∨ op = 0x0303 → s.Runs it op → it.claimed = true →
    s.workOf it.id = none → s.pkLengths it (s.keyAlg it.key) = none → it.claim.cistern = some (e, f, n) →
    ∃ t, (op = 0x0301 → exec (.pkSign it.id) s = .next t) ∧ (op = 0x0302 → exec (.pkVerify it.id) s = .next t) ∧
      (op = 0x0303 → exec (.pkAgree it.id) s = .next t) ∧
      t = { s with pke := { s.pke with
        work := s.pke.work.filter (·.item != it.id) ++ [PkWork.mk it.id e .window stOk [] [] 0 0] } }) ∧
  (∀ (s : State) (it : Item) (w : PkWork), s.Runs it 0x0301 → it.claimed = true → s.workOf it.id = some w →
    w.stage = .complete → w.status = stOk →
    ∃ t, exec (.pkSign it.id) s = .next t ∧
      t.Completed it.id stOk (leBytes 8 w.out.length ++ pkRest [] 0 w.engine w.jobs 0) ∧
      (w.out ≠ [] → .host { fn := it.fn, iova := BitVec.ofNat 64 (it.le 32 8), bytes := w.out } ∈ t.out) ∧
      t.pke.work = s.pke.work.filter (·.item != it.id) ∧ t.regs = s.regs ∧ t.qps = s.qps ∧ t.mem.cells = s.mem.cells)

/-- The window ends with the first failing check's status, counted in VAL_FAIL, or with the item's work queued on its
engine; an import's window ends with its key or a refusal. -/
def Sys2Proof.ValidationWindowsEnd : Prop :=
  (∀ (s : State) (it : Item) (w : PkWork) (a b : List Byte) (r : Status × List Byte × State) (n : Nat),
    s.Runs it it.opcode → it.opcode ≠ 0x0502 → s.workOf it.id = some w → w.stage = .window →
    s.pkInputs it (s.keyAlg it.key) = some (a, b) →
    pkValidate it.opcode it.pkScheme (s.keyAlg it.key) (publicPart (s.keyAlg it.key) ((it.held it.key).any (·.pubOnly))
      (it.material it.key)) a b = none →
    r = s.pkResult it (s.keyAlg it.key) a b →
    pkCycles it.opcode (s.keyAlg it.key) ((s.pkeEntry w.engine).any (·.fused)) = some n →
    exec (.pkValidationWindowEnd it.id) s = .next (r.2.2.startWork it { w with status := r.1, out := r.2.1, cycles := n }
      (pkLong it.opcode (s.keyAlg it.key)))) ∧
  (∀ (s : State) (it : Item) (w : PkWork) (a b : List Byte) (st : Status), s.Runs it it.opcode → it.opcode ≠ 0x0502 →
    it.opcode ≠ 0x0201 → s.workOf it.id = some w → w.stage = .window → s.pkInputs it (s.keyAlg it.key) = some (a, b) →
    pkValidate it.opcode it.pkScheme (s.keyAlg it.key) (publicPart (s.keyAlg it.key) ((it.held it.key).any (·.pubOnly))
      (it.material it.key)) a b = some st →
    ∃ t, exec (.pkValidationWindowEnd it.id) s = .next t ∧ t.Completed it.id st [] ∧
      t.pke.valFail = s.pke.valFail + 1 ∧ t.pke.work = s.pke.work.filter (·.item != it.id) ∧ t.regs = s.regs ∧
      t.qps = s.qps ∧ t.mem.cells = s.mem.cells) ∧
  (∀ (s : State) (it : Item) (w : PkWork) (blob : List Byte), s.Runs it 0x0502 → s.workOf it.id = some w →
    w.stage = .window → it.hostBytes (it.le 40 8) (it.le 32 4) = some blob →
    ∃ t, exec (.pkValidationWindowEnd it.id) s = .next t ∧
      (∀ st, s.importMaterial it blob = .error st → t.Completed it.id st []) ∧
      (∀ m st, s.importMaterial it blob = .ok m → importValid it.keySpec.alg (it.keySpec.format == 1) m = some st →
        t.Completed it.id st [] ∧ t.pke.valFail = s.pke.valFail + 1) ∧
      (∀ m, s.importMaterial it blob = .ok m → importValid it.keySpec.alg (it.keySpec.format == 1) m = none →
        t = (s.dropWork it.id).finishImport it m))

/-- The state in which an engine has finished its running job. -/
def Sys2Proof.jobDone (s : State) (e : Nat) (j : PkJob) : State :=
  s.modifyEngine e fun k =>
    PkEngine.pick { k with running := none, jobs := k.jobs + 1, busy := k.busy + BitVec.ofNat 64 j.cycles }

/-- A finished job leaves its engine, which takes the next; its item resumes after a LONG job, queues what is left of
SHORT work, or delivers its result. -/
def Sys2Proof.JobsCompleteAndYield : Prop :=
  (∀ (s : State) (e : Nat) (k : PkEngine) (j : PkJob) (w : PkWork) (it : Item), s.pke.engines[e]? = some k →
    k.running = some j → s.workOf j.item = some w → s.item j.item = some it → it.id = j.item → j.long = true →
    exec (.pkJobComplete e) s =
      .next (((jobDone s e j).setWork { w with jobs := w.jobs + 1, stage := .complete }).endWait it.id)) ∧
  (∀ (s : State) (e : Nat) (k : PkEngine) (j : PkJob) (w : PkWork) (it : Item), s.pke.engines[e]? = some k →
    k.running = some j → s.workOf j.item = some w → s.item j.item = some it → j.long = false → it.opcode ≠ 0x0304 →
    j.cycles < w.cycles →
    exec (.pkJobComplete e) s = .next (((jobDone s e j).setWork
      { w with jobs := w.jobs + 1, cycles := w.cycles - j.cycles }).queueJob e
        { item := it.id, long := false, cycles := min (w.cycles - j.cycles) 160000 })) ∧
  (∀ (s : State) (e : Nat) (k : PkEngine) (j : PkJob) (w : PkWork) (it : Item), s.pke.engines[e]? = some k →
    k.running = some j → s.workOf j.item = some w → s.item j.item = some it → j.long = false → it.opcode ≠ 0x0304 →
    w.cycles ≤ j.cycles →
    exec (.pkJobComplete e) s = .next ((jobDone s e j).pkDeliver it { w with jobs := w.jobs + 1 })) ∧
  (∀ (s : State) (e : Nat) (k : PkEngine) (j : PkJob), s.pke.engines[e]? = some k → k.running = some j → j.long = true →
    k.shortQ ≠ [] →
    exec (.pkYieldPoint e) s = .next (s.modifyEngine e fun k => PkEngine.pick
      { k with running := none, parked := some j, ahead := k.shortQ.map PkJob.item, parks := k.parks + 1 })) ∧
  (∀ (s : State) (e : Nat) (kind : BitVec 4) (k : PkEngine) (j : PkJob) (it : Item), s.pke.engines[e]? = some k →
    k.fenced = false → s.oddFused e = false → s.pke.erased = false → k.running = some j → s.item j.item = some it →
    exec (.pkEndCheckFail e kind) s = .next ({ (s.dropWork it.id).failItem it.id stFaultDetected with
      pke := { ((s.dropWork it.id).failItem it.id stFaultDetected).pke with
        faults := ((s.dropWork it.id).failItem it.id stFaultDetected).pke.faults + 1
        mmEngine := e
        mmKind := kind
        mmTenant := it.tenant.getD 0
        mmTick := ((s.dropWork it.id).failItem it.id stFaultDetected).sys.tick } }.raiseEvents
          [unitEvent 0x6 (40 + e) it.tenant]))

/-- Public-key items validate, run on their engine and deliver. -/
def Obligations.PublicKeyWorkIsDone : Prop :=
  PublicKeyItemsOpenTheirWindow ∧ ValidationWindowsEnd ∧ JobsCompleteAndYield

/-- PK_PROGRAM loads its window and queues its job when every command word passes; a program that has run writes its output
slots and completes with its length and cycles; a word that fails a check completes with its index. -/
def Sys2Proof.ProgramsRunInTheirWindow : Prop :=
  (∀ (s : State) (it : Item) (win : PkeWindow) (prog input : List Byte) (cs : List (Nat × ProgWord × Nat)) (n : Nat),
    s.Runs it 0x0304 → it.claimed = true → s.workOf it.id = none → s.windowOf it.tenantByte it.progEngine = some win →
    it.hostBytes (it.le 24 8) (8 * it.progLen) = some prog →
    it.hostBytes (it.le 32 8) (8 * s.engineL it.progEngine * it.progSlots) = some input → it.progKeyDst = 0xFFFF →
    progParse (s.engineL it.progEngine) win.slotCount 0 (progWords prog) = .inl cs →
    n = (cs.map fun c => progCycles ((s.pkeEntry it.progEngine).any (·.fused)) c.2.1).sum → n ≤ 160000 →
    exec (.pkProgram it.id) s = .next ((s.memStore (s.windowAddr win) (overlay (s.windowBytes win) 0 input)).startWork it
      { item := it.id, engine := it.progEngine, stage := .queued, status := stOk, out := prog, body := [], jobs := 0
        cycles := n } false)) ∧
  (∀ (s : State) (it : Item) (win : PkeWindow) (prog input : List Byte) (i : Nat), s.Runs it 0x0304 → it.claimed = true →
    s.workOf it.id = none → s.windowOf it.tenantByte it.progEngine = some win →
    it.hostBytes (it.le 24 8) (8 * it.progLen) = some prog →
    it.hostBytes (it.le 32 8) (8 * s.engineL it.progEngine * it.progSlots) = some input →
    progParse (s.engineL it.progEngine) win.slotCount 0 (progWords prog) = .inr i →
    ∃ t, exec (.pkProgram it.id) s = .next t ∧ t.Completed it.id stBadField (progBody 0 0 i it.progEngine 0) ∧
      t.regs = s.regs ∧ t.qps = s.qps ∧ t.vault.records = s.vault.records ∧ t.plan = s.plan ∧ t.sys = s.sys) ∧
  (∀ (s : State) (it : Item) (w : PkWork) (win : PkeWindow) (cs : List (Nat × ProgWord × Nat)) (out : List Byte),
    s.Runs it 0x0304 → it.claimed = true → s.workOf it.id = some w → w.stage = .complete →
    s.windowOf it.tenantByte it.progEngine = some win →
    progParse (s.engineL it.progEngine) win.slotCount 0 (progWords w.out) = .inl cs →
    progRun (s.engineL it.progEngine) (s.windowBytes win) cs = (out, none) →
    exec (.pkProgram it.id) s = .next ((((s.dropWork it.id).memStore (s.windowAddr win) out).writeOut it.id (it.le 48 8)
      (slice out (8 * s.engineL it.progEngine * it.progOutFirst) (8 * s.engineL it.progEngine * it.progOutCount))).complete
        it.id stOk (progBody (slice out (8 * s.engineL it.progEngine * it.progOutFirst)
          (8 * s.engineL it.progEngine * it.progOutCount)).length w.cycles 0xFFFFFFFF it.progEngine 1)))

/-- An item that a PK_ABORT ends: an older public-key item of its function and queue pair with its cookie. -/
def Sys2Proof.abortHits (it o : Item) : Bool :=
  o.fn == it.fn && decide (0x0301 ≤ o.opcode) && decide (o.opcode ≤ 0x0304) && decide (o.id < it.id) && !o.isDone &&
    o.phase != .dropped && o.cookie == slice it.desc 16 4 &&
    (match o.source with
      | .queue _ q _ => q == it.byte 20
      | _ => false)

/-- PK_ABORT ends every matching item with ST_ABORTED and completes with their number, which ABORTS counts. -/
def Sys2Proof.AbortEndsMatchingItems : Prop :=
  ∀ (s : State) (it : Item) (n : Nat), s.Runs it 0x0305 → n = (s.itemList.filter (abortHits it)).length →
    ∃ t, exec (.pkAbort it.id) s = .next t ∧ t.Completed it.id stOk (leBytes 8 n ++ pkRest [] 0 0xFF 0 0) ∧
      (∀ o, s.item o.id = some o → abortHits it o = true → t.Completed o.id stAborted []) ∧
      t.pke.aborts = s.pke.aborts + BitVec.ofNat 32 n ∧ t.regs = s.regs ∧ t.qps = s.qps ∧ t.mem.cells = s.mem.cells ∧
      t.sys = s.sys

/-- PK_PROGRAM runs in its window and PK_ABORT ends matching items. -/
def Obligations.ProgramsAndAborts : Prop :=
  ProgramsRunInTheirWindow ∧ AbortEndsMatchingItems

/-- A payment item runs with its claim, and its furrow has its masks. -/
def Sys2Proof.PayReady (s : State) (it : Item) (op : Nat) : Prop :=
  s.Runs it op ∧ it.claimed = true ∧ s.maskWaits it = false ∧ s.cfb.erased = false

/-- A payment item has completed: its record is ready, and registers, queue pairs, device memory and keys are as they
were. -/
def Sys2Proof.PayEnds (s t : State) (it : Item) (st : Status) (body : List Byte) : Prop :=
  t.Completed it.id st body ∧ t.regs = s.regs ∧ t.qps = s.qps ∧ t.mem.cells = s.mem.cells ∧ t.sys = s.sys ∧
    t.plan = s.plan ∧ t.vault.records = s.vault.records ∧ t.vault.sessions = s.vault.sessions

/-- PIN_TRANSLATE enciphers the PIN of a valid incoming block anew, PIN_VERIFY gives its verdict, and an invalid block ends
with ST_PIN_FORMAT. -/
def Sys2Proof.PinOpcodes : Prop :=
  (∀ (s : State) (it : Item) (k : List Byte), PayReady s it 0x0401 → it.payKey dukptPin = some k →
    ∃ t, exec (.pinTranslate it.id) s = .next t ∧
      (pinDigits it.srcFmt (pinField it.srcFmt k it.pinIn it.pan) = none → PayEnds s t it stPinFormat []) ∧
      (∀ pin, pinDigits it.srcFmt (pinField it.srcFmt k it.pinIn it.pan) = some pin → PayEnds s t it stOk (payBody it
        (pinEncipher it.dstFmt (it.material it.payKey2) (pinEncode it.dstFmt pin it.scratch) it.pan) (it.dstFmt != 4)))) ∧
  (∀ (s : State) (it : Item) (k params : List Byte), PayReady s it 0x0402 → it.pinParams = some params →
    it.payKey dukptPin = some k →
    ∃ t, exec (.pinVerify it.id) s = .next t ∧
      (pinDigits it.srcFmt (pinField it.srcFmt k it.pinIn it.pan) = none → PayEnds s t it stPinFormat []) ∧
      (∀ pin, pinDigits it.srcFmt (pinField it.srcFmt k it.pinIn it.pan) = some pin → it.byte 21 = 1 → PayEnds s t it
        (if ibm3624 (it.material it.payKey2) (slice params 16 8) (slice params 24 8) (slice params 32 6)
          (byteAt params 12).toNat pin then stOk else stVerifyFail)
        (if ibm3624 (it.material it.payKey2) (slice params 16 8) (slice params 24 8) (slice params 32 6)
          (byteAt params 12).toNat pin then payBody it [] false else [])) ∧
      (∀ pin, pinDigits it.srcFmt (pinField it.srcFmt k it.pinIn it.pan) = some pin → it.byte 21 ≠ 1 → it.srcFmt ≠ 1 →
        PayEnds s t it
          (if visaPvv (it.material it.payKey2) it.pan pin (byteAt params 13).toNat = nibbles (slice params 38 2) then stOk
            else stVerifyFail)
          (if visaPvv (it.material it.payKey2) it.pan pin (byteAt params 13).toNat = nibbles (slice params 38 2) then
            payBody it [] false else []))) ∧
  (∀ (s : State) (it : Item), PayReady s it 0x0401 → it.payKey dukptPin = none →
    ∃ t, exec (.pinTranslate it.id) s = .next t ∧ PayEnds s t it stInputRange [] ∧ t.pay.ksnRej = s.pay.ksnRej + 1)

/-- MAC_GEN completes with the MAC of its message under the working key, MAC_VER with its verdict on the expected MAC, and
ARQC_VERIFY with its verdict on the cryptogram and the response cryptogram that it asks for. -/
def Sys2Proof.MacAndCryptogramOpcodes : Prop :=
  (∀ (s : State) (it : Item) (msg k : List Byte), PayReady s it 0x0403 → it.macInput = some msg →
    it.payKey dukptMacGen = some k →
    ∃ t, exec (.macGen it.id) s = .next t ∧
      PayEnds s t it stOk (payBody it (it.macOf k msg) (it.ksrc == 0 && it.tdesKey it.key))) ∧
  (∀ (s : State) (it : Item) (msg k : List Byte), PayReady s it 0x0404 → it.macInput = some msg →
    it.payKey dukptMacVer = some k →
    ∃ t, exec (.macVer it.id) s = .next t ∧
      (it.macOf k msg = slice it.desc 32 (it.byte 18) → PayEnds s t it stOk (payBody it [] false)) ∧
      (it.macOf k msg ≠ slice it.desc 32 (it.byte 18) → PayEnds s t it stTagMismatch [])) ∧
  (∀ (s : State) (it : Item) (data mk sk : List Byte) (aes : Bool), PayReady s it 0x0405 → it.macInput = some data →
    aes = !it.tdesKey it.key → mk = iccKey aes (it.material it.key) it.pan (nibbles (slice it.desc 17 1)) →
    sk = emvSession aes mk (slice it.desc 18 2) →
    ∃ t, exec (.arqcVerify it.id) s = .next t ∧
      (emvMac aes sk data = slice it.desc 32 8 →
        PayEnds s t it stOk (payBody it (it.arpc aes mk sk) (it.byte 16 != 0 && !aes))) ∧
      (emvMac aes sk data ≠ slice it.desc 32 8 → PayEnds s t it stVerifyFail []))

/-- PIN, MAC and cryptogram opcodes give their results and verdicts. -/
def Obligations.PinMacAndCryptogramOpcodes : Prop :=
  PinOpcodes ∧ MacAndCryptogramOpcodes

/-- KEYBLOCK_IMPORT creates the key that a verified block's header and clear data give, and counts a refused block;
KEYBLOCK_EXPORT writes the sealed block. -/
def Obligations.KeyBlockOpcodes : Prop :=
  (∀ (s s' : State) (it : Item) (b : List Byte), s.Runs it 0x0406 → it.claimed = true → s.maskWaits it = false →
    it.keyBlock = some b → s.payApproval it 16 b = some s' → s'.item it.id = some it →
    ∃ t, exec (.keyblockImport it.id) s = .next t ∧
      (kbOpen (it.material it.key) b = none → t.Completed it.id stTagMismatch [] ∧ t.pay.kbRej = s'.pay.kbRej + 1) ∧
      (∀ pt st, kbOpen (it.material it.key) b = some pt → kbKey b pt = .error st →
        t.Completed it.id st [] ∧ t.pay.kbRej = s'.pay.kbRej + 1) ∧
      (∀ pt use eng alg key attr, kbOpen (it.material it.key) b = some pt → kbKey b pt = .ok (use, eng, alg, key) →
        attr = BitVec.ofNat 64 (eng + use * 2 ^ 8 + (if byteAt b 11 = 0x45 then 2 ^ 25 else 0)) →
        s'.specCheck it.tenantByte (KeySpec.mk (it.byte 32) alg 0 0 attr (BitVec.ofNat 32 (it.le 36 4))) = none →
        t = s'.createKey it (it.byte 32)
          { attr := finalAttr attr true false it.tenantByte alg, parent := noHandle, depth := 0
            noncePrefix := BitVec.ofNat 32 (it.le 36 4), material := key, pubOnly := false } (newKeyBody alg false key))) ∧
  (∀ (s s' s2 : State) (it : Item) (b : List Byte), s.Runs it 0x0407 → it.claimed = true → s.maskWaits it = false →
    s.payApproval it 20 [] = some s' → s'.kbExport it = .ok (b, s2) → b.length ≤ it.le 24 4 →
    exec (.keyblockExport it.id) s = .next ((s2.writeOut it.id (it.le 40 8) b).complete it.id stOk
      (leBytes 8 b.length ++ zeros 15 ++ leBytes 1 (b2n (byteAt it.desc 32 == asciiB))))) ∧
  (∀ (s : State) (it : Item), s.Runs it 0x0407 → it.claimed = true → s.maskWaits it = false →
    s.payApproval it 20 [] = none →
    ∃ t, exec (.keyblockExport it.id) s = .next t ∧ t.Completed it.id stQuorumMissing [] ∧ ItemFrame s t)

/-! ## Cards, ceremonies and approvals (R460 to R484) -/

/-- CER_OPEN opens the device's one session with a drawn nonce; CER_CLOSE and the limit close it, and CER_CLOSE on a closed
session reports 0. -/
def Sys2Proof.CeremonySessionsOpenAndClose : Prop :=
  (∀ (s : State) (it : Item) (c : Ceremony), s.Runs it 0x0720 → 1 ≤ it.byte 16 → it.byte 16 ≤ 8 →
    auxOk (it.byte 16) (it.byte 17) = true → it.le 18 2 ≤ 300 → zeroRange it.desc 20 24 = true →
    zeroRange it.desc 56 64 = true → s.sys.phase = .service → s.ceremonyOpen = false →
    s.ctl.roster ≠ [] ∨ (it.byte 16 = 0x01 ∧ it.byte 17 = 0x01) →
    c = { session := s.ctl.nextSession, kind := it.byte 16, aux := it.byte 17, subject := slice it.desc 24 32
          nonce := (s.draw 8).1, opened := s.sys.tick, limitS := if it.le 18 2 = 0 then 300 else it.le 18 2, counted := []
          passed := [], components := [], isOpen := true } →
    ∃ t, exec (.cerOpen it.id) s = .next t ∧
      t.Completed it.id stOk (leBytes 8 s.ctl.nextSession.toNat ++ (s.draw 8).1) ∧ t.ctl.session = some c ∧
      t.ctl.nextSession = s.ctl.nextSession + 1 ∧ t.ctl.roster = s.ctl.roster ∧ t.regs = s.regs ∧ t.qps = s.qps ∧
      t.mem.cells = s.mem.cells ∧ t.sys.phase = .service) ∧
  (∀ (s : State) (it : Item) (c : Ceremony), s.Runs it 0x0722 → zeroRange it.desc 20 64 = true →
    s.openSession it.cerSession = some c →
    ∃ t, exec (.cerClose it.id) s = .next t ∧ t.Completed it.id stOk (leBytes 8 1) ∧
      t.ctl.session = some { c with isOpen := false } ∧ t.ctl.roster = s.ctl.roster ∧ t.regs = s.regs ∧ t.qps = s.qps ∧
      t.mem.cells = s.mem.cells) ∧
  (∀ (s : State) (it : Item), s.Runs it 0x0722 → zeroRange it.desc 20 64 = true → s.openSession it.cerSession = none →
    exec (.cerClose it.id) s = .next (s.complete it.id stOk (leBytes 8 0))) ∧
  (∀ (s : State) (c : Ceremony), s.ctl.session = some c → c.isOpen = true →
    ∃ t, exec .ceremonyLimit s = .next t ∧ t.ctl.session = some { c with isOpen := false } ∧
      t.ctl.roster = s.ctl.roster ∧ t.regs = s.regs ∧ t.qps = s.qps ∧ t.mem = s.mem ∧ t.sys.phase = s.sys.phase)

/-- CER_CARD activates its port in class C and waits for the card, or waits behind the step that runs there; a step that
ends deactivates its port and lets its item resume with the step's outcome. -/
def Sys2Proof.CardStepsRunOnTheirPort : Prop :=
  (∀ (s : State) (it : Item) (c : Ceremony), s.Runs it 0x0721 → it.byte 20 ≤ 3 → zeroRange it.desc 21 24 = true →
    zeroRange it.desc 32 64 = true → pinFieldOk (slice it.desc 24 8) = true → s.openSession it.cerSession = some c →
    s.eligible none 0x20 false ≠ [] → s.ctl.ports.length = 4 → (s.port (it.byte 20)).step = none →
    (s.port (it.byte 20)).queue = [] →
    ∃ t, exec (.cerCard it.id) s = .next t ∧ t.Waits it.id .card ∧ (t.port (it.byte 20)).step = some it.id ∧
      (t.port (it.byte 20)).powered = true ∧ (t.port (it.byte 20)).classB = false ∧ (t.port (it.byte 20)).wait = .atr ∧
      (t.port (it.byte 20)).queue = [] ∧ t.ctl.session = s.ctl.session ∧
      (∀ p, p ≠ it.byte 20 → t.port p = s.port p) ∧ t.regs = s.regs ∧ t.qps = s.qps ∧ t.mem.cells = s.mem.cells) ∧
  (∀ (s : State) (it : Item) (c : Ceremony) (id : Nat), s.Runs it 0x0721 → it.byte 20 ≤ 3 →
    zeroRange it.desc 21 24 = true → zeroRange it.desc 32 64 = true → pinFieldOk (slice it.desc 24 8) = true →
    s.openSession it.cerSession = some c → s.eligible none 0x20 false ≠ [] → s.ctl.ports.length = 4 →
    (s.port (it.byte 20)).step = some id →
    ∃ t, exec (.cerCard it.id) s = .next t ∧ t.Waits it.id .card ∧
      t.port (it.byte 20) = { s.port (it.byte 20) with queue := (s.port (it.byte 20)).queue ++ [it.id] } ∧
      (∀ p, p ≠ it.byte 20 → t.port p = s.port p) ∧ t.regs = s.regs) ∧
  (∀ (s : State) (port : Nat) (it : Item) (st : Status) (n f : Nat) (u : Word), port < s.ctl.ports.length →
    (s.port port).step = some it.id → (s.port port).queue = [] → s.item it.id = some it → it.phase = .yielded .card →
    (s.endStep port st n f u).item it.id = some { it with
      phase := .resumable, stage := 0xFF, outcome := stepOutcome (s.port port) port st n f u } ∧
    ((s.endStep port st n f u).port port).step = none ∧ ((s.endStep port st n f u).port port).powered = false ∧
    ((s.endStep port st n f u).port port).lastStatus = st ∧
    ((s.endStep port st n f u).port port).errors =
      (s.port port).errors + (if st = stCardProtocol then 1 else 0) ∧
    (∀ p, p ≠ port → (s.endStep port st n f u).port p = s.port p))

/-- A card's replies drive its step: selection asks for the PIN, a correct PIN sends the challenge, and a signature counts a
rostered officer once or ends the step. -/
def Obligations.CardRepliesDriveTheStep : Prop :=
  (∀ (s : State) (port : Nat) (it : Item) (o : Word) (k : List Byte), (s.port port).step = some it.id →
    s.item it.id = some it → (s.port port).wait = .select →
    exec (.cardResponse port (.selected o k)) s = .next (s.setPort port { s.port port with
      officer := o, pubKey := k, phase := 0x2, wait := .pin, busy := false })) ∧
  (∀ (s : State) (port : Nat) (it : Item) (c : Ceremony), (s.port port).step = some it.id → s.item it.id = some it →
    (s.port port).wait = .pin → s.openSession it.cerSession = some c →
    exec (.cardResponse port (.pin true)) s = .next ((s.setPort port { s.port port with
      phase := 0x2, wait := .sign, busy := false }).emit (.card port
        (s.challenge c.kind port 0 c.session c.nonce c.subject)))) ∧
  (∀ (s : State) (port : Nat) (it : Item), (s.port port).step = some it.id → s.item it.id = some it →
    (s.port port).wait = .pin →
    exec (.cardResponse port (.pin false)) s = .next (s.stepFails port stAccessDenied)) ∧
  (∀ (s : State) (port : Nat) (it : Item) (c : Ceremony) (key sig : List Byte) (n : Word), port < s.ctl.ports.length →
    (s.port port).step = some it.id → s.item it.id = some it → (s.port port).wait = .sign →
    s.openSession it.cerSession = some c → s.rostered (s.port port).officer = some key →
    c.counted.contains (s.port port).officer = false →
    ∃ t, exec (.cardResponse port (.signed n sig none)) s = .next t ∧
      (officerSigOk key (s.challenge c.kind port 0 c.session c.nonce c.subject) n sig = true →
        t.ctl.session = some (c.count (s.port port).officer key none)) ∧
      (officerSigOk key (s.challenge c.kind port 0 c.session c.nonce c.subject) n sig = false →
        t.ctl.session = s.ctl.session) ∧ t.ctl.roster = s.ctl.roster ∧ t.regs = s.regs ∧ t.qps = s.qps) ∧
  (∀ (s : State) (port : Nat), (s.port port).step.isSome = true →
    (s.port port).wait = .select ∨ (s.port port).wait = .pin ∨ (s.port port).wait = .sign →
    exec (.cardWaitTimeout port) s = .next (s.stepFails port stCardProtocol)) ∧
  (∀ (s : State) (port : Nat), (s.port port).step.isSome = true → (s.port port).wait = .atr →
    (s.port port).classB = false →
    exec (.cardWaitTimeout port) s = .next (s.setPort port { (s.port port).deactivate with
      step := (s.port port).step, wait := .classRetry })) ∧
  (∀ (s : State) (port id : Nat), (s.port port).step = some id → (s.port port).wait = .classRetry →
    exec (.cardClassRetry port) s = .next (s.setPort port ((s.port port).activate id true))) ∧
  (∀ (s : State) (port : Nat), (s.port port).step.isSome = true → (s.port port).phase = 0x2 ∨ (s.port port).phase = 0x3 →
    ((s.port port).lesengo = true → exec (.cardBusyDetect port) s =
      .next (s.setPort port { s.port port with phase := 0x3, busy := true })) ∧
    ((s.port port).lesengo = false → exec (.cardBusyDetect port) s = .next (s.stepFails port stCardProtocol))) ∧
  (∀ (s : State) (port : Nat), (s.port port).powered = true →
    exec (.cardOvercurrent port) s = .next (s.stepFails port stCardProtocol))

/-- An insertion and a removal set their interrupt bits and the presence of the port; a removal counts, and before VERIFY it
ends the step. -/
def Sys2Proof.CardsComeAndGo : Prop :=
  (∀ (s : State) (port : Nat), port < 4 → s.ctl.ports.length = 4 → (s.port port).present = false → s.portsRun = true →
    ∃ t, exec (.cardInsert port) s = .next t ∧ t.port port = { s.port port with present := true } ∧
      t.ctl.irqInsert = s.ctl.irqInsert ||| BitVec.ofNat 4 (2 ^ port) ∧ (∀ p, p ≠ port → t.port p = s.port p) ∧
      t.dsp = s.dsp ∧ t.regs = s.regs ∧ t.qps = s.qps ∧ t.mem.cells = s.mem.cells) ∧
  (∀ (s : State) (port : Nat), port < 4 → s.ctl.ports.length = 4 → (s.port port).present = true → s.portsRun = true →
    (s.port port).phase = 0x5 ∨ (s.port port).step = none →
    ∃ t, exec (.cardRemove port) s = .next t ∧
      t.port port = { s.port port with present := false, removals := (s.port port).removals + 1 } ∧
      t.ctl.irqRemove = s.ctl.irqRemove ||| BitVec.ofNat 4 (2 ^ port) ∧ (∀ p, p ≠ port → t.port p = s.port p) ∧
      t.dsp = s.dsp ∧ t.regs = s.regs ∧ t.qps = s.qps ∧ t.mem.cells = s.mem.cells)

/-- Card steps run on their port, and cards come and go. -/
def Obligations.CardStepsAndPorts : Prop :=
  CardStepsRunOnTheirPort ∧ CardsComeAndGo

/-- CER_APPLY on a quorate session asks for the store that its kind gives, consuming the session; a recovery from a KEEP
event completes and raises its event; the last stage of a firmware update completes. -/
def Sys2Proof.CeremoniesAreApplied : Prop :=
  (∀ (s : State) (it : Item) (d : List Byte) (c : Ceremony) (a : StoreAction), s.Runs it 0x0723 →
    zeroRange it.desc 32 64 = true → it.le 24 8 % 64 = 0 → it.hostBytes (it.le 24 8) (it.le 20 4) = some d → it.stage = 0 →
    s.openSession it.cerSession = some c → c.kind = 0x01 → sha256 d = c.subject → s.hasQuorum c = true →
    c.loadComponent d = .ok a → StoreReady s a →
    exec (.cerApply it.id) s = .next (s.closeSession.storeFor it.id a (outcome stOk []))) ∧
  (∀ (s : State) (it : Item) (d : List Byte) (c : Ceremony), s.Runs it 0x0723 →
    zeroRange it.desc 32 64 = true → it.le 24 8 % 64 = 0 → it.hostBytes (it.le 24 8) (it.le 20 4) = some d → it.stage = 0 →
    s.openSession it.cerSession = some c → c.kind = 0x06 → sha256 d = c.subject → s.hasQuorum c = true →
    exec (.cerApply it.id) s =
      .next ((s.closeSession.complete it.id stOk []).raiseEvents [kEvent 2 0xFFFF])) ∧
  (∀ (s : State) (it : Item) (d : List Byte) (c : Ceremony), s.Runs it 0x0723 →
    zeroRange it.desc 32 64 = true → it.le 24 8 % 64 = 0 → it.hostBytes (it.le 24 8) (it.le 20 4) = some d → it.stage = 0 →
    s.openSession it.cerSession = some c → c.kind = 0x01 ∨ c.kind = 0x03 ∨ c.kind = 0x06 ∨ c.kind = 0x07 →
    sha256 d = c.subject → s.hasQuorum c = false →
    ∃ t, exec (.cerApply it.id) s = .next t ∧ t.Waits it.id .quorum ∧ ItemFrame s t) ∧
  (∀ (s : State) (it : Item) (d : List Byte), s.Runs it 0x0723 → zeroRange it.desc 32 64 = true →
    it.le 24 8 % 64 = 0 → it.hostBytes (it.le 24 8) (it.le 20 4) = some d → it.stage = 3 →
    ∃ t, exec (.cerApply it.id) s = .next t ∧ t.Completed it.id stOk (okBody 0 []) ∧ ItemFrame s t)

/-- Ceremony sessions open, close and are consumed by what they authorise. -/
def Obligations.CeremonySessionsAreKept : Prop :=
  CeremonySessionsOpenAndClose ∧ CeremoniesAreApplied

/-- APPROVAL_OPEN opens a numbered session of its tenant; APPROVAL_SIGN counts a rostered key once under a valid signature
and fails under any other; ROSTER_SET asks for the roster's store, the first one without an approval; a session that has been
open for its time is gone. -/
def Obligations.ApprovalOpcodes : Prop :=
  (∀ (s : State) (it : Item) (r : TenantRoster) (n : Nat), s.Runs it 0x0510 → zeroRange it.desc 48 64 = true →
    s.remoteOfficers it.tenantByte = true → tabGet s.ctl.tenantRosters it.tenantByte.toNat = some r →
    (s.ctl.approvals.filter (·.1 == it.tenantByte)).length < 16 →
    n = tabGetD s.ctl.nextApproval it.tenantByte.toNat 1 →
    ∃ t, exec (.approvalOpen it.id) s = .next t ∧ t.Completed it.id stOk (leBytes 8 n ++ (s.draw 8).1) ∧
      t.ctl.approvals = s.ctl.approvals ++ [(it.tenantByte, Approval.mk (BitVec.ofNat 32 n) (slice it.desc 16 32)
        (s.draw 8).1 s.sys.tick [])] ∧
      tabGet t.ctl.nextApproval it.tenantByte.toNat = some (n + 1) ∧ t.ctl.tenantRosters = s.ctl.tenantRosters ∧
      t.regs = s.regs ∧ t.qps = s.qps ∧ t.mem.cells = s.mem.cells) ∧
  (∀ (s : State) (it : Item) (sig : List Byte) (a : Approval) (r : TenantRoster) (k : KeyView), s.Runs it 0x0511 →
    zeroRange it.desc 32 64 = true → it.le 24 8 % 8 = 0 → s.remoteOfficers it.tenantByte = true →
    it.hostBytes (it.le 24 8) 64 = some sig → s.approvalOf it.tenantByte it.cerSession = some a →
    tabGet s.ctl.tenantRosters it.tenantByte.toNat = some r → r.handles.contains it.key = true →
    s.checkHandle it.tenantByte it.key = none → s.useCheck it.key [useVerify] [engPke] 0 = none →
    s.keyView it.key = some k → a.counted.contains it.key = false →
    ∃ t, exec (.approvalSign it.id) s = .next t ∧
      (officerSigOk (publicPart 0x20 k.pubOnly k.material) (s.challenge 0x10 0xFF it.tenantByte a.session a.nonce a.subject)
          (BitVec.ofNat 32 (it.le 20 4)) sig = true →
        t.Completed it.id stOk (leBytes 8 (a.counted.length + 1) ++ leBytes 1 (b2n (decide (r.m ≤ a.counted.length + 1)))) ∧
        t.ctl.approvals = s.ctl.approvals.map (fun x => if x.1 == it.tenantByte && x.2.session == a.session then
          (x.1, { a with counted := a.counted ++ [it.key] }) else x)) ∧
      (officerSigOk (publicPart 0x20 k.pubOnly k.material) (s.challenge 0x10 0xFF it.tenantByte a.session a.nonce a.subject)
          (BitVec.ofNat 32 (it.le 20 4)) sig = false → t.Completed it.id stVerifyFail [] ∧ ItemFrame s t)) ∧
  (∀ (s : State) (it : Item) (list : List Byte) (a : StoreAction), s.Runs it 0x0512 → 2 ≤ it.byte 16 → it.byte 16 ≤ 8 →
    it.byte 16 ≤ it.byte 17 → it.byte 17 ≤ 8 → zeroRange it.desc 18 20 = true → zeroRange it.desc 32 64 = true →
    s.remoteOfficers it.tenantByte = true → tabGet s.ctl.tenantRosters it.tenantByte.toNat = none → it.le 20 4 = 0 →
    it.hostBytes (it.le 24 8) (4 * it.byte 17) = some list →
    ((chunks 4 list).map fun b => BitVec.ofNat 32 (ofLe b)).findSome? (s.officerHandle it.tenantByte) = none →
    s.quotaLeft it.tenantByte 1 = true →
    a = .tenantRoster it.tenantByte (it.byte 16) ((chunks 4 list).map fun b => BitVec.ofNat 32 (ofLe b)) →
    StoreReady s a → exec (.rosterSet it.id) s = .next (asked s it a (outcome stOk []))) ∧
  (∀ (s : State) (b : Byte) (n : Word), exec (.approvalTimeout b n) s = .next { s with ctl := { s.ctl with
    approvals := s.ctl.approvals.filter fun x => !(x.1 == b && x.2.session == n) } })

/-! ## The cluster ring (R487 to R501) -/

/-- A frame of its type arrives at a member whose culvert is open, and its tag verifies. -/
def Sys2Proof.FrameComes (s : State) (f : RingFrame) (kind : Nat) : Prop :=
  s.ring.culvertOpen = true ∧ s.ring.member = true ∧ f.kind = kind ∧ f.tagOk = true

/-- The culvert follows the lock of its PHY and opens in the modes that permit it; a heartbeat leaves, a peer's heartbeat is
noted with its salt and epoch, and an absent peer is forgotten; a frame whose tag fails is only counted. -/
def Sys2Proof.PresenceIsKept : Prop :=
  (∀ (s : State) (b : Bool), exec (.ringPhyLock b) s =
    .next { s with ring := { s.ring with locked := b, culvertOpen := s.ring.culvertOpen && b } }) ∧
  (∀ (s : State), s.ring.member = true → s.ring.locked = true → s.culvertMode = true → s.ring.culvertOpen = false →
    exec .culvertOpen s = .next { s with ring := { s.ring with culvertOpen := true, lastToken := s.sys.tick } }) ∧
  (∀ (s : State), s.ring.member = true → s.ring.culvertOpen = true →
    ∃ t w, exec .heartbeatTimer s = .next t ∧ t = { s with
      out := .ring w :: s.out, ring := { s.ring with counter := s.ring.counter + 1 } } ∧
      w.take 24 = leBytes 1 0x01 ++ leBytes 1 s.ring.position ++ leBytes 1 0 ++ leBytes 1 0 ++
        leBytes 4 s.ring.bootSalt.length ++ leBytes 8 s.ring.epoch.toNat ++ leBytes 8 s.ring.counter.toNat) ∧
  (∀ (s : State) (f : RingFrame), FrameComes s f 0x01 → f.origin ≠ s.ring.position → s.sys.phase = .service →
    f.epoch.toNat ≤ s.ring.epoch.toNat → s.ring.top.toNat ≤ s.ring.epoch.toNat →
    ∃ t, exec (.heartbeat f) s = .next t ∧
      t.ring.peers = tabSet s.ring.peers f.origin { lastBeat := s.sys.tick, salt := f.salt, epoch := f.epoch } ∧
      t.ring.epoch = s.ring.epoch ∧ t.vault = s.vault ∧ t.dsp = s.dsp ∧ t.sys = s.sys ∧ t.regs = s.regs ∧ t.mem = s.mem) ∧
  (∀ (s : State) (f : RingFrame), s.ring.culvertOpen = true → s.ring.member = true → f.kind = 0x01 → f.tagOk = false →
    exec (.heartbeat f) s = .next { s with ring := { s.ring with badFrame := s.ring.badFrame + 1 } }) ∧
  (∀ (s : State) (p : Nat), s.sys.phase ≠ .mirrorSync →
    exec (.presenceTimeout p) s = .next { s with ring := { s.ring with peers := tabErase s.ring.peers p } })

/-- A token with nothing to commit is relayed or passed on with its generation; a lost token is issued anew with the next
generation by the lowest present member. -/
def Sys2Proof.TheTokenIsPassedOn : Prop :=
  (∀ (s : State) (f : RingFrame), FrameComes s f 0x02 → f.origin ≠ s.ring.position →
    s.ring.generation.toNat ≤ f.generation.toNat → s.mirrorWaiting = [] →
    ∃ t, exec (.token f) s = .next t ∧ t.ring.generation = f.generation ∧ t.ring.lastToken = s.sys.tick ∧
      t.ring.token = s.ring.token ∧ t.out.length = s.out.length + 1 ∧ t.vault = s.vault ∧ t.dsp = s.dsp ∧
      t.regs = s.regs) ∧
  (∀ (s : State) (f : RingFrame), FrameComes s f 0x02 → f.generation.toNat < s.ring.generation.toNat →
    exec (.token f) s = .next s) ∧
  (∀ (s : State), s.ring.member = true → s.ring.culvertOpen = true → s.ring.token = false → s.sys.phase ≠ .mirrorSync →
    (∀ p, p < s.ring.position → s.ringPresent p = false) → s.mirrorWaiting = [] → s.ring.commit = none →
    ∃ t, exec .tokenLossTimeout s = .next t ∧ t.ring.generation = s.ring.generation + 1 ∧ t.ring.token = false ∧
      t.ring.tokenEpoch = (if s.ring.top.toNat < s.ring.epoch.toNat then s.ring.epoch else s.ring.top) ∧
      t.out.length = s.out.length + 1 ∧ t.vault = s.vault ∧ t.dsp = s.dsp ∧ t.regs = s.regs)

/-- Heartbeats keep presence, and the token is passed on or issued anew. -/
def Obligations.PresenceAndToken : Prop :=
  PresenceIsKept ∧ TheTokenIsPassedOn

/-- A foreign PREPARE is staged where the reserve admits it, and relayed with REFUSED set otherwise; its COMMIT applies the
staged record and takes its epoch, its ABORT and the discard timer drop it; the own PREPARE's return starts the COMMIT, whose
return ends the mirror commit, and a PREPARE that does not return ends it without one. -/
def Obligations.MirrorCommitsTakeTheirCourse : Prop :=
  (∀ (s : State) (f : RingFrame), FrameComes s f 0x03 → f.origin ≠ s.ring.position → s.sys.phase ≠ .mirrorSync →
    s.storesOpen = true → s.reserveCovers 10 = true →
    ∃ t, exec (.prepare f) s = .next t ∧ t.ring.staged = some { origin := f.origin, epoch := f.epoch, body := f.body } ∧
      t.ring.epoch = s.ring.epoch ∧ t.out.length = s.out.length + 1 ∧ t.vault = s.vault ∧ t.dsp = s.dsp ∧
      t.regs = s.regs) ∧
  (∀ (s : State) (f : RingFrame) (id : Nat), FrameComes s f 0x03 → f.origin = s.ring.position →
    s.ring.commit = some (id, .prepared) → f.epoch = s.ring.epoch + 1 → f.refused = false →
    ∃ t, exec (.prepare f) s = .next t ∧ t.ring.commit = some (id, .committed) ∧ t.out.length = s.out.length + 1 ∧
      t.vault = s.vault ∧ t.ring.epoch = s.ring.epoch ∧ t.dsp = s.dsp) ∧
  (∀ (s : State) (f : RingFrame) (a : StoreAction), FrameComes s f 0x04 → f.origin ≠ s.ring.position →
    s.sys.phase ≠ .mirrorSync → s.ring.staged.map (·.origin) = some f.origin → s.ring.staged.map (·.epoch) = some f.epoch →
    (s.ring.staged.bind fun x => s.actionParse x.body) = some a → (∀ h, a ≠ .retire h) → (∀ h, a ≠ .purge h) →
    ∃ t, exec (.commit f) s = .next t ∧ t.ring.epoch = f.epoch ∧ t.ring.staged = none ∧
      t.vault = (s.applyStore a false).vault ∧ t.ctl = (s.applyStore a false).ctl ∧ t.dsp = s.dsp ∧ t.regs = s.regs) ∧
  (∀ (s : State) (f : RingFrame) (id : Nat), FrameComes s f 0x04 → f.origin = s.ring.position →
    s.ring.commit = some (id, .committed) →
    exec (.commit f) s = .next { s with ring := { s.ring with commit := some (id, .returned) } }) ∧
  (∀ (s : State) (f : RingFrame), FrameComes s f 0x05 → f.origin ≠ s.ring.position →
    (s.ring.staged.any fun x => x.origin == f.origin && x.epoch == f.epoch) = true →
    ∃ t, exec (.abort f) s = .next t ∧ t.ring.staged = none ∧ t.ring.epoch = s.ring.epoch ∧ t.vault = s.vault ∧
      t.out.length = s.out.length + 1) ∧
  (∀ (s : State) (id : Nat) (st : Store) (it : Item), s.ring.commit = some (id, .prepared) →
    s.vault.stores.find? (·.id == id) = some st → st.item = some it.id → (∀ i c, st.action ≠ .ceiling i c) →
    s.item it.id = some it → it.phase = .yielded .store → s.ring.token = false →
    ∃ t, exec .prepareTimeout s = .next t ∧ t.ring.commit = none ∧ t.ring.aborts = s.ring.aborts + 1 ∧
      t.item it.id = some { it with phase := .resumable, stage := 0xFF, outcome := outcome stPeerUnreachable [] } ∧
      t.vault.stores = s.vault.stores.filter (·.id != st.id) ∧ t.vault.records = s.vault.records) ∧
  (∀ (s : State), exec .stagedDiscardTimeout s = .next { s with ring := { s.ring with staged := none } })

/-- A SYNC_REQ that names this member is answered with the whole mirrored state; SYNC_DATA from the member that was asked is
applied while the reserve admits it and brings the epoch, and Service begins where the member is behind no longer. -/
def Sys2Proof.MirrorSyncBringsTheState : Prop :=
  (∀ (s : State) (f : RingFrame), FrameComes s f 0x06 → f.origin ≠ s.ring.position → s.sys.phase ≠ .mirrorSync →
    (byteAt f.body 0).toNat = s.ring.position →
    ∃ t, exec (.syncReq f) s = .next t ∧ t = (s.relayRing f).sendRing 0x07 s.ring.epoch
      (leBytes 1 f.origin ++ s.mirrorWire)) ∧
  (∀ (s : State) (f : RingFrame), FrameComes s f 0x07 → f.origin ≠ s.ring.position → s.sys.phase = .mirrorSync →
    (byteAt f.body 0).toNat = s.ring.position → s.ring.syncFrom = some f.origin → s.storesOpen = true →
    s.reserveCovers 5 = true → s.ring.top.toNat ≤ f.epoch.toNat →
    ∃ t, exec (.syncData f) s = .next t ∧ t.ring.epoch = f.epoch ∧ t.ring.syncFrom = none ∧ t.sys.phase = .service ∧
      t.vault.records = ((s.relayRing f).applyMirror (f.body.drop 1)).vault.records ∧
      t.vault.templates = ((s.relayRing f).applyMirror (f.body.drop 1)).vault.templates ∧
      t.ctl.roster = ((s.relayRing f).applyMirror (f.body.drop 1)).ctl.roster ∧ t.regs = s.regs ∧ t.qps = s.qps) ∧
  (∀ (s : State) (f : RingFrame), FrameComes s f 0x07 → f.origin ≠ s.ring.position → s.sys.phase = .mirrorSync →
    (byteAt f.body 0).toNat = s.ring.position → s.ring.syncFrom = some f.origin → s.storesOpen = true →
    s.reserveCovers 5 = false →
    ∃ t, exec (.syncData f) s = .next t ∧ t.ring.epoch = s.ring.epoch ∧ t.ring.syncFrom = none ∧
      t.sen.refusals = s.sen.refusals + 1 ∧ t.vault = s.vault ∧ t.sys = s.sys)

/-- A ZEROIZE frame is relayed, and raises a KEEP event with its origin noted on a member that propagates it. -/
def Sys2Proof.ZeroizeFramesPropagate : Prop :=
  (∀ (s : State) (f : RingFrame), FrameComes s f 0x08 → f.origin ≠ s.ring.position → s.ring.zprop = false →
    exec (.zeroizeFrame f) s = .next (s.relayRing f)) ∧
  (∀ (s : State) (f : RingFrame), FrameComes s f 0x08 → f.origin ≠ s.ring.position → s.ring.zprop = true →
    exec (.zeroizeFrame f) s = .next ({ s.relayRing f with ring := { (s.relayRing f).ring with
      zSeen := true, zOrigin := BitVec.ofNat 4 f.origin, zSent := true } }.raiseEvents [kEvent 2 0xFFFF]))

/-- Mirror Sync brings the ring's state, and ZEROIZE propagates. -/
def Obligations.MirrorSyncAndZeroize : Prop :=
  MirrorSyncBringsTheState ∧ ZeroizeFramesPropagate

/-- RING_ASSEMBLE with a quorate session begins the key exchange of a ring and waits for it, or asks for the store that
leaves a ring of one; a key share is kept, an invalid one and t_FORM end the exchange. -/
def Obligations.RingsAreFormed : Prop :=
  (∀ (s : State) (it : Item) (d : List Byte), s.Runs it 0x0740 → zeroRange it.desc 32 64 = true → 24 ≤ it.le 20 4 →
    it.le 20 4 ≤ 144 → it.hostBytes (it.le 24 8) (it.le 20 4) = some d → s.descOk d = true → it.le 24 8 % 64 = 0 →
    s.consumeAsk (BitVec.ofNat 32 (it.le 16 4)) 0x08 (sha256 d) = .ready → s.lcs = lcDeployed → byteAt d 6 ≠ 1 →
    ∃ t f, exec (.ringAssemble it.id) s = .next t ∧ t.Waits it.id .ring ∧ t.ring.form = some f ∧ f.item = it.id ∧
      f.desc = d ∧ f.serials = descSerials d ∧ f.position = (descSerials d).idxOf s.sys.serial ∧ f.passed = [] ∧
      t.ring.member = s.ring.member ∧ (t.ctl.session.map (·.isOpen)) = some false ∧ t.regs = s.regs ∧ t.qps = s.qps) ∧
  (∀ (s : State) (it : Item) (d : List Byte), s.Runs it 0x0740 → zeroRange it.desc 32 64 = true → 24 ≤ it.le 20 4 →
    it.le 20 4 ≤ 144 → it.hostBytes (it.le 24 8) (it.le 20 4) = some d → s.descOk d = true → it.le 24 8 % 64 = 0 →
    s.consumeAsk (BitVec.ofNat 32 (it.le 16 4)) 0x08 (sha256 d) = .ready → s.lcs = lcDeployed → byteAt d 6 = 1 →
    StoreReady s .ringLeave →
    exec (.ringAssemble it.id) s = .next (s.closeSession.storeFor it.id .ringLeave (outcome stOk []))) ∧
  (∀ (s : State) (f : RingForm) (it : Item), s.ring.form = some f → s.item f.item = some it → it.id = f.item →
    it.phase = .yielded .ring →
    ∃ t, exec (.ringFormTimeout f.item) s = .next t ∧ t.ring.form = none ∧
      t.item it.id = some { it with phase := .resumable, stage := 0xFF, outcome := outcome stPeerUnreachable [] } ∧
      t.ring.member = s.ring.member ∧ t.vault = s.vault ∧ t.regs = s.regs) ∧
  (∀ (s : State) (f : RingForm) (x : RingFrame), s.ring.form = some f → x.kind = 0x09 → x.tagOk = true →
    x.origin ≠ f.position → (byteAt x.body 0).toNat = f.position → x.origin = 0 → f.position ≠ 0 →
    (pointValid 0x21 (x.body.drop 1) = true → exec (.keyExchangeFrame x) s = .next { s with ring := { s.ring with
      form := some { f with peerKeys := tabSet f.peerKeys 0 (x.body.drop 1) } } }) ∧
    (pointValid 0x21 (x.body.drop 1) = false →
      exec (.keyExchangeFrame x) s = .next (s.formFails f stAccessDenied)))
end

