-- ==== Sys2Proof/Laws/Memory.lean ====
section
/-! SUPPORT. Device memory: every operation keeps the canonical form, and a byte reads as it was last written. -/

namespace Sys2Proof.Machine

/-! ## The canonical form -/

/-- Every listed address lies above `lo`. -/
def Above (lo : Nat) (cells : List Host.Cell) : Prop := ∀ c ∈ cells, lo < c.1


theorem memory_wf_cons {k : Nat} {b : Byte} {r : List Host.Cell} :
    Memory.wf ((k, b) :: r) = true ↔ b ≠ 0 ∧ Above k r ∧ Memory.wf r = true := by
  induction r generalizing k b with
  | nil => simp [Memory.wf, Above]
  | cons c r ih =>
    obtain ⟨k', b'⟩ := c
    rw [Memory.wf]
    simp only [Bool.and_eq_true, bne_iff_ne, decide_eq_true_eq]
    rw [ih]
    constructor
    · rintro ⟨⟨hb, hk⟩, hb', ha, hw⟩
      refine ⟨hb, ?_, hb', ha, hw⟩
      intro c hc
      rcases List.mem_cons.1 hc with rfl | hc
      · exact hk
      · exact Nat.lt_trans hk (ha c hc)
    · rintro ⟨hb, hk, hb', ha, hw⟩
      exact ⟨⟨hb, hk _ (List.mem_cons_self ..)⟩, hb', ha, hw⟩

theorem memPut_above {lo a : Nat} {b : Byte} (ha : lo < a) :
    ∀ {cells : List Host.Cell}, Above lo cells → Above lo (memPut cells a b)
  | [], _ => by
    unfold memPut
    split
    · exact fun c hc => by cases hc
    · intro c hc
      simp only [List.mem_singleton] at hc
      rw [hc]; exact ha
  | (k, c) :: r, h => by
    have hr : Above lo r := fun x hx => h x (List.mem_cons_of_mem _ hx)
    have hk : lo < k := h (k, c) (List.mem_cons_self ..)
    unfold memPut
    intro x hx
    split at hx
    · split at hx
      · exact h x hx
      · rcases List.mem_cons.1 hx with rfl | hx
        · exact ha
        · exact h x hx
    · split at hx
      · split at hx
        · exact hr x hx
        · rcases List.mem_cons.1 hx with rfl | hx
          · exact ha
          · exact hr x hx
      · rcases List.mem_cons.1 hx with rfl | hx
        · exact hk
        · exact memPut_above ha hr x hx

theorem memPut_wf {a : Nat} {b : Byte} :
    ∀ {cells : List Host.Cell}, Memory.wf cells = true → Memory.wf (memPut cells a b) = true
  | [], _ => by
    unfold memPut
    split
    · rfl
    · rw [memory_wf_cons]; exact ⟨‹_›, (fun c hc => by cases hc), rfl⟩
  | (k, c) :: r, h => by
    have h' := memory_wf_cons.1 h
    unfold memPut
    split
    · split
      · exact h
      · rw [memory_wf_cons]
        refine ⟨‹_›, ?_, h⟩
        intro x hx
        rcases List.mem_cons.1 hx with rfl | hx
        · assumption
        · exact Nat.lt_trans ‹_› (h'.2.1 x hx)
    · split
      · split
        · exact h'.2.2
        · rw [memory_wf_cons]
          subst_vars
          exact ⟨‹_›, h'.2.1, h'.2.2⟩
      · rw [memory_wf_cons]
        exact ⟨h'.1, memPut_above (by omega) h'.2.1, memPut_wf h'.2.2⟩

theorem memWrite_wf : ∀ {bytes : List Byte} {cells : List Host.Cell} {a : Nat},
    Memory.wf cells = true → Memory.wf (memWrite cells a bytes) = true
  | [], _, _, h => h
  | _ :: r, _, _, h => memWrite_wf (bytes := r) (memPut_wf h)

theorem memErase_wf {lo hi : Nat} :
    ∀ {cells : List Host.Cell}, Memory.wf cells = true → Memory.wf (memErase cells lo hi) = true
  | [], _ => rfl
  | (k, b) :: r, h => by
    have h' := memory_wf_cons.1 h
    have ih := memErase_wf (lo := lo) (hi := hi) h'.2.2
    unfold memErase at ih ⊢
    rw [List.filter_cons]
    split
    · rw [memory_wf_cons]
      exact ⟨h'.1, fun c hc => h'.2.1 c (List.mem_of_mem_filter hc), ih⟩
    · exact ih

/-! ## Reading -/

theorem memByte_of_above {lo : Nat} : ∀ {cells : List Host.Cell}, Above lo cells → memByte cells lo = 0
  | [], _ => rfl
  | (k, b) :: r, h => by
    have hk : lo < k := h (k, b) (List.mem_cons_self ..)
    rw [memByte, if_neg (by omega), memByte_of_above fun c hc => h c (List.mem_cons_of_mem _ hc)]

theorem Above.mono {lo lo' : Nat} {cells : List Host.Cell} (h : Above lo cells) (hl : lo' ≤ lo) : Above lo' cells :=
  fun c hc => Nat.lt_of_le_of_lt hl (h c hc)

/-- A byte reads back as it was written. -/
theorem memByte_memPut_self {a : Nat} {b : Byte} :
    ∀ {cells : List Host.Cell}, Memory.wf cells = true → memByte (memPut cells a b) a = b
  | [], _ => by
    unfold memPut
    split
    · simp_all [memByte]
    · simp [memByte]
  | (k, c) :: r, h => by
    have h' := memory_wf_cons.1 h
    unfold memPut
    split
    · split
      · rw [memByte_of_above]
        · simp_all
        · intro x hx
          rcases List.mem_cons.1 hx with rfl | hx
          · assumption
          · exact Nat.lt_trans ‹_› (h'.2.1 x hx)
      · simp [memByte]
    · split
      · subst_vars
        split
        · rw [memByte_of_above h'.2.1]
          simp_all
        · simp [memByte]
      · rw [memByte, if_neg (by omega), memByte_memPut_self h'.2.2]

/-- A write leaves every other byte as it was. -/
theorem memByte_memPut_ne {a a' : Nat} {b : Byte} (hne : a' ≠ a) :
    ∀ {cells : List Host.Cell}, memByte (memPut cells a b) a' = memByte cells a'
  | [] => by
    unfold memPut
    split
    · rfl
    · simp [memByte, Ne.symm hne]
  | (k, c) :: r => by
    unfold memPut
    split
    · split
      · rfl
      · simp [memByte, Ne.symm hne]
    · split
      · subst_vars
        split <;> simp [memByte, Ne.symm hne]
      · simp only [memByte]
        split
        · rfl
        · exact memByte_memPut_ne hne

/-- Bytes outside a written range are as they were. -/
theorem memByte_memWrite_out : ∀ {bytes : List Byte} {cells : List Host.Cell} {a x : Nat},
    (x < a ∨ a + bytes.length ≤ x) → memByte (memWrite cells a bytes) x = memByte cells x
  | [], _, _, _, _ => rfl
  | b :: r, cells, a, x, h => by
    simp only [List.length_cons] at h
    rw [memWrite, memByte_memWrite_out (bytes := r) (by omega), memByte_memPut_ne (by omega)]

/-- Bytes inside a written range are the bytes written. -/
theorem memByte_memWrite_in : ∀ {bytes : List Byte} {cells : List Host.Cell} {a i : Nat},
    Memory.wf cells = true → i < bytes.length → memByte (memWrite cells a bytes) (a + i) = byteAt bytes i
  | [], _, _, _, _, h => absurd h (Nat.not_lt_zero _)
  | b :: r, cells, a, 0, hw, _ => by
    rw [memWrite, memByte_memWrite_out (Or.inl (by omega))]
    exact memByte_memPut_self hw
  | b :: r, cells, a, i + 1, hw, h => by
    have := memByte_memWrite_in (bytes := r) (cells := memPut cells a b) (a := a + 1) (i := i) (memPut_wf hw)
      (by simpa using h)
    rw [memWrite, show a + (i + 1) = a + 1 + i by omega, this]
    rfl

/-- An erased range reads zero. -/
theorem memByte_memErase_in {lo hi x : Nat} (h1 : lo ≤ x) (h2 : x < hi) :
    ∀ {cells : List Host.Cell}, memByte (memErase cells lo hi) x = 0
  | [] => rfl
  | (k, b) :: r => by
    have ih := memByte_memErase_in h1 h2 (cells := r)
    unfold memErase at ih ⊢
    rw [List.filter_cons]
    split
    · rename_i hk
      rw [memByte, if_neg ?_, ih]
      rintro rfl
      simp [h1, h2] at hk
    · exact ih

/-- Bytes outside an erased range are as they were. -/
theorem memByte_memErase_out {lo hi x : Nat} (h : x < lo ∨ hi ≤ x) :
    ∀ {cells : List Host.Cell}, memByte (memErase cells lo hi) x = memByte cells x
  | [] => rfl
  | (k, b) :: r => by
    have ih := memByte_memErase_out h (cells := r)
    unfold memErase at ih ⊢
    rw [List.filter_cons]
    split
    · rw [memByte, memByte, ih]
    · rename_i hk
      rw [memByte, if_neg ?_, ih]
      rintro rfl
      simp at hk
      omega

end Sys2Proof.Machine
end

