-- ==== Sys2Proof/Laws/Invariant.lean ====
section
/-! SUPPORT. Rules for the invariant: it depends only on the parts that it names, and it passes through conditionals,
folds and the answers that carry a state. -/

namespace Sys2Proof.Machine

/-- The next state of an outcome, if there is one, has the invariant. -/
def InvR : Host.Outcome State Fault Refusal → Prop
  | .next t => t.Inv
  | _ => True

theorem inv_of {s t : State} (h : s.Inv) (h1 : t.mem.cells = s.mem.cells) (h2 : t.sen.log = s.sen.log)
    (h3 : t.sen.logNext = s.sen.logNext) (h4 : t.ent.pool = s.ent.pool) (h5 : t.mem.fifos = s.mem.fifos)
    (h6 : t.lcb.slots = s.lcb.slots) : t.Inv := by
  unfold State.Inv; rw [h1, h2, h3, h4, h5, h6]; exact h

theorem inv_mk {pending fresh sys plan sluice regs host qps dsp vault mem sen ent cfb obj spr hwk pke pay lcb ctl ring out} {s : State} (h : s.Inv) (h1 : mem.cells = s.mem.cells) (h2 : sen.log = s.sen.log)
    (h3 : sen.logNext = s.sen.logNext) (h4 : ent.pool = s.ent.pool) (h5 : mem.fifos = s.mem.fifos)
    (h6 : lcb.slots = s.lcb.slots) : (State.mk pending fresh sys plan sluice regs host qps dsp vault mem sen ent cfb obj spr hwk pke pay lcb ctl ring out).Inv := inv_of h h1 h2 h3 h4 h5 h6

theorem inv_ite {c : Prop} {inst : Decidable c} {a b : State} (ha : c → a.Inv) (hb : ¬ c → b.Inv) : (if c then a else b).Inv := by
  split
  · exact ha ‹_›
  · exact hb ‹_›

theorem invR_ite {c : Prop} {inst : Decidable c} {a b : Host.Outcome State Fault Refusal} (ha : c → InvR a) (hb : ¬ c → InvR b) : InvR (if c then a else b) := by
  split
  · exact ha ‹_›
  · exact hb ‹_›

theorem inv_ite_fst {α : Type} {c : Prop} {inst : Decidable c} {a b : State × α} (ha : c → a.1.Inv) (hb : ¬ c → b.1.Inv) : (if c then a else b).1.Inv := by
  split
  · exact ha ‹_›
  · exact hb ‹_›

theorem inv_ite_snd {α : Type} {c : Prop} {inst : Decidable c} {a b : α × State} (ha : c → a.2.Inv) (hb : ¬ c → b.2.Inv) : (if c then a else b).2.Inv := by
  split
  · exact ha ‹_›
  · exact hb ‹_›

theorem invR_next {s : State} (h : s.Inv) : InvR (.next s) := h

theorem inv_foldl {α : Type} {f : State → α → State} (hf : ∀ s a, s.Inv → (f s a).Inv) :
    ∀ {l : List α} {s : State}, s.Inv → (l.foldl f s).Inv
  | [], _, h => h
  | a :: r, _, h => inv_foldl (l := r) hf (hf _ a h)

theorem inv_foldl_snd {α β : Type} {f : β × State → α → β × State} (hf : ∀ s a, s.2.Inv → (f s a).2.Inv) :
    ∀ {l : List α} {s : β × State}, s.2.Inv → (l.foldl f s).2.Inv
  | [], _, h => h
  | a :: r, _, h => inv_foldl_snd (l := r) hf (hf _ a h)

theorem inv_foldl_fst {α β : Type} {f : State × β → α → State × β} (hf : ∀ s a, s.1.Inv → (f s a).1.Inv) :
    ∀ {l : List α} {s : State × β}, s.1.Inv → (l.foldl f s).1.Inv
  | [], _, h => h
  | a :: r, _, h => inv_foldl_fst (l := r) hf (hf _ a h)

theorem inv_cells {s t : State} (h : s.Inv) (h1 : Memory.wf s.mem.cells = true → Memory.wf t.mem.cells = true) (h2 : t.sen.log = s.sen.log)
    (h3 : t.sen.logNext = s.sen.logNext) (h4 : t.ent.pool = s.ent.pool) (h5 : t.mem.fifos = s.mem.fifos)
    (h6 : t.lcb.slots = s.lcb.slots) : t.Inv := by
  unfold State.Inv; rw [h2, h3, h4, h5, h6]; exact ⟨h1 h.memory, h.logSeq, h.logLen, h.pool, h.fifos, h.slots⟩

def OInv  : Option State → Prop
  | some p => State.Inv p
  | none => True

theorem OInv_some  {p : State} (h : State.Inv p) : OInv (some p) := h

theorem OInv_none  : OInv (none : Option State) := trivial

theorem OInv_ite  {c : Prop} {inst : Decidable c} {a b : Option State} (ha : c → OInv a) (hb : ¬ c → OInv b) : OInv (if c then a else b) := by
  split
  · exact ha ‹_›
  · exact hb ‹_›

theorem OInv_get  {o : Option State} {p : State} (h : OInv o) (e : o = some p) : State.Inv p := by
  rw [e] at h; exact h

theorem OInv_getp  {o : Option State}  {t : State} (h : OInv o) (e : o = some t) : t.Inv := by
  rw [e] at h; exact h

def OInv1 {α : Type} : Option (State × α) → Prop
  | some p => State.Inv p.1
  | none => True

theorem OInv1_some {α : Type} {p : (State × α)} (h : State.Inv p.1) : OInv1 (some p) := h

theorem OInv1_none {α : Type} : OInv1 (none : Option (State × α)) := trivial

theorem OInv1_ite {α : Type} {c : Prop} {inst : Decidable c} {a b : Option (State × α)} (ha : c → OInv1 a) (hb : ¬ c → OInv1 b) : OInv1 (if c then a else b) := by
  split
  · exact ha ‹_›
  · exact hb ‹_›

theorem OInv1_get {α : Type} {o : Option (State × α)} {p : (State × α)} (h : OInv1 o) (e : o = some p) : State.Inv p.1 := by
  rw [e] at h; exact h

theorem OInv1_getp {α : Type} {o : Option (State × α)} {a : α} {t : State} (h : OInv1 o) (e : o = some (t, a)) : t.Inv := by
  rw [e] at h; exact h

def OInv2 {α : Type} : Option (α × State) → Prop
  | some p => State.Inv p.2
  | none => True

theorem OInv2_some {α : Type} {p : (α × State)} (h : State.Inv p.2) : OInv2 (some p) := h

theorem OInv2_none {α : Type} : OInv2 (none : Option (α × State)) := trivial

theorem OInv2_ite {α : Type} {c : Prop} {inst : Decidable c} {a b : Option (α × State)} (ha : c → OInv2 a) (hb : ¬ c → OInv2 b) : OInv2 (if c then a else b) := by
  split
  · exact ha ‹_›
  · exact hb ‹_›

theorem OInv2_get {α : Type} {o : Option (α × State)} {p : (α × State)} (h : OInv2 o) (e : o = some p) : State.Inv p.2 := by
  rw [e] at h; exact h

theorem OInv2_getp {α : Type} {o : Option (α × State)} {a : α} {t : State} (h : OInv2 o) (e : o = some (a, t)) : t.Inv := by
  rw [e] at h; exact h

def OInv22 {α β : Type} : Option (α × β × State) → Prop
  | some p => State.Inv p.2.2
  | none => True

theorem OInv22_some {α β : Type} {p : (α × β × State)} (h : State.Inv p.2.2) : OInv22 (some p) := h

theorem OInv22_none {α β : Type} : OInv22 (none : Option (α × β × State)) := trivial

theorem OInv22_ite {α β : Type} {c : Prop} {inst : Decidable c} {a b : Option (α × β × State)} (ha : c → OInv22 a) (hb : ¬ c → OInv22 b) : OInv22 (if c then a else b) := by
  split
  · exact ha ‹_›
  · exact hb ‹_›

theorem OInv22_get {α β : Type} {o : Option (α × β × State)} {p : (α × β × State)} (h : OInv22 o) (e : o = some p) : State.Inv p.2.2 := by
  rw [e] at h; exact h

theorem OInv22_getp {α β : Type} {o : Option (α × β × State)} {a : α} {b : β} {t : State} (h : OInv22 o) (e : o = some (a, b, t)) : t.Inv := by
  rw [e] at h; exact h

def EInv {ε α : Type} : Except ε (α × State) → Prop
  | .ok p => State.Inv p.2
  | .error _ => True

theorem EInv_ok {ε α : Type} {p : α × State} (h : State.Inv p.2) : EInv (.ok p : Except ε (α × State)) := h

theorem EInv_error {ε α : Type} {e : ε} : EInv (.error e : Except ε (α × State)) := trivial

theorem EInv_ite {ε α : Type} {c : Prop} {inst : Decidable c} {a b : Except ε (α × State)} (ha : c → EInv a) (hb : ¬ c → EInv b) : EInv (if c then a else b) := by
  split
  · exact ha ‹_›
  · exact hb ‹_›

theorem EInv_get {ε α : Type} {o : Except ε (α × State)} {p : α × State} (h : EInv o) (e : o = .ok p) : State.Inv p.2 := by
  rw [e] at h; exact h

theorem EInv_getp {ε α : Type} {o : Except ε (α × State)} {a : α} {t : State} (h : EInv o) (e : o = .ok (a, t)) : t.Inv := by
  rw [e] at h; exact h

theorem inv_ite_snd2 {α β : Type} {c : Prop} {inst : Decidable c} {a b : α × β × State} (ha : c → a.2.2.Inv) (hb : ¬ c → b.2.2.Inv) : (if c then a else b).2.2.Inv := by
  split
  · exact ha ‹_›
  · exact hb ‹_›

theorem inv_slots {s t : State} (h : s.Inv) (h1 : t.mem.cells = s.mem.cells) (h2 : t.sen.log = s.sen.log)
    (h3 : t.sen.logNext = s.sen.logNext) (h4 : t.ent.pool = s.ent.pool) (h5 : t.mem.fifos = s.mem.fifos)
    (h6 : t.lcb.slots.length = s.lcb.slots.length) : t.Inv := by
  unfold State.Inv; rw [h1, h2, h3, h4, h5]; exact ⟨h.memory, h.logSeq, h.logLen, h.pool, h.fifos, h6.trans h.slots⟩

theorem inv_pool {s t : State} (h : s.Inv) (h1 : t.mem.cells = s.mem.cells) (h2 : t.sen.log = s.sen.log)
    (h3 : t.sen.logNext = s.sen.logNext) (h4 : t.ent.pool.length ≤ 4) (h5 : t.mem.fifos = s.mem.fifos)
    (h6 : t.lcb.slots = s.lcb.slots) : t.Inv := by
  unfold State.Inv; rw [h1, h2, h3, h5, h6]; exact ⟨h.memory, h.logSeq, h.logLen, h4, h.fifos, h.slots⟩

theorem inv_cells_pool {s t : State} (h : s.Inv) (h1 : Memory.wf s.mem.cells = true → Memory.wf t.mem.cells = true) (h2 : t.sen.log = s.sen.log)
    (h3 : t.sen.logNext = s.sen.logNext) (h4 : t.ent.pool.length ≤ 4) (h5 : t.mem.fifos = s.mem.fifos)
    (h6 : t.lcb.slots = s.lcb.slots) : t.Inv := by
  unfold State.Inv; rw [h2, h3, h5, h6]; exact ⟨h1 h.memory, h.logSeq, h.logLen, h4, h.fifos, h.slots⟩

theorem inv_fifos {s t : State} (h : s.Inv) (h1 : t.mem.cells = s.mem.cells) (h2 : t.sen.log = s.sen.log)
    (h3 : t.sen.logNext = s.sen.logNext) (h4 : t.ent.pool = s.ent.pool) (h5 : ∀ q ∈ t.mem.fifos, q.records.length ≤ 64)
    (h6 : t.lcb.slots = s.lcb.slots) : t.Inv := by
  unfold State.Inv; rw [h1, h2, h3, h4, h6]; exact ⟨h.memory, h.logSeq, h.logLen, h.pool, h5, h.slots⟩

theorem inv_set_fifo {s t : State} {g : Nat} {q : ViolFifo} (h : s.Inv) (hq : q.records.length ≤ 64)
    (h5 : t.mem.fifos = s.mem.fifos.set g q) (h1 : t.mem.cells = s.mem.cells) (h2 : t.sen.log = s.sen.log)
    (h3 : t.sen.logNext = s.sen.logNext) (h4 : t.ent.pool = s.ent.pool) (h6 : t.lcb.slots = s.lcb.slots) : t.Inv := by
  refine inv_fifos h h1 h2 h3 h4 ?_ h6
  intro q' hq'
  rw [h5] at hq'
  rcases List.mem_or_eq_of_mem_set hq' with h' | rfl
  · exact h.fifos _ h'
  · exact hq

theorem logOk_take : ∀ {n : Nat} {next : Word} {l : List LogEntry}, logOk next l → logOk next (l.take n)
  | 0, _, _, _ => trivial
  | _ + 1, _, [], _ => trivial
  | _ + 1, _, _ :: _, h => ⟨h.1, logOk_take h.2⟩

def AInv : StoreAsk → Prop
  | .admitted s | .refused s | .held s => s.Inv

theorem AInv_mkadmitted {s : State} (h : s.Inv) : AInv (.admitted s) := h

theorem AInv_mkrefused {s : State} (h : s.Inv) : AInv (.refused s) := h

theorem AInv_mkheld {s : State} (h : s.Inv) : AInv (.held s) := h

theorem AInv_admitted {o : StoreAsk} {s : State} (h : AInv o) (e : o = .admitted s) : s.Inv := by rw [e] at h; exact h

theorem AInv_refused {o : StoreAsk} {s : State} (h : AInv o) (e : o = .refused s) : s.Inv := by rw [e] at h; exact h

theorem AInv_held {o : StoreAsk} {s : State} (h : AInv o) (e : o = .held s) : s.Inv := by rw [e] at h; exact h

theorem AInv_mkite {c : Prop} {inst : Decidable c} {a b : StoreAsk} (ha : c → AInv a) (hb : ¬ c → AInv b) : AInv (if c then a else b) := by
  split
  · exact ha ‹_›
  · exact hb ‹_›

def NInv : NonceAsk → Prop
  | .taken _ s | .waits s | .refused _ s => s.Inv

theorem NInv_mktaken {c : DWord} {s : State} (h : s.Inv) : NInv (.taken c s) := h

theorem NInv_mkrefused {st : Status} {s : State} (h : s.Inv) : NInv (.refused st s) := h

theorem NInv_mkwaits {s : State} (h : s.Inv) : NInv (.waits s) := h

theorem NInv_taken {o : NonceAsk} {c : DWord} {s : State} (h : NInv o) (e : o = .taken c s) : s.Inv := by rw [e] at h; exact h

theorem NInv_waits {o : NonceAsk} {s : State} (h : NInv o) (e : o = .waits s) : s.Inv := by rw [e] at h; exact h

theorem NInv_refused {o : NonceAsk} {st : Status} {s : State} (h : NInv o) (e : o = .refused st s) : s.Inv := by rw [e] at h; exact h

theorem NInv_mkite {c : Prop} {inst : Decidable c} {a b : NonceAsk} (ha : c → NInv a) (hb : ¬ c → NInv b) : NInv (if c then a else b) := by
  split
  · exact ha ‹_›
  · exact hb ‹_›

theorem OInv2_map {α β : Type} {o : Option (α × State)} {f : α × State → β × State} (h : OInv2 o)
    (hf : ∀ p, p.2.Inv → (f p).2.Inv) : OInv2 (o.map f) := by
  cases o with
  | none => trivial
  | some p => exact hf p h

theorem OInv2_mapv {α β : Type} {o : Option α} {f : α → β × State} (hf : ∀ a, (f a).2.Inv) : OInv2 (o.map f) := by
  cases o with
  | none => trivial
  | some a => exact hf a

theorem inv_foldl_snd2 {α β γ : Type} {f : β × γ × State → α → β × γ × State} (hf : ∀ s a, s.2.2.Inv → (f s a).2.2.Inv) :
    ∀ {l : List α} {s : β × γ × State}, s.2.2.Inv → (l.foldl f s).2.2.Inv
  | [], _, h => h
  | a :: r, _, h => inv_foldl_snd2 (l := r) hf (hf _ a h)

end Sys2Proof.Machine
end

