-- ==== Sys2Proof/Laws/State.lean ====
section
/-! SUPPORT. What each update of one part of the state leaves as it was: one lemma for each other field, and for each
reading of a numbered part. -/

namespace Sys2Proof.Machine

/-! ### setReg -/

@[simp] theorem State.setReg_pending {s : State} {fn off : Nat} {v : Word} :
    (s.setReg fn off v).pending = s.pending := rfl
@[simp] theorem State.setReg_fresh {s : State} {fn off : Nat} {v : Word} : (s.setReg fn off v).fresh = s.fresh := rfl
@[simp] theorem State.setReg_sys {s : State} {fn off : Nat} {v : Word} : (s.setReg fn off v).sys = s.sys := rfl
@[simp] theorem State.setReg_plan {s : State} {fn off : Nat} {v : Word} : (s.setReg fn off v).plan = s.plan := rfl
@[simp] theorem State.setReg_sluice {s : State} {fn off : Nat} {v : Word} :
    (s.setReg fn off v).sluice = s.sluice := rfl
@[simp] theorem State.setReg_host {s : State} {fn off : Nat} {v : Word} : (s.setReg fn off v).host = s.host := rfl
@[simp] theorem State.setReg_qps {s : State} {fn off : Nat} {v : Word} : (s.setReg fn off v).qps = s.qps := rfl
@[simp] theorem State.setReg_dsp {s : State} {fn off : Nat} {v : Word} : (s.setReg fn off v).dsp = s.dsp := rfl
@[simp] theorem State.setReg_vault {s : State} {fn off : Nat} {v : Word} : (s.setReg fn off v).vault = s.vault := rfl
@[simp] theorem State.setReg_mem {s : State} {fn off : Nat} {v : Word} : (s.setReg fn off v).mem = s.mem := rfl
@[simp] theorem State.setReg_sen {s : State} {fn off : Nat} {v : Word} : (s.setReg fn off v).sen = s.sen := rfl
@[simp] theorem State.setReg_ent {s : State} {fn off : Nat} {v : Word} : (s.setReg fn off v).ent = s.ent := rfl
@[simp] theorem State.setReg_cfb {s : State} {fn off : Nat} {v : Word} : (s.setReg fn off v).cfb = s.cfb := rfl
@[simp] theorem State.setReg_obj {s : State} {fn off : Nat} {v : Word} : (s.setReg fn off v).obj = s.obj := rfl
@[simp] theorem State.setReg_spr {s : State} {fn off : Nat} {v : Word} : (s.setReg fn off v).spr = s.spr := rfl
@[simp] theorem State.setReg_hwk {s : State} {fn off : Nat} {v : Word} : (s.setReg fn off v).hwk = s.hwk := rfl
@[simp] theorem State.setReg_pke {s : State} {fn off : Nat} {v : Word} : (s.setReg fn off v).pke = s.pke := rfl
@[simp] theorem State.setReg_pay {s : State} {fn off : Nat} {v : Word} : (s.setReg fn off v).pay = s.pay := rfl
@[simp] theorem State.setReg_lcb {s : State} {fn off : Nat} {v : Word} : (s.setReg fn off v).lcb = s.lcb := rfl
@[simp] theorem State.setReg_ctl {s : State} {fn off : Nat} {v : Word} : (s.setReg fn off v).ctl = s.ctl := rfl
@[simp] theorem State.setReg_ring {s : State} {fn off : Nat} {v : Word} : (s.setReg fn off v).ring = s.ring := rfl
@[simp] theorem State.setReg_out {s : State} {fn off : Nat} {v : Word} : (s.setReg fn off v).out = s.out := rfl
@[simp] theorem State.setReg_item {s : State} {fn off : Nat} {v : Word} {id : Nat} :
    (s.setReg fn off v).item id = s.item id := rfl
@[simp] theorem State.setReg_qp {s : State} {fn off : Nat} {v : Word} {f q : Nat} :
    (s.setReg fn off v).qp f q = s.qp f q := rfl
@[simp] theorem State.setReg_vf {s : State} {fn off : Nat} {v : Word} {k : Nat} :
    (s.setReg fn off v).vf k = s.vf k := rfl
@[simp] theorem State.setReg_chan {s : State} {fn off : Nat} {v : Word} {k : Nat} :
    (s.setReg fn off v).chan k = s.chan k := rfl
@[simp] theorem State.setReg_flow {s : State} {fn off : Nat} {v : Word} {k : Nat} :
    (s.setReg fn off v).flow k = s.flow k := rfl
@[simp] theorem State.setReg_itemList {s : State} {fn off : Nat} {v : Word} :
    (s.setReg fn off v).itemList = s.itemList := rfl
@[simp] theorem State.setReg_mode {s : State} {fn off : Nat} {v : Word} : (s.setReg fn off v).mode = s.mode := rfl
@[simp] theorem State.setReg_session {s : State} {fn off : Nat} {v : Word} {k : Nat} :
    (s.setReg fn off v).session k = s.session k := rfl
@[simp] theorem State.setReg_counter {s : State} {fn off : Nat} {v : Word} {k : Nat} :
    (s.setReg fn off v).counter k = s.counter k := rfl

/-! ### setVf -/

@[simp] theorem State.setVf_pending {s : State} {n : Nat} {v : Vf} : (s.setVf n v).pending = s.pending := rfl
@[simp] theorem State.setVf_fresh {s : State} {n : Nat} {v : Vf} : (s.setVf n v).fresh = s.fresh := rfl
@[simp] theorem State.setVf_sys {s : State} {n : Nat} {v : Vf} : (s.setVf n v).sys = s.sys := rfl
@[simp] theorem State.setVf_plan {s : State} {n : Nat} {v : Vf} : (s.setVf n v).plan = s.plan := rfl
@[simp] theorem State.setVf_sluice {s : State} {n : Nat} {v : Vf} : (s.setVf n v).sluice = s.sluice := rfl
@[simp] theorem State.setVf_regs {s : State} {n : Nat} {v : Vf} : (s.setVf n v).regs = s.regs := rfl
@[simp] theorem State.setVf_qps {s : State} {n : Nat} {v : Vf} : (s.setVf n v).qps = s.qps := rfl
@[simp] theorem State.setVf_dsp {s : State} {n : Nat} {v : Vf} : (s.setVf n v).dsp = s.dsp := rfl
@[simp] theorem State.setVf_vault {s : State} {n : Nat} {v : Vf} : (s.setVf n v).vault = s.vault := rfl
@[simp] theorem State.setVf_mem {s : State} {n : Nat} {v : Vf} : (s.setVf n v).mem = s.mem := rfl
@[simp] theorem State.setVf_sen {s : State} {n : Nat} {v : Vf} : (s.setVf n v).sen = s.sen := rfl
@[simp] theorem State.setVf_ent {s : State} {n : Nat} {v : Vf} : (s.setVf n v).ent = s.ent := rfl
@[simp] theorem State.setVf_cfb {s : State} {n : Nat} {v : Vf} : (s.setVf n v).cfb = s.cfb := rfl
@[simp] theorem State.setVf_obj {s : State} {n : Nat} {v : Vf} : (s.setVf n v).obj = s.obj := rfl
@[simp] theorem State.setVf_spr {s : State} {n : Nat} {v : Vf} : (s.setVf n v).spr = s.spr := rfl
@[simp] theorem State.setVf_hwk {s : State} {n : Nat} {v : Vf} : (s.setVf n v).hwk = s.hwk := rfl
@[simp] theorem State.setVf_pke {s : State} {n : Nat} {v : Vf} : (s.setVf n v).pke = s.pke := rfl
@[simp] theorem State.setVf_pay {s : State} {n : Nat} {v : Vf} : (s.setVf n v).pay = s.pay := rfl
@[simp] theorem State.setVf_lcb {s : State} {n : Nat} {v : Vf} : (s.setVf n v).lcb = s.lcb := rfl
@[simp] theorem State.setVf_ctl {s : State} {n : Nat} {v : Vf} : (s.setVf n v).ctl = s.ctl := rfl
@[simp] theorem State.setVf_ring {s : State} {n : Nat} {v : Vf} : (s.setVf n v).ring = s.ring := rfl
@[simp] theorem State.setVf_out {s : State} {n : Nat} {v : Vf} : (s.setVf n v).out = s.out := rfl
@[simp] theorem State.setVf_item {s : State} {n : Nat} {v : Vf} {id : Nat} : (s.setVf n v).item id = s.item id := rfl
@[simp] theorem State.setVf_reg {s : State} {n : Nat} {v : Vf} {f o : Nat} : (s.setVf n v).reg f o = s.reg f o := rfl
@[simp] theorem State.setVf_qp {s : State} {n : Nat} {v : Vf} {f q : Nat} : (s.setVf n v).qp f q = s.qp f q := rfl
@[simp] theorem State.setVf_chan {s : State} {n : Nat} {v : Vf} {k : Nat} : (s.setVf n v).chan k = s.chan k := rfl
@[simp] theorem State.setVf_flow {s : State} {n : Nat} {v : Vf} {k : Nat} : (s.setVf n v).flow k = s.flow k := rfl
@[simp] theorem State.setVf_itemList {s : State} {n : Nat} {v : Vf} : (s.setVf n v).itemList = s.itemList := rfl
@[simp] theorem State.setVf_mode {s : State} {n : Nat} {v : Vf} : (s.setVf n v).mode = s.mode := rfl
@[simp] theorem State.setVf_session {s : State} {n : Nat} {v : Vf} {k : Nat} :
    (s.setVf n v).session k = s.session k := rfl
@[simp] theorem State.setVf_counter {s : State} {n : Nat} {v : Vf} {k : Nat} :
    (s.setVf n v).counter k = s.counter k := rfl

/-! ### emit -/

@[simp] theorem State.emit_pending {s : State} {o : Output} : (s.emit o).pending = s.pending := rfl
@[simp] theorem State.emit_fresh {s : State} {o : Output} : (s.emit o).fresh = s.fresh := rfl
@[simp] theorem State.emit_sys {s : State} {o : Output} : (s.emit o).sys = s.sys := rfl
@[simp] theorem State.emit_plan {s : State} {o : Output} : (s.emit o).plan = s.plan := rfl
@[simp] theorem State.emit_sluice {s : State} {o : Output} : (s.emit o).sluice = s.sluice := rfl
@[simp] theorem State.emit_regs {s : State} {o : Output} : (s.emit o).regs = s.regs := rfl
@[simp] theorem State.emit_host {s : State} {o : Output} : (s.emit o).host = s.host := rfl
@[simp] theorem State.emit_qps {s : State} {o : Output} : (s.emit o).qps = s.qps := rfl
@[simp] theorem State.emit_dsp {s : State} {o : Output} : (s.emit o).dsp = s.dsp := rfl
@[simp] theorem State.emit_vault {s : State} {o : Output} : (s.emit o).vault = s.vault := rfl
@[simp] theorem State.emit_mem {s : State} {o : Output} : (s.emit o).mem = s.mem := rfl
@[simp] theorem State.emit_sen {s : State} {o : Output} : (s.emit o).sen = s.sen := rfl
@[simp] theorem State.emit_ent {s : State} {o : Output} : (s.emit o).ent = s.ent := rfl
@[simp] theorem State.emit_cfb {s : State} {o : Output} : (s.emit o).cfb = s.cfb := rfl
@[simp] theorem State.emit_obj {s : State} {o : Output} : (s.emit o).obj = s.obj := rfl
@[simp] theorem State.emit_spr {s : State} {o : Output} : (s.emit o).spr = s.spr := rfl
@[simp] theorem State.emit_hwk {s : State} {o : Output} : (s.emit o).hwk = s.hwk := rfl
@[simp] theorem State.emit_pke {s : State} {o : Output} : (s.emit o).pke = s.pke := rfl
@[simp] theorem State.emit_pay {s : State} {o : Output} : (s.emit o).pay = s.pay := rfl
@[simp] theorem State.emit_lcb {s : State} {o : Output} : (s.emit o).lcb = s.lcb := rfl
@[simp] theorem State.emit_ctl {s : State} {o : Output} : (s.emit o).ctl = s.ctl := rfl
@[simp] theorem State.emit_ring {s : State} {o : Output} : (s.emit o).ring = s.ring := rfl
@[simp] theorem State.emit_item {s : State} {o : Output} {id : Nat} : (s.emit o).item id = s.item id := rfl
@[simp] theorem State.emit_reg {s : State} {o : Output} {f o' : Nat} : (s.emit o).reg f o' = s.reg f o' := rfl
@[simp] theorem State.emit_qp {s : State} {o : Output} {f q : Nat} : (s.emit o).qp f q = s.qp f q := rfl
@[simp] theorem State.emit_vf {s : State} {o : Output} {k : Nat} : (s.emit o).vf k = s.vf k := rfl
@[simp] theorem State.emit_chan {s : State} {o : Output} {k : Nat} : (s.emit o).chan k = s.chan k := rfl
@[simp] theorem State.emit_flow {s : State} {o : Output} {k : Nat} : (s.emit o).flow k = s.flow k := rfl
@[simp] theorem State.emit_itemList {s : State} {o : Output} : (s.emit o).itemList = s.itemList := rfl
@[simp] theorem State.emit_mode {s : State} {o : Output} : (s.emit o).mode = s.mode := rfl
@[simp] theorem State.emit_session {s : State} {o : Output} {k : Nat} : (s.emit o).session k = s.session k := rfl
@[simp] theorem State.emit_counter {s : State} {o : Output} {k : Nat} : (s.emit o).counter k = s.counter k := rfl

/-! ### setItem -/

@[simp] theorem State.setItem_pending {s : State} {it : Item} : (s.setItem it).pending = s.pending := rfl
@[simp] theorem State.setItem_fresh {s : State} {it : Item} : (s.setItem it).fresh = s.fresh := rfl
@[simp] theorem State.setItem_sys {s : State} {it : Item} : (s.setItem it).sys = s.sys := rfl
@[simp] theorem State.setItem_plan {s : State} {it : Item} : (s.setItem it).plan = s.plan := rfl
@[simp] theorem State.setItem_sluice {s : State} {it : Item} : (s.setItem it).sluice = s.sluice := rfl
@[simp] theorem State.setItem_regs {s : State} {it : Item} : (s.setItem it).regs = s.regs := rfl
@[simp] theorem State.setItem_host {s : State} {it : Item} : (s.setItem it).host = s.host := rfl
@[simp] theorem State.setItem_qps {s : State} {it : Item} : (s.setItem it).qps = s.qps := rfl
@[simp] theorem State.setItem_vault {s : State} {it : Item} : (s.setItem it).vault = s.vault := rfl
@[simp] theorem State.setItem_mem {s : State} {it : Item} : (s.setItem it).mem = s.mem := rfl
@[simp] theorem State.setItem_sen {s : State} {it : Item} : (s.setItem it).sen = s.sen := rfl
@[simp] theorem State.setItem_ent {s : State} {it : Item} : (s.setItem it).ent = s.ent := rfl
@[simp] theorem State.setItem_cfb {s : State} {it : Item} : (s.setItem it).cfb = s.cfb := rfl
@[simp] theorem State.setItem_obj {s : State} {it : Item} : (s.setItem it).obj = s.obj := rfl
@[simp] theorem State.setItem_spr {s : State} {it : Item} : (s.setItem it).spr = s.spr := rfl
@[simp] theorem State.setItem_hwk {s : State} {it : Item} : (s.setItem it).hwk = s.hwk := rfl
@[simp] theorem State.setItem_pke {s : State} {it : Item} : (s.setItem it).pke = s.pke := rfl
@[simp] theorem State.setItem_pay {s : State} {it : Item} : (s.setItem it).pay = s.pay := rfl
@[simp] theorem State.setItem_lcb {s : State} {it : Item} : (s.setItem it).lcb = s.lcb := rfl
@[simp] theorem State.setItem_ctl {s : State} {it : Item} : (s.setItem it).ctl = s.ctl := rfl
@[simp] theorem State.setItem_ring {s : State} {it : Item} : (s.setItem it).ring = s.ring := rfl
@[simp] theorem State.setItem_out {s : State} {it : Item} : (s.setItem it).out = s.out := rfl
@[simp] theorem State.setItem_reg {s : State} {it : Item} {f o : Nat} : (s.setItem it).reg f o = s.reg f o := rfl
@[simp] theorem State.setItem_qp {s : State} {it : Item} {f q : Nat} : (s.setItem it).qp f q = s.qp f q := rfl
@[simp] theorem State.setItem_vf {s : State} {it : Item} {k : Nat} : (s.setItem it).vf k = s.vf k := rfl
@[simp] theorem State.setItem_chan {s : State} {it : Item} {k : Nat} : (s.setItem it).chan k = s.chan k := rfl
@[simp] theorem State.setItem_flow {s : State} {it : Item} {k : Nat} : (s.setItem it).flow k = s.flow k := rfl
@[simp] theorem State.setItem_mode {s : State} {it : Item} : (s.setItem it).mode = s.mode := rfl
@[simp] theorem State.setItem_session {s : State} {it : Item} {k : Nat} :
    (s.setItem it).session k = s.session k := rfl
@[simp] theorem State.setItem_counter {s : State} {it : Item} {k : Nat} :
    (s.setItem it).counter k = s.counter k := rfl

/-! ### modifyCore -/

@[simp] theorem State.modifyCore_pending {s : State} {c : Nat} {f : ServiceCore → ServiceCore} :
    (s.modifyCore c f).pending = s.pending := rfl
@[simp] theorem State.modifyCore_fresh {s : State} {c : Nat} {f : ServiceCore → ServiceCore} :
    (s.modifyCore c f).fresh = s.fresh := rfl
@[simp] theorem State.modifyCore_sys {s : State} {c : Nat} {f : ServiceCore → ServiceCore} :
    (s.modifyCore c f).sys = s.sys := rfl
@[simp] theorem State.modifyCore_plan {s : State} {c : Nat} {f : ServiceCore → ServiceCore} :
    (s.modifyCore c f).plan = s.plan := rfl
@[simp] theorem State.modifyCore_sluice {s : State} {c : Nat} {f : ServiceCore → ServiceCore} :
    (s.modifyCore c f).sluice = s.sluice := rfl
@[simp] theorem State.modifyCore_regs {s : State} {c : Nat} {f : ServiceCore → ServiceCore} :
    (s.modifyCore c f).regs = s.regs := rfl
@[simp] theorem State.modifyCore_host {s : State} {c : Nat} {f : ServiceCore → ServiceCore} :
    (s.modifyCore c f).host = s.host := rfl
@[simp] theorem State.modifyCore_qps {s : State} {c : Nat} {f : ServiceCore → ServiceCore} :
    (s.modifyCore c f).qps = s.qps := rfl
@[simp] theorem State.modifyCore_vault {s : State} {c : Nat} {f : ServiceCore → ServiceCore} :
    (s.modifyCore c f).vault = s.vault := rfl
@[simp] theorem State.modifyCore_mem {s : State} {c : Nat} {f : ServiceCore → ServiceCore} :
    (s.modifyCore c f).mem = s.mem := rfl
@[simp] theorem State.modifyCore_sen {s : State} {c : Nat} {f : ServiceCore → ServiceCore} :
    (s.modifyCore c f).sen = s.sen := rfl
@[simp] theorem State.modifyCore_ent {s : State} {c : Nat} {f : ServiceCore → ServiceCore} :
    (s.modifyCore c f).ent = s.ent := rfl
@[simp] theorem State.modifyCore_cfb {s : State} {c : Nat} {f : ServiceCore → ServiceCore} :
    (s.modifyCore c f).cfb = s.cfb := rfl
@[simp] theorem State.modifyCore_obj {s : State} {c : Nat} {f : ServiceCore → ServiceCore} :
    (s.modifyCore c f).obj = s.obj := rfl
@[simp] theorem State.modifyCore_spr {s : State} {c : Nat} {f : ServiceCore → ServiceCore} :
    (s.modifyCore c f).spr = s.spr := rfl
@[simp] theorem State.modifyCore_hwk {s : State} {c : Nat} {f : ServiceCore → ServiceCore} :
    (s.modifyCore c f).hwk = s.hwk := rfl
@[simp] theorem State.modifyCore_pke {s : State} {c : Nat} {f : ServiceCore → ServiceCore} :
    (s.modifyCore c f).pke = s.pke := rfl
@[simp] theorem State.modifyCore_pay {s : State} {c : Nat} {f : ServiceCore → ServiceCore} :
    (s.modifyCore c f).pay = s.pay := rfl
@[simp] theorem State.modifyCore_lcb {s : State} {c : Nat} {f : ServiceCore → ServiceCore} :
    (s.modifyCore c f).lcb = s.lcb := rfl
@[simp] theorem State.modifyCore_ctl {s : State} {c : Nat} {f : ServiceCore → ServiceCore} :
    (s.modifyCore c f).ctl = s.ctl := rfl
@[simp] theorem State.modifyCore_ring {s : State} {c : Nat} {f : ServiceCore → ServiceCore} :
    (s.modifyCore c f).ring = s.ring := rfl
@[simp] theorem State.modifyCore_out {s : State} {c : Nat} {f : ServiceCore → ServiceCore} :
    (s.modifyCore c f).out = s.out := rfl
@[simp] theorem State.modifyCore_item {s : State} {c : Nat} {f : ServiceCore → ServiceCore} {id : Nat} :
    (s.modifyCore c f).item id = s.item id := rfl
@[simp] theorem State.modifyCore_reg {s : State} {c : Nat} {f : ServiceCore → ServiceCore} {f' o : Nat} :
    (s.modifyCore c f).reg f' o = s.reg f' o := rfl
@[simp] theorem State.modifyCore_qp {s : State} {c : Nat} {f : ServiceCore → ServiceCore} {f' q : Nat} :
    (s.modifyCore c f).qp f' q = s.qp f' q := rfl
@[simp] theorem State.modifyCore_vf {s : State} {c : Nat} {f : ServiceCore → ServiceCore} {k : Nat} :
    (s.modifyCore c f).vf k = s.vf k := rfl
@[simp] theorem State.modifyCore_chan {s : State} {c : Nat} {f : ServiceCore → ServiceCore} {k : Nat} :
    (s.modifyCore c f).chan k = s.chan k := rfl
@[simp] theorem State.modifyCore_flow {s : State} {c : Nat} {f : ServiceCore → ServiceCore} {k : Nat} :
    (s.modifyCore c f).flow k = s.flow k := rfl
@[simp] theorem State.modifyCore_itemList {s : State} {c : Nat} {f : ServiceCore → ServiceCore} :
    (s.modifyCore c f).itemList = s.itemList := rfl
@[simp] theorem State.modifyCore_session {s : State} {c : Nat} {f : ServiceCore → ServiceCore} {k : Nat} :
    (s.modifyCore c f).session k = s.session k := rfl
@[simp] theorem State.modifyCore_counter {s : State} {c : Nat} {f : ServiceCore → ServiceCore} {k : Nat} :
    (s.modifyCore c f).counter k = s.counter k := rfl

/-! ### modifyUnit -/

@[simp] theorem State.modifyUnit_pending {s : State} {u : Nat} {f : SluUnit → SluUnit} :
    (s.modifyUnit u f).pending = s.pending := rfl
@[simp] theorem State.modifyUnit_fresh {s : State} {u : Nat} {f : SluUnit → SluUnit} :
    (s.modifyUnit u f).fresh = s.fresh := rfl
@[simp] theorem State.modifyUnit_sys {s : State} {u : Nat} {f : SluUnit → SluUnit} :
    (s.modifyUnit u f).sys = s.sys := rfl
@[simp] theorem State.modifyUnit_plan {s : State} {u : Nat} {f : SluUnit → SluUnit} :
    (s.modifyUnit u f).plan = s.plan := rfl
@[simp] theorem State.modifyUnit_regs {s : State} {u : Nat} {f : SluUnit → SluUnit} :
    (s.modifyUnit u f).regs = s.regs := rfl
@[simp] theorem State.modifyUnit_host {s : State} {u : Nat} {f : SluUnit → SluUnit} :
    (s.modifyUnit u f).host = s.host := rfl
@[simp] theorem State.modifyUnit_qps {s : State} {u : Nat} {f : SluUnit → SluUnit} :
    (s.modifyUnit u f).qps = s.qps := rfl
@[simp] theorem State.modifyUnit_dsp {s : State} {u : Nat} {f : SluUnit → SluUnit} :
    (s.modifyUnit u f).dsp = s.dsp := rfl
@[simp] theorem State.modifyUnit_vault {s : State} {u : Nat} {f : SluUnit → SluUnit} :
    (s.modifyUnit u f).vault = s.vault := rfl
@[simp] theorem State.modifyUnit_mem {s : State} {u : Nat} {f : SluUnit → SluUnit} :
    (s.modifyUnit u f).mem = s.mem := rfl
@[simp] theorem State.modifyUnit_sen {s : State} {u : Nat} {f : SluUnit → SluUnit} :
    (s.modifyUnit u f).sen = s.sen := rfl
@[simp] theorem State.modifyUnit_ent {s : State} {u : Nat} {f : SluUnit → SluUnit} :
    (s.modifyUnit u f).ent = s.ent := rfl
@[simp] theorem State.modifyUnit_cfb {s : State} {u : Nat} {f : SluUnit → SluUnit} :
    (s.modifyUnit u f).cfb = s.cfb := rfl
@[simp] theorem State.modifyUnit_obj {s : State} {u : Nat} {f : SluUnit → SluUnit} :
    (s.modifyUnit u f).obj = s.obj := rfl
@[simp] theorem State.modifyUnit_spr {s : State} {u : Nat} {f : SluUnit → SluUnit} :
    (s.modifyUnit u f).spr = s.spr := rfl
@[simp] theorem State.modifyUnit_hwk {s : State} {u : Nat} {f : SluUnit → SluUnit} :
    (s.modifyUnit u f).hwk = s.hwk := rfl
@[simp] theorem State.modifyUnit_pke {s : State} {u : Nat} {f : SluUnit → SluUnit} :
    (s.modifyUnit u f).pke = s.pke := rfl
@[simp] theorem State.modifyUnit_pay {s : State} {u : Nat} {f : SluUnit → SluUnit} :
    (s.modifyUnit u f).pay = s.pay := rfl
@[simp] theorem State.modifyUnit_lcb {s : State} {u : Nat} {f : SluUnit → SluUnit} :
    (s.modifyUnit u f).lcb = s.lcb := rfl
@[simp] theorem State.modifyUnit_ctl {s : State} {u : Nat} {f : SluUnit → SluUnit} :
    (s.modifyUnit u f).ctl = s.ctl := rfl
@[simp] theorem State.modifyUnit_ring {s : State} {u : Nat} {f : SluUnit → SluUnit} :
    (s.modifyUnit u f).ring = s.ring := rfl
@[simp] theorem State.modifyUnit_out {s : State} {u : Nat} {f : SluUnit → SluUnit} :
    (s.modifyUnit u f).out = s.out := rfl
@[simp] theorem State.modifyUnit_item {s : State} {u : Nat} {f : SluUnit → SluUnit} {id : Nat} :
    (s.modifyUnit u f).item id = s.item id := rfl
@[simp] theorem State.modifyUnit_reg {s : State} {u : Nat} {f : SluUnit → SluUnit} {f' o : Nat} :
    (s.modifyUnit u f).reg f' o = s.reg f' o := rfl
@[simp] theorem State.modifyUnit_qp {s : State} {u : Nat} {f : SluUnit → SluUnit} {f' q : Nat} :
    (s.modifyUnit u f).qp f' q = s.qp f' q := rfl
@[simp] theorem State.modifyUnit_vf {s : State} {u : Nat} {f : SluUnit → SluUnit} {k : Nat} :
    (s.modifyUnit u f).vf k = s.vf k := rfl
@[simp] theorem State.modifyUnit_chan {s : State} {u : Nat} {f : SluUnit → SluUnit} {k : Nat} :
    (s.modifyUnit u f).chan k = s.chan k := rfl
@[simp] theorem State.modifyUnit_flow {s : State} {u : Nat} {f : SluUnit → SluUnit} {k : Nat} :
    (s.modifyUnit u f).flow k = s.flow k := rfl
@[simp] theorem State.modifyUnit_itemList {s : State} {u : Nat} {f : SluUnit → SluUnit} :
    (s.modifyUnit u f).itemList = s.itemList := rfl
@[simp] theorem State.modifyUnit_session {s : State} {u : Nat} {f : SluUnit → SluUnit} {k : Nat} :
    (s.modifyUnit u f).session k = s.session k := rfl
@[simp] theorem State.modifyUnit_counter {s : State} {u : Nat} {f : SluUnit → SluUnit} {k : Nat} :
    (s.modifyUnit u f).counter k = s.counter k := rfl

/-! ### setRegion -/

@[simp] theorem State.setRegion_pending {s : State} {m r : Nat} {x : Region} :
    (s.setRegion m r x).pending = s.pending := rfl
@[simp] theorem State.setRegion_fresh {s : State} {m r : Nat} {x : Region} :
    (s.setRegion m r x).fresh = s.fresh := rfl
@[simp] theorem State.setRegion_sys {s : State} {m r : Nat} {x : Region} : (s.setRegion m r x).sys = s.sys := rfl
@[simp] theorem State.setRegion_plan {s : State} {m r : Nat} {x : Region} : (s.setRegion m r x).plan = s.plan := rfl
@[simp] theorem State.setRegion_sluice {s : State} {m r : Nat} {x : Region} :
    (s.setRegion m r x).sluice = s.sluice := rfl
@[simp] theorem State.setRegion_regs {s : State} {m r : Nat} {x : Region} : (s.setRegion m r x).regs = s.regs := rfl
@[simp] theorem State.setRegion_host {s : State} {m r : Nat} {x : Region} : (s.setRegion m r x).host = s.host := rfl
@[simp] theorem State.setRegion_qps {s : State} {m r : Nat} {x : Region} : (s.setRegion m r x).qps = s.qps := rfl
@[simp] theorem State.setRegion_dsp {s : State} {m r : Nat} {x : Region} : (s.setRegion m r x).dsp = s.dsp := rfl
@[simp] theorem State.setRegion_vault {s : State} {m r : Nat} {x : Region} :
    (s.setRegion m r x).vault = s.vault := rfl
@[simp] theorem State.setRegion_sen {s : State} {m r : Nat} {x : Region} : (s.setRegion m r x).sen = s.sen := rfl
@[simp] theorem State.setRegion_ent {s : State} {m r : Nat} {x : Region} : (s.setRegion m r x).ent = s.ent := rfl
@[simp] theorem State.setRegion_cfb {s : State} {m r : Nat} {x : Region} : (s.setRegion m r x).cfb = s.cfb := rfl
@[simp] theorem State.setRegion_obj {s : State} {m r : Nat} {x : Region} : (s.setRegion m r x).obj = s.obj := rfl
@[simp] theorem State.setRegion_spr {s : State} {m r : Nat} {x : Region} : (s.setRegion m r x).spr = s.spr := rfl
@[simp] theorem State.setRegion_hwk {s : State} {m r : Nat} {x : Region} : (s.setRegion m r x).hwk = s.hwk := rfl
@[simp] theorem State.setRegion_pke {s : State} {m r : Nat} {x : Region} : (s.setRegion m r x).pke = s.pke := rfl
@[simp] theorem State.setRegion_pay {s : State} {m r : Nat} {x : Region} : (s.setRegion m r x).pay = s.pay := rfl
@[simp] theorem State.setRegion_lcb {s : State} {m r : Nat} {x : Region} : (s.setRegion m r x).lcb = s.lcb := rfl
@[simp] theorem State.setRegion_ctl {s : State} {m r : Nat} {x : Region} : (s.setRegion m r x).ctl = s.ctl := rfl
@[simp] theorem State.setRegion_ring {s : State} {m r : Nat} {x : Region} : (s.setRegion m r x).ring = s.ring := rfl
@[simp] theorem State.setRegion_out {s : State} {m r : Nat} {x : Region} : (s.setRegion m r x).out = s.out := rfl
@[simp] theorem State.setRegion_item {s : State} {m r : Nat} {x : Region} {id : Nat} :
    (s.setRegion m r x).item id = s.item id := rfl
@[simp] theorem State.setRegion_reg {s : State} {m r : Nat} {x : Region} {f o : Nat} :
    (s.setRegion m r x).reg f o = s.reg f o := rfl
@[simp] theorem State.setRegion_qp {s : State} {m r : Nat} {x : Region} {f q : Nat} :
    (s.setRegion m r x).qp f q = s.qp f q := rfl
@[simp] theorem State.setRegion_vf {s : State} {m r : Nat} {x : Region} {k : Nat} :
    (s.setRegion m r x).vf k = s.vf k := rfl
@[simp] theorem State.setRegion_chan {s : State} {m r : Nat} {x : Region} {k : Nat} :
    (s.setRegion m r x).chan k = s.chan k := rfl
@[simp] theorem State.setRegion_flow {s : State} {m r : Nat} {x : Region} {k : Nat} :
    (s.setRegion m r x).flow k = s.flow k := rfl
@[simp] theorem State.setRegion_itemList {s : State} {m r : Nat} {x : Region} :
    (s.setRegion m r x).itemList = s.itemList := rfl
@[simp] theorem State.setRegion_mode {s : State} {m r : Nat} {x : Region} : (s.setRegion m r x).mode = s.mode := rfl
@[simp] theorem State.setRegion_session {s : State} {m r : Nat} {x : Region} {k : Nat} :
    (s.setRegion m r x).session k = s.session k := rfl
@[simp] theorem State.setRegion_counter {s : State} {m r : Nat} {x : Region} {k : Nat} :
    (s.setRegion m r x).counter k = s.counter k := rfl

/-! ### setQp -/

@[simp] theorem State.setQp_pending {s : State} {fn qp : Nat} {q : Qp} : (s.setQp fn qp q).pending = s.pending := rfl
@[simp] theorem State.setQp_fresh {s : State} {fn qp : Nat} {q : Qp} : (s.setQp fn qp q).fresh = s.fresh := rfl
@[simp] theorem State.setQp_sys {s : State} {fn qp : Nat} {q : Qp} : (s.setQp fn qp q).sys = s.sys := rfl
@[simp] theorem State.setQp_plan {s : State} {fn qp : Nat} {q : Qp} : (s.setQp fn qp q).plan = s.plan := rfl
@[simp] theorem State.setQp_sluice {s : State} {fn qp : Nat} {q : Qp} : (s.setQp fn qp q).sluice = s.sluice := rfl
@[simp] theorem State.setQp_regs {s : State} {fn qp : Nat} {q : Qp} : (s.setQp fn qp q).regs = s.regs := rfl
@[simp] theorem State.setQp_host {s : State} {fn qp : Nat} {q : Qp} : (s.setQp fn qp q).host = s.host := rfl
@[simp] theorem State.setQp_dsp {s : State} {fn qp : Nat} {q : Qp} : (s.setQp fn qp q).dsp = s.dsp := rfl
@[simp] theorem State.setQp_vault {s : State} {fn qp : Nat} {q : Qp} : (s.setQp fn qp q).vault = s.vault := rfl
@[simp] theorem State.setQp_mem {s : State} {fn qp : Nat} {q : Qp} : (s.setQp fn qp q).mem = s.mem := rfl
@[simp] theorem State.setQp_sen {s : State} {fn qp : Nat} {q : Qp} : (s.setQp fn qp q).sen = s.sen := rfl
@[simp] theorem State.setQp_ent {s : State} {fn qp : Nat} {q : Qp} : (s.setQp fn qp q).ent = s.ent := rfl
@[simp] theorem State.setQp_cfb {s : State} {fn qp : Nat} {q : Qp} : (s.setQp fn qp q).cfb = s.cfb := rfl
@[simp] theorem State.setQp_obj {s : State} {fn qp : Nat} {q : Qp} : (s.setQp fn qp q).obj = s.obj := rfl
@[simp] theorem State.setQp_spr {s : State} {fn qp : Nat} {q : Qp} : (s.setQp fn qp q).spr = s.spr := rfl
@[simp] theorem State.setQp_hwk {s : State} {fn qp : Nat} {q : Qp} : (s.setQp fn qp q).hwk = s.hwk := rfl
@[simp] theorem State.setQp_pke {s : State} {fn qp : Nat} {q : Qp} : (s.setQp fn qp q).pke = s.pke := rfl
@[simp] theorem State.setQp_pay {s : State} {fn qp : Nat} {q : Qp} : (s.setQp fn qp q).pay = s.pay := rfl
@[simp] theorem State.setQp_lcb {s : State} {fn qp : Nat} {q : Qp} : (s.setQp fn qp q).lcb = s.lcb := rfl
@[simp] theorem State.setQp_ctl {s : State} {fn qp : Nat} {q : Qp} : (s.setQp fn qp q).ctl = s.ctl := rfl
@[simp] theorem State.setQp_ring {s : State} {fn qp : Nat} {q : Qp} : (s.setQp fn qp q).ring = s.ring := rfl
@[simp] theorem State.setQp_out {s : State} {fn qp : Nat} {q : Qp} : (s.setQp fn qp q).out = s.out := rfl
@[simp] theorem State.setQp_item {s : State} {fn qp : Nat} {q : Qp} {id : Nat} :
    (s.setQp fn qp q).item id = s.item id := rfl
@[simp] theorem State.setQp_reg {s : State} {fn qp : Nat} {q : Qp} {f o : Nat} :
    (s.setQp fn qp q).reg f o = s.reg f o := rfl
@[simp] theorem State.setQp_vf {s : State} {fn qp : Nat} {q : Qp} {k : Nat} : (s.setQp fn qp q).vf k = s.vf k := rfl
@[simp] theorem State.setQp_chan {s : State} {fn qp : Nat} {q : Qp} {k : Nat} :
    (s.setQp fn qp q).chan k = s.chan k := rfl
@[simp] theorem State.setQp_flow {s : State} {fn qp : Nat} {q : Qp} {k : Nat} :
    (s.setQp fn qp q).flow k = s.flow k := rfl
@[simp] theorem State.setQp_itemList {s : State} {fn qp : Nat} {q : Qp} :
    (s.setQp fn qp q).itemList = s.itemList := rfl
@[simp] theorem State.setQp_mode {s : State} {fn qp : Nat} {q : Qp} : (s.setQp fn qp q).mode = s.mode := rfl
@[simp] theorem State.setQp_session {s : State} {fn qp : Nat} {q : Qp} {k : Nat} :
    (s.setQp fn qp q).session k = s.session k := rfl
@[simp] theorem State.setQp_counter {s : State} {fn qp : Nat} {q : Qp} {k : Nat} :
    (s.setQp fn qp q).counter k = s.counter k := rfl

/-! ### setFlow -/

@[simp] theorem State.setFlow_pending {s : State} {f : Nat} {x : Flow} : (s.setFlow f x).pending = s.pending := rfl
@[simp] theorem State.setFlow_fresh {s : State} {f : Nat} {x : Flow} : (s.setFlow f x).fresh = s.fresh := rfl
@[simp] theorem State.setFlow_sys {s : State} {f : Nat} {x : Flow} : (s.setFlow f x).sys = s.sys := rfl
@[simp] theorem State.setFlow_plan {s : State} {f : Nat} {x : Flow} : (s.setFlow f x).plan = s.plan := rfl
@[simp] theorem State.setFlow_sluice {s : State} {f : Nat} {x : Flow} : (s.setFlow f x).sluice = s.sluice := rfl
@[simp] theorem State.setFlow_regs {s : State} {f : Nat} {x : Flow} : (s.setFlow f x).regs = s.regs := rfl
@[simp] theorem State.setFlow_host {s : State} {f : Nat} {x : Flow} : (s.setFlow f x).host = s.host := rfl
@[simp] theorem State.setFlow_qps {s : State} {f : Nat} {x : Flow} : (s.setFlow f x).qps = s.qps := rfl
@[simp] theorem State.setFlow_vault {s : State} {f : Nat} {x : Flow} : (s.setFlow f x).vault = s.vault := rfl
@[simp] theorem State.setFlow_mem {s : State} {f : Nat} {x : Flow} : (s.setFlow f x).mem = s.mem := rfl
@[simp] theorem State.setFlow_sen {s : State} {f : Nat} {x : Flow} : (s.setFlow f x).sen = s.sen := rfl
@[simp] theorem State.setFlow_ent {s : State} {f : Nat} {x : Flow} : (s.setFlow f x).ent = s.ent := rfl
@[simp] theorem State.setFlow_cfb {s : State} {f : Nat} {x : Flow} : (s.setFlow f x).cfb = s.cfb := rfl
@[simp] theorem State.setFlow_obj {s : State} {f : Nat} {x : Flow} : (s.setFlow f x).obj = s.obj := rfl
@[simp] theorem State.setFlow_spr {s : State} {f : Nat} {x : Flow} : (s.setFlow f x).spr = s.spr := rfl
@[simp] theorem State.setFlow_hwk {s : State} {f : Nat} {x : Flow} : (s.setFlow f x).hwk = s.hwk := rfl
@[simp] theorem State.setFlow_pke {s : State} {f : Nat} {x : Flow} : (s.setFlow f x).pke = s.pke := rfl
@[simp] theorem State.setFlow_pay {s : State} {f : Nat} {x : Flow} : (s.setFlow f x).pay = s.pay := rfl
@[simp] theorem State.setFlow_lcb {s : State} {f : Nat} {x : Flow} : (s.setFlow f x).lcb = s.lcb := rfl
@[simp] theorem State.setFlow_ctl {s : State} {f : Nat} {x : Flow} : (s.setFlow f x).ctl = s.ctl := rfl
@[simp] theorem State.setFlow_ring {s : State} {f : Nat} {x : Flow} : (s.setFlow f x).ring = s.ring := rfl
@[simp] theorem State.setFlow_out {s : State} {f : Nat} {x : Flow} : (s.setFlow f x).out = s.out := rfl
@[simp] theorem State.setFlow_item {s : State} {f : Nat} {x : Flow} {id : Nat} :
    (s.setFlow f x).item id = s.item id := rfl
@[simp] theorem State.setFlow_reg {s : State} {f : Nat} {x : Flow} {f' o : Nat} :
    (s.setFlow f x).reg f' o = s.reg f' o := rfl
@[simp] theorem State.setFlow_qp {s : State} {f : Nat} {x : Flow} {f' q : Nat} :
    (s.setFlow f x).qp f' q = s.qp f' q := rfl
@[simp] theorem State.setFlow_vf {s : State} {f : Nat} {x : Flow} {k : Nat} : (s.setFlow f x).vf k = s.vf k := rfl
@[simp] theorem State.setFlow_chan {s : State} {f : Nat} {x : Flow} {k : Nat} :
    (s.setFlow f x).chan k = s.chan k := rfl
@[simp] theorem State.setFlow_itemList {s : State} {f : Nat} {x : Flow} : (s.setFlow f x).itemList = s.itemList := rfl
@[simp] theorem State.setFlow_mode {s : State} {f : Nat} {x : Flow} : (s.setFlow f x).mode = s.mode := rfl
@[simp] theorem State.setFlow_session {s : State} {f : Nat} {x : Flow} {k : Nat} :
    (s.setFlow f x).session k = s.session k := rfl
@[simp] theorem State.setFlow_counter {s : State} {f : Nat} {x : Flow} {k : Nat} :
    (s.setFlow f x).counter k = s.counter k := rfl

/-! ### setChan -/

@[simp] theorem State.setChan_pending {s : State} {c : Nat} {x : Channel} : (s.setChan c x).pending = s.pending := rfl
@[simp] theorem State.setChan_fresh {s : State} {c : Nat} {x : Channel} : (s.setChan c x).fresh = s.fresh := rfl
@[simp] theorem State.setChan_sys {s : State} {c : Nat} {x : Channel} : (s.setChan c x).sys = s.sys := rfl
@[simp] theorem State.setChan_plan {s : State} {c : Nat} {x : Channel} : (s.setChan c x).plan = s.plan := rfl
@[simp] theorem State.setChan_sluice {s : State} {c : Nat} {x : Channel} : (s.setChan c x).sluice = s.sluice := rfl
@[simp] theorem State.setChan_regs {s : State} {c : Nat} {x : Channel} : (s.setChan c x).regs = s.regs := rfl
@[simp] theorem State.setChan_host {s : State} {c : Nat} {x : Channel} : (s.setChan c x).host = s.host := rfl
@[simp] theorem State.setChan_qps {s : State} {c : Nat} {x : Channel} : (s.setChan c x).qps = s.qps := rfl
@[simp] theorem State.setChan_dsp {s : State} {c : Nat} {x : Channel} : (s.setChan c x).dsp = s.dsp := rfl
@[simp] theorem State.setChan_vault {s : State} {c : Nat} {x : Channel} : (s.setChan c x).vault = s.vault := rfl
@[simp] theorem State.setChan_mem {s : State} {c : Nat} {x : Channel} : (s.setChan c x).mem = s.mem := rfl
@[simp] theorem State.setChan_sen {s : State} {c : Nat} {x : Channel} : (s.setChan c x).sen = s.sen := rfl
@[simp] theorem State.setChan_ent {s : State} {c : Nat} {x : Channel} : (s.setChan c x).ent = s.ent := rfl
@[simp] theorem State.setChan_cfb {s : State} {c : Nat} {x : Channel} : (s.setChan c x).cfb = s.cfb := rfl
@[simp] theorem State.setChan_obj {s : State} {c : Nat} {x : Channel} : (s.setChan c x).obj = s.obj := rfl
@[simp] theorem State.setChan_spr {s : State} {c : Nat} {x : Channel} : (s.setChan c x).spr = s.spr := rfl
@[simp] theorem State.setChan_pke {s : State} {c : Nat} {x : Channel} : (s.setChan c x).pke = s.pke := rfl
@[simp] theorem State.setChan_pay {s : State} {c : Nat} {x : Channel} : (s.setChan c x).pay = s.pay := rfl
@[simp] theorem State.setChan_lcb {s : State} {c : Nat} {x : Channel} : (s.setChan c x).lcb = s.lcb := rfl
@[simp] theorem State.setChan_ctl {s : State} {c : Nat} {x : Channel} : (s.setChan c x).ctl = s.ctl := rfl
@[simp] theorem State.setChan_ring {s : State} {c : Nat} {x : Channel} : (s.setChan c x).ring = s.ring := rfl
@[simp] theorem State.setChan_out {s : State} {c : Nat} {x : Channel} : (s.setChan c x).out = s.out := rfl
@[simp] theorem State.setChan_item {s : State} {c : Nat} {x : Channel} {id : Nat} :
    (s.setChan c x).item id = s.item id := rfl
@[simp] theorem State.setChan_reg {s : State} {c : Nat} {x : Channel} {f o : Nat} :
    (s.setChan c x).reg f o = s.reg f o := rfl
@[simp] theorem State.setChan_qp {s : State} {c : Nat} {x : Channel} {f q : Nat} :
    (s.setChan c x).qp f q = s.qp f q := rfl
@[simp] theorem State.setChan_vf {s : State} {c : Nat} {x : Channel} {k : Nat} : (s.setChan c x).vf k = s.vf k := rfl
@[simp] theorem State.setChan_flow {s : State} {c : Nat} {x : Channel} {k : Nat} :
    (s.setChan c x).flow k = s.flow k := rfl
@[simp] theorem State.setChan_itemList {s : State} {c : Nat} {x : Channel} :
    (s.setChan c x).itemList = s.itemList := rfl
@[simp] theorem State.setChan_mode {s : State} {c : Nat} {x : Channel} : (s.setChan c x).mode = s.mode := rfl
@[simp] theorem State.setChan_session {s : State} {c : Nat} {x : Channel} {k : Nat} :
    (s.setChan c x).session k = s.session k := rfl
@[simp] theorem State.setChan_counter {s : State} {c : Nat} {x : Channel} {k : Nat} :
    (s.setChan c x).counter k = s.counter k := rfl

/-! ### modifySub -/

@[simp] theorem State.modifySub_pending {s : State} {p u : Nat} {f : SubPort → SubPort} :
    (s.modifySub p u f).pending = s.pending := rfl
@[simp] theorem State.modifySub_fresh {s : State} {p u : Nat} {f : SubPort → SubPort} :
    (s.modifySub p u f).fresh = s.fresh := rfl
@[simp] theorem State.modifySub_sys {s : State} {p u : Nat} {f : SubPort → SubPort} :
    (s.modifySub p u f).sys = s.sys := rfl
@[simp] theorem State.modifySub_plan {s : State} {p u : Nat} {f : SubPort → SubPort} :
    (s.modifySub p u f).plan = s.plan := rfl
@[simp] theorem State.modifySub_sluice {s : State} {p u : Nat} {f : SubPort → SubPort} :
    (s.modifySub p u f).sluice = s.sluice := rfl
@[simp] theorem State.modifySub_regs {s : State} {p u : Nat} {f : SubPort → SubPort} :
    (s.modifySub p u f).regs = s.regs := rfl
@[simp] theorem State.modifySub_host {s : State} {p u : Nat} {f : SubPort → SubPort} :
    (s.modifySub p u f).host = s.host := rfl
@[simp] theorem State.modifySub_qps {s : State} {p u : Nat} {f : SubPort → SubPort} :
    (s.modifySub p u f).qps = s.qps := rfl
@[simp] theorem State.modifySub_dsp {s : State} {p u : Nat} {f : SubPort → SubPort} :
    (s.modifySub p u f).dsp = s.dsp := rfl
@[simp] theorem State.modifySub_vault {s : State} {p u : Nat} {f : SubPort → SubPort} :
    (s.modifySub p u f).vault = s.vault := rfl
@[simp] theorem State.modifySub_mem {s : State} {p u : Nat} {f : SubPort → SubPort} :
    (s.modifySub p u f).mem = s.mem := rfl
@[simp] theorem State.modifySub_sen {s : State} {p u : Nat} {f : SubPort → SubPort} :
    (s.modifySub p u f).sen = s.sen := rfl
@[simp] theorem State.modifySub_ent {s : State} {p u : Nat} {f : SubPort → SubPort} :
    (s.modifySub p u f).ent = s.ent := rfl
@[simp] theorem State.modifySub_cfb {s : State} {p u : Nat} {f : SubPort → SubPort} :
    (s.modifySub p u f).cfb = s.cfb := rfl
@[simp] theorem State.modifySub_obj {s : State} {p u : Nat} {f : SubPort → SubPort} :
    (s.modifySub p u f).obj = s.obj := rfl
@[simp] theorem State.modifySub_spr {s : State} {p u : Nat} {f : SubPort → SubPort} :
    (s.modifySub p u f).spr = s.spr := rfl
@[simp] theorem State.modifySub_pke {s : State} {p u : Nat} {f : SubPort → SubPort} :
    (s.modifySub p u f).pke = s.pke := rfl
@[simp] theorem State.modifySub_pay {s : State} {p u : Nat} {f : SubPort → SubPort} :
    (s.modifySub p u f).pay = s.pay := rfl
@[simp] theorem State.modifySub_lcb {s : State} {p u : Nat} {f : SubPort → SubPort} :
    (s.modifySub p u f).lcb = s.lcb := rfl
@[simp] theorem State.modifySub_ctl {s : State} {p u : Nat} {f : SubPort → SubPort} :
    (s.modifySub p u f).ctl = s.ctl := rfl
@[simp] theorem State.modifySub_ring {s : State} {p u : Nat} {f : SubPort → SubPort} :
    (s.modifySub p u f).ring = s.ring := rfl
@[simp] theorem State.modifySub_out {s : State} {p u : Nat} {f : SubPort → SubPort} :
    (s.modifySub p u f).out = s.out := rfl
@[simp] theorem State.modifySub_item {s : State} {p u : Nat} {f : SubPort → SubPort} {id : Nat} :
    (s.modifySub p u f).item id = s.item id := rfl
@[simp] theorem State.modifySub_reg {s : State} {p u : Nat} {f : SubPort → SubPort} {f' o : Nat} :
    (s.modifySub p u f).reg f' o = s.reg f' o := rfl
@[simp] theorem State.modifySub_qp {s : State} {p u : Nat} {f : SubPort → SubPort} {f' q : Nat} :
    (s.modifySub p u f).qp f' q = s.qp f' q := rfl
@[simp] theorem State.modifySub_vf {s : State} {p u : Nat} {f : SubPort → SubPort} {k : Nat} :
    (s.modifySub p u f).vf k = s.vf k := rfl
@[simp] theorem State.modifySub_chan {s : State} {p u : Nat} {f : SubPort → SubPort} {k : Nat} :
    (s.modifySub p u f).chan k = s.chan k := rfl
@[simp] theorem State.modifySub_flow {s : State} {p u : Nat} {f : SubPort → SubPort} {k : Nat} :
    (s.modifySub p u f).flow k = s.flow k := rfl
@[simp] theorem State.modifySub_itemList {s : State} {p u : Nat} {f : SubPort → SubPort} :
    (s.modifySub p u f).itemList = s.itemList := rfl
@[simp] theorem State.modifySub_mode {s : State} {p u : Nat} {f : SubPort → SubPort} :
    (s.modifySub p u f).mode = s.mode := rfl
@[simp] theorem State.modifySub_session {s : State} {p u : Nat} {f : SubPort → SubPort} {k : Nat} :
    (s.modifySub p u f).session k = s.session k := rfl
@[simp] theorem State.modifySub_counter {s : State} {p u : Nat} {f : SubPort → SubPort} {k : Nat} :
    (s.modifySub p u f).counter k = s.counter k := rfl

/-! ### setTenantObj -/

@[simp] theorem State.setTenantObj_pending {s : State} {t : Byte} {x : TenantObj} :
    (s.setTenantObj t x).pending = s.pending := rfl
@[simp] theorem State.setTenantObj_fresh {s : State} {t : Byte} {x : TenantObj} :
    (s.setTenantObj t x).fresh = s.fresh := rfl
@[simp] theorem State.setTenantObj_sys {s : State} {t : Byte} {x : TenantObj} :
    (s.setTenantObj t x).sys = s.sys := rfl
@[simp] theorem State.setTenantObj_plan {s : State} {t : Byte} {x : TenantObj} :
    (s.setTenantObj t x).plan = s.plan := rfl
@[simp] theorem State.setTenantObj_sluice {s : State} {t : Byte} {x : TenantObj} :
    (s.setTenantObj t x).sluice = s.sluice := rfl
@[simp] theorem State.setTenantObj_regs {s : State} {t : Byte} {x : TenantObj} :
    (s.setTenantObj t x).regs = s.regs := rfl
@[simp] theorem State.setTenantObj_host {s : State} {t : Byte} {x : TenantObj} :
    (s.setTenantObj t x).host = s.host := rfl
@[simp] theorem State.setTenantObj_qps {s : State} {t : Byte} {x : TenantObj} :
    (s.setTenantObj t x).qps = s.qps := rfl
@[simp] theorem State.setTenantObj_dsp {s : State} {t : Byte} {x : TenantObj} :
    (s.setTenantObj t x).dsp = s.dsp := rfl
@[simp] theorem State.setTenantObj_vault {s : State} {t : Byte} {x : TenantObj} :
    (s.setTenantObj t x).vault = s.vault := rfl
@[simp] theorem State.setTenantObj_mem {s : State} {t : Byte} {x : TenantObj} :
    (s.setTenantObj t x).mem = s.mem := rfl
@[simp] theorem State.setTenantObj_sen {s : State} {t : Byte} {x : TenantObj} :
    (s.setTenantObj t x).sen = s.sen := rfl
@[simp] theorem State.setTenantObj_ent {s : State} {t : Byte} {x : TenantObj} :
    (s.setTenantObj t x).ent = s.ent := rfl
@[simp] theorem State.setTenantObj_cfb {s : State} {t : Byte} {x : TenantObj} :
    (s.setTenantObj t x).cfb = s.cfb := rfl
@[simp] theorem State.setTenantObj_spr {s : State} {t : Byte} {x : TenantObj} :
    (s.setTenantObj t x).spr = s.spr := rfl
@[simp] theorem State.setTenantObj_hwk {s : State} {t : Byte} {x : TenantObj} :
    (s.setTenantObj t x).hwk = s.hwk := rfl
@[simp] theorem State.setTenantObj_pke {s : State} {t : Byte} {x : TenantObj} :
    (s.setTenantObj t x).pke = s.pke := rfl
@[simp] theorem State.setTenantObj_pay {s : State} {t : Byte} {x : TenantObj} :
    (s.setTenantObj t x).pay = s.pay := rfl
@[simp] theorem State.setTenantObj_lcb {s : State} {t : Byte} {x : TenantObj} :
    (s.setTenantObj t x).lcb = s.lcb := rfl
@[simp] theorem State.setTenantObj_ctl {s : State} {t : Byte} {x : TenantObj} :
    (s.setTenantObj t x).ctl = s.ctl := rfl
@[simp] theorem State.setTenantObj_ring {s : State} {t : Byte} {x : TenantObj} :
    (s.setTenantObj t x).ring = s.ring := rfl
@[simp] theorem State.setTenantObj_out {s : State} {t : Byte} {x : TenantObj} :
    (s.setTenantObj t x).out = s.out := rfl
@[simp] theorem State.setTenantObj_item {s : State} {t : Byte} {x : TenantObj} {id : Nat} :
    (s.setTenantObj t x).item id = s.item id := rfl
@[simp] theorem State.setTenantObj_reg {s : State} {t : Byte} {x : TenantObj} {f o : Nat} :
    (s.setTenantObj t x).reg f o = s.reg f o := rfl
@[simp] theorem State.setTenantObj_qp {s : State} {t : Byte} {x : TenantObj} {f q : Nat} :
    (s.setTenantObj t x).qp f q = s.qp f q := rfl
@[simp] theorem State.setTenantObj_vf {s : State} {t : Byte} {x : TenantObj} {k : Nat} :
    (s.setTenantObj t x).vf k = s.vf k := rfl
@[simp] theorem State.setTenantObj_chan {s : State} {t : Byte} {x : TenantObj} {k : Nat} :
    (s.setTenantObj t x).chan k = s.chan k := rfl
@[simp] theorem State.setTenantObj_flow {s : State} {t : Byte} {x : TenantObj} {k : Nat} :
    (s.setTenantObj t x).flow k = s.flow k := rfl
@[simp] theorem State.setTenantObj_itemList {s : State} {t : Byte} {x : TenantObj} :
    (s.setTenantObj t x).itemList = s.itemList := rfl
@[simp] theorem State.setTenantObj_mode {s : State} {t : Byte} {x : TenantObj} :
    (s.setTenantObj t x).mode = s.mode := rfl
@[simp] theorem State.setTenantObj_session {s : State} {t : Byte} {x : TenantObj} {k : Nat} :
    (s.setTenantObj t x).session k = s.session k := rfl
@[simp] theorem State.setTenantObj_counter {s : State} {t : Byte} {x : TenantObj} {k : Nat} :
    (s.setTenantObj t x).counter k = s.counter k := rfl

/-! ### setSeal -/

@[simp] theorem State.setSeal_pending {s : State} {r : SealRun} : (s.setSeal r).pending = s.pending := rfl
@[simp] theorem State.setSeal_fresh {s : State} {r : SealRun} : (s.setSeal r).fresh = s.fresh := rfl
@[simp] theorem State.setSeal_sys {s : State} {r : SealRun} : (s.setSeal r).sys = s.sys := rfl
@[simp] theorem State.setSeal_plan {s : State} {r : SealRun} : (s.setSeal r).plan = s.plan := rfl
@[simp] theorem State.setSeal_sluice {s : State} {r : SealRun} : (s.setSeal r).sluice = s.sluice := rfl
@[simp] theorem State.setSeal_regs {s : State} {r : SealRun} : (s.setSeal r).regs = s.regs := rfl
@[simp] theorem State.setSeal_host {s : State} {r : SealRun} : (s.setSeal r).host = s.host := rfl
@[simp] theorem State.setSeal_qps {s : State} {r : SealRun} : (s.setSeal r).qps = s.qps := rfl
@[simp] theorem State.setSeal_dsp {s : State} {r : SealRun} : (s.setSeal r).dsp = s.dsp := rfl
@[simp] theorem State.setSeal_vault {s : State} {r : SealRun} : (s.setSeal r).vault = s.vault := rfl
@[simp] theorem State.setSeal_mem {s : State} {r : SealRun} : (s.setSeal r).mem = s.mem := rfl
@[simp] theorem State.setSeal_sen {s : State} {r : SealRun} : (s.setSeal r).sen = s.sen := rfl
@[simp] theorem State.setSeal_ent {s : State} {r : SealRun} : (s.setSeal r).ent = s.ent := rfl
@[simp] theorem State.setSeal_cfb {s : State} {r : SealRun} : (s.setSeal r).cfb = s.cfb := rfl
@[simp] theorem State.setSeal_spr {s : State} {r : SealRun} : (s.setSeal r).spr = s.spr := rfl
@[simp] theorem State.setSeal_hwk {s : State} {r : SealRun} : (s.setSeal r).hwk = s.hwk := rfl
@[simp] theorem State.setSeal_pke {s : State} {r : SealRun} : (s.setSeal r).pke = s.pke := rfl
@[simp] theorem State.setSeal_pay {s : State} {r : SealRun} : (s.setSeal r).pay = s.pay := rfl
@[simp] theorem State.setSeal_lcb {s : State} {r : SealRun} : (s.setSeal r).lcb = s.lcb := rfl
@[simp] theorem State.setSeal_ctl {s : State} {r : SealRun} : (s.setSeal r).ctl = s.ctl := rfl
@[simp] theorem State.setSeal_ring {s : State} {r : SealRun} : (s.setSeal r).ring = s.ring := rfl
@[simp] theorem State.setSeal_out {s : State} {r : SealRun} : (s.setSeal r).out = s.out := rfl
@[simp] theorem State.setSeal_item {s : State} {r : SealRun} {id : Nat} : (s.setSeal r).item id = s.item id := rfl
@[simp] theorem State.setSeal_reg {s : State} {r : SealRun} {f o : Nat} : (s.setSeal r).reg f o = s.reg f o := rfl
@[simp] theorem State.setSeal_qp {s : State} {r : SealRun} {f q : Nat} : (s.setSeal r).qp f q = s.qp f q := rfl
@[simp] theorem State.setSeal_vf {s : State} {r : SealRun} {k : Nat} : (s.setSeal r).vf k = s.vf k := rfl
@[simp] theorem State.setSeal_chan {s : State} {r : SealRun} {k : Nat} : (s.setSeal r).chan k = s.chan k := rfl
@[simp] theorem State.setSeal_flow {s : State} {r : SealRun} {k : Nat} : (s.setSeal r).flow k = s.flow k := rfl
@[simp] theorem State.setSeal_itemList {s : State} {r : SealRun} : (s.setSeal r).itemList = s.itemList := rfl
@[simp] theorem State.setSeal_mode {s : State} {r : SealRun} : (s.setSeal r).mode = s.mode := rfl
@[simp] theorem State.setSeal_session {s : State} {r : SealRun} {k : Nat} :
    (s.setSeal r).session k = s.session k := rfl
@[simp] theorem State.setSeal_counter {s : State} {r : SealRun} {k : Nat} :
    (s.setSeal r).counter k = s.counter k := rfl

/-! ### setOpen -/

@[simp] theorem State.setOpen_pending {s : State} {r : OpenRun} : (s.setOpen r).pending = s.pending := rfl
@[simp] theorem State.setOpen_fresh {s : State} {r : OpenRun} : (s.setOpen r).fresh = s.fresh := rfl
@[simp] theorem State.setOpen_sys {s : State} {r : OpenRun} : (s.setOpen r).sys = s.sys := rfl
@[simp] theorem State.setOpen_plan {s : State} {r : OpenRun} : (s.setOpen r).plan = s.plan := rfl
@[simp] theorem State.setOpen_sluice {s : State} {r : OpenRun} : (s.setOpen r).sluice = s.sluice := rfl
@[simp] theorem State.setOpen_regs {s : State} {r : OpenRun} : (s.setOpen r).regs = s.regs := rfl
@[simp] theorem State.setOpen_host {s : State} {r : OpenRun} : (s.setOpen r).host = s.host := rfl
@[simp] theorem State.setOpen_qps {s : State} {r : OpenRun} : (s.setOpen r).qps = s.qps := rfl
@[simp] theorem State.setOpen_dsp {s : State} {r : OpenRun} : (s.setOpen r).dsp = s.dsp := rfl
@[simp] theorem State.setOpen_vault {s : State} {r : OpenRun} : (s.setOpen r).vault = s.vault := rfl
@[simp] theorem State.setOpen_mem {s : State} {r : OpenRun} : (s.setOpen r).mem = s.mem := rfl
@[simp] theorem State.setOpen_sen {s : State} {r : OpenRun} : (s.setOpen r).sen = s.sen := rfl
@[simp] theorem State.setOpen_ent {s : State} {r : OpenRun} : (s.setOpen r).ent = s.ent := rfl
@[simp] theorem State.setOpen_cfb {s : State} {r : OpenRun} : (s.setOpen r).cfb = s.cfb := rfl
@[simp] theorem State.setOpen_spr {s : State} {r : OpenRun} : (s.setOpen r).spr = s.spr := rfl
@[simp] theorem State.setOpen_hwk {s : State} {r : OpenRun} : (s.setOpen r).hwk = s.hwk := rfl
@[simp] theorem State.setOpen_pke {s : State} {r : OpenRun} : (s.setOpen r).pke = s.pke := rfl
@[simp] theorem State.setOpen_pay {s : State} {r : OpenRun} : (s.setOpen r).pay = s.pay := rfl
@[simp] theorem State.setOpen_lcb {s : State} {r : OpenRun} : (s.setOpen r).lcb = s.lcb := rfl
@[simp] theorem State.setOpen_ctl {s : State} {r : OpenRun} : (s.setOpen r).ctl = s.ctl := rfl
@[simp] theorem State.setOpen_ring {s : State} {r : OpenRun} : (s.setOpen r).ring = s.ring := rfl
@[simp] theorem State.setOpen_out {s : State} {r : OpenRun} : (s.setOpen r).out = s.out := rfl
@[simp] theorem State.setOpen_item {s : State} {r : OpenRun} {id : Nat} : (s.setOpen r).item id = s.item id := rfl
@[simp] theorem State.setOpen_reg {s : State} {r : OpenRun} {f o : Nat} : (s.setOpen r).reg f o = s.reg f o := rfl
@[simp] theorem State.setOpen_qp {s : State} {r : OpenRun} {f q : Nat} : (s.setOpen r).qp f q = s.qp f q := rfl
@[simp] theorem State.setOpen_vf {s : State} {r : OpenRun} {k : Nat} : (s.setOpen r).vf k = s.vf k := rfl
@[simp] theorem State.setOpen_chan {s : State} {r : OpenRun} {k : Nat} : (s.setOpen r).chan k = s.chan k := rfl
@[simp] theorem State.setOpen_flow {s : State} {r : OpenRun} {k : Nat} : (s.setOpen r).flow k = s.flow k := rfl
@[simp] theorem State.setOpen_itemList {s : State} {r : OpenRun} : (s.setOpen r).itemList = s.itemList := rfl
@[simp] theorem State.setOpen_mode {s : State} {r : OpenRun} : (s.setOpen r).mode = s.mode := rfl
@[simp] theorem State.setOpen_session {s : State} {r : OpenRun} {k : Nat} :
    (s.setOpen r).session k = s.session k := rfl
@[simp] theorem State.setOpen_counter {s : State} {r : OpenRun} {k : Nat} :
    (s.setOpen r).counter k = s.counter k := rfl

/-! ### setRepair -/

@[simp] theorem State.setRepair_pending {s : State} {r : RepairRun} : (s.setRepair r).pending = s.pending := rfl
@[simp] theorem State.setRepair_fresh {s : State} {r : RepairRun} : (s.setRepair r).fresh = s.fresh := rfl
@[simp] theorem State.setRepair_sys {s : State} {r : RepairRun} : (s.setRepair r).sys = s.sys := rfl
@[simp] theorem State.setRepair_plan {s : State} {r : RepairRun} : (s.setRepair r).plan = s.plan := rfl
@[simp] theorem State.setRepair_sluice {s : State} {r : RepairRun} : (s.setRepair r).sluice = s.sluice := rfl
@[simp] theorem State.setRepair_regs {s : State} {r : RepairRun} : (s.setRepair r).regs = s.regs := rfl
@[simp] theorem State.setRepair_host {s : State} {r : RepairRun} : (s.setRepair r).host = s.host := rfl
@[simp] theorem State.setRepair_qps {s : State} {r : RepairRun} : (s.setRepair r).qps = s.qps := rfl
@[simp] theorem State.setRepair_dsp {s : State} {r : RepairRun} : (s.setRepair r).dsp = s.dsp := rfl
@[simp] theorem State.setRepair_vault {s : State} {r : RepairRun} : (s.setRepair r).vault = s.vault := rfl
@[simp] theorem State.setRepair_mem {s : State} {r : RepairRun} : (s.setRepair r).mem = s.mem := rfl
@[simp] theorem State.setRepair_sen {s : State} {r : RepairRun} : (s.setRepair r).sen = s.sen := rfl
@[simp] theorem State.setRepair_ent {s : State} {r : RepairRun} : (s.setRepair r).ent = s.ent := rfl
@[simp] theorem State.setRepair_cfb {s : State} {r : RepairRun} : (s.setRepair r).cfb = s.cfb := rfl
@[simp] theorem State.setRepair_spr {s : State} {r : RepairRun} : (s.setRepair r).spr = s.spr := rfl
@[simp] theorem State.setRepair_hwk {s : State} {r : RepairRun} : (s.setRepair r).hwk = s.hwk := rfl
@[simp] theorem State.setRepair_pke {s : State} {r : RepairRun} : (s.setRepair r).pke = s.pke := rfl
@[simp] theorem State.setRepair_pay {s : State} {r : RepairRun} : (s.setRepair r).pay = s.pay := rfl
@[simp] theorem State.setRepair_lcb {s : State} {r : RepairRun} : (s.setRepair r).lcb = s.lcb := rfl
@[simp] theorem State.setRepair_ctl {s : State} {r : RepairRun} : (s.setRepair r).ctl = s.ctl := rfl
@[simp] theorem State.setRepair_ring {s : State} {r : RepairRun} : (s.setRepair r).ring = s.ring := rfl
@[simp] theorem State.setRepair_out {s : State} {r : RepairRun} : (s.setRepair r).out = s.out := rfl
@[simp] theorem State.setRepair_item {s : State} {r : RepairRun} {id : Nat} :
    (s.setRepair r).item id = s.item id := rfl
@[simp] theorem State.setRepair_reg {s : State} {r : RepairRun} {f o : Nat} :
    (s.setRepair r).reg f o = s.reg f o := rfl
@[simp] theorem State.setRepair_qp {s : State} {r : RepairRun} {f q : Nat} : (s.setRepair r).qp f q = s.qp f q := rfl
@[simp] theorem State.setRepair_vf {s : State} {r : RepairRun} {k : Nat} : (s.setRepair r).vf k = s.vf k := rfl
@[simp] theorem State.setRepair_chan {s : State} {r : RepairRun} {k : Nat} : (s.setRepair r).chan k = s.chan k := rfl
@[simp] theorem State.setRepair_flow {s : State} {r : RepairRun} {k : Nat} : (s.setRepair r).flow k = s.flow k := rfl
@[simp] theorem State.setRepair_itemList {s : State} {r : RepairRun} : (s.setRepair r).itemList = s.itemList := rfl
@[simp] theorem State.setRepair_mode {s : State} {r : RepairRun} : (s.setRepair r).mode = s.mode := rfl
@[simp] theorem State.setRepair_session {s : State} {r : RepairRun} {k : Nat} :
    (s.setRepair r).session k = s.session k := rfl
@[simp] theorem State.setRepair_counter {s : State} {r : RepairRun} {k : Nat} :
    (s.setRepair r).counter k = s.counter k := rfl

/-! ### setPart -/

@[simp] theorem State.setPart_pending {s : State} {p : SchedPart} : (s.setPart p).pending = s.pending := rfl
@[simp] theorem State.setPart_fresh {s : State} {p : SchedPart} : (s.setPart p).fresh = s.fresh := rfl
@[simp] theorem State.setPart_sys {s : State} {p : SchedPart} : (s.setPart p).sys = s.sys := rfl
@[simp] theorem State.setPart_plan {s : State} {p : SchedPart} : (s.setPart p).plan = s.plan := rfl
@[simp] theorem State.setPart_sluice {s : State} {p : SchedPart} : (s.setPart p).sluice = s.sluice := rfl
@[simp] theorem State.setPart_regs {s : State} {p : SchedPart} : (s.setPart p).regs = s.regs := rfl
@[simp] theorem State.setPart_host {s : State} {p : SchedPart} : (s.setPart p).host = s.host := rfl
@[simp] theorem State.setPart_qps {s : State} {p : SchedPart} : (s.setPart p).qps = s.qps := rfl
@[simp] theorem State.setPart_dsp {s : State} {p : SchedPart} : (s.setPart p).dsp = s.dsp := rfl
@[simp] theorem State.setPart_vault {s : State} {p : SchedPart} : (s.setPart p).vault = s.vault := rfl
@[simp] theorem State.setPart_mem {s : State} {p : SchedPart} : (s.setPart p).mem = s.mem := rfl
@[simp] theorem State.setPart_sen {s : State} {p : SchedPart} : (s.setPart p).sen = s.sen := rfl
@[simp] theorem State.setPart_ent {s : State} {p : SchedPart} : (s.setPart p).ent = s.ent := rfl
@[simp] theorem State.setPart_cfb {s : State} {p : SchedPart} : (s.setPart p).cfb = s.cfb := rfl
@[simp] theorem State.setPart_obj {s : State} {p : SchedPart} : (s.setPart p).obj = s.obj := rfl
@[simp] theorem State.setPart_hwk {s : State} {p : SchedPart} : (s.setPart p).hwk = s.hwk := rfl
@[simp] theorem State.setPart_pke {s : State} {p : SchedPart} : (s.setPart p).pke = s.pke := rfl
@[simp] theorem State.setPart_pay {s : State} {p : SchedPart} : (s.setPart p).pay = s.pay := rfl
@[simp] theorem State.setPart_lcb {s : State} {p : SchedPart} : (s.setPart p).lcb = s.lcb := rfl
@[simp] theorem State.setPart_ctl {s : State} {p : SchedPart} : (s.setPart p).ctl = s.ctl := rfl
@[simp] theorem State.setPart_ring {s : State} {p : SchedPart} : (s.setPart p).ring = s.ring := rfl
@[simp] theorem State.setPart_out {s : State} {p : SchedPart} : (s.setPart p).out = s.out := rfl
@[simp] theorem State.setPart_item {s : State} {p : SchedPart} {id : Nat} : (s.setPart p).item id = s.item id := rfl
@[simp] theorem State.setPart_reg {s : State} {p : SchedPart} {f o : Nat} : (s.setPart p).reg f o = s.reg f o := rfl
@[simp] theorem State.setPart_qp {s : State} {p : SchedPart} {f q : Nat} : (s.setPart p).qp f q = s.qp f q := rfl
@[simp] theorem State.setPart_vf {s : State} {p : SchedPart} {k : Nat} : (s.setPart p).vf k = s.vf k := rfl
@[simp] theorem State.setPart_chan {s : State} {p : SchedPart} {k : Nat} : (s.setPart p).chan k = s.chan k := rfl
@[simp] theorem State.setPart_flow {s : State} {p : SchedPart} {k : Nat} : (s.setPart p).flow k = s.flow k := rfl
@[simp] theorem State.setPart_itemList {s : State} {p : SchedPart} : (s.setPart p).itemList = s.itemList := rfl
@[simp] theorem State.setPart_mode {s : State} {p : SchedPart} : (s.setPart p).mode = s.mode := rfl
@[simp] theorem State.setPart_session {s : State} {p : SchedPart} {k : Nat} :
    (s.setPart p).session k = s.session k := rfl
@[simp] theorem State.setPart_counter {s : State} {p : SchedPart} {k : Nat} :
    (s.setPart p).counter k = s.counter k := rfl

/-! ### setCounter -/

@[simp] theorem State.setCounter_pending {s : State} {i : Nat} {c : Counter} :
    (s.setCounter i c).pending = s.pending := rfl
@[simp] theorem State.setCounter_fresh {s : State} {i : Nat} {c : Counter} : (s.setCounter i c).fresh = s.fresh := rfl
@[simp] theorem State.setCounter_sys {s : State} {i : Nat} {c : Counter} : (s.setCounter i c).sys = s.sys := rfl
@[simp] theorem State.setCounter_plan {s : State} {i : Nat} {c : Counter} : (s.setCounter i c).plan = s.plan := rfl
@[simp] theorem State.setCounter_sluice {s : State} {i : Nat} {c : Counter} :
    (s.setCounter i c).sluice = s.sluice := rfl
@[simp] theorem State.setCounter_regs {s : State} {i : Nat} {c : Counter} : (s.setCounter i c).regs = s.regs := rfl
@[simp] theorem State.setCounter_host {s : State} {i : Nat} {c : Counter} : (s.setCounter i c).host = s.host := rfl
@[simp] theorem State.setCounter_qps {s : State} {i : Nat} {c : Counter} : (s.setCounter i c).qps = s.qps := rfl
@[simp] theorem State.setCounter_dsp {s : State} {i : Nat} {c : Counter} : (s.setCounter i c).dsp = s.dsp := rfl
@[simp] theorem State.setCounter_mem {s : State} {i : Nat} {c : Counter} : (s.setCounter i c).mem = s.mem := rfl
@[simp] theorem State.setCounter_sen {s : State} {i : Nat} {c : Counter} : (s.setCounter i c).sen = s.sen := rfl
@[simp] theorem State.setCounter_ent {s : State} {i : Nat} {c : Counter} : (s.setCounter i c).ent = s.ent := rfl
@[simp] theorem State.setCounter_cfb {s : State} {i : Nat} {c : Counter} : (s.setCounter i c).cfb = s.cfb := rfl
@[simp] theorem State.setCounter_obj {s : State} {i : Nat} {c : Counter} : (s.setCounter i c).obj = s.obj := rfl
@[simp] theorem State.setCounter_spr {s : State} {i : Nat} {c : Counter} : (s.setCounter i c).spr = s.spr := rfl
@[simp] theorem State.setCounter_hwk {s : State} {i : Nat} {c : Counter} : (s.setCounter i c).hwk = s.hwk := rfl
@[simp] theorem State.setCounter_pke {s : State} {i : Nat} {c : Counter} : (s.setCounter i c).pke = s.pke := rfl
@[simp] theorem State.setCounter_pay {s : State} {i : Nat} {c : Counter} : (s.setCounter i c).pay = s.pay := rfl
@[simp] theorem State.setCounter_lcb {s : State} {i : Nat} {c : Counter} : (s.setCounter i c).lcb = s.lcb := rfl
@[simp] theorem State.setCounter_ctl {s : State} {i : Nat} {c : Counter} : (s.setCounter i c).ctl = s.ctl := rfl
@[simp] theorem State.setCounter_ring {s : State} {i : Nat} {c : Counter} : (s.setCounter i c).ring = s.ring := rfl
@[simp] theorem State.setCounter_out {s : State} {i : Nat} {c : Counter} : (s.setCounter i c).out = s.out := rfl
@[simp] theorem State.setCounter_item {s : State} {i : Nat} {c : Counter} {id : Nat} :
    (s.setCounter i c).item id = s.item id := rfl
@[simp] theorem State.setCounter_reg {s : State} {i : Nat} {c : Counter} {f o : Nat} :
    (s.setCounter i c).reg f o = s.reg f o := rfl
@[simp] theorem State.setCounter_qp {s : State} {i : Nat} {c : Counter} {f q : Nat} :
    (s.setCounter i c).qp f q = s.qp f q := rfl
@[simp] theorem State.setCounter_vf {s : State} {i : Nat} {c : Counter} {k : Nat} :
    (s.setCounter i c).vf k = s.vf k := rfl
@[simp] theorem State.setCounter_chan {s : State} {i : Nat} {c : Counter} {k : Nat} :
    (s.setCounter i c).chan k = s.chan k := rfl
@[simp] theorem State.setCounter_flow {s : State} {i : Nat} {c : Counter} {k : Nat} :
    (s.setCounter i c).flow k = s.flow k := rfl
@[simp] theorem State.setCounter_itemList {s : State} {i : Nat} {c : Counter} :
    (s.setCounter i c).itemList = s.itemList := rfl
@[simp] theorem State.setCounter_mode {s : State} {i : Nat} {c : Counter} : (s.setCounter i c).mode = s.mode := rfl
@[simp] theorem State.setCounter_session {s : State} {i : Nat} {c : Counter} {k : Nat} :
    (s.setCounter i c).session k = s.session k := rfl

/-! ### setPort -/

@[simp] theorem State.setPort_pending {s : State} {p : Nat} {x : CardPort} :
    (s.setPort p x).pending = s.pending := rfl
@[simp] theorem State.setPort_fresh {s : State} {p : Nat} {x : CardPort} : (s.setPort p x).fresh = s.fresh := rfl
@[simp] theorem State.setPort_sys {s : State} {p : Nat} {x : CardPort} : (s.setPort p x).sys = s.sys := rfl
@[simp] theorem State.setPort_plan {s : State} {p : Nat} {x : CardPort} : (s.setPort p x).plan = s.plan := rfl
@[simp] theorem State.setPort_sluice {s : State} {p : Nat} {x : CardPort} : (s.setPort p x).sluice = s.sluice := rfl
@[simp] theorem State.setPort_regs {s : State} {p : Nat} {x : CardPort} : (s.setPort p x).regs = s.regs := rfl
@[simp] theorem State.setPort_host {s : State} {p : Nat} {x : CardPort} : (s.setPort p x).host = s.host := rfl
@[simp] theorem State.setPort_qps {s : State} {p : Nat} {x : CardPort} : (s.setPort p x).qps = s.qps := rfl
@[simp] theorem State.setPort_dsp {s : State} {p : Nat} {x : CardPort} : (s.setPort p x).dsp = s.dsp := rfl
@[simp] theorem State.setPort_vault {s : State} {p : Nat} {x : CardPort} : (s.setPort p x).vault = s.vault := rfl
@[simp] theorem State.setPort_mem {s : State} {p : Nat} {x : CardPort} : (s.setPort p x).mem = s.mem := rfl
@[simp] theorem State.setPort_sen {s : State} {p : Nat} {x : CardPort} : (s.setPort p x).sen = s.sen := rfl
@[simp] theorem State.setPort_ent {s : State} {p : Nat} {x : CardPort} : (s.setPort p x).ent = s.ent := rfl
@[simp] theorem State.setPort_cfb {s : State} {p : Nat} {x : CardPort} : (s.setPort p x).cfb = s.cfb := rfl
@[simp] theorem State.setPort_obj {s : State} {p : Nat} {x : CardPort} : (s.setPort p x).obj = s.obj := rfl
@[simp] theorem State.setPort_spr {s : State} {p : Nat} {x : CardPort} : (s.setPort p x).spr = s.spr := rfl
@[simp] theorem State.setPort_hwk {s : State} {p : Nat} {x : CardPort} : (s.setPort p x).hwk = s.hwk := rfl
@[simp] theorem State.setPort_pke {s : State} {p : Nat} {x : CardPort} : (s.setPort p x).pke = s.pke := rfl
@[simp] theorem State.setPort_pay {s : State} {p : Nat} {x : CardPort} : (s.setPort p x).pay = s.pay := rfl
@[simp] theorem State.setPort_lcb {s : State} {p : Nat} {x : CardPort} : (s.setPort p x).lcb = s.lcb := rfl
@[simp] theorem State.setPort_ring {s : State} {p : Nat} {x : CardPort} : (s.setPort p x).ring = s.ring := rfl
@[simp] theorem State.setPort_out {s : State} {p : Nat} {x : CardPort} : (s.setPort p x).out = s.out := rfl
@[simp] theorem State.setPort_item {s : State} {p : Nat} {x : CardPort} {id : Nat} :
    (s.setPort p x).item id = s.item id := rfl
@[simp] theorem State.setPort_reg {s : State} {p : Nat} {x : CardPort} {f o : Nat} :
    (s.setPort p x).reg f o = s.reg f o := rfl
@[simp] theorem State.setPort_qp {s : State} {p : Nat} {x : CardPort} {f q : Nat} :
    (s.setPort p x).qp f q = s.qp f q := rfl
@[simp] theorem State.setPort_vf {s : State} {p : Nat} {x : CardPort} {k : Nat} : (s.setPort p x).vf k = s.vf k := rfl
@[simp] theorem State.setPort_chan {s : State} {p : Nat} {x : CardPort} {k : Nat} :
    (s.setPort p x).chan k = s.chan k := rfl
@[simp] theorem State.setPort_flow {s : State} {p : Nat} {x : CardPort} {k : Nat} :
    (s.setPort p x).flow k = s.flow k := rfl
@[simp] theorem State.setPort_itemList {s : State} {p : Nat} {x : CardPort} :
    (s.setPort p x).itemList = s.itemList := rfl
@[simp] theorem State.setPort_mode {s : State} {p : Nat} {x : CardPort} : (s.setPort p x).mode = s.mode := rfl
@[simp] theorem State.setPort_session {s : State} {p : Nat} {x : CardPort} {k : Nat} :
    (s.setPort p x).session k = s.session k := rfl
@[simp] theorem State.setPort_counter {s : State} {p : Nat} {x : CardPort} {k : Nat} :
    (s.setPort p x).counter k = s.counter k := rfl

/-! ### setMonitor -/

@[simp] theorem State.setMonitor_pending {s : State} {c i : Nat} {m : Monitor} :
    (s.setMonitor c i m).pending = s.pending := rfl
@[simp] theorem State.setMonitor_fresh {s : State} {c i : Nat} {m : Monitor} :
    (s.setMonitor c i m).fresh = s.fresh := rfl
@[simp] theorem State.setMonitor_sys {s : State} {c i : Nat} {m : Monitor} : (s.setMonitor c i m).sys = s.sys := rfl
@[simp] theorem State.setMonitor_plan {s : State} {c i : Nat} {m : Monitor} :
    (s.setMonitor c i m).plan = s.plan := rfl
@[simp] theorem State.setMonitor_sluice {s : State} {c i : Nat} {m : Monitor} :
    (s.setMonitor c i m).sluice = s.sluice := rfl
@[simp] theorem State.setMonitor_regs {s : State} {c i : Nat} {m : Monitor} :
    (s.setMonitor c i m).regs = s.regs := rfl
@[simp] theorem State.setMonitor_host {s : State} {c i : Nat} {m : Monitor} :
    (s.setMonitor c i m).host = s.host := rfl
@[simp] theorem State.setMonitor_qps {s : State} {c i : Nat} {m : Monitor} : (s.setMonitor c i m).qps = s.qps := rfl
@[simp] theorem State.setMonitor_dsp {s : State} {c i : Nat} {m : Monitor} : (s.setMonitor c i m).dsp = s.dsp := rfl
@[simp] theorem State.setMonitor_vault {s : State} {c i : Nat} {m : Monitor} :
    (s.setMonitor c i m).vault = s.vault := rfl
@[simp] theorem State.setMonitor_mem {s : State} {c i : Nat} {m : Monitor} : (s.setMonitor c i m).mem = s.mem := rfl
@[simp] theorem State.setMonitor_ent {s : State} {c i : Nat} {m : Monitor} : (s.setMonitor c i m).ent = s.ent := rfl
@[simp] theorem State.setMonitor_cfb {s : State} {c i : Nat} {m : Monitor} : (s.setMonitor c i m).cfb = s.cfb := rfl
@[simp] theorem State.setMonitor_obj {s : State} {c i : Nat} {m : Monitor} : (s.setMonitor c i m).obj = s.obj := rfl
@[simp] theorem State.setMonitor_spr {s : State} {c i : Nat} {m : Monitor} : (s.setMonitor c i m).spr = s.spr := rfl
@[simp] theorem State.setMonitor_hwk {s : State} {c i : Nat} {m : Monitor} : (s.setMonitor c i m).hwk = s.hwk := rfl
@[simp] theorem State.setMonitor_pke {s : State} {c i : Nat} {m : Monitor} : (s.setMonitor c i m).pke = s.pke := rfl
@[simp] theorem State.setMonitor_pay {s : State} {c i : Nat} {m : Monitor} : (s.setMonitor c i m).pay = s.pay := rfl
@[simp] theorem State.setMonitor_lcb {s : State} {c i : Nat} {m : Monitor} : (s.setMonitor c i m).lcb = s.lcb := rfl
@[simp] theorem State.setMonitor_ctl {s : State} {c i : Nat} {m : Monitor} : (s.setMonitor c i m).ctl = s.ctl := rfl
@[simp] theorem State.setMonitor_ring {s : State} {c i : Nat} {m : Monitor} :
    (s.setMonitor c i m).ring = s.ring := rfl
@[simp] theorem State.setMonitor_out {s : State} {c i : Nat} {m : Monitor} : (s.setMonitor c i m).out = s.out := rfl
@[simp] theorem State.setMonitor_item {s : State} {c i : Nat} {m : Monitor} {id : Nat} :
    (s.setMonitor c i m).item id = s.item id := rfl
@[simp] theorem State.setMonitor_reg {s : State} {c i : Nat} {m : Monitor} {f o : Nat} :
    (s.setMonitor c i m).reg f o = s.reg f o := rfl
@[simp] theorem State.setMonitor_qp {s : State} {c i : Nat} {m : Monitor} {f q : Nat} :
    (s.setMonitor c i m).qp f q = s.qp f q := rfl
@[simp] theorem State.setMonitor_vf {s : State} {c i : Nat} {m : Monitor} {k : Nat} :
    (s.setMonitor c i m).vf k = s.vf k := rfl
@[simp] theorem State.setMonitor_chan {s : State} {c i : Nat} {m : Monitor} {k : Nat} :
    (s.setMonitor c i m).chan k = s.chan k := rfl
@[simp] theorem State.setMonitor_flow {s : State} {c i : Nat} {m : Monitor} {k : Nat} :
    (s.setMonitor c i m).flow k = s.flow k := rfl
@[simp] theorem State.setMonitor_itemList {s : State} {c i : Nat} {m : Monitor} :
    (s.setMonitor c i m).itemList = s.itemList := rfl
@[simp] theorem State.setMonitor_mode {s : State} {c i : Nat} {m : Monitor} :
    (s.setMonitor c i m).mode = s.mode := rfl
@[simp] theorem State.setMonitor_session {s : State} {c i : Nat} {m : Monitor} {k : Nat} :
    (s.setMonitor c i m).session k = s.session k := rfl
@[simp] theorem State.setMonitor_counter {s : State} {c i : Nat} {m : Monitor} {k : Nat} :
    (s.setMonitor c i m).counter k = s.counter k := rfl

/-! ### modifySource -/

@[simp] theorem State.modifySource_pending {s : State} {n : Nat} {f : EntSource → EntSource} :
    (s.modifySource n f).pending = s.pending := rfl
@[simp] theorem State.modifySource_fresh {s : State} {n : Nat} {f : EntSource → EntSource} :
    (s.modifySource n f).fresh = s.fresh := rfl
@[simp] theorem State.modifySource_sys {s : State} {n : Nat} {f : EntSource → EntSource} :
    (s.modifySource n f).sys = s.sys := rfl
@[simp] theorem State.modifySource_plan {s : State} {n : Nat} {f : EntSource → EntSource} :
    (s.modifySource n f).plan = s.plan := rfl
@[simp] theorem State.modifySource_sluice {s : State} {n : Nat} {f : EntSource → EntSource} :
    (s.modifySource n f).sluice = s.sluice := rfl
@[simp] theorem State.modifySource_regs {s : State} {n : Nat} {f : EntSource → EntSource} :
    (s.modifySource n f).regs = s.regs := rfl
@[simp] theorem State.modifySource_host {s : State} {n : Nat} {f : EntSource → EntSource} :
    (s.modifySource n f).host = s.host := rfl
@[simp] theorem State.modifySource_qps {s : State} {n : Nat} {f : EntSource → EntSource} :
    (s.modifySource n f).qps = s.qps := rfl
@[simp] theorem State.modifySource_dsp {s : State} {n : Nat} {f : EntSource → EntSource} :
    (s.modifySource n f).dsp = s.dsp := rfl
@[simp] theorem State.modifySource_vault {s : State} {n : Nat} {f : EntSource → EntSource} :
    (s.modifySource n f).vault = s.vault := rfl
@[simp] theorem State.modifySource_mem {s : State} {n : Nat} {f : EntSource → EntSource} :
    (s.modifySource n f).mem = s.mem := rfl
@[simp] theorem State.modifySource_sen {s : State} {n : Nat} {f : EntSource → EntSource} :
    (s.modifySource n f).sen = s.sen := rfl
@[simp] theorem State.modifySource_cfb {s : State} {n : Nat} {f : EntSource → EntSource} :
    (s.modifySource n f).cfb = s.cfb := rfl
@[simp] theorem State.modifySource_obj {s : State} {n : Nat} {f : EntSource → EntSource} :
    (s.modifySource n f).obj = s.obj := rfl
@[simp] theorem State.modifySource_spr {s : State} {n : Nat} {f : EntSource → EntSource} :
    (s.modifySource n f).spr = s.spr := rfl
@[simp] theorem State.modifySource_hwk {s : State} {n : Nat} {f : EntSource → EntSource} :
    (s.modifySource n f).hwk = s.hwk := rfl
@[simp] theorem State.modifySource_pke {s : State} {n : Nat} {f : EntSource → EntSource} :
    (s.modifySource n f).pke = s.pke := rfl
@[simp] theorem State.modifySource_pay {s : State} {n : Nat} {f : EntSource → EntSource} :
    (s.modifySource n f).pay = s.pay := rfl
@[simp] theorem State.modifySource_lcb {s : State} {n : Nat} {f : EntSource → EntSource} :
    (s.modifySource n f).lcb = s.lcb := rfl
@[simp] theorem State.modifySource_ctl {s : State} {n : Nat} {f : EntSource → EntSource} :
    (s.modifySource n f).ctl = s.ctl := rfl
@[simp] theorem State.modifySource_ring {s : State} {n : Nat} {f : EntSource → EntSource} :
    (s.modifySource n f).ring = s.ring := rfl
@[simp] theorem State.modifySource_out {s : State} {n : Nat} {f : EntSource → EntSource} :
    (s.modifySource n f).out = s.out := rfl
@[simp] theorem State.modifySource_item {s : State} {n : Nat} {f : EntSource → EntSource} {id : Nat} :
    (s.modifySource n f).item id = s.item id := rfl
@[simp] theorem State.modifySource_reg {s : State} {n : Nat} {f : EntSource → EntSource} {f' o : Nat} :
    (s.modifySource n f).reg f' o = s.reg f' o := rfl
@[simp] theorem State.modifySource_qp {s : State} {n : Nat} {f : EntSource → EntSource} {f' q : Nat} :
    (s.modifySource n f).qp f' q = s.qp f' q := rfl
@[simp] theorem State.modifySource_vf {s : State} {n : Nat} {f : EntSource → EntSource} {k : Nat} :
    (s.modifySource n f).vf k = s.vf k := rfl
@[simp] theorem State.modifySource_chan {s : State} {n : Nat} {f : EntSource → EntSource} {k : Nat} :
    (s.modifySource n f).chan k = s.chan k := rfl
@[simp] theorem State.modifySource_flow {s : State} {n : Nat} {f : EntSource → EntSource} {k : Nat} :
    (s.modifySource n f).flow k = s.flow k := rfl
@[simp] theorem State.modifySource_itemList {s : State} {n : Nat} {f : EntSource → EntSource} :
    (s.modifySource n f).itemList = s.itemList := rfl
@[simp] theorem State.modifySource_mode {s : State} {n : Nat} {f : EntSource → EntSource} :
    (s.modifySource n f).mode = s.mode := rfl
@[simp] theorem State.modifySource_session {s : State} {n : Nat} {f : EntSource → EntSource} {k : Nat} :
    (s.modifySource n f).session k = s.session k := rfl
@[simp] theorem State.modifySource_counter {s : State} {n : Nat} {f : EntSource → EntSource} {k : Nat} :
    (s.modifySource n f).counter k = s.counter k := rfl

/-! ### setTenantDrbg -/

@[simp] theorem State.setTenantDrbg_pending {s : State} {t : Byte} {d : TenantDrbg} :
    (s.setTenantDrbg t d).pending = s.pending := rfl
@[simp] theorem State.setTenantDrbg_fresh {s : State} {t : Byte} {d : TenantDrbg} :
    (s.setTenantDrbg t d).fresh = s.fresh := rfl
@[simp] theorem State.setTenantDrbg_sys {s : State} {t : Byte} {d : TenantDrbg} :
    (s.setTenantDrbg t d).sys = s.sys := rfl
@[simp] theorem State.setTenantDrbg_plan {s : State} {t : Byte} {d : TenantDrbg} :
    (s.setTenantDrbg t d).plan = s.plan := rfl
@[simp] theorem State.setTenantDrbg_sluice {s : State} {t : Byte} {d : TenantDrbg} :
    (s.setTenantDrbg t d).sluice = s.sluice := rfl
@[simp] theorem State.setTenantDrbg_regs {s : State} {t : Byte} {d : TenantDrbg} :
    (s.setTenantDrbg t d).regs = s.regs := rfl
@[simp] theorem State.setTenantDrbg_host {s : State} {t : Byte} {d : TenantDrbg} :
    (s.setTenantDrbg t d).host = s.host := rfl
@[simp] theorem State.setTenantDrbg_qps {s : State} {t : Byte} {d : TenantDrbg} :
    (s.setTenantDrbg t d).qps = s.qps := rfl
@[simp] theorem State.setTenantDrbg_dsp {s : State} {t : Byte} {d : TenantDrbg} :
    (s.setTenantDrbg t d).dsp = s.dsp := rfl
@[simp] theorem State.setTenantDrbg_vault {s : State} {t : Byte} {d : TenantDrbg} :
    (s.setTenantDrbg t d).vault = s.vault := rfl
@[simp] theorem State.setTenantDrbg_mem {s : State} {t : Byte} {d : TenantDrbg} :
    (s.setTenantDrbg t d).mem = s.mem := rfl
@[simp] theorem State.setTenantDrbg_sen {s : State} {t : Byte} {d : TenantDrbg} :
    (s.setTenantDrbg t d).sen = s.sen := rfl
@[simp] theorem State.setTenantDrbg_cfb {s : State} {t : Byte} {d : TenantDrbg} :
    (s.setTenantDrbg t d).cfb = s.cfb := rfl
@[simp] theorem State.setTenantDrbg_obj {s : State} {t : Byte} {d : TenantDrbg} :
    (s.setTenantDrbg t d).obj = s.obj := rfl
@[simp] theorem State.setTenantDrbg_spr {s : State} {t : Byte} {d : TenantDrbg} :
    (s.setTenantDrbg t d).spr = s.spr := rfl
@[simp] theorem State.setTenantDrbg_hwk {s : State} {t : Byte} {d : TenantDrbg} :
    (s.setTenantDrbg t d).hwk = s.hwk := rfl
@[simp] theorem State.setTenantDrbg_pke {s : State} {t : Byte} {d : TenantDrbg} :
    (s.setTenantDrbg t d).pke = s.pke := rfl
@[simp] theorem State.setTenantDrbg_pay {s : State} {t : Byte} {d : TenantDrbg} :
    (s.setTenantDrbg t d).pay = s.pay := rfl
@[simp] theorem State.setTenantDrbg_lcb {s : State} {t : Byte} {d : TenantDrbg} :
    (s.setTenantDrbg t d).lcb = s.lcb := rfl
@[simp] theorem State.setTenantDrbg_ctl {s : State} {t : Byte} {d : TenantDrbg} :
    (s.setTenantDrbg t d).ctl = s.ctl := rfl
@[simp] theorem State.setTenantDrbg_ring {s : State} {t : Byte} {d : TenantDrbg} :
    (s.setTenantDrbg t d).ring = s.ring := rfl
@[simp] theorem State.setTenantDrbg_out {s : State} {t : Byte} {d : TenantDrbg} :
    (s.setTenantDrbg t d).out = s.out := rfl
@[simp] theorem State.setTenantDrbg_item {s : State} {t : Byte} {d : TenantDrbg} {id : Nat} :
    (s.setTenantDrbg t d).item id = s.item id := rfl
@[simp] theorem State.setTenantDrbg_reg {s : State} {t : Byte} {d : TenantDrbg} {f o : Nat} :
    (s.setTenantDrbg t d).reg f o = s.reg f o := rfl
@[simp] theorem State.setTenantDrbg_qp {s : State} {t : Byte} {d : TenantDrbg} {f q : Nat} :
    (s.setTenantDrbg t d).qp f q = s.qp f q := rfl
@[simp] theorem State.setTenantDrbg_vf {s : State} {t : Byte} {d : TenantDrbg} {k : Nat} :
    (s.setTenantDrbg t d).vf k = s.vf k := rfl
@[simp] theorem State.setTenantDrbg_chan {s : State} {t : Byte} {d : TenantDrbg} {k : Nat} :
    (s.setTenantDrbg t d).chan k = s.chan k := rfl
@[simp] theorem State.setTenantDrbg_flow {s : State} {t : Byte} {d : TenantDrbg} {k : Nat} :
    (s.setTenantDrbg t d).flow k = s.flow k := rfl
@[simp] theorem State.setTenantDrbg_itemList {s : State} {t : Byte} {d : TenantDrbg} :
    (s.setTenantDrbg t d).itemList = s.itemList := rfl
@[simp] theorem State.setTenantDrbg_mode {s : State} {t : Byte} {d : TenantDrbg} :
    (s.setTenantDrbg t d).mode = s.mode := rfl
@[simp] theorem State.setTenantDrbg_session {s : State} {t : Byte} {d : TenantDrbg} {k : Nat} :
    (s.setTenantDrbg t d).session k = s.session k := rfl
@[simp] theorem State.setTenantDrbg_counter {s : State} {t : Byte} {d : TenantDrbg} {k : Nat} :
    (s.setTenantDrbg t d).counter k = s.counter k := rfl

/-! ### modifyEngine -/

@[simp] theorem State.modifyEngine_pending {s : State} {e : Nat} {f : PkEngine → PkEngine} :
    (s.modifyEngine e f).pending = s.pending := rfl
@[simp] theorem State.modifyEngine_fresh {s : State} {e : Nat} {f : PkEngine → PkEngine} :
    (s.modifyEngine e f).fresh = s.fresh := rfl
@[simp] theorem State.modifyEngine_sys {s : State} {e : Nat} {f : PkEngine → PkEngine} :
    (s.modifyEngine e f).sys = s.sys := rfl
@[simp] theorem State.modifyEngine_plan {s : State} {e : Nat} {f : PkEngine → PkEngine} :
    (s.modifyEngine e f).plan = s.plan := rfl
@[simp] theorem State.modifyEngine_sluice {s : State} {e : Nat} {f : PkEngine → PkEngine} :
    (s.modifyEngine e f).sluice = s.sluice := rfl
@[simp] theorem State.modifyEngine_regs {s : State} {e : Nat} {f : PkEngine → PkEngine} :
    (s.modifyEngine e f).regs = s.regs := rfl
@[simp] theorem State.modifyEngine_host {s : State} {e : Nat} {f : PkEngine → PkEngine} :
    (s.modifyEngine e f).host = s.host := rfl
@[simp] theorem State.modifyEngine_qps {s : State} {e : Nat} {f : PkEngine → PkEngine} :
    (s.modifyEngine e f).qps = s.qps := rfl
@[simp] theorem State.modifyEngine_dsp {s : State} {e : Nat} {f : PkEngine → PkEngine} :
    (s.modifyEngine e f).dsp = s.dsp := rfl
@[simp] theorem State.modifyEngine_vault {s : State} {e : Nat} {f : PkEngine → PkEngine} :
    (s.modifyEngine e f).vault = s.vault := rfl
@[simp] theorem State.modifyEngine_mem {s : State} {e : Nat} {f : PkEngine → PkEngine} :
    (s.modifyEngine e f).mem = s.mem := rfl
@[simp] theorem State.modifyEngine_sen {s : State} {e : Nat} {f : PkEngine → PkEngine} :
    (s.modifyEngine e f).sen = s.sen := rfl
@[simp] theorem State.modifyEngine_ent {s : State} {e : Nat} {f : PkEngine → PkEngine} :
    (s.modifyEngine e f).ent = s.ent := rfl
@[simp] theorem State.modifyEngine_cfb {s : State} {e : Nat} {f : PkEngine → PkEngine} :
    (s.modifyEngine e f).cfb = s.cfb := rfl
@[simp] theorem State.modifyEngine_obj {s : State} {e : Nat} {f : PkEngine → PkEngine} :
    (s.modifyEngine e f).obj = s.obj := rfl
@[simp] theorem State.modifyEngine_spr {s : State} {e : Nat} {f : PkEngine → PkEngine} :
    (s.modifyEngine e f).spr = s.spr := rfl
@[simp] theorem State.modifyEngine_hwk {s : State} {e : Nat} {f : PkEngine → PkEngine} :
    (s.modifyEngine e f).hwk = s.hwk := rfl
@[simp] theorem State.modifyEngine_pay {s : State} {e : Nat} {f : PkEngine → PkEngine} :
    (s.modifyEngine e f).pay = s.pay := rfl
@[simp] theorem State.modifyEngine_lcb {s : State} {e : Nat} {f : PkEngine → PkEngine} :
    (s.modifyEngine e f).lcb = s.lcb := rfl
@[simp] theorem State.modifyEngine_ctl {s : State} {e : Nat} {f : PkEngine → PkEngine} :
    (s.modifyEngine e f).ctl = s.ctl := rfl
@[simp] theorem State.modifyEngine_ring {s : State} {e : Nat} {f : PkEngine → PkEngine} :
    (s.modifyEngine e f).ring = s.ring := rfl
@[simp] theorem State.modifyEngine_out {s : State} {e : Nat} {f : PkEngine → PkEngine} :
    (s.modifyEngine e f).out = s.out := rfl
@[simp] theorem State.modifyEngine_item {s : State} {e : Nat} {f : PkEngine → PkEngine} {id : Nat} :
    (s.modifyEngine e f).item id = s.item id := rfl
@[simp] theorem State.modifyEngine_reg {s : State} {e : Nat} {f : PkEngine → PkEngine} {f' o : Nat} :
    (s.modifyEngine e f).reg f' o = s.reg f' o := rfl
@[simp] theorem State.modifyEngine_qp {s : State} {e : Nat} {f : PkEngine → PkEngine} {f' q : Nat} :
    (s.modifyEngine e f).qp f' q = s.qp f' q := rfl
@[simp] theorem State.modifyEngine_vf {s : State} {e : Nat} {f : PkEngine → PkEngine} {k : Nat} :
    (s.modifyEngine e f).vf k = s.vf k := rfl
@[simp] theorem State.modifyEngine_chan {s : State} {e : Nat} {f : PkEngine → PkEngine} {k : Nat} :
    (s.modifyEngine e f).chan k = s.chan k := rfl
@[simp] theorem State.modifyEngine_flow {s : State} {e : Nat} {f : PkEngine → PkEngine} {k : Nat} :
    (s.modifyEngine e f).flow k = s.flow k := rfl
@[simp] theorem State.modifyEngine_itemList {s : State} {e : Nat} {f : PkEngine → PkEngine} :
    (s.modifyEngine e f).itemList = s.itemList := rfl
@[simp] theorem State.modifyEngine_session {s : State} {e : Nat} {f : PkEngine → PkEngine} {k : Nat} :
    (s.modifyEngine e f).session k = s.session k := rfl
@[simp] theorem State.modifyEngine_counter {s : State} {e : Nat} {f : PkEngine → PkEngine} {k : Nat} :
    (s.modifyEngine e f).counter k = s.counter k := rfl

/-! ### setWork -/

@[simp] theorem State.setWork_pending {s : State} {w : PkWork} : (s.setWork w).pending = s.pending := rfl
@[simp] theorem State.setWork_fresh {s : State} {w : PkWork} : (s.setWork w).fresh = s.fresh := rfl
@[simp] theorem State.setWork_sys {s : State} {w : PkWork} : (s.setWork w).sys = s.sys := rfl
@[simp] theorem State.setWork_plan {s : State} {w : PkWork} : (s.setWork w).plan = s.plan := rfl
@[simp] theorem State.setWork_sluice {s : State} {w : PkWork} : (s.setWork w).sluice = s.sluice := rfl
@[simp] theorem State.setWork_regs {s : State} {w : PkWork} : (s.setWork w).regs = s.regs := rfl
@[simp] theorem State.setWork_host {s : State} {w : PkWork} : (s.setWork w).host = s.host := rfl
@[simp] theorem State.setWork_qps {s : State} {w : PkWork} : (s.setWork w).qps = s.qps := rfl
@[simp] theorem State.setWork_dsp {s : State} {w : PkWork} : (s.setWork w).dsp = s.dsp := rfl
@[simp] theorem State.setWork_vault {s : State} {w : PkWork} : (s.setWork w).vault = s.vault := rfl
@[simp] theorem State.setWork_mem {s : State} {w : PkWork} : (s.setWork w).mem = s.mem := rfl
@[simp] theorem State.setWork_sen {s : State} {w : PkWork} : (s.setWork w).sen = s.sen := rfl
@[simp] theorem State.setWork_ent {s : State} {w : PkWork} : (s.setWork w).ent = s.ent := rfl
@[simp] theorem State.setWork_cfb {s : State} {w : PkWork} : (s.setWork w).cfb = s.cfb := rfl
@[simp] theorem State.setWork_obj {s : State} {w : PkWork} : (s.setWork w).obj = s.obj := rfl
@[simp] theorem State.setWork_spr {s : State} {w : PkWork} : (s.setWork w).spr = s.spr := rfl
@[simp] theorem State.setWork_hwk {s : State} {w : PkWork} : (s.setWork w).hwk = s.hwk := rfl
@[simp] theorem State.setWork_pay {s : State} {w : PkWork} : (s.setWork w).pay = s.pay := rfl
@[simp] theorem State.setWork_lcb {s : State} {w : PkWork} : (s.setWork w).lcb = s.lcb := rfl
@[simp] theorem State.setWork_ctl {s : State} {w : PkWork} : (s.setWork w).ctl = s.ctl := rfl
@[simp] theorem State.setWork_ring {s : State} {w : PkWork} : (s.setWork w).ring = s.ring := rfl
@[simp] theorem State.setWork_out {s : State} {w : PkWork} : (s.setWork w).out = s.out := rfl
@[simp] theorem State.setWork_item {s : State} {w : PkWork} {id : Nat} : (s.setWork w).item id = s.item id := rfl
@[simp] theorem State.setWork_reg {s : State} {w : PkWork} {f o : Nat} : (s.setWork w).reg f o = s.reg f o := rfl
@[simp] theorem State.setWork_qp {s : State} {w : PkWork} {f q : Nat} : (s.setWork w).qp f q = s.qp f q := rfl
@[simp] theorem State.setWork_vf {s : State} {w : PkWork} {k : Nat} : (s.setWork w).vf k = s.vf k := rfl
@[simp] theorem State.setWork_chan {s : State} {w : PkWork} {k : Nat} : (s.setWork w).chan k = s.chan k := rfl
@[simp] theorem State.setWork_flow {s : State} {w : PkWork} {k : Nat} : (s.setWork w).flow k = s.flow k := rfl
@[simp] theorem State.setWork_itemList {s : State} {w : PkWork} : (s.setWork w).itemList = s.itemList := rfl
@[simp] theorem State.setWork_mode {s : State} {w : PkWork} : (s.setWork w).mode = s.mode := rfl
@[simp] theorem State.setWork_session {s : State} {w : PkWork} {k : Nat} :
    (s.setWork w).session k = s.session k := rfl
@[simp] theorem State.setWork_counter {s : State} {w : PkWork} {k : Nat} :
    (s.setWork w).counter k = s.counter k := rfl

/-! ### writeSlot -/

@[simp] theorem State.writeSlot_pending {s : State} {n : Nat} {x : LcSlot} :
    (s.writeSlot n x).pending = s.pending := rfl
@[simp] theorem State.writeSlot_fresh {s : State} {n : Nat} {x : LcSlot} : (s.writeSlot n x).fresh = s.fresh := rfl
@[simp] theorem State.writeSlot_sys {s : State} {n : Nat} {x : LcSlot} : (s.writeSlot n x).sys = s.sys := rfl
@[simp] theorem State.writeSlot_plan {s : State} {n : Nat} {x : LcSlot} : (s.writeSlot n x).plan = s.plan := rfl
@[simp] theorem State.writeSlot_sluice {s : State} {n : Nat} {x : LcSlot} : (s.writeSlot n x).sluice = s.sluice := rfl
@[simp] theorem State.writeSlot_regs {s : State} {n : Nat} {x : LcSlot} : (s.writeSlot n x).regs = s.regs := rfl
@[simp] theorem State.writeSlot_host {s : State} {n : Nat} {x : LcSlot} : (s.writeSlot n x).host = s.host := rfl
@[simp] theorem State.writeSlot_qps {s : State} {n : Nat} {x : LcSlot} : (s.writeSlot n x).qps = s.qps := rfl
@[simp] theorem State.writeSlot_dsp {s : State} {n : Nat} {x : LcSlot} : (s.writeSlot n x).dsp = s.dsp := rfl
@[simp] theorem State.writeSlot_vault {s : State} {n : Nat} {x : LcSlot} : (s.writeSlot n x).vault = s.vault := rfl
@[simp] theorem State.writeSlot_mem {s : State} {n : Nat} {x : LcSlot} : (s.writeSlot n x).mem = s.mem := rfl
@[simp] theorem State.writeSlot_sen {s : State} {n : Nat} {x : LcSlot} : (s.writeSlot n x).sen = s.sen := rfl
@[simp] theorem State.writeSlot_ent {s : State} {n : Nat} {x : LcSlot} : (s.writeSlot n x).ent = s.ent := rfl
@[simp] theorem State.writeSlot_cfb {s : State} {n : Nat} {x : LcSlot} : (s.writeSlot n x).cfb = s.cfb := rfl
@[simp] theorem State.writeSlot_obj {s : State} {n : Nat} {x : LcSlot} : (s.writeSlot n x).obj = s.obj := rfl
@[simp] theorem State.writeSlot_spr {s : State} {n : Nat} {x : LcSlot} : (s.writeSlot n x).spr = s.spr := rfl
@[simp] theorem State.writeSlot_hwk {s : State} {n : Nat} {x : LcSlot} : (s.writeSlot n x).hwk = s.hwk := rfl
@[simp] theorem State.writeSlot_pke {s : State} {n : Nat} {x : LcSlot} : (s.writeSlot n x).pke = s.pke := rfl
@[simp] theorem State.writeSlot_pay {s : State} {n : Nat} {x : LcSlot} : (s.writeSlot n x).pay = s.pay := rfl
@[simp] theorem State.writeSlot_ctl {s : State} {n : Nat} {x : LcSlot} : (s.writeSlot n x).ctl = s.ctl := rfl
@[simp] theorem State.writeSlot_ring {s : State} {n : Nat} {x : LcSlot} : (s.writeSlot n x).ring = s.ring := rfl
@[simp] theorem State.writeSlot_out {s : State} {n : Nat} {x : LcSlot} : (s.writeSlot n x).out = s.out := rfl
@[simp] theorem State.writeSlot_item {s : State} {n : Nat} {x : LcSlot} {id : Nat} :
    (s.writeSlot n x).item id = s.item id := rfl
@[simp] theorem State.writeSlot_reg {s : State} {n : Nat} {x : LcSlot} {f o : Nat} :
    (s.writeSlot n x).reg f o = s.reg f o := rfl
@[simp] theorem State.writeSlot_qp {s : State} {n : Nat} {x : LcSlot} {f q : Nat} :
    (s.writeSlot n x).qp f q = s.qp f q := rfl
@[simp] theorem State.writeSlot_vf {s : State} {n : Nat} {x : LcSlot} {k : Nat} :
    (s.writeSlot n x).vf k = s.vf k := rfl
@[simp] theorem State.writeSlot_chan {s : State} {n : Nat} {x : LcSlot} {k : Nat} :
    (s.writeSlot n x).chan k = s.chan k := rfl
@[simp] theorem State.writeSlot_flow {s : State} {n : Nat} {x : LcSlot} {k : Nat} :
    (s.writeSlot n x).flow k = s.flow k := rfl
@[simp] theorem State.writeSlot_itemList {s : State} {n : Nat} {x : LcSlot} :
    (s.writeSlot n x).itemList = s.itemList := rfl
@[simp] theorem State.writeSlot_mode {s : State} {n : Nat} {x : LcSlot} : (s.writeSlot n x).mode = s.mode := rfl
@[simp] theorem State.writeSlot_session {s : State} {n : Nat} {x : LcSlot} {k : Nat} :
    (s.writeSlot n x).session k = s.session k := rfl
@[simp] theorem State.writeSlot_counter {s : State} {n : Nat} {x : LcSlot} {k : Nat} :
    (s.writeSlot n x).counter k = s.counter k := rfl

/-! ### modifyGen -/

@[simp] theorem State.modifyGen_pending {s : State} {u p : Nat} {g : MaskGen → MaskGen} :
    (s.modifyGen u p g).pending = s.pending := rfl
@[simp] theorem State.modifyGen_fresh {s : State} {u p : Nat} {g : MaskGen → MaskGen} :
    (s.modifyGen u p g).fresh = s.fresh := rfl
@[simp] theorem State.modifyGen_sys {s : State} {u p : Nat} {g : MaskGen → MaskGen} :
    (s.modifyGen u p g).sys = s.sys := rfl
@[simp] theorem State.modifyGen_plan {s : State} {u p : Nat} {g : MaskGen → MaskGen} :
    (s.modifyGen u p g).plan = s.plan := rfl
@[simp] theorem State.modifyGen_sluice {s : State} {u p : Nat} {g : MaskGen → MaskGen} :
    (s.modifyGen u p g).sluice = s.sluice := rfl
@[simp] theorem State.modifyGen_regs {s : State} {u p : Nat} {g : MaskGen → MaskGen} :
    (s.modifyGen u p g).regs = s.regs := rfl
@[simp] theorem State.modifyGen_host {s : State} {u p : Nat} {g : MaskGen → MaskGen} :
    (s.modifyGen u p g).host = s.host := rfl
@[simp] theorem State.modifyGen_qps {s : State} {u p : Nat} {g : MaskGen → MaskGen} :
    (s.modifyGen u p g).qps = s.qps := rfl
@[simp] theorem State.modifyGen_dsp {s : State} {u p : Nat} {g : MaskGen → MaskGen} :
    (s.modifyGen u p g).dsp = s.dsp := rfl
@[simp] theorem State.modifyGen_vault {s : State} {u p : Nat} {g : MaskGen → MaskGen} :
    (s.modifyGen u p g).vault = s.vault := rfl
@[simp] theorem State.modifyGen_mem {s : State} {u p : Nat} {g : MaskGen → MaskGen} :
    (s.modifyGen u p g).mem = s.mem := rfl
@[simp] theorem State.modifyGen_sen {s : State} {u p : Nat} {g : MaskGen → MaskGen} :
    (s.modifyGen u p g).sen = s.sen := rfl
@[simp] theorem State.modifyGen_ent {s : State} {u p : Nat} {g : MaskGen → MaskGen} :
    (s.modifyGen u p g).ent = s.ent := rfl
@[simp] theorem State.modifyGen_obj {s : State} {u p : Nat} {g : MaskGen → MaskGen} :
    (s.modifyGen u p g).obj = s.obj := rfl
@[simp] theorem State.modifyGen_spr {s : State} {u p : Nat} {g : MaskGen → MaskGen} :
    (s.modifyGen u p g).spr = s.spr := rfl
@[simp] theorem State.modifyGen_hwk {s : State} {u p : Nat} {g : MaskGen → MaskGen} :
    (s.modifyGen u p g).hwk = s.hwk := rfl
@[simp] theorem State.modifyGen_pke {s : State} {u p : Nat} {g : MaskGen → MaskGen} :
    (s.modifyGen u p g).pke = s.pke := rfl
@[simp] theorem State.modifyGen_pay {s : State} {u p : Nat} {g : MaskGen → MaskGen} :
    (s.modifyGen u p g).pay = s.pay := rfl
@[simp] theorem State.modifyGen_lcb {s : State} {u p : Nat} {g : MaskGen → MaskGen} :
    (s.modifyGen u p g).lcb = s.lcb := rfl
@[simp] theorem State.modifyGen_ctl {s : State} {u p : Nat} {g : MaskGen → MaskGen} :
    (s.modifyGen u p g).ctl = s.ctl := rfl
@[simp] theorem State.modifyGen_ring {s : State} {u p : Nat} {g : MaskGen → MaskGen} :
    (s.modifyGen u p g).ring = s.ring := rfl
@[simp] theorem State.modifyGen_out {s : State} {u p : Nat} {g : MaskGen → MaskGen} :
    (s.modifyGen u p g).out = s.out := rfl
@[simp] theorem State.modifyGen_item {s : State} {u p : Nat} {g : MaskGen → MaskGen} {id : Nat} :
    (s.modifyGen u p g).item id = s.item id := rfl
@[simp] theorem State.modifyGen_reg {s : State} {u p : Nat} {g : MaskGen → MaskGen} {f o : Nat} :
    (s.modifyGen u p g).reg f o = s.reg f o := rfl
@[simp] theorem State.modifyGen_qp {s : State} {u p : Nat} {g : MaskGen → MaskGen} {f q : Nat} :
    (s.modifyGen u p g).qp f q = s.qp f q := rfl
@[simp] theorem State.modifyGen_vf {s : State} {u p : Nat} {g : MaskGen → MaskGen} {k : Nat} :
    (s.modifyGen u p g).vf k = s.vf k := rfl
@[simp] theorem State.modifyGen_chan {s : State} {u p : Nat} {g : MaskGen → MaskGen} {k : Nat} :
    (s.modifyGen u p g).chan k = s.chan k := rfl
@[simp] theorem State.modifyGen_flow {s : State} {u p : Nat} {g : MaskGen → MaskGen} {k : Nat} :
    (s.modifyGen u p g).flow k = s.flow k := rfl
@[simp] theorem State.modifyGen_itemList {s : State} {u p : Nat} {g : MaskGen → MaskGen} :
    (s.modifyGen u p g).itemList = s.itemList := rfl
@[simp] theorem State.modifyGen_mode {s : State} {u p : Nat} {g : MaskGen → MaskGen} :
    (s.modifyGen u p g).mode = s.mode := rfl
@[simp] theorem State.modifyGen_session {s : State} {u p : Nat} {g : MaskGen → MaskGen} {k : Nat} :
    (s.modifyGen u p g).session k = s.session k := rfl
@[simp] theorem State.modifyGen_counter {s : State} {u p : Nat} {g : MaskGen → MaskGen} {k : Nat} :
    (s.modifyGen u p g).counter k = s.counter k := rfl

end Sys2Proof.Machine
end

