-- ==== Sys2Proof/Laws/Tables.lean ====
section
/-! SUPPORT. Sparse tables: an entry reads as it was written, and no other entry changes. -/

namespace Sys2Proof.Machine

@[simp] theorem tabGet_nil {α : Type} {k : Nat} : tabGet ([] : Tab α) k = none := rfl

@[simp] theorem tabGet_tabSet_self {α : Type} {k : Nat} {v : α} : ∀ {t : Tab α}, tabGet (tabSet t k v) k = some v
  | [] => by simp [tabSet, tabGet]
  | (k', v') :: r => by
    unfold tabSet
    split
    · simp [tabGet]
    · split
      · simp [tabGet]
      · rw [tabGet, if_neg (by omega), tabGet_tabSet_self]

theorem tabGet_tabSet_ne {α : Type} {k k' : Nat} {v : α} (h : k' ≠ k) :
    ∀ {t : Tab α}, tabGet (tabSet t k v) k' = tabGet t k'
  | [] => by simp [tabSet, tabGet, Ne.symm h]
  | (j, w) :: r => by
    unfold tabSet
    split
    · simp [tabGet, Ne.symm h]
    · split
      · subst_vars
        simp [tabGet, Ne.symm h]
      · simp only [tabGet]
        split
        · rfl
        · exact tabGet_tabSet_ne h

@[simp] theorem tabGetD_tabSet_self {α : Type} {k : Nat} {v d : α} {t : Tab α} : tabGetD (tabSet t k v) k d = v := by
  simp [tabGetD]

theorem tabGetD_tabSet_ne {α : Type} {k k' : Nat} {v d : α} {t : Tab α} (h : k' ≠ k) :
    tabGetD (tabSet t k v) k' d = tabGetD t k' d := by
  simp [tabGetD, tabGet_tabSet_ne h]

/-- An entry of a table whose entries have all been changed alike. -/
theorem tabGet_map {α : Type} {f : Nat × α → Nat × α} (hf : ∀ p, (f p).1 = p.1) {k : Nat} :
    ∀ {t : Tab α}, tabGet (t.map f) k = (tabGet t k).map fun v => (f (k, v)).2
  | [] => rfl
  | (j, w) :: r => by
    have h : (f (j, w)).1 = j := hf (j, w)
    rw [List.map_cons, show f (j, w) = ((f (j, w)).1, (f (j, w)).2) from rfl, h, tabGet, tabGet]
    split
    · subst_vars; rfl
    · exact tabGet_map hf

end Sys2Proof.Machine
end

