-- ==== Sys2Proof/Laws/Items.lean ====
section
/-! SUPPORT. Items: what ending, yielding or waking an item leaves as it was, and what it leaves behind. -/

namespace Sys2Proof.Machine

/-! ## The frame of an item's end -/

theorem ItemFrame.refl {s : State} : ItemFrame s s := by constructor <;> rfl

theorem ItemFrame.trans {s t u : State} (h : ItemFrame s t) (k : ItemFrame t u) : ItemFrame s u := by
  constructor
  all_goals first
    | exact k.pending.trans h.pending | exact k.fresh.trans h.fresh | exact k.sys.trans h.sys
    | exact k.plan.trans h.plan | exact k.regs.trans h.regs | exact k.qps.trans h.qps | exact k.sen.trans h.sen
    | exact k.ent.trans h.ent | exact k.cfb.trans h.cfb | exact k.hwk.trans h.hwk | exact k.lcb.trans h.lcb
    | exact k.ctl.trans h.ctl | exact k.ring.trans h.ring | exact k.flows.trans h.flows
    | exact k.nextItem.trans h.nextItem | exact k.consumed.trans h.consumed | exact k.dspHalted.trans h.dspHalted
    | exact k.vault.trans h.vault | exact k.mem.trans h.mem | exact k.host.trans h.host
    | exact k.seals.trans h.seals | exact k.opens.trans h.opens | exact k.repairs.trans h.repairs
    | exact k.units.trans h.units | exact k.activeB.trans h.activeB | exact k.swaps.trans h.swaps
    | exact k.pke.trans h.pke

/-- Mode and registers depend on parts that the frame keeps. -/
theorem ItemFrame.reg {s t : State} (h : ItemFrame s t) (fn off : Nat) : t.reg fn off = s.reg fn off := by
  unfold State.reg; rw [h.regs]

theorem ItemFrame.session {s t : State} (h : ItemFrame s t) (i : Nat) : t.session i = s.session i := by
  have hv := congrArg VaultState.sessions h.vault
  unfold State.session
  simp only at hv
  rw [hv]

theorem ItemFrame.cells {s t : State} (h : ItemFrame s t) : t.mem.cells = s.mem.cells := by
  have hm := congrArg MemState.cells h.mem
  exact hm

theorem ItemFrame.qp {s t : State} (h : ItemFrame s t) (fn q : Nat) : t.qp fn q = s.qp fn q := by
  unfold State.qp; rw [h.qps]

theorem ItemFrame.chan {s t : State} (h : ItemFrame s t) (c : Nat) : t.chan c = s.chan c := by
  unfold State.chan; rw [h.hwk]

theorem hostWrite_frame {s : State} {fn iova : Nat} {bytes : List Byte} : ItemFrame s (s.hostWrite fn iova bytes) := by
  unfold State.hostWrite
  extract_lets t v
  split
  · constructor <;> rfl
  · split <;> constructor <;> rfl

theorem sendVector_frame {s : State} {fn v : Nat} : ItemFrame s (s.sendVector fn v) := by
  unfold State.sendVector
  split
  · exact ItemFrame.refl
  · split
    · split <;> constructor <;> rfl
    · extract_lets x
      split <;> constructor <;> rfl

theorem pushTrace_frame {s : State} {n : Nat} {rec : List Byte} : ItemFrame s (s.pushTrace n rec) := by
  unfold State.pushTrace
  extract_lets
  split
  · constructor <;> rfl
  · refine ItemFrame.trans ?_ hostWrite_frame
    constructor <;> rfl

theorem trace_frame {s : State} {event detail : Nat} {it : Item} {st : Status} :
    ItemFrame s (s.trace event detail it st) := by
  unfold State.trace
  extract_lets core t
  have ht : ItemFrame s t := by
    unfold t
    split
    · exact pushTrace_frame
    · exact ItemFrame.refl
  clear_value t
  split
  · exact ht.trans pushTrace_frame
  · exact ht

theorem freeCore_frame {s : State} {it : Item} : ItemFrame s (s.freeCore it) := by
  unfold State.freeCore
  split <;> constructor <;> rfl

theorem setItem_frame {s : State} {it : Item} : ItemFrame s (s.setItem it) := by constructor <;> rfl

theorem unlist_frame {s : State} {id : Nat} : ItemFrame s (s.unlist id) := by constructor <;> rfl

theorem wakeLacking_frame {s : State} {ks : List ClaimKind} : ItemFrame s (s.wakeLacking ks) := by constructor <;> rfl

theorem writeInactive_frame {s : State} {t : List (BitVec 16)} : ItemFrame s (s.writeInactive t) := by
  unfold State.writeInactive
  constructor
  all_goals first | rfl | (dsimp only; split <;> rfl)

theorem amendWake_frame {s : State} : ItemFrame s s.amendWake := by
  unfold State.amendWake
  split
  · exact ItemFrame.refl
  · split
    · exact ItemFrame.refl
    · extract_lets t
      have ht : ItemFrame s t := writeInactive_frame
      clear_value t
      refine ht.trans ?_
      constructor <;> rfl

theorem releaseClaim_frame {s : State} {it : Item} : ItemFrame s (s.releaseClaim it) := by
  unfold State.releaseClaim
  extract_lets src t1 mem t2 pke t3 t4
  have h1 : ItemFrame s t1 := by constructor <;> rfl
  clear_value t1
  have h2 : ItemFrame t1 t2 := by
    unfold t2
    split
    · constructor <;> rfl
    · exact ItemFrame.refl
  clear_value t2
  have h3 : ItemFrame t2 t3 := by
    unfold t3
    split
    · extract_lets u
      split <;> constructor <;> rfl
    · exact ItemFrame.refl
  clear_value t3
  exact (h1.trans h2).trans (h3.trans (setItem_frame.trans (wakeLacking_frame.trans amendWake_frame)))

theorem noteEnd_frame {s : State} {it : Item} {o : Outcome} : ItemFrame s (s.noteEnd it o) := by
  unfold State.noteEnd
  extract_lets ok pay nas obj spr t p0 p1 p2
  have ht : ItemFrame s t := by
    unfold t
    (repeat' split) <;> constructor <;> rfl
  clear_value t
  refine ht.trans ?_
  constructor <;> rfl

/-- An item's end changes no other part of the state. -/
theorem finish_frame {s : State} {id : Nat} {o : Outcome} : ItemFrame s (s.finish id o) := by
  unfold State.finish
  split
  · exact ItemFrame.refl
  · split
    · exact ItemFrame.refl
    · exact noteEnd_frame.trans (freeCore_frame.trans (unlist_frame.trans (releaseClaim_frame.trans
        (setItem_frame.trans trace_frame))))

theorem complete_frame {s : State} {id : Nat} {st : Status} {body : List Byte} : ItemFrame s (s.complete id st body) :=
  finish_frame

theorem failItem_frame {s : State} {id : Nat} {st : Status} : ItemFrame s (s.failItem id st) := finish_frame

theorem reject_frame {s : State} {id : Nat} {st : Status} {off : Nat} : ItemFrame s (s.reject id st off) := finish_frame

theorem yieldItem_frame {s : State} {id : Nat} {why : WaitFor} : ItemFrame s (s.yieldItem id why) := by
  unfold State.yieldItem
  split
  · exact ItemFrame.refl
  · exact freeCore_frame.trans (setItem_frame.trans trace_frame)

theorem endWait_frame {s : State} {id : Nat} : ItemFrame s (s.endWait id) := by
  unfold State.endWait
  split
  · exact ItemFrame.refl
  · split
    · constructor <;> rfl
    · exact ItemFrame.refl

theorem endWaitWith_frame {s : State} {id : Nat} {o : Outcome} : ItemFrame s (s.endWaitWith id o) := by
  unfold State.endWaitWith
  split
  · exact ItemFrame.refl
  · split
    · constructor <;> rfl
    · exact finish_frame

theorem writeOut_frame {s : State} {id iova : Nat} {bytes : List Byte} : ItemFrame s (s.writeOut id iova bytes) := by
  unfold State.writeOut
  split
  · exact ItemFrame.refl
  · split
    · exact ItemFrame.refl
    · exact setItem_frame.trans hostWrite_frame

/-! ## The items that an operation leaves behind -/

@[simp] theorem hostWrite_dsp {s : State} {fn iova : Nat} {bytes : List Byte} :
    (s.hostWrite fn iova bytes).dsp = s.dsp := by
  unfold State.hostWrite
  extract_lets t v
  split
  · rfl
  · split <;> rfl

@[simp] theorem sendVector_dsp {s : State} {fn v : Nat} : (s.sendVector fn v).dsp = s.dsp := by
  unfold State.sendVector
  split
  · rfl
  · split
    · split <;> rfl
    · extract_lets x
      split <;> rfl

theorem pushTrace_items {s : State} {n : Nat} {rec : List Byte} : (s.pushTrace n rec).dsp.items = s.dsp.items := by
  unfold State.pushTrace
  extract_lets
  split
  · rfl
  · rw [hostWrite_dsp]

@[simp] theorem trace_items {s : State} {event detail : Nat} {it : Item} {st : Status} :
    (s.trace event detail it st).dsp.items = s.dsp.items := by
  unfold State.trace
  extract_lets core t
  have ht : t.dsp.items = s.dsp.items := by
    unfold t
    split
    · exact pushTrace_items
    · rfl
  clear_value t
  split
  · rw [pushTrace_items, ht]
  · exact ht

@[simp] theorem hostWrite_item {s : State} {fn iova id : Nat} {bytes : List Byte} :
    (s.hostWrite fn iova bytes).item id = s.item id := by unfold State.item; rw [hostWrite_dsp]

@[simp] theorem sendVector_item {s : State} {fn v id : Nat} : (s.sendVector fn v).item id = s.item id := by
  unfold State.item; rw [sendVector_dsp]

@[simp] theorem trace_item {s : State} {event detail id : Nat} {it : Item} {st : Status} :
    (s.trace event detail it st).item id = s.item id := by unfold State.item; rw [trace_items]

@[simp] theorem setItem_item_self {s : State} {it : Item} : (s.setItem it).item it.id = some it := tabGet_tabSet_self

theorem setItem_item_ne {s : State} {it : Item} {id : Nat} (h : id ≠ it.id) : (s.setItem it).item id = s.item id :=
  tabGet_tabSet_ne h

@[simp] theorem freeCore_items {s : State} {it : Item} : (s.freeCore it).dsp.items = s.dsp.items := by
  unfold State.freeCore
  split <;> rfl

/-- What an item is after its end. -/
def Item.finished (it : Item) (o : Outcome) : Item :=
  { it with phase := .done, outcome := o, claim := Claim.none, claimed := false, bufs := [], scratch := [] }

/-- The item that ends has its record ready. -/
theorem finish_item {s : State} {it : Item} {o : Outcome} (h : s.item it.id = some it) (hp : it.phase ≠ .done) :
    (s.finish it.id o).item it.id = some (it.finished (s.endBody it o)) := by
  unfold State.finish
  rw [h]
  dsimp only
  rw [if_neg hp, trace_item]
  exact setItem_item_self (it := it.finished (s.endBody it o))

theorem complete_item {s : State} {it : Item} {st : Status} {body : List Byte} (h : s.item it.id = some it)
    (hp : it.phase ≠ .done) : (s.complete it.id st body).item it.id =
      some (it.finished (s.endBody it { status := st, origin1 := false, body := padTo 24 body })) := finish_item h hp

/-- Any opcode but OBJ_SEAL keeps the body that it gives its record, and every opcode does with ST_OK. -/
theorem endBody_eq {s : State} {it : Item} {o : Outcome} (h : it.opcode ≠ 0x0201 ∨ o.status = stOk) :
    s.endBody it o = o := by
  unfold State.endBody
  rw [if_neg]
  rintro ⟨h1, h2, -⟩
  rcases h with h | h
  · exact h h1
  · exact h2 h

theorem running_not_done {it : Item} (h : it.isRunning = true) : it.phase ≠ .done := by
  intro hp
  simp [Item.isRunning, Item.core?, hp] at h

/-- A running item of any opcode but OBJ_SEAL that completes has its record ready with the status and the body given. -/
theorem complete_completed {s : State} {it : Item} {op : Nat} {st : Status} {body : List Byte} (h : s.Runs it op)
    (hs : op ≠ 0x0201 ∨ st = stOk) : (s.complete it.id st body).Completed it.id st body := by
  refine ⟨_, complete_item h.1 (running_not_done h.2.1), rfl, ?_⟩
  exact endBody_eq (hs.imp (fun h' => h.2.2 ▸ h') id)

theorem failItem_completed {s : State} {it : Item} {op : Nat} {st : Status} (h : s.Runs it op)
    (hs : op ≠ 0x0201 ∨ st = stOk) : (s.failItem it.id st).Completed it.id st [] := complete_completed h hs

/-- A function of a running item is applied to it. -/
theorem onRunning_eq {s : State} {it : Item} {op : Nat} {f : Item → State} (h : s.Runs it op) :
    s.onRunning it.id f = f it := by
  unfold State.onRunning
  rw [h.1]
  exact if_pos h.2.1

/-- An item that yields waits. -/
theorem yieldItem_waits {s : State} {it : Item} {why : WaitFor} (h : s.item it.id = some it) :
    (s.yieldItem it.id why).Waits it.id why := by
  refine ⟨{ it with phase := .yielded why }, ?_, rfl⟩
  unfold State.yieldItem
  rw [h]
  dsimp only
  rw [trace_item]
  exact setItem_item_self (it := { it with phase := .yielded why })

/-- A yielded item whose wait ends can be resumed, with the outcome given. -/
theorem endWaitWith_item {s : State} {it : Item} {why : WaitFor} {o : Outcome} (h : s.item it.id = some it)
    (hp : it.phase = .yielded why) : (s.endWaitWith it.id o).item it.id =
      some { it with phase := .resumable, stage := 0xFF, outcome := o } := by
  unfold State.endWaitWith
  rw [h]
  dsimp only
  rw [hp]
  exact setItem_item_self (it := { it with phase := .resumable, stage := 0xFF, outcome := o })

end Sys2Proof.Machine
end

