-- ==== Sys2Proof/Laws/Keep1.lean ====
section
/-! SUPPORT. One lemma each: the invariant is kept by the operations and meanings of
items, keys, channels, stores and alarms. -/

namespace Sys2Proof.Machine

/-! ## Machine/Ops.lean -/

theorem freeBytes_inv {s : State} {n : Nat} (hs : State.Inv s) : (State.freeBytes s n).2.Inv := by
  unfold State.freeBytes
  with_reducible (refine inv_mk ?_ rfl rfl rfl rfl rfl rfl; assumption)

theorem choose_inv {s : State} (hs : State.Inv s) : (State.choose s).2.Inv := by
  unfold State.choose
  with_reducible (refine inv_mk ?_ rfl rfl rfl rfl rfl rfl; assumption)

theorem mainRequest_inv {s : State} {n : Nat} (hs : State.Inv s) : (State.mainRequest s n).2.Inv := by
  unfold State.mainRequest
  with_reducible repeat' first
    | assumption | apply freeBytes_inv | (refine inv_mk ?_ rfl rfl rfl rfl rfl rfl; first | assumption | split)

theorem drawRequests_inv {a1 : Nat} : ∀ {a2 a3 : Nat} {s : State}, s.Inv → (State.drawRequests s a1 a2 a3).2.Inv
  | 0, _, _, hs => hs
  | _ + 1, _, _, hs => by
    unfold State.drawRequests
    split
    · exact hs
    · exact drawRequests_inv (mainRequest_inv hs)

theorem draw_inv {s : State} {n : Nat} (hs : State.Inv s) : (State.draw s n).2.Inv := by
  unfold State.draw
  with_reducible repeat' first | assumption | apply drawRequests_inv

theorem setReg_inv {s : State} {fn off : Nat} {v : Word} (hs : State.Inv s) :
    (State.setReg s fn off v).Inv := by
  unfold State.setReg
  with_reducible (refine inv_mk ?_ rfl rfl rfl rfl rfl rfl; assumption)

theorem noteMode_inv {before after : State} (_hs : State.Inv before) (hs1 : State.Inv after) :
    (State.noteMode before after).Inv := by
  unfold State.noteMode
  with_reducible repeat' first
    | assumption | apply inv_ite | intro _ | (refine inv_mk ?_ rfl rfl rfl rfl rfl rfl; assumption)

theorem enterPhase_inv {s : State} {p : Phase} (hs : State.Inv s) : (State.enterPhase s p).Inv := by
  unfold State.enterPhase
  with_reducible repeat' first
    | assumption | apply noteMode_inv | (refine inv_mk ?_ rfl rfl rfl rfl rfl rfl; assumption)

theorem setVf_inv {s : State} {n : Nat} {v : Vf} (hs : State.Inv s) : (State.setVf s n v).Inv := by
  unfold State.setVf
  with_reducible (refine inv_mk ?_ rfl rfl rfl rfl rfl rfl; assumption)

theorem emit_inv {s : State} {o : Output} (hs : State.Inv s) : (State.emit s o).Inv := by
  unfold State.emit
  with_reducible (refine inv_mk ?_ rfl rfl rfl rfl rfl rfl; assumption)

theorem sendVector_inv {s : State} {fn v : Nat} (hs : State.Inv s) : (State.sendVector s fn v).Inv := by
  unfold State.sendVector
  with_reducible repeat' first
    | assumption | apply emit_inv | apply setVf_inv | apply inv_ite | intro _
    | (refine inv_mk ?_ rfl rfl rfl rfl rfl rfl; assumption)

theorem hostWrite_inv {s : State} {fn iova : Nat} {bytes : List Byte} (hs : State.Inv s) :
    (State.hostWrite s fn iova bytes).Inv := by
  unfold State.hostWrite
  with_reducible repeat' first
    | assumption | apply emit_inv | apply setVf_inv | apply inv_ite | intro _
    | (refine inv_mk ?_ rfl rfl rfl rfl rfl rfl; split)

theorem setItem_inv {s : State} {it : Item} (hs : State.Inv s) : (State.setItem s it).Inv := by
  unfold State.setItem
  with_reducible (refine inv_mk ?_ rfl rfl rfl rfl rfl rfl; assumption)

theorem pushTrace_inv {s : State} {n : Nat} {rec : List Byte} (hs : State.Inv s) :
    (State.pushTrace s n rec).Inv := by
  unfold State.pushTrace
  with_reducible repeat' first
    | apply hostWrite_inv | apply inv_ite | intro _ | (refine inv_mk ?_ rfl rfl rfl rfl rfl rfl; assumption)

theorem trace_inv {s : State} {event detail : Nat} {it : Item} {status : Status} (hs : State.Inv s) :
    (State.trace s event detail it status).Inv := by
  unfold State.trace
  with_reducible repeat' first | assumption | apply pushTrace_inv | apply inv_ite | intro _

theorem modifyCore_inv {s : State} {c : Nat} {f : ServiceCore → ServiceCore} (hs : State.Inv s) :
    (State.modifyCore s c f).Inv := by
  unfold State.modifyCore
  with_reducible (refine inv_mk ?_ rfl rfl rfl rfl rfl rfl; assumption)

theorem freeCore_inv {s : State} {it : Item} (hs : State.Inv s) : (State.freeCore s it).Inv := by
  unfold State.freeCore
  with_reducible repeat' first | assumption | apply modifyCore_inv | (refine inv_mk ?_ rfl rfl rfl rfl rfl rfl; split)

theorem wakeLacking_inv {s : State} {kinds : List ClaimKind} (hs : State.Inv s) :
    (State.wakeLacking s kinds).Inv := by
  unfold State.wakeLacking
  with_reducible (refine inv_mk ?_ rfl rfl rfl rfl rfl rfl; assumption)

theorem modifyUnit_inv {s : State} {u : Nat} {f : SluUnit → SluUnit} (hs : State.Inv s) :
    (State.modifyUnit s u f).Inv := by
  unfold State.modifyUnit
  with_reducible (refine inv_mk ?_ rfl rfl rfl rfl rfl rfl; assumption)

theorem writeInactive_inv {s : State} {t : List (BitVec 16)} (hs : State.Inv s) :
    (State.writeInactive s t).Inv := by
  unfold State.writeInactive
  with_reducible (refine inv_mk ?_ rfl rfl rfl rfl rfl rfl; assumption)

theorem amendWake_inv {s : State} (hs : State.Inv s) : (State.amendWake s).Inv := by
  unfold State.amendWake
  with_reducible repeat' first
    | assumption | apply inv_ite | intro _
    | (refine inv_mk ?_ rfl rfl rfl rfl rfl rfl; first | apply writeInactive_inv | split)

theorem releaseClaim_inv {s : State} {it : Item} (hs : State.Inv s) : (State.releaseClaim s it).Inv := by
  unfold State.releaseClaim
  with_reducible repeat' first
    | apply setItem_inv | apply amendWake_inv | apply wakeLacking_inv | apply inv_ite | intro _
    | (refine inv_mk ?_ rfl rfl rfl rfl rfl rfl; first | assumption | split | dsimp only)

theorem unlist_inv {s : State} {id : Nat} (hs : State.Inv s) : (State.unlist s id).Inv := by
  unfold State.unlist
  with_reducible (refine inv_mk ?_ rfl rfl rfl rfl rfl rfl; assumption)

theorem noteEnd_inv {s : State} {it : Item} {o : Outcome} (hs : State.Inv s) : (State.noteEnd s it o).Inv := by
  unfold State.noteEnd
  with_reducible repeat' first
    | assumption | apply inv_ite | intro _
    | (refine inv_mk ?_ rfl rfl rfl rfl rfl rfl; first | assumption | apply inv_ite)

theorem finish_inv {s : State} {id : Nat} {o : Outcome} (hs : State.Inv s) : (State.finish s id o).Inv := by
  unfold State.finish
  with_reducible repeat' first
    | assumption | apply noteEnd_inv | apply freeCore_inv | apply unlist_inv | apply releaseClaim_inv
    | apply trace_inv | apply setItem_inv | apply inv_ite | intro _
    | (refine inv_mk ?_ rfl rfl rfl rfl rfl rfl; split)

theorem complete_inv {s : State} {id : Nat} {st : Status} {body : List Byte} (hs : State.Inv s) :
    (State.complete s id st body).Inv := by
  unfold State.complete
  with_reducible repeat' first | assumption | apply finish_inv

theorem failItem_inv {s : State} {id : Nat} {st : Status} (hs : State.Inv s) : (State.failItem s id st).Inv := by
  unfold State.failItem
  with_reducible repeat' first | assumption | apply complete_inv

theorem reject_inv {s : State} {id : Nat} {st : Status} {fieldOffset : Nat} (hs : State.Inv s) :
    (State.reject s id st fieldOffset).Inv := by
  unfold State.reject
  with_reducible repeat' first | assumption | apply finish_inv

theorem yieldItem_inv {s : State} {id : Nat} {why : WaitFor} (hs : State.Inv s) :
    (State.yieldItem s id why).Inv := by
  unfold State.yieldItem
  with_reducible repeat' first
    | assumption | apply freeCore_inv | apply setItem_inv | apply trace_inv
    | (refine inv_mk ?_ rfl rfl rfl rfl rfl rfl; split)

theorem endWait_inv {s : State} {id : Nat} (hs : State.Inv s) : (State.endWait s id).Inv := by
  unfold State.endWait
  with_reducible repeat' first
    | assumption | (refine inv_mk ?_ rfl rfl rfl rfl rfl rfl; first | apply setItem_inv | split)

theorem endWaitWith_inv {s : State} {id : Nat} {o : Outcome} (hs : State.Inv s) :
    (State.endWaitWith s id o).Inv := by
  unfold State.endWaitWith
  with_reducible repeat' first
    | assumption | apply finish_inv | (refine inv_mk ?_ rfl rfl rfl rfl rfl rfl; first | apply setItem_inv | split)

theorem onRunning_inv {s : State} {id : Nat} {f : Item → State} (hs : State.Inv s) (ha2 : ∀ x0, State.Inv (f x0)) :
    (State.onRunning s id f).Inv := by
  unfold State.onRunning
  with_reducible repeat' first
    | assumption | apply ha2 | apply inv_ite | intro _ | (refine inv_mk ?_ rfl rfl rfl rfl rfl rfl; split)

theorem writeOut_inv {s : State} {id iova : Nat} {bytes : List Byte} (hs : State.Inv s) :
    (State.writeOut s id iova bytes).Inv := by
  unfold State.writeOut
  with_reducible repeat' first
    | assumption | apply setItem_inv | apply hostWrite_inv | apply inv_ite | intro _
    | (refine inv_mk ?_ rfl rfl rfl rfl rfl rfl; split)

theorem zeroOutputs_inv {s : State} {id : Nat} (hs : State.Inv s) : (State.zeroOutputs s id).Inv := by
  unfold State.zeroOutputs
  with_reducible repeat' first
    | assumption | apply hostWrite_inv | apply setItem_inv | apply inv_foldl | intro _
    | (refine inv_mk ?_ rfl rfl rfl rfl rfl rfl; split)

theorem dropSteps_inv {s : State} {st : Status} (hs : State.Inv s) : (State.dropSteps s st).Inv := by
  unfold State.dropSteps
  with_reducible (refine inv_mk ?_ rfl rfl rfl rfl rfl rfl; assumption)

theorem memStore_inv {s : State} {a1 : Nat} {a2 : List Byte} (hs : s.Inv) : (State.memStore s a1 a2).Inv :=
  inv_cells hs memWrite_wf rfl rfl rfl rfl rfl

theorem setRegion_inv {s : State} {master region : Nat} {r : Region} (hs : State.Inv s) :
    (State.setRegion s master region r).Inv := by
  unfold State.setRegion
  with_reducible (refine inv_mk ?_ rfl rfl rfl rfl rfl rfl; assumption)

/-! ## Machine/Keys.lean -/

theorem signWith_inv {s : State} {scheme hash alg : Nat} {material msg : List Byte}
    (hs : State.Inv s) :
    (State.signWith s scheme hash alg material msg).2.Inv := by
  unfold State.signWith
  with_reducible repeat' first | assumption | apply draw_inv

theorem revScan_inv {s : State} {h : Word} (hs : State.Inv s) : (State.revScan s h).Inv := by
  unfold State.revScan
  with_reducible (refine inv_mk ?_ rfl rfl rfl rfl rfl rfl; assumption)

theorem freeSession_inv {s : State} {i : Nat} (hs : State.Inv s) : (State.freeSession s i).Inv := by
  unfold State.freeSession
  with_reducible (refine inv_mk ?_ rfl rfl rfl rfl rfl rfl; assumption)

/-! ## Machine/Chan.lean -/

theorem modifySub_inv {s : State} {port sub : Nat} {f : SubPort → SubPort} (hs : State.Inv s) :
    (State.modifySub s port sub f).Inv := by
  unfold State.modifySub
  with_reducible (refine inv_mk ?_ rfl rfl rfl rfl rfl rfl; assumption)

theorem countPort_inv {s : State} {port k : Nat} (hs : State.Inv s) : (State.countPort s port k).Inv := by
  unfold State.countPort
  with_reducible (refine inv_mk ?_ rfl rfl rfl rfl rfl rfl; assumption)

theorem portSend_inv {s : State} {port sub : Nat} {o : Output} (hs : State.Inv s) :
    (State.portSend s port sub o).Inv := by
  unfold State.portSend
  with_reducible repeat' first
    | assumption | apply countPort_inv | apply emit_inv | apply modifySub_inv | apply inv_ite | intro _

theorem setChan_inv {s : State} {c : Nat} {x : Channel} (hs : State.Inv s) : (State.setChan s c x).Inv := by
  unfold State.setChan
  with_reducible (refine inv_mk ?_ rfl rfl rfl rfl rfl rfl; assumption)

theorem transmit_inv {s : State} {c typ flags seq xid : Nat} {body : List Byte}
    (hs : State.Inv s) :
    (State.transmit s c typ flags seq xid body).Inv := by
  unfold State.transmit
  with_reducible repeat' first
    | assumption | apply setChan_inv | apply portSend_inv | (refine inv_mk ?_ rfl rfl rfl rfl rfl rfl; split)

theorem transmitUnseq_inv {s : State} {c typ flags : Nat} {body : List Byte} (hs : State.Inv s) :
    (State.transmitUnseq s c typ flags body).Inv := by
  unfold State.transmitUnseq
  with_reducible repeat' first | assumption | apply transmit_inv

theorem chanSend_inv {s : State} {c typ flags xid : Nat} {body : List Byte}
    {weir : Option Nat} (hs : State.Inv s) :
    (State.chanSend s c typ flags xid body weir).Inv := by
  unfold State.chanSend
  with_reducible repeat' first
    | assumption | apply setChan_inv | apply inv_ite | intro _ | (refine inv_mk ?_ rfl rfl rfl rfl rfl rfl; split)

theorem sendNack_inv {s : State} {c refType xid : Nat} {reason : Status} (hs : State.Inv s) :
    (State.sendNack s c refType xid reason).Inv := by
  unfold State.sendNack
  with_reducible repeat' first | assumption | apply chanSend_inv

theorem openExchange_inv {s : State} {c : Nat} {kind : ExchangeKind} {item : Nat} {weir : Option Nat}
    (hs : State.Inv s) :
    (State.openExchange s c kind item weir).2.Inv := by
  unfold State.openExchange
  with_reducible repeat' first | assumption | apply setChan_inv | (refine inv_mk ?_ rfl rfl rfl rfl rfl rfl; split)

theorem closeExchange_inv {s : State} {c xid : Nat} {mine : Bool} (hs : State.Inv s) :
    (State.closeExchange s c xid mine).Inv := by
  unfold State.closeExchange
  with_reducible repeat' first | assumption | apply setChan_inv | (refine inv_mk ?_ rfl rfl rfl rfl rfl rfl; split)

theorem dropExchanges_inv {s : State} {item : Nat} (hs : State.Inv s) : (State.dropExchanges s item).Inv := by
  unfold State.dropExchanges
  with_reducible (refine inv_mk ?_ rfl rfl rfl rfl rfl rfl; assumption)

theorem chargeWeir_inv {s : State} {w : Weir} {bytes : Nat} (hs : State.Inv s) :
    (State.chargeWeir s w bytes).Inv := by
  unfold State.chargeWeir
  with_reducible (refine inv_mk ?_ rfl rfl rfl rfl rfl rfl; assumption)

theorem takeEgress_inv {s : State} {units : List (Nat × Nat × Option Nat)} (hs : State.Inv s) :
    OInv1 (State.takeEgress s units) := by
  unfold State.takeEgress
  with_reducible repeat' first
    | assumption | apply OInv1_some | apply OInv1_none | apply OInv1_ite | apply chargeWeir_inv | apply inv_foldl
    | intro _

theorem useCredit_inv {s : State} {item : Option Nat} {n : Nat} (hs : State.Inv s) :
    (State.useCredit s item n).2.Inv := by
  unfold State.useCredit
  with_reducible repeat' first | assumption | apply setItem_inv | (refine inv_mk ?_ rfl rfl rfl rfl rfl rfl; split)

theorem sendHead_inv {s : State} {c : Nat} (hs : State.Inv s) : (State.sendHead s c).Inv := by
  unfold State.sendHead
  with_reducible repeat' first
    | assumption | apply useCredit_inv | apply chargeWeir_inv | apply setChan_inv | apply transmit_inv
    | apply inv_ite | apply inv_foldl | intro _ | (refine inv_mk ?_ rfl rfl rfl rfl rfl rfl; split)

theorem fragMissing_inv {s : State} {item frag : Nat} (hs : State.Inv s) :
    (State.fragMissing s item frag).Inv := by
  unfold State.fragMissing
  with_reducible repeat' first | apply endWait_inv | (refine inv_mk ?_ rfl rfl rfl rfl rfl rfl; assumption)

theorem synchronise_inv {s : State} {c : Nat} (hs : State.Inv s) : (State.synchronise s c).Inv := by
  unfold State.synchronise
  with_reducible repeat' first
    | assumption | apply setChan_inv | apply transmit_inv | apply inv_ite | intro _
    | (refine inv_mk ?_ rfl rfl rfl rfl rfl rfl; split)

theorem endExchanges_inv {s : State} {c : Nat} {x : Channel} (hs : State.Inv s) :
    (State.endExchanges s c x).Inv := by
  unfold State.endExchanges
  with_reducible repeat' first
    | assumption | apply failItem_inv | apply fragMissing_inv | apply inv_foldl | intro _
    | (refine inv_mk ?_ rfl rfl rfl rfl rfl rfl; split)

theorem resetChan_inv {s : State} {c : Nat} (hs : State.Inv s) : (State.resetChan s c).Inv := by
  unfold State.resetChan
  with_reducible repeat' first
    | assumption | apply setChan_inv | apply synchronise_inv | apply endExchanges_inv
    | (refine inv_mk ?_ rfl rfl rfl rfl rfl rfl; first | assumption | split)

theorem answerGateway_inv {s : State} {c : Nat} {it : Item} (hs : State.Inv s) :
    (State.answerGateway s c it).Inv := by
  unfold State.answerGateway
  with_reducible repeat' first
    | assumption | apply closeExchange_inv | apply chanSend_inv | (refine inv_mk ?_ rfl rfl rfl rfl rfl rfl; split)

/-! ## Machine/Release.lean -/

theorem setQp_inv {s : State} {fn qp : Nat} {q : Qp} (hs : State.Inv s) : (State.setQp s fn qp q).Inv := by
  unfold State.setQp
  with_reducible (refine inv_mk ?_ rfl rfl rfl rfl rfl rfl; assumption)

theorem queueError_inv {s : State} {fn qp : Nat} {code : BitVec 4} (hs : State.Inv s) :
    (State.queueError s fn qp code).Inv := by
  unfold State.queueError
  with_reducible repeat' first | assumption | apply setQp_inv | apply setReg_inv | apply sendVector_inv

theorem setFlow_inv {s : State} {f : Nat} {x : Machine.Flow} (hs : State.Inv s) : (State.setFlow s f x).Inv := by
  unfold State.setFlow
  with_reducible (refine inv_mk ?_ rfl rfl rfl rfl rfl rfl; assumption)

theorem enqueue_inv {s : State} {it : Item} {detail : Nat} (hs : State.Inv s) :
    (State.enqueue s it detail).Inv := by
  unfold State.enqueue
  with_reducible repeat' first
    | assumption | apply trace_inv | apply setItem_inv | apply inv_ite | intro _
    | (refine inv_mk ?_ rfl rfl rfl rfl rfl rfl; apply setItem_inv)

theorem unparkOne_inv {s : State} {id : Nat} (hs : State.Inv s) : (State.unparkOne s id).Inv := by
  unfold State.unparkOne
  with_reducible repeat' first
    | assumption | apply enqueue_inv | apply inv_ite | intro _ | (refine inv_mk ?_ rfl rfl rfl rfl rfl rfl; split)

theorem freeHeadEntry_inv {s : State} {id : Nat} (hs : State.Inv s) : (State.freeHeadEntry s id).Inv := by
  unfold State.freeHeadEntry
  with_reducible repeat' first
    | assumption | apply setItem_inv | apply inv_ite | intro _ | (refine inv_mk ?_ rfl rfl rfl rfl rfl rfl; split)

theorem unpark_inv {s : State} (hs : State.Inv s) : (State.unpark s).Inv := by
  unfold State.unpark
  with_reducible repeat' first | assumption | apply freeHeadEntry_inv | apply unparkOne_inv | apply inv_foldl

theorem removeItem_inv {s : State} {id : Nat} (hs : State.Inv s) : (State.removeItem s id).Inv := by
  unfold State.removeItem
  with_reducible repeat' first | assumption | (refine inv_mk ?_ rfl rfl rfl rfl rfl rfl; apply dropExchanges_inv)

theorem countRecord_inv {s : State} {fn qp : Nat} {it : Item} (hs : State.Inv s) :
    (State.countRecord s fn qp it).Inv := by
  unfold State.countRecord
  with_reducible repeat' first | assumption | apply sendVector_inv | apply setQp_inv | apply inv_ite | intro _

theorem mergeDirty_inv {s : State} {d : DirtyLog} (hs : State.Inv s) : (State.mergeDirty s d).Inv := by
  unfold State.mergeDirty
  with_reducible repeat' first | assumption | apply hostWrite_inv | apply inv_foldl | intro _

theorem closeSwap_inv {s : State} {it : Item} (hs : State.Inv s) : (State.closeSwap s it).1.Inv := by
  unfold State.closeSwap
  with_reducible repeat' first
    | assumption | apply setVf_inv | apply mergeDirty_inv | apply inv_ite_fst | intro _
    | (refine inv_mk ?_ rfl rfl rfl rfl rfl rfl; first | split | dsimp only)

theorem writeRecord_inv {s0 : State} {it0 : Item} {ok : Bool} (hs : State.Inv s0) :
    (State.writeRecord s0 it0 ok).Inv := by
  unfold State.writeRecord
  with_reducible repeat' first
    | assumption | apply closeSwap_inv | apply setQp_inv | apply hostWrite_inv | apply countRecord_inv
    | apply queueError_inv | apply answerGateway_inv | apply removeItem_inv | apply trace_inv | apply inv_ite
    | intro _ | (refine inv_mk ?_ rfl rfl rfl rfl rfl rfl; split)

theorem releaseFlow_inv {a0 : Bool} {a1 a2 : Nat} {s : State} (hs : s.Inv) : (State.releaseFlow a0 a1 a2 s).Inv := by
  induction a2 generalizing s with
  | zero => exact hs
  | succ n ih =>
    unfold State.releaseFlow
    with_reducible repeat' first
      | assumption | apply writeRecord_inv | apply setFlow_inv | apply removeItem_inv | apply trace_inv | apply ih
      | apply inv_ite | intro _ | (refine inv_mk ?_ rfl rfl rfl rfl rfl rfl; split)

theorem wakeQuiesce_inv {s : State} (hs : State.Inv s) : (State.wakeQuiesce s).Inv := by
  unfold State.wakeQuiesce
  with_reducible repeat' first
    | assumption | apply endWaitWith_inv | apply inv_ite | apply inv_foldl | intro _
    | (refine inv_mk ?_ rfl rfl rfl rfl rfl rfl; split)

theorem wakeSuspend_inv {s : State} (hs : State.Inv s) : (State.wakeSuspend s).Inv := by
  unfold State.wakeSuspend
  with_reducible repeat' first
    | assumption | apply endWaitWith_inv | apply inv_ite | apply inv_foldl | intro _
    | (refine inv_mk ?_ rfl rfl rfl rfl rfl rfl; split)

theorem afterRelease_inv {s : State} (hs : State.Inv s) : (State.afterRelease s).Inv := by
  unfold State.afterRelease
  with_reducible repeat' first | assumption | apply wakeSuspend_inv | apply wakeQuiesce_inv | apply unpark_inv

theorem modeStatusAll_inv {s : State} {st : Status} {p : Item → Bool} (hs : State.Inv s) :
    (State.modeStatusAll s st p).Inv := by
  unfold State.modeStatusAll
  with_reducible repeat' first | assumption | apply reject_inv | apply inv_foldl | intro _

theorem enterQuiesce_inv {s : State} (hs : State.Inv s) : (State.enterQuiesce s).Inv := by
  unfold State.enterQuiesce
  with_reducible repeat' first
    | assumption | apply noteMode_inv | apply modeStatusAll_inv
    | (refine inv_mk ?_ rfl rfl rfl rfl rfl rfl; assumption)

/-! ## Machine/Amend.lean -/

theorem returnUnit_inv {s : State} {c : UnitChange} (hs : State.Inv s) : (State.returnUnit s c).Inv := by
  unfold State.returnUnit
  with_reducible repeat' first
    | assumption | apply modifyUnit_inv | apply inv_ite | intro _
    | (refine inv_mk ?_ rfl rfl rfl rfl rfl rfl; apply modifyUnit_inv)

theorem endAmend_inv {s : State} {st : Status} {body : List Byte} (hs : State.Inv s) :
    (State.endAmend s st body).Inv := by
  unfold State.endAmend
  with_reducible repeat' first
    | assumption | apply endWaitWith_inv | (refine inv_mk ?_ rfl rfl rfl rfl rfl rfl; first | assumption | split)

theorem rollback_inv {s : State} {st : Status} (hs : State.Inv s) : (State.rollback s st).Inv := by
  unfold State.rollback
  with_reducible repeat' first
    | assumption | apply returnUnit_inv | apply endAmend_inv | apply inv_ite | apply inv_foldl | intro _
    | (refine inv_mk ?_ rfl rfl rfl rfl rfl rfl; first | apply writeInactive_inv | split)

/-! ## Machine/RingCore.lean -/

theorem sendRing_inv {s : State} {kind : Nat} {epoch : DWord} {body : List Byte} (hs : State.Inv s) :
    (State.sendRing s kind epoch body).Inv := by
  unfold State.sendRing
  with_reducible repeat' first
    | assumption | apply inv_ite | intro _ | (refine inv_mk ?_ rfl rfl rfl rfl rfl rfl; apply emit_inv)

theorem relayRing_inv {s : State} {f : RingFrame} (hs : State.Inv s) : (State.relayRing s f).Inv := by
  unfold State.relayRing
  with_reducible repeat' first | assumption | apply emit_inv | apply inv_ite | intro _

theorem requestSync_inv {s : State} (hs : State.Inv s) : (State.requestSync s).Inv := by
  unfold State.requestSync
  with_reducible repeat' first
    | assumption | (refine inv_mk ?_ rfl rfl rfl rfl rfl rfl; first | assumption | apply sendRing_inv | split)

/-! ## Machine/LifeCycle.lean -/

theorem writeSlot_inv {s : State} {a1 : Nat} {a2 : LcSlot} (hs : s.Inv) : (State.writeSlot s a1 a2).Inv :=
  inv_slots hs rfl rfl rfl rfl rfl (by simp [State.writeSlot])

theorem commitSlot_inv {s : State} {n : Nat} (hs : State.Inv s) : (State.commitSlot s n).Inv := by
  unfold State.commitSlot
  with_reducible repeat' first | assumption | apply writeSlot_inv

/-! ## Machine/Stores.lean -/

theorem addStore_inv {s : State} {item : Option Nat} {a : StoreAction} {ok mirror : Bool}
    (hs : State.Inv s) :
    (State.addStore s item a ok mirror).Inv := by
  unfold State.addStore
  with_reducible (refine inv_mk ?_ rfl rfl rfl rfl rfl rfl; assumption)

theorem countRefusal_inv {s : State} (hs : State.Inv s) : (State.countRefusal s).Inv := by
  unfold State.countRefusal
  with_reducible (refine inv_mk ?_ rfl rfl rfl rfl rfl rfl; assumption)

theorem failStore_inv {s : State} {st : Store} {status : Status} (hs : State.Inv s) :
    (State.failStore s st status).Inv := by
  unfold State.failStore
  with_reducible repeat' first
    | apply endWaitWith_inv | apply inv_ite | intro _
    | (refine inv_mk ?_ rfl rfl rfl rfl rfl rfl; first | assumption | split | dsimp only)

theorem mirrorTry_inv {s : State} {st : Store} (hs : State.Inv s) : (State.mirrorTry s st).Inv := by
  unfold State.mirrorTry
  with_reducible repeat' first
    | assumption | apply sendRing_inv | apply failStore_inv | apply countRefusal_inv | apply inv_ite | intro _
    | (refine inv_mk ?_ rfl rfl rfl rfl rfl rfl; assumption)

theorem mirrorGo_inv {s : State} (hs : State.Inv s) : (State.mirrorGo s).Inv := by
  unfold State.mirrorGo
  with_reducible repeat' first | assumption | apply mirrorTry_inv | apply inv_foldl

theorem passToken_inv {s : State} (hs : State.Inv s) : (State.passToken s).Inv := by
  unfold State.passToken
  with_reducible repeat' first
    | assumption | apply inv_ite | intro _ | (refine inv_mk ?_ rfl rfl rfl rfl rfl rfl; apply sendRing_inv)

theorem askStore_inv {s : State} {item : Option Nat} {a : StoreAction} (hs : State.Inv s) :
    AInv (State.askStore s item a) := by
  unfold State.askStore
  with_reducible repeat' first
    | assumption | apply AInv_mkadmitted | apply AInv_mkrefused | apply AInv_mkheld | apply AInv_mkite
    | apply mirrorGo_inv | apply addStore_inv | apply countRefusal_inv | intro _

theorem storeFor_inv {s : State} {id : Nat} {a : StoreAction} {o : Outcome} (hs : State.Inv s) :
    (State.storeFor s id a o).Inv := by
  unfold State.storeFor
  with_reducible repeat' first
    | assumption | apply failItem_inv | apply countRefusal_inv | apply askStore_inv | apply yieldItem_inv
    | apply setItem_inv | apply inv_ite | (refine AInv_admitted ?_ (by assumption))
    | (refine AInv_held ?_ (by assumption)) | (refine AInv_refused ?_ (by assumption)) | intro _
    | (refine inv_mk ?_ rfl rfl rfl rfl rfl rfl; split)

theorem applyStore_inv {s : State} {a : StoreAction} {own : Bool} (hs : State.Inv s) :
    (State.applyStore s a own).Inv := by
  unfold State.applyStore
  with_reducible repeat' first
    | assumption | apply writeSlot_inv | apply commitSlot_inv | apply inv_ite | intro _
    | (refine inv_mk ?_ rfl rfl rfl rfl rfl rfl; first | assumption | split)

theorem tearOtp_inv {s : State} {a : StoreAction} (hs : State.Inv s) : (State.tearOtp s a).Inv := by
  unfold State.tearOtp
  with_reducible repeat' first
    | assumption | apply choose_inv | apply writeSlot_inv
    | (refine inv_mk ?_ rfl rfl rfl rfl rfl rfl; first | apply choose_inv | split)

theorem setCounter_inv {s : State} {i : Nat} {c : Counter} (hs : State.Inv s) : (State.setCounter s i c).Inv := by
  unfold State.setCounter
  with_reducible (refine inv_mk ?_ rfl rfl rfl rfl rfl rfl; assumption)

theorem raise_inv {s : State} {i : Nat} (hs : State.Inv s) : AInv (State.raise s i) := by
  unfold State.raise
  with_reducible repeat' first | assumption | apply askStore_inv | apply setCounter_inv

theorem exhaust_inv {s : State} {h : Word} {root : Bool} (hs : State.Inv s) : (State.exhaust s h root).Inv := by
  unfold State.exhaust
  with_reducible repeat' first
    | assumption | apply revScan_inv | apply freeSession_inv | apply setCounter_inv | apply askStore_inv
    | apply inv_ite | (refine AInv_admitted ?_ (by assumption)) | (refine AInv_held ?_ (by assumption)) | intro _
    | (refine inv_mk ?_ rfl rfl rfl rfl rfl rfl; first | (refine AInv_refused ?_ (by assumption)) | split)

theorem retryRetirements_inv {s : State} (hs : State.Inv s) : (State.retryRetirements s).Inv := by
  unfold State.retryRetirements
  with_reducible repeat' first
    | assumption | apply askStore_inv | apply inv_foldl | (refine AInv_refused ?_ (by assumption)) | intro _
    | (refine inv_mk ?_ rfl rfl rfl rfl rfl rfl; first | (refine AInv_admitted ?_ (by assumption)) | (refine AInv_held ?_ (by assumption)) | split)

theorem awaitRaise_inv {s : State} {i : Nat} (hs : State.Inv s) : NInv (State.awaitRaise s i) := by
  unfold State.awaitRaise
  with_reducible repeat' first
    | assumption | apply NInv_mkwaits | apply NInv_mkrefused | apply NInv_mkite | apply setCounter_inv
    | apply raise_inv | (refine AInv_admitted ?_ (by assumption)) | (refine AInv_held ?_ (by assumption))
    | (refine AInv_refused ?_ (by assumption)) | intro _ | split

theorem takeNonce_inv {s : State} {h : Word} {n : Nat} {root : Bool} (hs : State.Inv s) :
    NInv (State.takeNonce s h n root) := by
  unfold State.takeNonce
  with_reducible repeat' first
    | assumption | apply NInv_mktaken | apply NInv_mkrefused | apply NInv_mkite | apply exhaust_inv
    | apply awaitRaise_inv | apply setCounter_inv | apply raise_inv | (refine AInv_admitted ?_ (by assumption))
    | (refine AInv_held ?_ (by assumption)) | (refine AInv_refused ?_ (by assumption)) | intro _
    | (refine inv_mk ?_ rfl rfl rfl rfl rfl rfl; assumption) | split

/-! ## Machine/Alarm.lean -/

theorem setMonitor_inv {s : State} {cls inst : Nat} {m : Monitor} (hs : State.Inv s) :
    (State.setMonitor s cls inst m).Inv := by
  unfold State.setMonitor
  with_reducible (refine inv_mk ?_ rfl rfl rfl rfl rfl rfl; assumption)

theorem endHolders_inv {s : State} {p : Item → Bool} (hs : State.Inv s) : (State.endHolders s p).Inv := by
  unfold State.endHolders
  with_reducible repeat' first | assumption | apply failItem_inv | apply inv_foldl | intro _

theorem eraseUnit_inv {s : State} {u : Nat} {counts : Bool} (hs : State.Inv s) :
    (State.eraseUnit s u counts).Inv := by
  unfold State.eraseUnit
  with_reducible repeat' first | apply inv_ite | intro _ | (refine inv_mk ?_ rfl rfl rfl rfl rfl rfl; assumption)

theorem noteLockOut_inv {s : State} {u : UnitNo} (hs : State.Inv s) : (State.noteLockOut s u).Inv := by
  unfold State.noteLockOut
  with_reducible repeat' first
    | assumption | apply inv_ite | intro _ | (refine inv_mk ?_ rfl rfl rfl rfl rfl rfl; assumption)

theorem zeroCistern_inv {s : State} {a1 : Nat} (hs : s.Inv) : (State.zeroCistern s a1).Inv :=
  inv_cells hs memErase_wf rfl rfl rfl rfl rfl

theorem fenceEngine_inv {s : State} {e : Nat} {counts : Bool} (hs : State.Inv s) :
    (State.fenceEngine s e counts).Inv := by
  unfold State.fenceEngine
  with_reducible repeat' first
    | apply zeroCistern_inv | apply endHolders_inv | (refine inv_mk ?_ rfl rfl rfl rfl rfl rfl; assumption)

theorem fenceUnit_inv {s : State} {a1 : UnitNo} {a2 : Bool} (hs : s.Inv) : (State.fenceUnit s a1 a2).Inv := by
  unfold State.fenceUnit
  refine inv_ite (fun _ => hs) fun _ => inv_ite (fun _ => ?_) fun _ => inv_ite (fun _ => ?_) fun _ => inv_ite (fun _ => ?_) fun _ => inv_ite (fun _ => ?_) fun _ => hs
  · refine inv_ite (fun _ => noteLockOut_inv ?_) fun _ => ?_ <;>
      exact inv_ite (fun _ => rollback_inv (endHolders_inv (eraseUnit_inv (modifyUnit_inv hs)))) fun _ => endHolders_inv (eraseUnit_inv (modifyUnit_inv hs))
  · exact inv_ite (fun _ => noteLockOut_inv (fenceEngine_inv hs)) fun _ => fenceEngine_inv hs
  · exact endHolders_inv (modifyCore_inv hs)
  · exact inv_pool hs rfl rfl rfl (Nat.zero_le _) rfl rfl

theorem haltErase_inv {s : State} (hs : s.Inv) : (State.haltErase s).Inv :=
  inv_cells_pool hs (fun h => memErase_wf (memErase_wf h)) rfl rfl (Nat.zero_le _) rfl rfl

theorem endSessions_inv {s : State} (hs : State.Inv s) : (State.endSessions s).Inv := by
  unfold State.endSessions
  with_reducible (refine inv_mk ?_ rfl rfl rfl rfl rfl rfl; assumption)

theorem enterAlarmHold_inv {s : State} (hs : State.Inv s) : (State.enterAlarmHold s).Inv := by
  unfold State.enterAlarmHold
  with_reducible repeat' first
    | assumption | apply modeStatusAll_inv | apply haltErase_inv | apply noteMode_inv
    | (refine inv_mk ?_ rfl rfl rfl rfl rfl rfl; apply endSessions_inv)

theorem startZeroise_inv {s : State} (hs : State.Inv s) : (State.startZeroise s).Inv := by
  unfold State.startZeroise
  with_reducible repeat' first
    | assumption | intro _ | (refine inv_mk ?_ rfl rfl rfl rfl rfl rfl; first | apply sendRing_inv | apply inv_ite)

theorem abandonStores_inv {s : State} (hs : State.Inv s) : (State.abandonStores s).Inv := by
  unfold State.abandonStores
  with_reducible repeat' first
    | assumption | apply tearOtp_inv | (refine inv_mk ?_ rfl rfl rfl rfl rfl rfl; apply inv_foldl)

theorem appendLog_inv {s : State} {a1 : LogEntry} (hs : s.Inv) : (State.appendLog s a1).Inv := by
  have h : State.Inv { s with sen := { s.sen with
      log := ({ a1 with seq := s.sen.logNext } :: s.sen.log).take 2040
      logNext := s.sen.logNext + 1 } } :=
    ⟨hs.memory, logOk_take (l := _ :: _) ⟨rfl, hs.logSeq⟩, List.length_take_le .., hs.pool, hs.fifos, hs.slots⟩
  unfold State.appendLog
  generalize ({ s with sen := { s.sen with
      log := ({ a1 with seq := s.sen.logNext } :: s.sen.log).take 2040
      logNext := s.sen.logNext + 1 } } : State) = t at h ⊢
  with_reducible repeat' first
    | assumption | apply sendVector_inv | apply inv_ite | intro _
    | (refine inv_mk ?_ rfl rfl rfl rfl rfl rfl; first | assumption | split)

theorem noteEvent_inv {s : State} {e : AlarmEv} (hs : State.Inv s) : (State.noteEvent s e).Inv := by
  unfold State.noteEvent
  with_reducible repeat' first | assumption | apply setMonitor_inv

theorem logOne_inv {s : State} {e : LogEntry} (hs : State.Inv s) : (State.logOne s e).Inv := by
  unfold State.logOne
  with_reducible repeat' first
    | assumption | apply setMonitor_inv | apply appendLog_inv | apply inv_ite | intro _
    | (refine inv_mk ?_ rfl rfl rfl rfl rfl rfl; apply setMonitor_inv)

theorem requestWarm_inv {s : State} {c : WarmCause} (hs : State.Inv s) : (State.requestWarm s c).Inv := by
  unfold State.requestWarm
  with_reducible repeat' first
    | assumption | apply inv_ite | intro _ | (refine inv_mk ?_ rfl rfl rfl rfl rfl rfl; first | assumption | split)

theorem stewardAlarm_inv {s : State} (hs : State.Inv s) : (State.stewardAlarm s).Inv := by
  unfold State.stewardAlarm
  with_reducible repeat' first
    | apply requestWarm_inv | apply inv_ite | intro _
    | (refine inv_mk ?_ rfl rfl rfl rfl rfl rfl; first | assumption | split)

theorem respond_inv {s : State} {before : Option Machine.Level} {l : Machine.Level} (hs : State.Inv s) :
    (State.respond s before l).Inv := by
  unfold State.respond
  with_reducible repeat' first
    | apply startZeroise_inv | apply abandonStores_inv | apply enterAlarmHold_inv | apply inv_ite | intro _
    | (refine inv_mk ?_ rfl rfl rfl rfl rfl rfl; first | assumption | apply inv_ite | split)

theorem raiseEvents_inv {s0 : State} {evs : List AlarmEv} (hs : State.Inv s0) : (State.raiseEvents s0 evs).Inv := by
  unfold State.raiseEvents
  with_reducible repeat' first
    | assumption | apply noteEvent_inv | apply respond_inv | apply fenceUnit_inv | apply logOne_inv
    | apply stewardAlarm_inv | apply noteMode_inv | apply inv_ite | apply inv_foldl | intro _

end Sys2Proof.Machine
end

