-- ==== Sys2Proof/Laws/Keep2.lean ====
section
/-! SUPPORT. One lemma each: the invariant is kept by the operations and meanings of
queues, entropy, the vault, quorums, the cipher fabric, object sealing and the spread engine. -/

namespace Sys2Proof.Machine

/-! ## Machine/Queues.lean -/

theorem writeCtrl_inv {s : State} {fn qp : Nat} {value : Word} (hs : State.Inv s) :
    (State.writeCtrl s fn qp value).Inv := by
  unfold State.writeCtrl
  with_reducible repeat' first | assumption | apply setReg_inv

theorem qpEnable_inv {s : State} {fn qp : Nat} {value : Word} (hs : State.Inv s) :
    (State.qpEnable s fn qp value).Inv := by
  unfold State.qpEnable
  with_reducible repeat' first
    | assumption | apply writeCtrl_inv | apply setQp_inv | apply queueError_inv | apply inv_ite | intro _

theorem execQpEnable_inv {fn qp : Nat} {value : Word} {s : State} (hs : State.Inv s) :
    InvR (execQpEnable fn qp value s) := by
  unfold execQpEnable
  with_reducible repeat' first | assumption | apply invR_next | apply qpEnable_inv

theorem qpDisable_inv {s : State} {fn qp : Nat} {value : Word} (hs : State.Inv s) :
    (State.qpDisable s fn qp value).Inv := by
  unfold State.qpDisable
  with_reducible repeat' first | assumption | apply writeCtrl_inv | apply setQp_inv | apply inv_ite | intro _

theorem execQpDisable_inv {fn qp : Nat} {value : Word} {s : State} (hs : State.Inv s) :
    InvR (execQpDisable fn qp value s) := by
  unfold execQpDisable
  with_reducible repeat' first | assumption | apply invR_next | apply qpDisable_inv

theorem sqDoorbell_inv {s : State} {fn qp : Nat} {value : Word} (hs : State.Inv s) :
    (State.sqDoorbell s fn qp value).Inv := by
  unfold State.sqDoorbell
  with_reducible repeat' first | assumption | apply queueError_inv | apply setQp_inv | apply inv_ite | intro _

theorem execSqDoorbell_inv {fn qp : Nat} {value : Word} {s : State} (hs : State.Inv s) :
    InvR (execSqDoorbell fn qp value s) := by
  unfold execSqDoorbell
  with_reducible repeat' first | assumption | apply invR_next | apply sqDoorbell_inv

theorem pushWrite_inv {s : State} {fn qp : Nat} {bytes : List Byte} {oneTlp : Bool} (hs : State.Inv s) :
    (State.pushWrite s fn qp bytes oneTlp).Inv := by
  unfold State.pushWrite
  with_reducible repeat' first | assumption | apply queueError_inv | apply setQp_inv | apply inv_ite | intro _

theorem execPushWrite_inv {fn qp : Nat} {bytes : List Byte} {oneTlp : Bool} {s : State} (hs : State.Inv s) :
    InvR (execPushWrite fn qp bytes oneTlp s) := by
  unfold execPushWrite
  with_reducible repeat' first | assumption | apply invR_next | apply pushWrite_inv

theorem cqDoorbell_inv {s : State} {fn qp : Nat} {value : Word} (hs : State.Inv s) :
    (State.cqDoorbell s fn qp value).Inv := by
  unfold State.cqDoorbell
  with_reducible repeat' first | assumption | apply queueError_inv | apply setQp_inv | apply inv_ite | intro _

theorem execCqDoorbell_inv {fn qp : Nat} {value : Word} {s : State} (hs : State.Inv s) :
    InvR (execCqDoorbell fn qp value s) := by
  unfold execCqDoorbell
  with_reducible repeat' first | assumption | apply invR_next | apply cqDoorbell_inv

theorem touchFlow_inv {s : State} {a1 : Nat} (hs : s.Inv) : (State.touchFlow s a1).Inv := by
  have missed : State.Inv { s with dsp := { s.dsp with
      flowMiss := s.dsp.flowMiss + 1
      flowCached := a1 :: s.dsp.flowCached } } := inv_mk hs rfl rfl rfl rfl rfl rfl
  unfold State.touchFlow
  refine inv_ite (fun _ => inv_mk hs rfl rfl rfl rfl rfl rfl) fun _ => ?_
  generalize ({ s with dsp := { s.dsp with
      flowMiss := s.dsp.flowMiss + 1
      flowCached := a1 :: s.dsp.flowCached } } : State) = t at missed ⊢
  refine inv_ite (fun _ => ?_) fun _ => missed
  extract_lets four hit s1 s2 s3
  have h3 : s3.Inv := (inv_foldl (fun _ _ => setFlow_inv) (inv_foldl (fun _ _ => releaseFlow_inv)
    (inv_foldl (fun _ _ => failItem_inv) missed)))
  clear_value s3
  exact inv_mk h3 rfl rfl rfl rfl rfl rfl

theorem consume_inv {s : State} {fn qp : Nat} (hs : State.Inv s) : (State.consume s fn qp).Inv := by
  unfold State.consume
  with_reducible repeat' first
    | assumption | apply touchFlow_inv | apply setFlow_inv | apply enqueue_inv | apply trace_inv | apply setItem_inv
    | apply inv_ite | intro _ | (refine inv_mk ?_ rfl rfl rfl rfl rfl rfl; first | apply setQp_inv | split)

theorem release_inv {s : State} {id : Nat} {ok : Bool} (hs : State.Inv s) : (State.release s id ok).Inv := by
  unfold State.release
  with_reducible repeat' first
    | assumption | apply afterRelease_inv | apply writeRecord_inv | apply releaseFlow_inv | apply inv_ite | intro _
    | (refine inv_mk ?_ rfl rfl rfl rfl rfl rfl; split)

theorem execRecordRelease_inv {item : Nat} {cqWriteOk : Bool} {s : State} (hs : State.Inv s) :
    InvR (execRecordRelease item cqWriteOk s) := by
  unfold execRecordRelease
  with_reducible repeat' first | assumption | apply invR_next | apply release_inv

theorem execCoalTimeout_inv {fn qp : Nat} {s : State} (hs : State.Inv s) :
    InvR (execCoalTimeout fn qp s) := by
  unfold execCoalTimeout
  with_reducible repeat' first
    | assumption | apply invR_next | apply sendVector_inv | apply setQp_inv | apply invR_ite | intro _

theorem execQuiesce_inv {item : Nat} {s : State} (hs : State.Inv s) : InvR (execQuiesce item s) := by
  unfold execQuiesce
  with_reducible repeat' first
    | assumption | apply invR_next | apply onRunning_inv | apply failItem_inv | apply enterQuiesce_inv
    | apply complete_inv | apply yieldItem_inv | apply inv_ite | intro _

theorem execQuiesceTimeout_inv {item : Nat} {s : State} (hs : State.Inv s) : InvR (execQuiesceTimeout item s) := by
  unfold execQuiesceTimeout
  with_reducible repeat' first
    | assumption | apply invR_next | apply endWaitWith_inv | apply invR_ite | intro _ | split

theorem execResume_inv {item : Nat} {s : State} (hs : State.Inv s) : InvR (execResume item s) := by
  unfold execResume
  with_reducible repeat' first
    | assumption | apply invR_next | apply onRunning_inv | apply failItem_inv | apply noteMode_inv
    | apply complete_inv | apply inv_ite | intro _ | (refine inv_mk ?_ rfl rfl rfl rfl rfl rfl; assumption)

/-! ## Machine/Entropy.lean -/

theorem seedGen_inv {s : State} {u : Nat} {b : Bool} (hs : State.Inv s) : (State.seedGen s u b).Inv := by
  unfold State.seedGen
  with_reducible repeat' first | assumption | (refine inv_mk ?_ rfl rfl rfl rfl rfl rfl; apply draw_inv)

theorem seedFurrow_inv {s : State} {u : Nat} (hs : State.Inv s) : (State.seedFurrow s u).Inv := by
  unfold State.seedFurrow
  with_reducible repeat' first | assumption | apply seedGen_inv

theorem instantiateMain_inv {s : State} (hs : s.Inv) : (State.instantiateMain s).Inv := by
  unfold State.instantiateMain
  have hp := hs.pool
  with_reducible repeat' first
    | assumption | apply seedFurrow_inv | apply inv_foldl | (refine inv_mk ?_ rfl rfl rfl rfl rfl rfl; split)
    | dsimp only
  rename_i h
  rw [h] at hp
  exact inv_pool hs rfl rfl rfl (Nat.le_of_succ_le hp) rfl rfl

theorem reseedMain_inv {s : State} (hs : s.Inv) : (State.reseedMain s).Inv := by
  unfold State.reseedMain
  have hp := hs.pool
  split
  · rename_i h _
    rw [h] at hp
    exact inv_pool hs rfl rfl rfl (Nat.le_of_succ_le hp) rfl rfl
  · exact hs

theorem execEntStartupDone_inv {a0 a1 : BitVec 32} {a2 : Bool} {s : State} (hs : s.Inv) : InvR (execEntStartupDone a0 a1 a2 s) := by
  unfold execEntStartupDone
  refine invR_ite (fun _ => hs) fun _ => ?_
  extract_lets start src s1 failed few evs s2 src' p s2' src'' s3
  have h2 : s2.Inv := raiseEvents_inv (inv_mk hs rfl rfl rfl rfl rfl rfl)
  clear_value s2
  have h3 : s3.Inv := inv_pool (s := s2) h2 rfl rfl rfl (Nat.le_refl 4) rfl rfl
  refine invR_ite (fun _ => inv_mk h2 rfl rfl rfl rfl rfl rfl) fun _ => ?_
  exact invR_ite (fun _ => instantiateMain_inv h3) fun _ => inv_mk h3 rfl rfl rfl rfl rfl rfl

theorem modifySource_inv {s : State} {n : Nat} {f : EntSource → EntSource} (hs : State.Inv s) :
    (State.modifySource s n f).Inv := by
  unfold State.modifySource
  with_reducible (refine inv_mk ?_ rfl rfl rfl rfl rfl rfl; assumption)

theorem fenceSource_inv {s : State} {n : Nat} (hs : State.Inv s) : (State.fenceSource s n).Inv := by
  unfold State.fenceSource
  with_reducible repeat' first | assumption | apply modifySource_inv | apply raiseEvents_inv

theorem execEntropyBlock_inv {a0 : Nat} {a1 : List Byte} {s : State} (hs : s.Inv) : InvR (execEntropyBlock a0 a1 s) := by
  unfold execEntropyBlock
  split
  · exact hs
  · refine invR_ite (fun _ => hs) fun _ => ?_
    extract_lets r apt s1 src s2 s3 src' s4 src''
    have h2 : s2.Inv := inv_mk (modifySource_inv hs) rfl rfl rfl rfl rfl rfl
    have h4 : s4.Inv := inv_mk (modifySource_inv hs) rfl rfl rfl rfl rfl rfl
    refine invR_ite (fun _ => invR_ite (fun _ => fenceSource_inv h2) fun _ => h2) fun _ => ?_
    refine invR_ite (fun h => inv_pool h4 rfl rfl rfl ?_ rfl rfl) fun _ => h4
    rw [List.length_append]
    exact h.1

theorem execSourceRetest_inv {source : Nat} {s : State} (hs : State.Inv s) : InvR (execSourceRetest source s) := by
  unfold execSourceRetest
  with_reducible repeat' first
    | assumption | apply invR_next | apply modifySource_inv | apply invR_ite | intro _ | split

theorem execSourceRetestDone_inv {source : Nat} {passed : Bool} {s : State} (hs : State.Inv s) :
    InvR (execSourceRetestDone source passed s) := by
  unfold execSourceRetestDone
  with_reducible repeat' first
    | assumption | apply invR_next | apply modifySource_inv | apply invR_ite | intro _ | split

theorem startFills_inv {s : State} (hs : State.Inv s) : (State.startFills s).Inv := by
  unfold State.startFills
  with_reducible (refine inv_mk ?_ rfl rfl rfl rfl rfl rfl; assumption)

theorem execMainDrbgReseed_inv {s : State} (hs : State.Inv s) : InvR (execMainDrbgReseed s) := by
  unfold execMainDrbgReseed
  with_reducible repeat' first
    | assumption | apply invR_next | apply reseedMain_inv | apply startFills_inv | apply noteMode_inv
    | apply invR_ite | intro _ | (refine inv_mk ?_ rfl rfl rfl rfl rfl rfl; apply reseedMain_inv)

theorem execMainDrbgStop_inv {s : State} (hs : State.Inv s) : InvR (execMainDrbgStop s) := by
  unfold execMainDrbgStop
  with_reducible repeat' first
    | assumption | apply invR_next | apply invR_ite | intro _
    | (refine inv_mk ?_ rfl rfl rfl rfl rfl rfl; assumption)

theorem setTenantDrbg_inv {s : State} {t : Byte} {d : TenantDrbg} (hs : State.Inv s) :
    (State.setTenantDrbg s t d).Inv := by
  unfold State.setTenantDrbg
  with_reducible (refine inv_mk ?_ rfl rfl rfl rfl rfl rfl; assumption)

theorem instantiateTenant_inv {s : State} {t : Byte} (hs : State.Inv s) : (State.instantiateTenant s t).Inv := by
  unfold State.instantiateTenant
  with_reducible repeat' first | assumption | apply draw_inv | apply setTenantDrbg_inv

theorem execTenantReseedRequest_inv {tenant : Byte} {s : State} (hs : State.Inv s) :
    InvR (execTenantReseedRequest tenant s) := by
  unfold execTenantReseedRequest
  with_reducible repeat' first
    | assumption | apply invR_next | apply setTenantDrbg_inv | apply invR_ite | intro _ | split

theorem execTenantReseed_inv {tenant : Byte} {s : State} (hs : State.Inv s) : InvR (execTenantReseed tenant s) := by
  unfold execTenantReseed
  with_reducible repeat' first
    | assumption | apply invR_next | apply draw_inv | apply setTenantDrbg_inv | apply invR_ite | intro _ | split

theorem tenantDraw_inv {s : State} {t : Byte} {n : Nat} (hs : State.Inv s) : OInv2 (State.tenantDraw s t n) := by
  unfold State.tenantDraw
  with_reducible repeat' first
    | assumption | apply OInv2_some | apply OInv2_none | apply OInv2_ite | apply setTenantDrbg_inv | intro _ | split

theorem randomWait_inv {s : State} {it : Item} {d : TenantDrbg} {ask : Bool} (hs : State.Inv s) :
    (State.randomWait s it d ask).Inv := by
  unfold State.randomWait
  with_reducible repeat' first | assumption | apply setItem_inv | apply setTenantDrbg_inv

theorem randomServed_inv {s : State} {it : Item} {d : TenantDrbg} (hs : State.Inv s) :
    (State.randomServed s it d).Inv := by
  unfold State.randomServed
  with_reducible repeat' first | assumption | apply setTenantDrbg_inv

theorem execRandom_inv {item : Nat} {s : State} (hs : State.Inv s) : InvR (execRandom item s) := by
  unfold execRandom
  with_reducible repeat' first
    | assumption | apply invR_next | apply onRunning_inv | apply randomWait_inv | apply reseedMain_inv
    | apply draw_inv | apply randomServed_inv | apply writeOut_inv | apply complete_inv | apply inv_ite
    | apply inv_ite_snd | intro _ | (refine inv_mk ?_ rfl rfl rfl rfl rfl rfl; split)

theorem execRandomReseed_inv {item : Nat} {s : State} (hs : State.Inv s) : InvR (execRandomReseed item s) := by
  unfold execRandomReseed
  with_reducible repeat' first
    | assumption | apply invR_next | apply onRunning_inv | apply randomWait_inv | apply draw_inv
    | apply reseedMain_inv | apply complete_inv | apply randomServed_inv | apply inv_ite | intro _
    | (refine inv_mk ?_ rfl rfl rfl rfl rfl rfl; split)

/-! ## Machine/Vault.lean -/

theorem createSession_inv {s : State} {k : NewKey} (hs : State.Inv s) : OInv2 (State.createSession s k) := by
  unfold State.createSession
  with_reducible repeat' first
    | apply OInv2_some | apply OInv2_none | (refine inv_mk ?_ rfl rfl rfl rfl rfl rfl; assumption) | split

theorem createKey_inv {s : State} {it : Item} {cls : Nat} {k : NewKey} {body : Word → List Byte} (hs : State.Inv s) :
    (State.createKey s it cls k body).Inv := by
  unfold State.createKey
  with_reducible repeat' first
    | assumption | apply createSession_inv | apply failItem_inv | apply complete_inv | apply storeFor_inv
    | apply inv_ite | (refine OInv2_get ?_ (by assumption)) | intro _
    | (refine inv_mk ?_ rfl rfl rfl rfl rfl rfl; split)

theorem newMaterial_inv {s : State} {t : Byte} {alg : Nat} (hs : State.Inv s) :
    OInv2 (State.newMaterial s t alg) := by
  unfold State.newMaterial
  with_reducible repeat' first
    | assumption | apply OInv2_map | apply OInv2_ite | apply tenantDraw_inv | apply freeBytes_inv | apply choose_inv
    | intro _

theorem execKeyGenerate_inv {item : Nat} {s : State} (hs : State.Inv s) : InvR (execKeyGenerate item s) := by
  unfold execKeyGenerate
  with_reducible repeat' first
    | assumption | apply invR_next | apply onRunning_inv | apply failItem_inv | apply newMaterial_inv
    | apply createKey_inv | apply inv_ite | (refine OInv2_get ?_ (by assumption)) | intro _
    | (refine inv_mk ?_ rfl rfl rfl rfl rfl rfl; split)

theorem finishImport_inv {s : State} {it : Item} {m : List Byte} (hs : State.Inv s) :
    (State.finishImport s it m).Inv := by
  unfold State.finishImport
  with_reducible repeat' first | assumption | apply createKey_inv

theorem setWork_inv {s : State} {w : PkWork} (hs : State.Inv s) : (State.setWork s w).Inv := by
  unfold State.setWork
  with_reducible (refine inv_mk ?_ rfl rfl rfl rfl rfl rfl; assumption)

theorem dropWork_inv {s : State} {item : Nat} (hs : State.Inv s) : (State.dropWork s item).Inv := by
  unfold State.dropWork
  with_reducible (refine inv_mk ?_ rfl rfl rfl rfl rfl rfl; assumption)

theorem openWindow_inv {s : State} {it : Item} {engine : Nat} (hs : State.Inv s) :
    (State.openWindow s it engine).Inv := by
  unfold State.openWindow
  with_reducible repeat' first | assumption | apply setWork_inv

theorem execKeyImport_inv {item : Nat} {s : State} (hs : State.Inv s) : InvR (execKeyImport item s) := by
  unfold execKeyImport
  with_reducible repeat' first
    | assumption | apply invR_next | apply onRunning_inv | apply failItem_inv | apply openWindow_inv
    | apply finishImport_inv | apply inv_ite | intro _ | (refine inv_mk ?_ rfl rfl rfl rfl rfl rfl; split)

theorem execKeyExport_inv {item : Nat} {s : State} (hs : State.Inv s) : InvR (execKeyExport item s) := by
  unfold execKeyExport
  with_reducible repeat' first
    | assumption | apply invR_next | apply onRunning_inv | apply failItem_inv | apply complete_inv
    | apply writeOut_inv | apply inv_ite | intro _ | (refine inv_mk ?_ rfl rfl rfl rfl rfl rfl; split)

theorem derivedLen_inv {s : State} {alg : Nat} (hs : State.Inv s) : (State.derivedLen s alg).2.Inv := by
  unfold State.derivedLen
  with_reducible repeat' first | assumption | apply choose_inv | apply inv_ite_snd | intro _

theorem deriveKey_inv {s : State} {it : Item} {parent : Word} {k : KeySpec} {label ctx : List Byte}
    (hs : State.Inv s) :
    (State.deriveKey s it parent k label ctx).Inv := by
  unfold State.deriveKey
  with_reducible repeat' first
    | assumption | apply failItem_inv | apply createKey_inv
    | (refine inv_mk ?_ rfl rfl rfl rfl rfl rfl; first | apply derivedLen_inv | split)

theorem execKeyDerive_inv {item : Nat} {s : State} (hs : State.Inv s) : InvR (execKeyDerive item s) := by
  unfold execKeyDerive
  with_reducible repeat' first
    | assumption | apply invR_next | apply onRunning_inv | apply failItem_inv | apply deriveKey_inv | apply inv_ite
    | intro _ | (refine inv_mk ?_ rfl rfl rfl rfl rfl rfl; split)

theorem execKeyTemplate_inv {item : Nat} {s : State} (hs : State.Inv s) : InvR (execKeyTemplate item s) := by
  unfold execKeyTemplate
  with_reducible repeat' first
    | assumption | apply invR_next | apply onRunning_inv | apply failItem_inv | apply storeFor_inv | apply inv_ite
    | intro _ | (refine inv_mk ?_ rfl rfl rfl rfl rfl rfl; split)

theorem execKeyRetire_inv {item : Nat} {s : State} (hs : State.Inv s) : InvR (execKeyRetire item s) := by
  unfold execKeyRetire
  with_reducible repeat' first
    | assumption | apply invR_next | apply onRunning_inv | apply failItem_inv | apply storeFor_inv
    | apply complete_inv | apply inv_ite | intro _

theorem execKeyPurge_inv {item : Nat} {s : State} (hs : State.Inv s) : InvR (execKeyPurge item s) := by
  unfold execKeyPurge
  with_reducible repeat' first
    | assumption | apply invR_next | apply onRunning_inv | apply failItem_inv | apply storeFor_inv | apply inv_ite
    | intro _

theorem startScan_inv {s : State} {item : Nat} {h : Word} (hs : State.Inv s) : (State.startScan s item h).Inv := by
  unfold State.startScan
  with_reducible (refine inv_mk ?_ rfl rfl rfl rfl rfl rfl; assumption)

theorem execKeyFree_inv {item : Nat} {s : State} (hs : State.Inv s) : InvR (execKeyFree item s) := by
  unfold execKeyFree
  with_reducible repeat' first
    | assumption | apply invR_next | apply onRunning_inv | apply failItem_inv | apply startScan_inv
    | apply freeSession_inv | apply yieldItem_inv | apply inv_ite | intro _

theorem execRevocationScanDone_inv {item : Nat} {s : State} (hs : State.Inv s) :
    InvR (execRevocationScanDone item s) := by
  unfold execRevocationScanDone
  with_reducible repeat' first
    | assumption | apply invR_next | apply endWaitWith_inv
    | (refine inv_mk ?_ rfl rfl rfl rfl rfl rfl; apply revScan_inv) | split

theorem execKeyInfo_inv {item : Nat} {s : State} (hs : State.Inv s) : InvR (execKeyInfo item s) := by
  unfold execKeyInfo
  with_reducible repeat' first
    | assumption | apply invR_next | apply onRunning_inv | apply failItem_inv | apply complete_inv
    | apply writeOut_inv | apply inv_ite | intro _ | (refine inv_mk ?_ rfl rfl rfl rfl rfl rfl; split)

theorem execKeyPublic_inv {item : Nat} {s : State} (hs : State.Inv s) : InvR (execKeyPublic item s) := by
  unfold execKeyPublic
  with_reducible repeat' first
    | assumption | apply invR_next | apply onRunning_inv | apply failItem_inv | apply complete_inv
    | apply writeOut_inv | apply inv_ite | intro _ | (refine inv_mk ?_ rfl rfl rfl rfl rfl rfl; split)

theorem signReport_inv {s : State} {head : List Byte} (hs : State.Inv s) : (State.signReport s head).2.Inv := by
  unfold State.signReport
  with_reducible repeat' first | assumption | apply signWith_inv

theorem deviceReport_inv {s : State} {t : Byte} {challenge : List Byte} (hs : State.Inv s) :
    (State.deviceReport s t challenge).2.Inv := by
  unfold State.deviceReport
  with_reducible repeat' first | assumption | apply signReport_inv

theorem execKeyAttest_inv {item : Nat} {s : State} (hs : State.Inv s) : InvR (execKeyAttest item s) := by
  unfold execKeyAttest
  with_reducible repeat' first
    | assumption | apply invR_next | apply onRunning_inv | apply failItem_inv | apply complete_inv
    | apply writeOut_inv | apply deviceReport_inv | apply signReport_inv | apply inv_ite | intro _
    | (refine inv_mk ?_ rfl rfl rfl rfl rfl rfl; split)

theorem execKeyDeviceCert_inv {item : Nat} {s : State} (hs : State.Inv s) : InvR (execKeyDeviceCert item s) := by
  unfold execKeyDeviceCert
  with_reducible repeat' first
    | assumption | apply invR_next | apply onRunning_inv | apply failItem_inv | apply complete_inv
    | apply writeOut_inv | apply inv_ite | intro _

/-! ## Machine/Quorum.lean -/

theorem wakeQuorum_inv {s : State} (hs : State.Inv s) : (State.wakeQuorum s).Inv := by
  unfold State.wakeQuorum
  with_reducible repeat' first | assumption | apply endWait_inv | apply inv_foldl

theorem closeSession_inv {s : State} (hs : State.Inv s) : (State.closeSession s).Inv := by
  unfold State.closeSession
  with_reducible repeat' first
    | assumption | apply wakeQuorum_inv | apply noteMode_inv
    | (refine inv_mk ?_ rfl rfl rfl rfl rfl rfl; assumption)

theorem storeSession_inv {s : State} {item : Nat} {a : StoreAction} {o : Outcome} (hs : State.Inv s) :
    (State.storeSession s item a o).Inv := by
  unfold State.storeSession
  with_reducible repeat' first | assumption | apply storeFor_inv | apply closeSession_inv | apply inv_ite | intro _

theorem enterMirrorSync_inv {s : State} (hs : State.Inv s) : (State.enterMirrorSync s).Inv := by
  unfold State.enterMirrorSync
  with_reducible repeat' first
    | assumption | apply enterPhase_inv | apply requestSync_inv | apply dropSteps_inv | apply modeStatusAll_inv

theorem leavePlanLoad_inv {s : State} (hs : State.Inv s) : (State.leavePlanLoad s).Inv := by
  unfold State.leavePlanLoad
  with_reducible repeat' first
    | assumption | apply enterMirrorSync_inv | apply enterPhase_inv | apply inv_ite | intro _

/-! ## Machine/Cipher.lean -/

theorem countFurrow_inv {s : State} {u blocks : Nat} (hs : State.Inv s) :
    (State.countFurrow s u blocks).Inv := by
  unfold State.countFurrow
  with_reducible (refine inv_mk ?_ rfl rfl rfl rfl rfl rfl; assumption)

theorem countLane_inv {s : State} {n bytes : Nat} (hs : State.Inv s) : (State.countLane s n bytes).Inv := by
  unfold State.countLane
  with_reducible (refine inv_mk ?_ rfl rfl rfl rfl rfl rfl; assumption)

theorem countWork_inv {s : State} {it : Item} {blocks bytes : Nat} (hs : State.Inv s) :
    (State.countWork s it blocks bytes).Inv := by
  unfold State.countWork
  with_reducible repeat' first
    | assumption | apply countFurrow_inv | apply countLane_inv | apply inv_ite | intro _
    | (refine inv_mk ?_ rfl rfl rfl rfl rfl rfl; split)

theorem onSym_inv {s : State} {item op : Nat}
    {f : Item → List Byte → List Byte → List Byte → List Byte → State} (hs : State.Inv s)
    (ha3 : ∀ x0 x1 x2 x3 x4, State.Inv (f x0 x1 x2 x3 x4) ) :
    (State.onSym s item op f).Inv := by
  unfold State.onSym
  with_reducible repeat' first
    | assumption | apply onRunning_inv | apply ha3 | apply inv_ite | intro _
    | (refine inv_mk ?_ rfl rfl rfl rfl rfl rfl; split)

theorem symDone_inv {s : State} {it : Item} {out nonce : List Byte} (hs : State.Inv s) :
    (State.symDone s it out nonce).Inv := by
  unfold State.symDone
  with_reducible repeat' first | assumption | apply countWork_inv | apply writeOut_inv | apply complete_inv

theorem symVerdict_inv {s : State} {it : Item} {same : Bool} (hs : State.Inv s) :
    (State.symVerdict s it same).Inv := by
  unfold State.symVerdict
  with_reducible repeat' first
    | assumption | apply countWork_inv | apply complete_inv | apply failItem_inv | apply inv_ite | intro _

theorem execGcmEnc_inv {item : Nat} {s : State} (hs : State.Inv s) : InvR (execGcmEnc item s) := by
  unfold execGcmEnc
  with_reducible repeat' first
    | assumption | apply invR_next | apply onSym_inv | apply takeNonce_inv | apply failItem_inv | apply symDone_inv
    | (refine NInv_refused ?_ (by assumption)) | (refine NInv_taken ?_ (by assumption))
    | (refine NInv_waits ?_ (by assumption)) | intro _ | (refine inv_mk ?_ rfl rfl rfl rfl rfl rfl; split)

theorem execGcmDec_inv {item : Nat} {s : State} (hs : State.Inv s) : InvR (execGcmDec item s) := by
  unfold execGcmDec
  with_reducible repeat' first
    | assumption | apply invR_next | apply onSym_inv | apply symDone_inv | apply zeroOutputs_inv
    | apply writeOut_inv | apply symVerdict_inv | apply inv_ite | intro _

theorem execCtrEnc_inv {item : Nat} {s : State} (hs : State.Inv s) : InvR (execCtrEnc item s) := by
  unfold execCtrEnc
  with_reducible repeat' first | assumption | apply invR_next | apply onSym_inv | apply symDone_inv | intro _

theorem execCtrDec_inv {item : Nat} {s : State} (hs : State.Inv s) : InvR (execCtrDec item s) := by
  unfold execCtrDec
  with_reducible repeat' first | assumption | apply invR_next | apply onSym_inv | apply symDone_inv | intro _

theorem execCbcEnc_inv {item : Nat} {s : State} (hs : State.Inv s) : InvR (execCbcEnc item s) := by
  unfold execCbcEnc
  with_reducible repeat' first | assumption | apply invR_next | apply onSym_inv | apply symDone_inv | intro _

theorem execCbcDec_inv {item : Nat} {s : State} (hs : State.Inv s) : InvR (execCbcDec item s) := by
  unfold execCbcDec
  with_reducible repeat' first | assumption | apply invR_next | apply onSym_inv | apply symDone_inv | intro _

theorem execCmacGen_inv {item : Nat} {s : State} (hs : State.Inv s) : InvR (execCmacGen item s) := by
  unfold execCmacGen
  with_reducible repeat' first | assumption | apply invR_next | apply onSym_inv | apply symDone_inv | intro _

theorem execCmacVer_inv {item : Nat} {s : State} (hs : State.Inv s) : InvR (execCmacVer item s) := by
  unfold execCmacVer
  with_reducible repeat' first | assumption | apply invR_next | apply onSym_inv | apply symVerdict_inv | intro _

theorem execXtsEnc_inv {item : Nat} {s : State} (hs : State.Inv s) : InvR (execXtsEnc item s) := by
  unfold execXtsEnc
  with_reducible repeat' first | assumption | apply invR_next | apply onSym_inv | apply symDone_inv | intro _

theorem execXtsDec_inv {item : Nat} {s : State} (hs : State.Inv s) : InvR (execXtsDec item s) := by
  unfold execXtsDec
  with_reducible repeat' first | assumption | apply invR_next | apply onSym_inv | apply symDone_inv | intro _

theorem execHash_inv {item : Nat} {s : State} (hs : State.Inv s) : InvR (execHash item s) := by
  unfold execHash
  with_reducible repeat' first | assumption | apply invR_next | apply onSym_inv | apply symDone_inv | intro _

theorem execHmacGen_inv {item : Nat} {s : State} (hs : State.Inv s) : InvR (execHmacGen item s) := by
  unfold execHmacGen
  with_reducible repeat' first | assumption | apply invR_next | apply onSym_inv | apply symDone_inv | intro _

theorem execHmacVer_inv {item : Nat} {s : State} (hs : State.Inv s) : InvR (execHmacVer item s) := by
  unfold execHmacVer
  with_reducible repeat' first | assumption | apply invR_next | apply onSym_inv | apply symVerdict_inv | intro _

/-! ## Machine/Object.lean -/

theorem setTenantObj_inv {s : State} {t : Byte} {x : TenantObj} (hs : State.Inv s) :
    (State.setTenantObj s t x).Inv := by
  unfold State.setTenantObj
  with_reducible (refine inv_mk ?_ rfl rfl rfl rfl rfl rfl; assumption)

theorem closeEpoch_inv {s : State} {t : Byte} (hs : State.Inv s) : (State.closeEpoch s t).Inv := by
  unfold State.closeEpoch
  with_reducible repeat' first
    | assumption | apply setTenantObj_inv | apply enqueue_inv
    | (refine inv_mk ?_ rfl rfl rfl rfl rfl rfl; first | apply setTenantObj_inv | split)

theorem execEpochBoundary_inv {tenant : Byte} {s : State} (hs : State.Inv s) :
    InvR (execEpochBoundary tenant s) := by
  unfold execEpochBoundary
  with_reducible repeat' first
    | assumption | apply invR_next | apply setTenantObj_inv | apply closeEpoch_inv | apply invR_ite | intro _
    | split

theorem appendLeaf_inv {s : State} {t : Byte} {manifest : List Byte} (hs : State.Inv s) :
    (State.appendLeaf s t manifest).Inv := by
  unfold State.appendLeaf
  with_reducible repeat' first
    | assumption | apply memStore_inv | apply setTenantObj_inv | apply closeEpoch_inv | apply inv_ite | intro _
    | (refine inv_mk ?_ rfl rfl rfl rfl rfl rfl; split)

theorem storeEpoch_inv {s : State} {t : Byte} {item : Nat} {record : List Byte} (hs : State.Inv s) :
    (State.storeEpoch s t item record).Inv := by
  unfold State.storeEpoch
  with_reducible (refine inv_mk ?_ rfl rfl rfl rfl rfl rfl; assumption)

theorem execEpochClose_inv {item : Nat} {s : State} (hs : State.Inv s) : InvR (execEpochClose item s) := by
  unfold execEpochClose
  with_reducible repeat' first
    | assumption | apply invR_next | apply onRunning_inv | apply complete_inv | apply storeEpoch_inv
    | apply signWith_inv | intro _ | (refine inv_mk ?_ rfl rfl rfl rfl rfl rfl; split)

theorem execObjEpochKey_inv {item : Nat} {s : State} (hs : State.Inv s) : InvR (execObjEpochKey item s) := by
  unfold execObjEpochKey
  with_reducible repeat' first
    | assumption | apply invR_next | apply onRunning_inv | apply failItem_inv | apply complete_inv
    | apply setTenantObj_inv | apply inv_ite | intro _ | (refine inv_mk ?_ rfl rfl rfl rfl rfl rfl; split)

theorem execObjEpochFetch_inv {item : Nat} {s : State} (hs : State.Inv s) : InvR (execObjEpochFetch item s) := by
  unfold execObjEpochFetch
  with_reducible repeat' first
    | assumption | apply invR_next | apply onRunning_inv | apply failItem_inv | apply complete_inv
    | apply writeOut_inv | apply setTenantObj_inv | apply inv_ite | intro _
    | (refine inv_mk ?_ rfl rfl rfl rfl rfl rfl; split)

theorem putExchange_inv {s : State} {c item j : Nat} (hs : State.Inv s) :
    (State.putExchange s c item j).2.Inv := by
  unfold State.putExchange
  with_reducible repeat' first
    | assumption | apply openExchange_inv | (refine inv_mk ?_ rfl rfl rfl rfl rfl rfl; split)

theorem putRecords_inv {a0 a1 a2 : Nat} {a3 a4 a5 : List Byte} {a6 : Nat} {a7 : Option (List Byte)} {a8 a9 : Nat} {s : State}
    (hs : s.Inv) : (State.putRecords a0 a1 a2 a3 a4 a5 a6 a7 a8 a9 s).1.Inv := by
  induction a8 generalizing a9 s with
  | zero => exact hs
  | succ n ih =>
    unfold State.putRecords
    refine inv_ite_fst (fun _ => inv_ite_fst (fun _ => ih (chanSend_inv (putExchange_inv hs))) fun _ => hs) fun _ => ?_
    split
    · exact hs
    · exact inv_ite_fst (fun _ => hs) fun _ => chanSend_inv (putExchange_inv hs)

theorem setSeal_inv {s : State} {r : SealRun} (hs : State.Inv s) : (State.setSeal s r).Inv := by
  unfold State.setSeal
  with_reducible (refine inv_mk ?_ rfl rfl rfl rfl rfl rfl; assumption)

theorem sealSend_inv {s : State} {g : Geometry} {r : SealRun} {close : Bool} (hs : State.Inv s) :
    (State.sealSend s g r close).1.Inv := by
  unfold State.sealSend
  with_reducible repeat' first | assumption | apply putRecords_inv | apply inv_foldl_fst | intro _

theorem sealStart_inv {s : State} {it : Item} {b : List Byte} {objRoot frgRoot : Word} (hs : State.Inv s) :
    (State.sealStart s it b objRoot frgRoot).Inv := by
  unfold State.sealStart
  with_reducible repeat' first
    | assumption | apply takeNonce_inv | apply failItem_inv | apply setSeal_inv | apply setItem_inv
    | (refine NInv_refused ?_ (by assumption)) | (refine NInv_waits ?_ (by assumption))
    | (refine inv_mk ?_ rfl rfl rfl rfl rfl rfl; first | (refine NInv_taken ?_ (by assumption)) | split)

theorem sealInput_inv {s : State} {a1 : Item} {a2 : SealRun} {a3 : Geometry} (hs : s.Inv) :
    OInv2 (State.sealInput s a1 a2 a3) := by
  unfold State.sealInput
  refine OInv2_ite (fun _ => ?_) fun _ => OInv2_ite (fun _ => ?_) fun _ => hs
  · split
    · exact hs
    · exact inv_mk hs rfl rfl rfl rfl rfl rfl
  · cases a1.hostBytes (a1.le 16 8) a3.objLen with
    | none => trivial
    | some d => exact hs

theorem sealFinish_inv {s : State} {it : Item} {r : SealRun} {g : Geometry} (hs : State.Inv s) :
    (State.sealFinish s it r g).Inv := by
  unfold State.sealFinish
  with_reducible repeat' first
    | assumption | apply failItem_inv | apply appendLeaf_inv | apply setSeal_inv | apply writeOut_inv
    | apply complete_inv | apply inv_ite | intro _ | (refine inv_mk ?_ rfl rfl rfl rfl rfl rfl; split)

theorem sealAdvance_inv {s : State} {it : Item} {r : SealRun} (hs : State.Inv s) :
    (State.sealAdvance s it r).Inv := by
  unfold State.sealAdvance
  with_reducible repeat' first
    | assumption | apply failItem_inv | apply sealFinish_inv | apply yieldItem_inv | apply sealInput_inv
    | apply countFurrow_inv | apply sealSend_inv | apply setItem_inv | apply setSeal_inv | apply inv_ite
    | (refine OInv2_get ?_ (by assumption)) | intro _ | (refine inv_mk ?_ rfl rfl rfl rfl rfl rfl; split)

theorem execObjSeal_inv {item : Nat} {s : State} (hs : State.Inv s) : InvR (execObjSeal item s) := by
  unfold execObjSeal
  with_reducible repeat' first
    | assumption | apply invR_next | apply onRunning_inv | apply sealAdvance_inv | apply sealStart_inv
    | apply failItem_inv | apply inv_ite | intro _ | (refine inv_mk ?_ rfl rfl rfl rfl rfl rfl; split)

theorem execSealIdleTimeout_inv {item : Nat} {s : State} (hs : State.Inv s) :
    InvR (execSealIdleTimeout item s) := by
  unfold execSealIdleTimeout
  with_reducible repeat' first | assumption | apply invR_next | apply failItem_inv | apply invR_ite | intro _ | split

theorem setOpen_inv {s : State} {r : OpenRun} (hs : State.Inv s) : (State.setOpen s r).Inv := by
  unfold State.setOpen
  with_reducible (refine inv_mk ?_ rfl rfl rfl rfl rfl rfl; assumption)

theorem sendFragGet_inv {s : State} {item j c off len : Nat} {objectId ctr : List Byte} (hs : State.Inv s) :
    (State.sendFragGet s item j c off len objectId ctr).Inv := by
  unfold State.sendFragGet
  with_reducible repeat' first
    | assumption | apply openExchange_inv | apply chanSend_inv | apply fragMissing_inv | apply inv_ite | intro _

theorem releaseSegment_inv {s : State} {it : Item} {r : OpenRun} {g : Geometry} {i : Nat} {pt : List Byte}
    (hs : State.Inv s) :
    (State.releaseSegment s it r g i pt).Inv := by
  unfold State.releaseSegment
  with_reducible repeat' first
    | assumption | apply writeOut_inv | apply chanSend_inv | apply inv_foldl | intro _
    | (refine inv_mk ?_ rfl rfl rfl rfl rfl rfl; split)

theorem openFail_inv {s : State} {it : Item} {r : OpenRun} {st : Status} (hs : State.Inv s) :
    (State.openFail s it r st).Inv := by
  unfold State.openFail
  with_reducible repeat' first | assumption | apply complete_inv | apply zeroOutputs_inv | apply inv_ite | intro _

theorem openSegments_inv {a0 : Item} {a1 : Geometry} {a2 : Nat} {p : State × OpenRun} (hs : p.1.Inv) :
    (State.openSegments a0 a1 a2 p).1.Inv := by
  induction a2 generalizing p with
  | zero => exact hs
  | succ n ih =>
    unfold State.openSegments
    exact inv_ite_fst (fun _ => inv_ite_fst (fun _ => ih (releaseSegment_inv hs)) fun _ => hs) fun _ => hs

theorem openAdvance_inv {a0 : Item} {a1 : Nat} {s : State} {r : OpenRun} (hs : s.Inv) :
    (State.openAdvance a0 a1 s r).Inv := by
  induction a1 generalizing s r with
  | zero => exact hs
  | succ n ih =>
    unfold State.openAdvance
    extract_lets g
    split
    · exact openFail_inv hs
    · refine inv_ite (fun _ => ?_) fun _ => ?_
      · have h : (State.openSegments a0 (manGeometry r.manifest) (Geo.segCount (manGeometry r.manifest))
            (s, r.decode (manGeometry r.manifest))).1.Inv := openSegments_inv hs
        exact inv_ite (fun _ => openFail_inv h) fun _ => inv_ite (fun _ => complete_inv (setOpen_inv h)) fun _ =>
          ih (setOpen_inv h)
      · exact inv_foldl (fun _ _ => sendFragGet_inv) (yieldItem_inv (setOpen_inv hs))

theorem openStart_inv {s : State} {it : Item} {man : List Byte} (hs : State.Inv s) :
    (State.openStart s it man).Inv := by
  unfold State.openStart
  with_reducible repeat' first
    | apply openAdvance_inv | apply setOpen_inv | apply failItem_inv | apply inv_ite | intro _
    | (refine inv_mk ?_ rfl rfl rfl rfl rfl rfl; assumption)

theorem execObjOpen_inv {item : Nat} {s : State} (hs : State.Inv s) : InvR (execObjOpen item s) := by
  unfold execObjOpen
  with_reducible repeat' first
    | assumption | apply invR_next | apply onRunning_inv | apply openAdvance_inv | apply openStart_inv
    | apply inv_ite | intro _ | (refine inv_mk ?_ rfl rfl rfl rfl rfl rfl; split)

/-! ## Machine/Spread.lean -/

theorem setPart_inv {s : State} {p : SchedPart} (hs : State.Inv s) : (State.setPart s p).Inv := by
  unfold State.setPart
  with_reducible (refine inv_mk ?_ rfl rfl rfl rfl rfl rfl; assumption)

theorem loadSchedule_inv {s : State} {t : Byte} {k m : Nat} {surv targets : List Nat}
    (hs : State.Inv s) :
    (State.loadSchedule s t k m surv targets).Inv := by
  unfold State.loadSchedule
  with_reducible repeat' first
    | assumption | apply setPart_inv | apply memStore_inv | apply inv_ite | intro _
    | (refine inv_mk ?_ rfl rfl rfl rfl rfl rfl; first | assumption | apply setPart_inv | split)

theorem setRepair_inv {s : State} {r : RepairRun} (hs : State.Inv s) : (State.setRepair s r).Inv := by
  unfold State.setRepair
  with_reducible (refine inv_mk ?_ rfl rfl rfl rfl rfl rfl; assumption)

theorem startPass_inv {s : State} {it : Item} {r : RepairRun} {surv : List Nat} (hs : State.Inv s) :
    (State.startPass s it r surv).1.Inv := by
  unfold State.startPass
  with_reducible repeat' first | assumption | apply loadSchedule_inv

theorem repairSend_inv {s : State} {r : RepairRun} {close : Bool} (hs : State.Inv s) :
    (State.repairSend s r close).1.Inv := by
  unfold State.repairSend
  with_reducible repeat' first | assumption | apply putRecords_inv | apply inv_foldl_fst | intro _

theorem repairAdvance_inv {a0 : Item} {a1 : Nat} {s : State} {r : RepairRun} (hs : s.Inv) :
    (State.repairAdvance a0 a1 s r).Inv := by
  induction a1 generalizing s r with
  | zero => exact hs
  | succ n ih =>
    unfold State.repairAdvance
    with_reducible repeat' first
      | assumption | apply ih | apply failItem_inv | apply complete_inv | apply yieldItem_inv | apply startPass_inv
      | apply dropExchanges_inv | apply setRepair_inv | apply repairSend_inv | apply sendFragGet_inv
      | apply setItem_inv | apply inv_ite | apply inv_foldl | intro _
      | (refine inv_mk ?_ rfl rfl rfl rfl rfl rfl; first | assumption | split)

theorem repairStart_inv {s : State} {it : Item} {man : List Byte} {places : List (Nat × Nat)} (hs : State.Inv s) :
    (State.repairStart s it man places).1.Inv := by
  unfold State.repairStart
  with_reducible repeat' first
    | apply startPass_inv | apply inv_ite_fst | intro _ | (refine inv_mk ?_ rfl rfl rfl rfl rfl rfl; assumption)

theorem execRepair_inv {item : Nat} {s : State} (hs : State.Inv s) : InvR (execRepair item s) := by
  unfold execRepair
  with_reducible repeat' first
    | assumption | apply invR_next | apply onRunning_inv | apply repairAdvance_inv | apply repairStart_inv
    | apply setRepair_inv | apply inv_ite | intro _ | (refine inv_mk ?_ rfl rfl rfl rfl rfl rfl; split)

theorem execVerifyFragments_inv {item : Nat} {s : State} (hs : State.Inv s) :
    InvR (execVerifyFragments item s) := by
  unfold execVerifyFragments
  with_reducible repeat' first
    | assumption | apply invR_next | apply onRunning_inv | apply failItem_inv | apply complete_inv
    | apply yieldItem_inv | apply repairStart_inv | apply setRepair_inv | apply sendFragGet_inv | apply inv_ite
    | apply inv_foldl | intro _ | (refine inv_mk ?_ rfl rfl rfl rfl rfl rfl; split)

theorem execFragGetTimeout_inv {item frag : Nat} {s : State} (hs : State.Inv s) :
    InvR (execFragGetTimeout item frag s) := by
  unfold execFragGetTimeout
  with_reducible repeat' first | assumption | apply invR_next | apply fragMissing_inv | apply invR_ite | intro _

end Sys2Proof.Machine
end

