-- ==== Sys2Proof/Laws/Keep3.lean ====
section
/-! SUPPORT. One lemma each: the invariant is kept by the operations and meanings of
Plan Load, the public-key engines, fences, the Sentinel, resets, Boot and stores that commit. -/

namespace Sys2Proof.Machine

/-! ## Machine/PlanLoad.lean -/

theorem openTenant_inv {s : State} {t : TenantEntry} (hs : State.Inv s) : (State.openTenant s t).Inv := by
  unfold State.openTenant
  with_reducible repeat' first | assumption | apply draw_inv | apply setTenantObj_inv | apply inv_ite | intro _

theorem scrubAll_inv {s : State} (hs : State.Inv s) : (State.scrubAll s).Inv := by
  unfold State.scrubAll
  with_reducible repeat' first
    | assumption | apply zeroCistern_inv | apply seedFurrow_inv | apply inv_ite | apply inv_foldl | intro _

theorem applyPlan_inv {s : State} {p : Plan} {units : List SluUnit} {table : List (BitVec 16)} (hs : State.Inv s) :
    (State.applyPlan s p units table).Inv := by
  unfold State.applyPlan
  with_reducible repeat' first
    | assumption | apply openTenant_inv | apply instantiateTenant_inv | apply inv_foldl | intro _
    | (refine inv_mk ?_ rfl rfl rfl rfl rfl rfl; first | apply scrubAll_inv | dsimp only)

theorem planLoadFails_inv {s : State} {f : PlanFail} (hs : State.Inv s) : (State.planLoadFails s f).Inv := by
  unfold State.planLoadFails
  with_reducible repeat' first
    | apply leavePlanLoad_inv | apply applyPlan_inv | (refine inv_mk ?_ rfl rfl rfl rfl rfl rfl; assumption)

theorem planLoads_inv {s : State} {img : List Byte} (hs : State.Inv s) : (State.planLoads s img).Inv := by
  unfold State.planLoads
  with_reducible repeat' first
    | apply leavePlanLoad_inv | apply applyPlan_inv | (refine inv_mk ?_ rfl rfl rfl rfl rfl rfl; assumption)

theorem beginPlanLoad_inv {s : State} (hs : State.Inv s) : (State.beginPlanLoad s).Inv := by
  unfold State.beginPlanLoad
  with_reducible repeat' first
    | assumption | apply enterPhase_inv | apply planLoadFails_inv
    | (refine inv_mk ?_ rfl rfl rfl rfl rfl rfl; first | apply enterPhase_inv | split)

theorem planGo_inv {s : State} {value : Word} (hs : State.Inv s) : (State.planGo s value).Inv := by
  unfold State.planGo
  with_reducible repeat' first
    | assumption | apply planLoadFails_inv | apply inv_ite | intro _
    | (refine inv_mk ?_ rfl rfl rfl rfl rfl rfl; first | assumption | dsimp only)

theorem execGlbPlanGo_inv {value : Word} {s : State} (hs : State.Inv s) : InvR (execGlbPlanGo value s) := by
  unfold execGlbPlanGo
  with_reducible repeat' first | assumption | apply invR_next | apply planGo_inv

theorem execPlanWaitTimeout_inv {s : State} (hs : State.Inv s) : InvR (execPlanWaitTimeout s) := by
  unfold execPlanWaitTimeout
  with_reducible repeat' first | assumption | apply invR_next | apply planLoadFails_inv | apply invR_ite | intro _

theorem execPlanImageReadDone_inv {image : ReadResult} {s : State} (hs : State.Inv s) :
    InvR (execPlanImageReadDone image s) := by
  unfold execPlanImageReadDone
  with_reducible repeat' first
    | assumption | apply invR_next | apply planLoadFails_inv | apply planLoads_inv | apply invR_ite | intro _
    | split | dsimp only

theorem execMirrorEpochCompare_inv {s : State} (hs : State.Inv s) : InvR (execMirrorEpochCompare s) := by
  unfold execMirrorEpochCompare
  with_reducible repeat' first
    | assumption | apply invR_next | apply leavePlanLoad_inv | apply invR_ite | intro _
    | (refine inv_mk ?_ rfl rfl rfl rfl rfl rfl; assumption)

theorem planItemFails_inv {s : State} {item : Nat} {f : PlanFail} (hs : State.Inv s) :
    (State.planItemFails s item f).Inv := by
  unfold State.planItemFails
  with_reducible repeat' first | assumption | apply complete_inv

theorem planItemEnds_inv {s : State} {item : Nat} {st : Status} (hs : State.Inv s) :
    (State.planItemEnds s item st).Inv := by
  unfold State.planItemEnds
  with_reducible repeat' first | assumption | apply complete_inv

theorem planStage_inv {s : State} {it : Item} (hs : State.Inv s) : (State.planStage s it).Inv := by
  unfold State.planStage
  with_reducible repeat' first
    | assumption | apply planItemEnds_inv | apply planItemFails_inv | apply yieldItem_inv | apply storeSession_inv
    | apply inv_ite | intro _ | (refine inv_mk ?_ rfl rfl rfl rfl rfl rfl; split)

theorem execPlanStage_inv {item : Nat} {s : State} (hs : State.Inv s) : InvR (execPlanStage item s) := by
  unfold execPlanStage
  with_reducible repeat' first
    | assumption | apply invR_next | apply onRunning_inv | apply planStage_inv | apply inv_ite | intro _

theorem finalTable_inv {s : State} {a : Amendment} (hs : State.Inv s) : (State.finalTable s a).Inv := by
  unfold State.finalTable
  with_reducible repeat' first | assumption | (refine inv_mk ?_ rfl rfl rfl rfl rfl rfl; apply writeInactive_inv)

theorem beginAmend_inv {s : State} {it : Item} {m : Image} (hs : State.Inv s) : (State.beginAmend s it m).Inv := by
  unfold State.beginAmend
  with_reducible repeat' first
    | assumption | apply yieldItem_inv | apply finalTable_inv | apply modifyUnit_inv | apply amendWake_inv
    | apply inv_ite | intro _ | (refine inv_mk ?_ rfl rfl rfl rfl rfl rfl; apply inv_foldl)

theorem planAmend_inv {s : State} {it : Item} (hs : State.Inv s) : (State.planAmend s it).Inv := by
  unfold State.planAmend
  with_reducible repeat' first
    | assumption | apply planItemEnds_inv | apply planItemFails_inv | apply beginAmend_inv | apply inv_ite | intro _
    | (refine inv_mk ?_ rfl rfl rfl rfl rfl rfl; split)

theorem execPlanAmend_inv {item : Nat} {s : State} (hs : State.Inv s) : InvR (execPlanAmend item s) := by
  unfold execPlanAmend
  with_reducible repeat' first
    | assumption | apply invR_next | apply onRunning_inv | apply planAmend_inv | apply inv_ite | intro _

theorem execAmendDeadline_inv {s : State} (hs : State.Inv s) : InvR (execAmendDeadline s) := by
  unfold execAmendDeadline
  with_reducible repeat' first | assumption | apply invR_next | apply rollback_inv | apply invR_ite | intro _ | split

theorem execDrainFramesElapsed_inv {s : State} (hs : State.Inv s) : InvR (execDrainFramesElapsed s) := by
  unfold execDrainFramesElapsed
  with_reducible repeat' first
    | assumption | apply invR_next | apply modifyUnit_inv | apply invR_ite | intro _
    | (refine inv_mk ?_ rfl rfl rfl rfl rfl rfl; apply inv_foldl) | split

theorem scrubDone_inv {s : State} {u : Nat} (hs : State.Inv s) : (State.scrubDone s u).Inv := by
  unfold State.scrubDone
  with_reducible repeat' first
    | assumption | apply seedFurrow_inv | apply modifyUnit_inv | apply finalTable_inv | apply inv_ite | intro _
    | (refine inv_mk ?_ rfl rfl rfl rfl rfl rfl; first | apply modifyUnit_inv | split)

theorem execUnitScrubDone_inv {unit : Nat} {s : State} (hs : State.Inv s) : InvR (execUnitScrubDone unit s) := by
  unfold execUnitScrubDone
  with_reducible repeat' first | assumption | apply invR_next | apply scrubDone_inv

theorem sluiceChecked_inv {s : State} (hs : State.Inv s) : (State.sluiceChecked s).Inv := by
  unfold State.sluiceChecked
  with_reducible repeat' first
    | assumption | apply rollback_inv | apply endAmend_inv | apply inv_ite | intro _
    | (refine inv_mk ?_ rfl rfl rfl rfl rfl rfl; first | assumption | split | dsimp only)

theorem execSluiceCheckDone_inv {s : State} (hs : State.Inv s) : InvR (execSluiceCheckDone s) := by
  unfold execSluiceCheckDone
  with_reducible repeat' first | assumption | apply invR_next | apply sluiceChecked_inv

theorem capWeirs_inv {s : State} {ws : List Weir} (hs : State.Inv s) : (State.capWeirs s ws).Inv := by
  unfold State.capWeirs
  with_reducible repeat' first
    | assumption | apply inv_foldl | intro _
    | (refine inv_mk ?_ rfl rfl rfl rfl rfl rfl; first | assumption | split)

theorem amendApplies_inv {s : State} {a : Amendment} (hs : State.Inv s) : (State.amendApplies s a).Inv := by
  unfold State.amendApplies
  with_reducible repeat' first
    | assumption | apply modifyUnit_inv | apply endAmend_inv | apply inv_ite | apply inv_foldl | intro _
    | (refine inv_mk ?_ rfl rfl rfl rfl rfl rfl; first | apply capWeirs_inv | split | dsimp only)

theorem sluiceSwap_inv {s : State} (hs : State.Inv s) : (State.sluiceSwap s).Inv := by
  unfold State.sluiceSwap
  with_reducible repeat' first
    | assumption | apply modifyUnit_inv | apply amendApplies_inv | apply endAmend_inv | apply inv_ite | intro _
    | (refine inv_mk ?_ rfl rfl rfl rfl rfl rfl; first | assumption | apply inv_foldl | split)

theorem execSluiceSwap_inv {s : State} (hs : State.Inv s) : InvR (execSluiceSwap s) := by
  unfold execSluiceSwap
  with_reducible repeat' first | assumption | apply invR_next | apply sluiceSwap_inv

/-! ## Machine/Pke.lean -/

theorem modifyEngine_inv {s : State} {e : Nat} {f : PkEngine → PkEngine} (hs : State.Inv s) :
    (State.modifyEngine s e f).Inv := by
  unfold State.modifyEngine
  with_reducible (refine inv_mk ?_ rfl rfl rfl rfl rfl rfl; assumption)

theorem queueJob_inv {s : State} {e : Nat} {j : PkJob} (hs : State.Inv s) : (State.queueJob s e j).Inv := by
  unfold State.queueJob
  with_reducible repeat' first | assumption | apply modifyEngine_inv

theorem startWork_inv {s : State} {it : Item} {w : PkWork} {long : Bool} (hs : State.Inv s) :
    (State.startWork s it w long).Inv := by
  unfold State.startWork
  with_reducible repeat' first
    | assumption | apply setWork_inv | apply queueJob_inv | apply yieldItem_inv | apply inv_ite | intro _

theorem pkResult_inv {s : State} {it : Item} {alg : Nat} {a b : List Byte} (hs : State.Inv s) :
    (State.pkResult s it alg a b).2.2.Inv := by
  unfold State.pkResult
  with_reducible repeat' first | assumption | apply draw_inv | apply signWith_inv | apply inv_ite_snd2 | intro _

theorem pkDeliver_inv {s : State} {it : Item} {w : PkWork} (hs : State.Inv s) : (State.pkDeliver s it w).Inv := by
  unfold State.pkDeliver
  with_reducible repeat' first
    | assumption | apply dropWork_inv | apply complete_inv | apply createSession_inv | apply failItem_inv
    | apply writeOut_inv | apply inv_ite | (refine OInv2_get ?_ (by assumption)) | intro _
    | (refine inv_mk ?_ rfl rfl rfl rfl rfl rfl; split)

theorem pkStart_inv {s : State} {item op : Nat} (hs : State.Inv s) : (State.pkStart s item op).Inv := by
  unfold State.pkStart
  with_reducible repeat' first
    | assumption | apply onRunning_inv | apply pkDeliver_inv | apply failItem_inv | apply openWindow_inv
    | apply inv_ite | intro _ | (refine inv_mk ?_ rfl rfl rfl rfl rfl rfl; split)

theorem execPkSign_inv {item : Nat} {s : State} (hs : State.Inv s) : InvR (execPkSign item s) := by
  unfold execPkSign
  with_reducible repeat' first | assumption | apply invR_next | apply pkStart_inv

theorem execPkVerify_inv {item : Nat} {s : State} (hs : State.Inv s) : InvR (execPkVerify item s) := by
  unfold execPkVerify
  with_reducible repeat' first | assumption | apply invR_next | apply pkStart_inv

theorem execPkAgree_inv {item : Nat} {s : State} (hs : State.Inv s) : InvR (execPkAgree item s) := by
  unfold execPkAgree
  with_reducible repeat' first | assumption | apply invR_next | apply pkStart_inv

theorem refuseInput_inv {s : State} {item : Nat} {st : Status} (hs : State.Inv s) :
    (State.refuseInput s item st).Inv := by
  unfold State.refuseInput
  with_reducible repeat' first
    | assumption | apply failItem_inv | (refine inv_mk ?_ rfl rfl rfl rfl rfl rfl; apply dropWork_inv)

theorem execPkValidationWindowEnd_inv {item : Nat} {s : State} (hs : State.Inv s) :
    InvR (execPkValidationWindowEnd item s) := by
  unfold execPkValidationWindowEnd
  with_reducible repeat' first
    | assumption | apply invR_next | apply onRunning_inv | apply failItem_inv | apply dropWork_inv
    | apply refuseInput_inv | apply finishImport_inv | apply pkResult_inv | apply choose_inv | apply startWork_inv
    | apply inv_ite | intro _ | (refine inv_mk ?_ rfl rfl rfl rfl rfl rfl; split)

theorem progDeliver_inv {s : State} {it : Item} {w : PkWork} (hs : State.Inv s) :
    (State.progDeliver s it w).Inv := by
  unfold State.progDeliver
  with_reducible repeat' first
    | assumption | apply dropWork_inv | apply failItem_inv | apply complete_inv | apply memStore_inv
    | apply writeOut_inv | (refine inv_mk ?_ rfl rfl rfl rfl rfl rfl; split)

theorem execPkProgram_inv {item : Nat} {s : State} (hs : State.Inv s) : InvR (execPkProgram item s) := by
  unfold execPkProgram
  with_reducible repeat' first
    | assumption | apply invR_next | apply onRunning_inv | apply progDeliver_inv | apply memStore_inv
    | apply complete_inv | apply startWork_inv | apply inv_ite | intro _
    | (refine inv_mk ?_ rfl rfl rfl rfl rfl rfl; split)

theorem execPkYieldPoint_inv {engine : Nat} {s : State} (hs : State.Inv s) : InvR (execPkYieldPoint engine s) := by
  unfold execPkYieldPoint
  with_reducible repeat' first
    | assumption | apply invR_next | apply modifyEngine_inv | apply invR_ite | intro _ | split

theorem execPkJobComplete_inv {engine : Nat} {s : State} (hs : State.Inv s) :
    InvR (execPkJobComplete engine s) := by
  unfold execPkJobComplete
  with_reducible repeat' first
    | assumption | apply invR_next | apply modifyEngine_inv | apply endWait_inv | apply setWork_inv
    | apply queueJob_inv | apply progDeliver_inv | apply pkDeliver_inv | apply invR_ite | intro _ | split
    | dsimp only

theorem execPkEndCheckFail_inv {engine : Nat} {kind : BitVec 4} {s : State} (hs : State.Inv s) :
    InvR (execPkEndCheckFail engine kind s) := by
  unfold execPkEndCheckFail
  with_reducible repeat' first
    | assumption | apply invR_next | apply failItem_inv | apply dropWork_inv | apply raiseEvents_inv
    | apply invR_ite | intro _ | (refine inv_mk ?_ rfl rfl rfl rfl rfl rfl; split) | split

theorem endReadmit_inv {s : State} {u : UnitNo} {ok : Bool} (hs : State.Inv s) : (State.endReadmit s u ok).Inv := by
  unfold State.endReadmit
  with_reducible repeat' first
    | apply endWaitWith_inv | (refine inv_mk ?_ rfl rfl rfl rfl rfl rfl; first | assumption | split)

theorem unitBack_inv {s : State} (hs : State.Inv s) : (State.unitBack s).Inv := by
  unfold State.unitBack
  with_reducible repeat' first | assumption | apply wakeLacking_inv

theorem execPkEngineReadmit_inv {engine : Nat} {testOk : Bool} {s : State} (hs : State.Inv s) :
    InvR (execPkEngineReadmit engine testOk s) := by
  unfold execPkEngineReadmit
  with_reducible repeat' first
    | assumption | apply invR_next | apply zeroCistern_inv | apply modifyEngine_inv | apply endReadmit_inv
    | apply unitBack_inv | apply noteMode_inv | apply invR_ite | intro _
    | (refine inv_mk ?_ rfl rfl rfl rfl rfl rfl; apply modifyEngine_inv)

theorem execCisternPoolZeroed_inv {engine firstSlot count : Nat} {s : State} (hs : State.Inv s) :
    InvR (execCisternPoolZeroed engine firstSlot count s) := by
  unfold execCisternPoolZeroed
  with_reducible repeat' first
    | assumption | apply invR_next | apply wakeLacking_inv | apply modifyEngine_inv | apply invR_ite | intro _
    | split

theorem execPkAbort_inv {item : Nat} {s : State} (hs : State.Inv s) : InvR (execPkAbort item s) := by
  unfold execPkAbort
  with_reducible repeat' first
    | assumption | apply invR_next | apply onRunning_inv | apply failItem_inv | apply dropWork_inv
    | apply complete_inv | apply inv_ite | intro _ | (refine inv_mk ?_ rfl rfl rfl rfl rfl rfl; apply inv_foldl)

/-! ## Machine/UnitFence.lean -/

theorem noteMismatch_inv {s : State} {unit : Nat} {kind : BitVec 2} {ctx : Nat} {tenant : Byte} (hs : State.Inv s) :
    (State.noteMismatch s unit kind ctx tenant).Inv := by
  unfold State.noteMismatch
  with_reducible (refine inv_mk ?_ rfl rfl rfl rfl rfl rfl; assumption)

theorem faultHolder_inv {s : State} {u c : Nat} (hs : State.Inv s) : (State.faultHolder s u c).1.Inv := by
  unfold State.faultHolder
  with_reducible repeat' first
    | assumption | apply endHolders_inv | apply failItem_inv | (refine inv_mk ?_ rfl rfl rfl rfl rfl rfl; split)

theorem execFurrowMismatch_inv {furrow ctx : Nat} {kind : BitVec 2} {s : State} (hs : State.Inv s) :
    InvR (execFurrowMismatch furrow ctx kind s) := by
  unfold execFurrowMismatch
  with_reducible repeat' first
    | assumption | apply invR_next | apply faultHolder_inv | apply noteMismatch_inv | apply raiseEvents_inv
    | apply invR_ite | intro _

theorem execHashLaneParityError_inv {lane share : Nat} {s : State} (hs : State.Inv s) :
    InvR (execHashLaneParityError lane share s) := by
  unfold execHashLaneParityError
  with_reducible repeat' first
    | assumption | apply invR_next | apply faultHolder_inv | apply noteMismatch_inv | apply raiseEvents_inv
    | apply invR_ite | intro _

theorem execSpreadCheckFail_inv {su share : Nat} {kind : BitVec 2} {s : State} (hs : State.Inv s) :
    InvR (execSpreadCheckFail su share kind s) := by
  unfold execSpreadCheckFail
  with_reducible repeat' first
    | assumption | apply invR_next | apply raiseEvents_inv | apply invR_ite | intro _
    | (refine inv_mk ?_ rfl rfl rfl rfl rfl rfl; apply faultHolder_inv)

theorem modifyGen_inv {s : State} {u pipe : Nat} {g : MaskGen → MaskGen} (hs : State.Inv s) :
    (State.modifyGen s u pipe g).Inv := by
  unfold State.modifyGen
  with_reducible (refine inv_mk ?_ rfl rfl rfl rfl rfl rfl; assumption)

theorem execMaskReseedRequest_inv {furrow pipe : Nat} {s : State} (hs : State.Inv s) :
    InvR (execMaskReseedRequest furrow pipe s) := by
  unfold execMaskReseedRequest
  with_reducible repeat' first | assumption | apply invR_next | apply modifyGen_inv | apply invR_ite | intro _ | split

theorem execMaskWaitStop_inv {furrow pipe : Nat} {s : State} (hs : State.Inv s) :
    InvR (execMaskWaitStop furrow pipe s) := by
  unfold execMaskWaitStop
  with_reducible repeat' first | assumption | apply invR_next | apply modifyGen_inv | apply invR_ite | intro _ | split

theorem execMaskSeedArrive_inv {furrow pipe : Nat} {s : State} (hs : State.Inv s) :
    InvR (execMaskSeedArrive furrow pipe s) := by
  unfold execMaskSeedArrive
  with_reducible repeat' first | assumption | apply invR_next | apply seedGen_inv | apply invR_ite | intro _ | split

theorem unfence_inv {s : State} {u : Nat} (hs : State.Inv s) : (State.unfence s u).Inv := by
  unfold State.unfence
  with_reducible repeat' first | assumption | apply noteMode_inv | apply modifyUnit_inv

theorem unitReturns_inv {s : State} {u : Nat} (hs : State.Inv s) : (State.unitReturns s u).Inv := by
  unfold State.unitReturns
  with_reducible repeat' first | assumption | apply endReadmit_inv | apply unitBack_inv | apply unfence_inv

theorem unitTestFails_inv {s : State} {u : Nat} (hs : State.Inv s) : (State.unitTestFails s u).Inv := by
  unfold State.unitTestFails
  with_reducible repeat' first | assumption | apply endReadmit_inv | apply noteLockOut_inv | apply eraseUnit_inv

theorem execFurrowReadmit_inv {furrow : Nat} {testOk : Bool} {s : State} (hs : State.Inv s) :
    InvR (execFurrowReadmit furrow testOk s) := by
  unfold execFurrowReadmit
  with_reducible repeat' first
    | assumption | apply invR_next | apply unitReturns_inv | apply seedFurrow_inv | apply unitTestFails_inv
    | apply invR_ite | intro _

theorem execHashLaneReadmit_inv {lane : Nat} {testOk : Bool} {s : State} (hs : State.Inv s) :
    InvR (execHashLaneReadmit lane testOk s) := by
  unfold execHashLaneReadmit
  with_reducible repeat' first
    | assumption | apply invR_next | apply unitReturns_inv | apply unitTestFails_inv | apply invR_ite | intro _

theorem execSpreadUnitReadmit_inv {su : Nat} {testOk : Bool} {s : State} (hs : State.Inv s) :
    InvR (execSpreadUnitReadmit su testOk s) := by
  unfold execSpreadUnitReadmit
  with_reducible repeat' first
    | assumption | apply invR_next | apply unitReturns_inv | apply endReadmit_inv | apply invR_ite | intro _
    | (refine inv_mk ?_ rfl rfl rfl rfl rfl rfl; assumption)

theorem clearScratch_inv {s : State} {a1 : Nat} (hs : s.Inv) : (State.clearScratch s a1).Inv :=
  inv_cells hs memErase_wf rfl rfl rfl rfl rfl

theorem watchdog_inv {s : State} {core : Nat} {it : Item} (hs : State.Inv s) : (State.watchdog s core it).Inv := by
  unfold State.watchdog
  with_reducible repeat' first
    | assumption | apply failItem_inv | apply clearScratch_inv | apply modifyCore_inv | apply raiseEvents_inv
    | apply noteMode_inv | apply inv_ite | intro _
    | (refine inv_mk ?_ rfl rfl rfl rfl rfl rfl; apply modifyCore_inv)

theorem execCoreWatchdog_inv {core : Nat} {s : State} (hs : State.Inv s) : InvR (execCoreWatchdog core s) := by
  unfold execCoreWatchdog
  with_reducible repeat' first | assumption | apply invR_next | apply watchdog_inv | apply invR_ite | intro _ | split

/-! ## Machine/Sentinel.lean -/

theorem noteSample_inv {s : State} {x : Sample} (hs : State.Inv s) : (State.noteSample s x).Inv := by
  unfold State.noteSample
  with_reducible repeat' first
    | assumption | apply setMonitor_inv | apply inv_ite | intro _
    | (refine inv_mk ?_ rfl rfl rfl rfl rfl rfl; assumption)

theorem execAlarmRaise_inv {samples : List Sample} {s : State} (hs : State.Inv s) :
    InvR (execAlarmRaise samples s) := by
  unfold execAlarmRaise
  with_reducible repeat' first
    | assumption | apply invR_next | apply noteSample_inv | apply raiseEvents_inv | apply invR_ite | apply inv_foldl
    | intro _

theorem startBist_inv {s : State} {r : BistRun} (hs : State.Inv s) : (State.startBist s r).Inv := by
  unfold State.startBist
  with_reducible (refine inv_mk ?_ rfl rfl rfl rfl rfl rfl; assumption)

theorem execBistRotation_inv {s : State} (hs : State.Inv s) : InvR (execBistRotation s) := by
  unfold execBistRotation
  with_reducible repeat' first
    | assumption | apply invR_next | apply invR_ite | intro _
    | (refine inv_mk ?_ rfl rfl rfl rfl rfl rfl; first | assumption | dsimp only) | split

theorem endBist_inv {s : State} {r : BistRun} (hs : State.Inv s) : (State.endBist s r).Inv := by
  unfold State.endBist
  with_reducible repeat' first
    | apply complete_inv | apply startBist_inv
    | (refine inv_mk ?_ rfl rfl rfl rfl rfl rfl; first | assumption | split)

theorem bistResult_inv {s : State} {cls inst : Nat} {passed : Bool} (hs : State.Inv s) :
    (State.bistResult s cls inst passed).Inv := by
  unfold State.bistResult
  with_reducible repeat' first | assumption | apply setMonitor_inv | apply raiseEvents_inv | apply inv_ite | intro _

theorem bistNext_inv {s : State} {passed : Bool} (hs : State.Inv s) : (State.bistNext s passed).Inv := by
  unfold State.bistNext
  with_reducible repeat' first
    | assumption | apply endBist_inv | apply startBist_inv | apply inv_ite | intro _
    | (refine inv_mk ?_ rfl rfl rfl rfl rfl rfl; first | assumption | split)

theorem execBistTestDone_inv {cls inst : Nat} {passed : Bool} {s : State} (hs : State.Inv s) :
    InvR (execBistTestDone cls inst passed s) := by
  unfold execBistTestDone
  with_reducible repeat' first
    | assumption | apply invR_next | apply bistResult_inv | apply bistNext_inv | apply invR_ite | intro _

theorem measure_inv {s : State} {r : ReserveReading} (hs : State.Inv s) : (State.measure s r).Inv := by
  unfold State.measure
  with_reducible repeat' first | apply retryRetirements_inv | (refine inv_mk ?_ rfl rfl rfl rfl rfl rfl; assumption)

theorem execSenLogRead_inv {item : Nat} {s : State} (hs : State.Inv s) : InvR (execSenLogRead item s) := by
  unfold execSenLogRead
  with_reducible repeat' first
    | assumption | apply invR_next | apply onRunning_inv | apply failItem_inv | apply choose_inv
    | apply writeOut_inv | apply complete_inv | apply inv_ite | intro _

theorem execSenBist_inv {item : Nat} {s : State} (hs : State.Inv s) : InvR (execSenBist item s) := by
  unfold execSenBist
  with_reducible repeat' first
    | assumption | apply invR_next | apply onRunning_inv | apply failItem_inv | apply setItem_inv
    | apply startBist_inv | apply inv_ite | intro _ | (refine inv_mk ?_ rfl rfl rfl rfl rfl rfl; apply setItem_inv)

theorem execSenFence_inv {item : Nat} {s : State} (hs : State.Inv s) : InvR (execSenFence item s) := by
  unfold execSenFence
  with_reducible repeat' first
    | assumption | apply invR_next | apply onRunning_inv | apply failItem_inv | apply complete_inv
    | apply raiseEvents_inv | apply inv_ite | intro _
    | (refine inv_mk ?_ rfl rfl rfl rfl rfl rfl; first | assumption | split)

theorem coreReadmit_inv {s : State} {core : Nat} (hs : State.Inv s) : (State.coreReadmit s core).Inv := by
  unfold State.coreReadmit
  with_reducible repeat' first
    | assumption | apply clearScratch_inv | apply noteMode_inv
    | (refine inv_mk ?_ rfl rfl rfl rfl rfl rfl; apply modifyCore_inv)

theorem execSenReadmit_inv {item : Nat} {s : State} (hs : State.Inv s) : InvR (execSenReadmit item s) := by
  unfold execSenReadmit
  with_reducible repeat' first
    | assumption | apply invR_next | apply onRunning_inv | apply failItem_inv | apply complete_inv
    | apply coreReadmit_inv | apply inv_ite | intro _
    | (refine inv_mk ?_ rfl rfl rfl rfl rfl rfl; first | apply setItem_inv | split)

theorem execSenReserve_inv {item : Nat} {reading : ReserveReading} {s : State} (hs : State.Inv s) :
    InvR (execSenReserve item reading s) := by
  unfold execSenReserve
  with_reducible repeat' first
    | assumption | apply invR_next | apply onRunning_inv | apply failItem_inv | apply measure_inv
    | apply complete_inv | apply inv_ite | intro _

/-! ## Machine/Reset.lean -/

theorem resetCore_inv {s : State} {a1 a2 : Bool} (hs : s.Inv) : (State.resetCore s a1 a2).Inv :=
  ⟨rfl, hs.logSeq, hs.logLen, Nat.zero_le _, (show ∀ q ∈ MemState.reset.fifos, q.records.length ≤ 64 by decide), hs.slots⟩

theorem enterReset_inv {s : State} {cold link : Bool} {cause : BitVec 3} (hs : State.Inv s) :
    (State.enterReset s cold link cause).Inv := by
  unfold State.enterReset
  with_reducible repeat' first | assumption | (refine inv_mk ?_ rfl rfl rfl rfl rfl rfl; apply resetCore_inv)

theorem bootEntry_inv {s : State} (hs : State.Inv s) : (State.bootEntry s).Inv := by
  unfold State.bootEntry
  with_reducible repeat' first
    | apply enterAlarmHold_inv | apply inv_ite | intro _ | (refine inv_mk ?_ rfl rfl rfl rfl rfl rfl; assumption)

theorem endReset_inv {s : State} (hs : State.Inv s) : (State.endReset s).Inv := by
  unfold State.endReset
  with_reducible repeat' first
    | assumption | apply bootEntry_inv | apply inv_ite | intro _
    | (refine inv_mk ?_ rfl rfl rfl rfl rfl rfl; assumption)

theorem cutZeroise_inv {s : State} (hs : State.Inv s) : (State.cutZeroise s).Inv := by
  unfold State.cutZeroise
  with_reducible repeat' first
    | assumption | apply inv_ite | intro _ | (refine inv_mk ?_ rfl rfl rfl rfl rfl rfl; assumption)

theorem enterOff_inv {s : State} {aon : Bool} (hs : State.Inv s) : (State.enterOff s aon).Inv := by
  unfold State.enterOff
  with_reducible repeat' first
    | assumption | apply cutZeroise_inv | apply abandonStores_inv
    | (refine inv_mk ?_ rfl rfl rfl rfl rfl rfl; apply resetCore_inv)

theorem execPowerStable_inv {s : State} (hs : State.Inv s) : InvR (execPowerStable s) := by
  unfold execPowerStable
  with_reducible repeat' first
    | assumption | apply invR_next | apply invR_ite | intro _
    | (refine inv_mk ?_ rfl rfl rfl rfl rfl rfl; apply enterReset_inv)

theorem execColdResetRelease_inv {s : State} (hs : State.Inv s) : InvR (execColdResetRelease s) := by
  unfold execColdResetRelease
  with_reducible repeat' first | assumption | apply invR_next | apply endReset_inv | apply invR_ite | intro _

theorem execSupplyLoss_inv {s : State} (hs : State.Inv s) : InvR (execSupplyLoss s) := by
  unfold execSupplyLoss
  with_reducible repeat' first
    | assumption | apply invR_next | apply choose_inv | apply enterOff_inv | apply invR_ite | intro _

theorem execVddAonRise_inv {s : State} (hs : State.Inv s) : InvR (execVddAonRise s) := by
  unfold execVddAonRise
  with_reducible repeat' first
    | assumption | apply invR_next | apply invR_ite | intro _
    | (refine inv_mk ?_ rfl rfl rfl rfl rfl rfl; assumption)

theorem execVddIoRise_inv {addr0 addr1 : Bool} {reading : ReserveReading} {s : State} (hs : State.Inv s) :
    InvR (execVddIoRise addr0 addr1 reading s) := by
  unfold execVddIoRise
  with_reducible repeat' first
    | assumption | apply invR_next | apply measure_inv | apply invR_ite | intro _
    | (refine inv_mk ?_ rfl rfl rfl rfl rfl rfl; assumption)

theorem execPerstFall_inv {s : State} (hs : State.Inv s) : InvR (execPerstFall s) := by
  unfold execPerstFall
  with_reducible repeat' first
    | apply invR_next | (refine inv_mk ?_ rfl rfl rfl rfl rfl rfl; first | assumption | apply requestWarm_inv)
    | split | dsimp only

theorem execPerstRise_inv {s : State} (hs : State.Inv s) : InvR (execPerstRise s) := by
  unfold execPerstRise
  with_reducible repeat' first
    | apply invR_next | apply bootEntry_inv | apply invR_ite | intro _
    | (refine inv_mk ?_ rfl rfl rfl rfl rfl rfl; assumption)

theorem softReset_inv {s : State} {value : Word} (hs : State.Inv s) : (State.softReset s value).Inv := by
  unfold State.softReset
  with_reducible repeat' first | assumption | apply requestWarm_inv | apply inv_ite | intro _

theorem execGlbSoftReset_inv {value : Word} {s : State} (hs : State.Inv s) : InvR (execGlbSoftReset value s) := by
  unfold execGlbSoftReset
  with_reducible repeat' first | assumption | apply invR_next | apply softReset_inv

theorem execWarmResetStoresDone_inv {s : State} (hs : State.Inv s) : InvR (execWarmResetStoresDone s) := by
  unfold execWarmResetStoresDone
  with_reducible repeat' first
    | assumption | apply invR_next | apply enterReset_inv | apply invR_ite | intro _ | split

theorem execResetHoldEnd_inv {s : State} (hs : State.Inv s) : InvR (execResetHoldEnd s) := by
  unfold execResetHoldEnd
  with_reducible repeat' first | assumption | apply invR_next | apply endReset_inv | apply invR_ite | intro _

theorem execPllLockLost_inv {s : State} (hs : State.Inv s) : InvR (execPllLockLost s) := by
  unfold execPllLockLost
  with_reducible repeat' first
    | assumption | apply invR_next | apply freeBytes_inv | apply raiseEvents_inv | apply invR_ite | intro _
    | (refine inv_mk ?_ rfl rfl rfl rfl rfl rfl; assumption)

theorem enterHoldUp_inv {s : State} {vresMv : Nat} (hs : State.Inv s) : (State.enterHoldUp s vresMv).Inv := by
  unfold State.enterHoldUp
  with_reducible repeat' first
    | assumption | apply haltErase_inv | apply noteMode_inv
    | (refine inv_mk ?_ rfl rfl rfl rfl rfl rfl; apply endSessions_inv)

theorem execMainPowerLost_inv {detector vresMv : Nat} {s : State} (hs : State.Inv s) :
    InvR (execMainPowerLost detector vresMv s) := by
  unfold execMainPowerLost
  with_reducible repeat' first
    | assumption | apply invR_next | apply enterHoldUp_inv | apply raiseEvents_inv | apply inv_ite | apply invR_ite
    | intro _ | (refine inv_mk ?_ rfl rfl rfl rfl rfl rfl; apply enterHoldUp_inv) | split

theorem leaveHoldUp_inv {s : State} (hs : State.Inv s) : (State.leaveHoldUp s).Inv := by
  unfold State.leaveHoldUp
  with_reducible repeat' first | assumption | apply enterReset_inv | apply inv_ite | intro _

theorem execHoldUpStoresEnded_inv {s : State} (hs : State.Inv s) : InvR (execHoldUpStoresEnded s) := by
  unfold execHoldUpStoresEnded
  with_reducible repeat' first
    | assumption | apply invR_next | apply leaveHoldUp_inv | apply invR_ite | intro _
    | (refine inv_mk ?_ rfl rfl rfl rfl rfl rfl; assumption)

theorem execMainPowerRestored_inv {s : State} (hs : State.Inv s) : InvR (execMainPowerRestored s) := by
  unfold execMainPowerRestored
  with_reducible repeat' first
    | assumption | apply invR_next | apply leaveHoldUp_inv | apply invR_ite | intro _
    | (refine inv_mk ?_ rfl rfl rfl rfl rfl rfl; assumption)

theorem execReserveSpent_inv {s : State} (hs : State.Inv s) : InvR (execReserveSpent s) := by
  unfold execReserveSpent
  with_reducible repeat' first | assumption | apply invR_next | apply enterOff_inv | apply invR_ite | intro _

/-! ## Machine/Boot.lean -/

theorem askQuietly_inv {s : State} {a : StoreAction} (hs : State.Inv s) : (State.askQuietly s a).1.Inv := by
  unfold State.askQuietly
  with_reducible repeat' first
    | assumption | apply askStore_inv | (refine AInv_admitted ?_ (by assumption))
    | (refine AInv_held ?_ (by assumption)) | (refine AInv_refused ?_ (by assumption))
    | (refine inv_mk ?_ rfl rfl rfl rfl rfl rfl; split)

theorem promoteNext_inv {s : State} (hs : State.Inv s) : (State.promoteNext s).Inv := by
  unfold State.promoteNext
  with_reducible repeat' first | assumption | (refine inv_mk ?_ rfl rfl rfl rfl rfl rfl; apply askQuietly_inv)

theorem notePromotion_inv {s : State} (hs : State.Inv s) : (State.notePromotion s).Inv := by
  unfold State.notePromotion
  with_reducible (refine inv_mk ?_ rfl rfl rfl rfl rfl rfl; assumption)

theorem resumePromotion_inv {s : State} (hs : State.Inv s) : (State.resumePromotion s).Inv := by
  unfold State.resumePromotion
  with_reducible repeat' first | assumption | apply promoteNext_inv | apply inv_ite | intro _

theorem bootStage_inv {s : State} {n : BitVec 4} (hs : State.Inv s) : (State.bootStage s n).Inv := by
  unfold State.bootStage
  with_reducible (refine inv_mk ?_ rfl rfl rfl rfl rfl rfl; assumption)

theorem bootStop_inv {s : State} (hs : State.Inv s) : (State.bootStop s).Inv := by
  unfold State.bootStop
  with_reducible (refine inv_mk ?_ rfl rfl rfl rfl rfl rfl; assumption)

theorem bootRun_inv {s : State} {b : Bool} (hs : State.Inv s) : (State.bootRun s b).Inv := by
  unfold State.bootRun
  with_reducible repeat' first
    | assumption | apply bootStop_inv | apply instantiateMain_inv | apply inv_ite | intro _
    | (refine inv_mk ?_ rfl rfl rfl rfl rfl rfl; first | apply bootStage_inv | dsimp only)

theorem bootTries_inv {s : State} {b again : Bool} (hs : State.Inv s) :
    (State.bootTries s b again).Inv := by
  unfold State.bootTries
  with_reducible repeat' first
    | assumption | apply bootRun_inv | apply askQuietly_inv | apply inv_ite | intro _
    | (refine inv_mk ?_ rfl rfl rfl rfl rfl rfl; assumption)

theorem bootSelect_inv {s : State} (hs : State.Inv s) : (State.bootSelect s).Inv := by
  unfold State.bootSelect
  with_reducible repeat' first
    | assumption | apply bootStage_inv | apply bootTries_inv | apply bootRun_inv | apply inv_ite | intro _
    | (refine inv_mk ?_ rfl rfl rfl rfl rfl rfl; first | apply bootStage_inv | split)

theorem bootRoot_inv {s : State} (hs : State.Inv s) : (State.bootRoot s).Inv := by
  unfold State.bootRoot
  with_reducible repeat' first
    | assumption | apply bootStop_inv | apply bootSelect_inv | apply inv_ite | intro _
    | (refine inv_mk ?_ rfl rfl rfl rfl rfl rfl; first | apply bootStage_inv | split)

theorem bootOn_inv {s : State} (hs : State.Inv s) : (State.bootOn s).Inv := by
  unfold State.bootOn
  with_reducible repeat' first
    | assumption | apply startZeroise_inv | apply bootStop_inv | apply bootRoot_inv | apply inv_ite | intro _

theorem bootOtp_inv {s : State} {a : StoreAction} (hs : State.Inv s) : (State.bootOtp s a).Inv := by
  unfold State.bootOtp
  with_reducible repeat' first
    | apply askQuietly_inv | apply inv_ite | intro _ | (refine inv_mk ?_ rfl rfl rfl rfl rfl rfl; assumption)

theorem bootWipe_inv {s : State} (hs : State.Inv s) : (State.bootWipe s).Inv := by
  unfold State.bootWipe
  with_reducible repeat' first | apply startZeroise_inv | (refine inv_mk ?_ rfl rfl rfl rfl rfl rfl; assumption)

theorem bootResolve_inv {s : State} (hs : State.Inv s) : (State.bootResolve s).Inv := by
  unfold State.bootResolve
  with_reducible repeat' first
    | assumption | apply startZeroise_inv | apply bootOn_inv | apply bootOtp_inv | apply bootWipe_inv
    | apply inv_ite | intro _ | (refine inv_mk ?_ rfl rfl rfl rfl rfl rfl; first | assumption | split)

theorem bootContinue_inv {s : State} (hs : State.Inv s) : (State.bootContinue s).Inv := by
  unfold State.bootContinue
  with_reducible repeat' first | assumption | apply bootResolve_inv | apply inv_ite | intro _

theorem bootTriesDone_inv {s : State} (hs : State.Inv s) : (State.bootTriesDone s).Inv := by
  unfold State.bootTriesDone
  with_reducible repeat' first
    | assumption | apply bootRun_inv | apply inv_ite | intro _ | (refine inv_mk ?_ rfl rfl rfl rfl rfl rfl; split)

theorem execBootStart_inv {probe : BootProbe} {s : State} (hs : State.Inv s) : InvR (execBootStart probe s) := by
  unfold execBootStart
  with_reducible repeat' first
    | assumption | apply invR_next | apply bootStop_inv | apply bootResolve_inv | apply invR_ite | intro _
    | (refine inv_mk ?_ rfl rfl rfl rfl rfl rfl; first | assumption | dsimp only)

theorem bootRecheck_inv {s : State} (hs : State.Inv s) : (State.bootRecheck s).Inv := by
  unfold State.bootRecheck
  with_reducible repeat' first | assumption | apply bootContinue_inv | apply inv_ite | intro _

theorem execBootOtpWriteAdmitted_inv {s : State} (hs : State.Inv s) : InvR (execBootOtpWriteAdmitted s) := by
  unfold execBootOtpWriteAdmitted
  with_reducible repeat' first | assumption | apply invR_next | apply bootRecheck_inv

theorem execReserveMeasure_inv {reading : ReserveReading} {s : State} (hs : State.Inv s) :
    InvR (execReserveMeasure reading s) := by
  unfold execReserveMeasure
  with_reducible repeat' first
    | assumption | apply invR_next | apply bootRecheck_inv | apply measure_inv | apply bootTries_inv
    | apply invR_ite | intro _ | split | dsimp only

theorem execZeroiseVerify_inv {regionMatches : Bool} {s : State} (hs : State.Inv s) :
    InvR (execZeroiseVerify regionMatches s) := by
  unfold execZeroiseVerify
  with_reducible repeat' first
    | assumption | apply invR_next | apply bootContinue_inv | apply invR_ite | intro _
    | (refine inv_mk ?_ rfl rfl rfl rfl rfl rfl; first | assumption | apply raiseEvents_inv)

theorem formatVault_inv {s : State} (hs : State.Inv s) : (State.formatVault s).Inv := by
  unfold State.formatVault
  with_reducible repeat' first
    | assumption | apply draw_inv | (refine inv_mk ?_ rfl rfl rfl rfl rfl rfl; apply draw_inv)

theorem drawBootValues_inv {s : State} (hs : State.Inv s) : (State.drawBootValues s).Inv := by
  unfold State.drawBootValues
  with_reducible repeat' first
    | assumption | apply draw_inv | (refine inv_mk ?_ rfl rfl rfl rfl rfl rfl; apply draw_inv)

theorem execBootResumeEntReady_inv {s : State} (hs : State.Inv s) : InvR (execBootResumeEntReady s) := by
  unfold execBootResumeEntReady
  with_reducible repeat' first
    | assumption | apply invR_next | apply formatVault_inv | apply resumePromotion_inv | apply enterPhase_inv
    | apply beginPlanLoad_inv | apply inv_ite | apply invR_ite | intro _
    | (refine inv_mk ?_ rfl rfl rfl rfl rfl rfl; apply drawBootValues_inv)

theorem recGo_inv {s : State} {value : Word} (hs : State.Inv s) : (State.recGo s value).Inv := by
  unfold State.recGo
  with_reducible repeat' first
    | assumption | apply inv_ite | intro _ | (refine inv_mk ?_ rfl rfl rfl rfl rfl rfl; assumption)

theorem execLcbRecGo_inv {value : Word} {s : State} (hs : State.Inv s) : InvR (execLcbRecGo value s) := by
  unfold execLcbRecGo
  with_reducible repeat' first | assumption | apply invR_next | apply recGo_inv

theorem recEnd_inv {s : State} {st : Status} (hs : State.Inv s) : (State.recEnd s st).Inv := by
  unfold State.recEnd
  with_reducible (refine inv_mk ?_ rfl rfl rfl rfl rfl rfl; assumption)

theorem recRead_inv {s : State} {r : ReadResult} (hs : State.Inv s) : (State.recRead s r).Inv := by
  unfold State.recRead
  with_reducible repeat' first
    | assumption | apply recEnd_inv | apply askStore_inv | apply inv_ite | (refine AInv_admitted ?_ (by assumption))
    | (refine AInv_held ?_ (by assumption)) | (refine AInv_refused ?_ (by assumption)) | intro _
    | (refine inv_mk ?_ rfl rfl rfl rfl rfl rfl; first | assumption | split)

/-! ## Machine/PayOps.lean -/

theorem consumeApproval_inv {s : State} {t : Byte} {n : Word} {subject : List Byte} (hs : State.Inv s) :
    OInv (State.consumeApproval s t n subject) := by
  unfold State.consumeApproval
  with_reducible repeat' first
    | apply OInv_some | apply OInv_none | apply OInv_ite | intro _
    | (refine inv_mk ?_ rfl rfl rfl rfl rfl rfl; assumption) | split

/-! ## Machine/StoreCommit.lean -/

theorem execGoodBoot_inv {s : State} (hs : State.Inv s) : InvR (execGoodBoot s) := by
  unfold execGoodBoot
  with_reducible repeat' first
    | assumption | apply invR_next | apply promoteNext_inv | apply askQuietly_inv | apply inv_ite | apply invR_ite
    | intro _

theorem mirrorEnds_inv {s : State} {st : Store} (hs : State.Inv s) : (State.mirrorEnds s st).Inv := by
  unfold State.mirrorEnds
  with_reducible repeat' first
    | assumption | apply passToken_inv | apply mirrorGo_inv | apply inv_ite | intro _
    | (refine inv_mk ?_ rfl rfl rfl rfl rfl rfl; first | assumption | split)

theorem afterStore_inv {s : State} {a1 : Store} (hs : s.Inv) : (State.afterStore s a1).Inv := by
  obtain ⟨_, item, action, _, _⟩ := a1
  unfold State.afterStore
  cases action <;> cases item <;> dsimp only
  with_reducible repeat' first
    | assumption | apply startScan_inv | apply revScan_inv | apply promoteNext_inv | apply notePromotion_inv
    | apply requestWarm_inv | apply bootTriesDone_inv | apply bootContinue_inv | apply endWaitWith_inv
    | apply endWait_inv | apply inv_ite | intro _
    | (refine inv_mk ?_ rfl rfl rfl rfl rfl rfl; first | assumption | split)

theorem commitStore_inv {s : State} {store : Nat} (hs : State.Inv s) : (State.commitStore s store).Inv := by
  unfold State.commitStore
  with_reducible repeat' first
    | assumption | apply afterStore_inv | apply mirrorEnds_inv | apply inv_ite | intro _
    | (refine inv_mk ?_ rfl rfl rfl rfl rfl rfl; first | apply applyStore_inv | split)

theorem execStoreCommit_inv {store : Nat} {s : State} (hs : State.Inv s) : InvR (execStoreCommit store s) := by
  unfold execStoreCommit
  with_reducible repeat' first | assumption | apply invR_next | apply commitStore_inv

end Sys2Proof.Machine
end

