-- ==== Sys2Proof/Laws/Keep4.lean ====
section
/-! SUPPORT. One lemma each: the invariant is kept by the operations and meanings of
officer cards, the dispatcher, protection, host reads, the headworks, the host port and the ring. -/

namespace Sys2Proof.Machine

/-! ## Machine/Cards.lean -/

theorem setPort_inv {s : State} {p : Nat} {x : CardPort} (hs : State.Inv s) : (State.setPort s p x).Inv := by
  unfold State.setPort
  with_reducible (refine inv_mk ?_ rfl rfl rfl rfl rfl rfl; assumption)

theorem nextStep_inv {s : State} {port : Nat} (hs : State.Inv s) : (State.nextStep s port).Inv := by
  unfold State.nextStep
  with_reducible repeat' first
    | assumption | apply endWaitWith_inv | apply setPort_inv | apply inv_foldl | intro _
    | (refine inv_mk ?_ rfl rfl rfl rfl rfl rfl; split)

theorem endStep_inv {s : State} {port : Nat} {st : Status} {count flags : Nat} {counter : Word}
    (hs : State.Inv s) :
    (State.endStep s port st count flags counter).Inv := by
  unfold State.endStep
  with_reducible repeat' first
    | assumption | apply nextStep_inv | apply endWaitWith_inv | apply setPort_inv
    | (refine inv_mk ?_ rfl rfl rfl rfl rfl rfl; split)

theorem stepFails_inv {s : State} {port : Nat} {st : Status} (hs : State.Inv s) :
    (State.stepFails s port st).Inv := by
  unfold State.stepFails
  with_reducible repeat' first | assumption | apply endStep_inv

theorem toClassB_inv {s : State} {port : Nat} (hs : State.Inv s) : (State.toClassB s port).Inv := by
  unfold State.toClassB
  with_reducible repeat' first | assumption | apply setPort_inv

theorem sendPps_inv {s : State} {port : Nat} {fallback : Bool} {ta1 : Byte} (hs : State.Inv s) :
    (State.sendPps s port fallback ta1).Inv := by
  unfold State.sendPps
  with_reducible repeat' first | assumption | apply setPort_inv | apply emit_inv

theorem startData_inv {s : State} {port : Nat} (hs : State.Inv s) : (State.startData s port).Inv := by
  unfold State.startData
  with_reducible repeat' first | assumption | apply setPort_inv

theorem atrRead_inv {s : State} {port : Nat} {excludesC t1 specific : Bool} {ta1 : Byte}
    {ok : Bool} {hist : List Byte} (hs : State.Inv s) :
    (State.atrRead s port excludesC t1 specific ta1 ok hist).Inv := by
  unfold State.atrRead
  with_reducible repeat' first
    | assumption | apply toClassB_inv | apply stepFails_inv | apply setPort_inv | apply startData_inv
    | apply sendPps_inv | apply inv_ite | intro _

theorem atrMissing_inv {s : State} {port : Nat} (hs : State.Inv s) : (State.atrMissing s port).Inv := by
  unfold State.atrMissing
  with_reducible repeat' first | assumption | apply stepFails_inv | apply toClassB_inv | apply inv_ite | intro _

theorem ppsFails_inv {s : State} {port : Nat} {fallback : Bool} (hs : State.Inv s) :
    (State.ppsFails s port fallback).Inv := by
  unfold State.ppsFails
  with_reducible repeat' first | assumption | apply stepFails_inv | apply sendPps_inv | apply inv_ite | intro _

theorem nextCommand_inv {s : State} {port : Nat} {w : CardWait} {p : CardPort} (hs : State.Inv s) :
    (State.nextCommand s port w p).Inv := by
  unfold State.nextCommand
  with_reducible repeat' first | assumption | apply setPort_inv

theorem cardSigned_inv {s : State} {port : Nat} {c : Ceremony} {counter : Word} {sig : List Byte}
    {component : Option (List Byte)} (hs : State.Inv s) :
    (State.cardSigned s port c counter sig component).Inv := by
  unfold State.cardSigned
  with_reducible repeat' first
    | assumption | apply setPort_inv | apply stepFails_inv | apply endStep_inv | apply wakeQuorum_inv
    | apply inv_ite | intro _ | (refine inv_mk ?_ rfl rfl rfl rfl rfl rfl; apply setPort_inv)

theorem cardReply_inv {s : State} {port : Nat} {r : CardReply} (hs : State.Inv s) :
    (State.cardReply s port r).Inv := by
  unfold State.cardReply
  with_reducible repeat' first
    | assumption | apply atrRead_inv | apply stepFails_inv | apply setPort_inv | apply atrMissing_inv
    | apply startData_inv | apply ppsFails_inv | apply nextCommand_inv | apply emit_inv | apply cardSigned_inv
    | apply inv_ite | intro _ | (refine inv_mk ?_ rfl rfl rfl rfl rfl rfl; split)

theorem execCardResponse_inv {port : Nat} {reply : CardReply} {s : State} (hs : State.Inv s) :
    InvR (execCardResponse port reply s) := by
  unfold execCardResponse
  with_reducible repeat' first | assumption | apply invR_next | apply cardReply_inv

theorem cardTimeout_inv {s : State} {port : Nat} (hs : State.Inv s) : (State.cardTimeout s port).Inv := by
  unfold State.cardTimeout
  with_reducible repeat' first
    | assumption | apply atrMissing_inv | apply ppsFails_inv | apply stepFails_inv | apply inv_ite | intro _
    | (refine inv_mk ?_ rfl rfl rfl rfl rfl rfl; split)

theorem execCardWaitTimeout_inv {port : Nat} {s : State} (hs : State.Inv s) :
    InvR (execCardWaitTimeout port s) := by
  unfold execCardWaitTimeout
  with_reducible repeat' first | assumption | apply invR_next | apply cardTimeout_inv

theorem classRetry_inv {s : State} {port : Nat} (hs : State.Inv s) : (State.classRetry s port).Inv := by
  unfold State.classRetry
  with_reducible repeat' first | assumption | apply setPort_inv | (refine inv_mk ?_ rfl rfl rfl rfl rfl rfl; split)

theorem execCardClassRetry_inv {port : Nat} {s : State} (hs : State.Inv s) : InvR (execCardClassRetry port s) := by
  unfold execCardClassRetry
  with_reducible repeat' first | assumption | apply invR_next | apply classRetry_inv

theorem busyDetect_inv {s : State} {port : Nat} (hs : State.Inv s) : (State.busyDetect s port).Inv := by
  unfold State.busyDetect
  with_reducible repeat' first | assumption | apply setPort_inv | apply stepFails_inv | apply inv_ite | intro _

theorem execCardBusyDetect_inv {port : Nat} {s : State} (hs : State.Inv s) : InvR (execCardBusyDetect port s) := by
  unfold execCardBusyDetect
  with_reducible repeat' first | assumption | apply invR_next | apply busyDetect_inv

theorem execCardOvercurrent_inv {port : Nat} {s : State} (hs : State.Inv s) :
    InvR (execCardOvercurrent port s) := by
  unfold execCardOvercurrent
  with_reducible repeat' first | assumption | apply invR_next | apply stepFails_inv | apply invR_ite | intro _

theorem cardIrq_inv {s : State} (hs : State.Inv s) : (State.cardIrq s).Inv := by
  unfold State.cardIrq
  with_reducible repeat' first | assumption | apply sendVector_inv | apply inv_ite | intro _

theorem insertCard_inv {s : State} {port : Nat} (hs : State.Inv s) : (State.insertCard s port).Inv := by
  unfold State.insertCard
  with_reducible repeat' first
    | assumption | apply setPort_inv | apply cardIrq_inv | apply inv_ite | intro _
    | (refine inv_mk ?_ rfl rfl rfl rfl rfl rfl; apply setPort_inv)

theorem execCardInsert_inv {port : Nat} {s : State} (hs : State.Inv s) : InvR (execCardInsert port s) := by
  unfold execCardInsert
  with_reducible repeat' first | assumption | apply invR_next | apply insertCard_inv

theorem removeCard_inv {s : State} {port : Nat} (hs : State.Inv s) : (State.removeCard s port).Inv := by
  unfold State.removeCard
  with_reducible repeat' first
    | assumption | apply setPort_inv | apply cardIrq_inv | apply stepFails_inv | apply inv_ite | intro _
    | (refine inv_mk ?_ rfl rfl rfl rfl rfl rfl; apply setPort_inv)

theorem execCardRemove_inv {port : Nat} {s : State} (hs : State.Inv s) : InvR (execCardRemove port s) := by
  unfold execCardRemove
  with_reducible repeat' first | assumption | apply invR_next | apply removeCard_inv

theorem execCerOpen_inv {item : Nat} {s : State} (hs : State.Inv s) : InvR (execCerOpen item s) := by
  unfold execCerOpen
  with_reducible repeat' first
    | assumption | apply invR_next | apply onRunning_inv | apply failItem_inv | apply complete_inv
    | apply noteMode_inv | apply inv_ite | intro _ | (refine inv_mk ?_ rfl rfl rfl rfl rfl rfl; apply draw_inv)

theorem cardFails_inv {s : State} {it : Item} {st : Status} (hs : State.Inv s) : (State.cardFails s it st).Inv := by
  unfold State.cardFails
  with_reducible repeat' first | assumption | apply finish_inv

theorem execCerCard_inv {item : Nat} {s : State} (hs : State.Inv s) : InvR (execCerCard item s) := by
  unfold execCerCard
  with_reducible repeat' first
    | assumption | apply invR_next | apply onRunning_inv | apply cardFails_inv | apply yieldItem_inv
    | apply setPort_inv | apply nextStep_inv | apply inv_ite | intro _

theorem execCerClose_inv {item : Nat} {s : State} (hs : State.Inv s) : InvR (execCerClose item s) := by
  unfold execCerClose
  with_reducible repeat' first
    | assumption | apply invR_next | apply onRunning_inv | apply failItem_inv | apply complete_inv
    | apply closeSession_inv | apply inv_ite | intro _ | (refine inv_mk ?_ rfl rfl rfl rfl rfl rfl; split)

theorem execCeremonyLimit_inv {s : State} (hs : State.Inv s) : InvR (execCeremonyLimit s) := by
  unfold execCeremonyLimit
  with_reducible repeat' first | assumption | apply invR_next | apply closeSession_inv | apply invR_ite | intro _

theorem stageStore_inv {s : State} {it : Item} {stage : Nat} {a : StoreAction} (hs : State.Inv s) :
    (State.stageStore s it stage a).Inv := by
  unfold State.stageStore
  with_reducible repeat' first
    | assumption | apply failItem_inv | apply countRefusal_inv | apply askStore_inv | apply yieldItem_inv
    | apply setItem_inv | apply inv_ite | (refine AInv_admitted ?_ (by assumption))
    | (refine AInv_held ?_ (by assumption)) | (refine AInv_refused ?_ (by assumption)) | intro _
    | (refine inv_mk ?_ rfl rfl rfl rfl rfl rfl; split)

theorem firmwareStage_inv {s : State} {it : Item} {img : List Byte} (hs : State.Inv s) :
    (State.firmwareStage s it img).Inv := by
  unfold State.firmwareStage
  with_reducible repeat' first
    | assumption | apply stageStore_inv | apply complete_inv | apply inv_ite | intro _
    | (refine inv_mk ?_ rfl rfl rfl rfl rfl rfl; split)

theorem firmwareStart_inv {s : State} {it : Item} {img : List Byte} (hs : State.Inv s) :
    (State.firmwareStart s it img).Inv := by
  unfold State.firmwareStart
  with_reducible repeat' first
    | assumption | apply failItem_inv | apply stageStore_inv | apply inv_ite | intro _
    | (refine inv_mk ?_ rfl rfl rfl rfl rfl rfl; apply closeSession_inv) | split

theorem applySession_inv {s : State} {it : Item} {c : Ceremony} {d : List Byte} (hs : State.Inv s) :
    (State.applySession s it c d).Inv := by
  unfold State.applySession
  with_reducible repeat' first
    | assumption | apply failItem_inv | apply storeSession_inv | apply raiseEvents_inv | apply complete_inv
    | apply closeSession_inv | apply firmwareStart_inv | apply inv_ite | intro _
    | (refine inv_mk ?_ rfl rfl rfl rfl rfl rfl; split)

theorem execCerApply_inv {item : Nat} {s : State} (hs : State.Inv s) : InvR (execCerApply item s) := by
  unfold execCerApply
  with_reducible repeat' first
    | assumption | apply invR_next | apply onRunning_inv | apply failItem_inv | apply firmwareStage_inv
    | apply applySession_inv | apply yieldItem_inv | apply inv_ite | intro _
    | (refine inv_mk ?_ rfl rfl rfl rfl rfl rfl; split)

theorem execApprovalOpen_inv {item : Nat} {s : State} (hs : State.Inv s) : InvR (execApprovalOpen item s) := by
  unfold execApprovalOpen
  with_reducible repeat' first
    | assumption | apply invR_next | apply onRunning_inv | apply failItem_inv | apply complete_inv | apply inv_ite
    | intro _ | (refine inv_mk ?_ rfl rfl rfl rfl rfl rfl; apply draw_inv)

theorem approve_inv {s : State} {it : Item} {a : Approval} {m : Nat} (hs : State.Inv s) :
    (State.approve s it a m).Inv := by
  unfold State.approve
  with_reducible repeat' first | apply complete_inv | (refine inv_mk ?_ rfl rfl rfl rfl rfl rfl; assumption)

theorem execApprovalSign_inv {item : Nat} {s : State} (hs : State.Inv s) : InvR (execApprovalSign item s) := by
  unfold execApprovalSign
  with_reducible repeat' first
    | assumption | apply invR_next | apply onRunning_inv | apply failItem_inv | apply approve_inv | apply inv_ite
    | intro _ | (refine inv_mk ?_ rfl rfl rfl rfl rfl rfl; split)

theorem execRosterSet_inv {item : Nat} {s : State} (hs : State.Inv s) : InvR (execRosterSet item s) := by
  unfold execRosterSet
  with_reducible repeat' first
    | assumption | apply invR_next | apply onRunning_inv | apply failItem_inv | apply storeFor_inv
    | apply countRefusal_inv | apply consumeApproval_inv | apply inv_ite | (refine OInv_get ?_ (by assumption))
    | intro _ | (refine inv_mk ?_ rfl rfl rfl rfl rfl rfl; split)

theorem execApprovalTimeout_inv {tenant : Byte} {session : Word} {s : State} (hs : State.Inv s) :
    InvR (execApprovalTimeout tenant session s) := by
  unfold execApprovalTimeout
  with_reducible repeat' first | apply invR_next | (refine inv_mk ?_ rfl rfl rfl rfl rfl rfl; assumption)

/-! ## Machine/Dispatcher.lean -/

theorem runCheck_inv {s : State} {id : Nat} (hs : State.Inv s) : (State.runCheck s id).Inv := by
  unfold State.runCheck
  with_reducible repeat' first
    | assumption | apply setItem_inv | apply failItem_inv | apply inv_ite | intro _
    | (refine inv_mk ?_ rfl rfl rfl rfl rfl rfl; split)

theorem runChecks_inv {s : State} (hs : State.Inv s) : (State.runChecks s).Inv := by
  unfold State.runChecks
  with_reducible repeat' first | assumption | apply runCheck_inv | apply inv_foldl

theorem execDescriptorConsume_inv {fn qp : Nat} {s : State} (hs : State.Inv s) :
    InvR (execDescriptorConsume fn qp s) := by
  unfold execDescriptorConsume
  with_reducible repeat' first
    | assumption | apply invR_next | apply runCheck_inv | apply consume_inv | apply inv_ite | intro _

theorem reloadCredits_inv {s : State} (hs : State.Inv s) : (State.reloadCredits s).Inv := by
  unfold State.reloadCredits
  with_reducible (refine inv_mk ?_ rfl rfl rfl rfl rfl rfl; assumption)

theorem chooseItem_inv {s : State} (hs : State.Inv s) : OInv2 (State.chooseItem s) := by
  unfold State.chooseItem
  with_reducible repeat' first
    | assumption | apply OInv2_mapv | apply OInv2_none | apply OInv2_ite | intro _
    | (refine inv_mk ?_ rfl rfl rfl rfl rfl rfl; first | assumption | apply reloadCredits_inv) | split | dsimp only

theorem startFill_inv {s : State} {id : Nat} {h : Word} (hs : State.Inv s) : (State.startFill s id h).Inv := by
  unfold State.startFill
  with_reducible (refine inv_mk ?_ rfl rfl rfl rfl rfl rfl; assumption)

theorem pinKey_inv {s : State} {h : Word} (hs : State.Inv s) : (State.pinKey s h).Inv := by
  unfold State.pinKey
  with_reducible (refine inv_mk ?_ rfl rfl rfl rfl rfl rfl; assumption)

theorem claimStaging_inv {s : State} {it : Item} (hs : State.Inv s) : OInv1 (State.claimStaging s it) := by
  unfold State.claimStaging
  with_reducible repeat' first
    | assumption | apply OInv1_some | apply OInv1_none | apply OInv1_ite | apply setRegion_inv | intro _
    | (refine inv_mk ?_ rfl rfl rfl rfl rfl rfl; assumption) | split | dsimp only

theorem failClaim_inv {s : State} {it : Item} {kind : ClaimKind} (hs : State.Inv s) :
    (State.failClaim s it kind).Inv := by
  unfold State.failClaim
  with_reducible repeat' first
    | assumption | apply freeCore_inv | apply trace_inv
    | (refine inv_mk ?_ rfl rfl rfl rfl rfl rfl; apply setItem_inv)

theorem checkFails_inv {s : State} {it : Item} {st : Status} (hs : State.Inv s) :
    (State.checkFails s it st).Inv := by
  unfold State.checkFails
  with_reducible repeat' first
    | assumption | apply exhaust_inv | apply inv_ite | intro _ | (refine inv_mk ?_ rfl rfl rfl rfl rfl rfl; split)

theorem claimItem_inv {s : State} {it : Item} (hs : State.Inv s) : (State.claimItem s it).Inv := by
  unfold State.claimItem
  with_reducible repeat' first
    | assumption | apply failClaim_inv | apply startFill_inv | apply failItem_inv | apply checkFails_inv
    | apply claimStaging_inv | apply takeEgress_inv | apply pinKey_inv | apply setItem_inv | apply unlist_inv
    | apply trace_inv | apply inv_ite | apply inv_foldl | (refine OInv1_get ?_ (by assumption))
    | (refine OInv1_getp ?_ (by assumption)) | intro _ | (refine inv_mk ?_ rfl rfl rfl rfl rfl rfl; split)

theorem claimOnCore_inv {s : State} {id : Nat} (hs : State.Inv s) : (State.claimOnCore s id).Inv := by
  unfold State.claimOnCore
  with_reducible repeat' first
    | assumption | apply tenantDraw_inv | apply claimItem_inv | apply setItem_inv | apply inv_ite
    | (refine OInv2_get ?_ (by assumption)) | intro _ | (refine inv_mk ?_ rfl rfl rfl rfl rfl rfl; split)

theorem takeOn_inv {s : State} {core : Nat} {it : Item} (hs : State.Inv s) : (State.takeOn s core it).Inv := by
  unfold State.takeOn
  with_reducible repeat' first | assumption | apply modifyCore_inv | apply setItem_inv

theorem resumeOn_inv {s : State} {core id : Nat} (hs : State.Inv s) : (State.resumeOn s core id).Inv := by
  unfold State.resumeOn
  with_reducible repeat' first
    | apply trace_inv | apply takeOn_inv | apply finish_inv | apply inv_ite | intro _
    | (refine inv_mk ?_ rfl rfl rfl rfl rfl rfl; first | assumption | split)

theorem dispatch_inv {s : State} {core : Nat} (hs : State.Inv s) : (State.dispatch s core).Inv := by
  unfold State.dispatch
  with_reducible repeat' first
    | assumption | apply resumeOn_inv | apply chooseItem_inv | apply runChecks_inv | apply claimOnCore_inv
    | apply takeOn_inv | apply inv_ite | (refine OInv2_get ?_ (by assumption)) | intro _
    | (refine inv_mk ?_ rfl rfl rfl rfl rfl rfl; split)

theorem execDispatch_inv {core : Nat} {s : State} (hs : State.Inv s) : InvR (execDispatch core s) := by
  unfold execDispatch
  with_reducible repeat' first | assumption | apply invR_next | apply dispatch_inv

theorem execItemResume_inv {item : Nat} {s : State} (hs : State.Inv s) : InvR (execItemResume item s) := by
  unfold execItemResume
  with_reducible repeat' first | assumption | apply invR_next | apply resumeOn_inv | apply invR_ite | intro _ | split

theorem endFill_inv {s : State} {f : KeyFill} (hs : State.Inv s) : (State.endFill s f).Inv := by
  unfold State.endFill
  with_reducible repeat' first
    | assumption | apply setItem_inv | apply inv_foldl | intro _
    | (refine inv_mk ?_ rfl rfl rfl rfl rfl rfl; first | assumption | split)

theorem fillDone_inv {s : State} {h : Word} {tagOk : Bool} (hs : State.Inv s) : (State.fillDone s h tagOk).Inv := by
  unfold State.fillDone
  with_reducible repeat' first
    | assumption | apply failItem_inv | apply endFill_inv | apply freeSession_inv | apply raiseEvents_inv
    | apply inv_ite | apply inv_foldl | intro _
    | (refine inv_mk ?_ rfl rfl rfl rfl rfl rfl; first | apply endFill_inv | apply draw_inv | split)

theorem execKeyFillDone_inv {handle : Word} {tagOk : Bool} {s : State} (hs : State.Inv s) :
    InvR (execKeyFillDone handle tagOk s) := by
  unfold execKeyFillDone
  with_reducible repeat' first | assumption | apply invR_next | apply fillDone_inv

/-! ## Machine/Protect.lean -/

theorem recordViolation_inv {s : State} {a1 : Violation} (hs : s.Inv) : (State.recordViolation s a1).Inv := by
  unfold State.recordViolation
  extract_lets g
  split
  · exact hs
  · rename_i q hq
    have hl := hs.fifos q (List.mem_of_getElem? hq)
    refine inv_ite (fun _ => inv_set_fifo (q := { q with lost := q.lost + 1 }) hs hl rfl rfl rfl rfl rfl rfl) fun h => ?_
    have hl' : (q.records ++ [a1]).length ≤ 64 := by
      rw [List.length_append]; simp only [List.length_singleton]; omega
    refine inv_ite (fun _ => sendVector_inv ?_) fun _ => ?_ <;>
      exact inv_set_fifo (q := { q with records := q.records ++ [a1] }) hs hl' rfl rfl rfl rfl rfl rfl

theorem masterAccess_inv {s : State} {locked : Nat → Bool} {master : Nat} {tenant : Option Byte} {fn : Nat}
    {a : Access} (hs : State.Inv s) :
    (State.masterAccess s locked master tenant fn a).1.Inv := by
  unfold State.masterAccess
  with_reducible repeat' first
    | assumption | apply recordViolation_inv | apply inv_ite_fst | apply inv_foldl_fst | intro _
    | (refine inv_mk ?_ rfl rfl rfl rfl rfl rfl; first | assumption | split)

theorem hbmError_inv {s : State} {a : Nat} (hs : State.Inv s) : (State.hbmError s a).Inv := by
  unfold State.hbmError
  with_reducible repeat' first | apply sendVector_inv | (refine inv_mk ?_ rfl rfl rfl rfl rfl rfl; assumption)

/-! ## Machine/DmaRead.lean -/

theorem countDmaError_inv {s : State} {engine : Nat} (hs : State.Inv s) : (State.countDmaError s engine).Inv := by
  unfold State.countDmaError
  with_reducible (refine inv_mk ?_ rfl rfl rfl rfl rfl rfl; assumption)

theorem innerAccess_inv {s : State} {target : DmaTarget} {inner : DmaInner} {r : ReadResult} (hs : State.Inv s) :
    (State.innerAccess s target inner r).1.Inv := by
  unfold State.innerAccess
  with_reducible repeat' first
    | assumption | apply masterAccess_inv | (refine inv_mk ?_ rfl rfl rfl rfl rfl rfl; split)

theorem transferFails_inv {s : State} {it : Item} {st : Status} (hs : State.Inv s) :
    (State.transferFails s it st).Inv := by
  unfold State.transferFails
  with_reducible repeat' first
    | assumption | apply setItem_inv | apply failItem_inv | apply zeroOutputs_inv | apply endWaitWith_inv
    | (refine inv_mk ?_ rfl rfl rfl rfl rfl rfl; split)

theorem fetchDone_inv {s : State} {fn qp slot : Nat} {r : ReadResult} (hs : State.Inv s) :
    (State.fetchDone s fn qp slot r).Inv := by
  unfold State.fetchDone
  with_reducible repeat' first
    | assumption | apply setQp_inv | apply queueError_inv | apply inv_ite | intro _
    | (refine inv_mk ?_ rfl rfl rfl rfl rfl rfl; split)

theorem itemRead_inv {s : State} {id : Nat} {iova : DWord} {r : ReadResult} (hs : State.Inv s) :
    (State.itemRead s id iova r).Inv := by
  unfold State.itemRead
  with_reducible repeat' first
    | assumption | apply transferFails_inv | apply runCheck_inv | apply setItem_inv
    | (refine inv_mk ?_ rfl rfl rfl rfl rfl rfl; split)

theorem readDone_inv {s : State} {target : DmaTarget} {result : ReadResult} {inner : DmaInner} (hs : State.Inv s) :
    (State.readDone s target result inner).Inv := by
  unfold State.readDone
  with_reducible repeat' first
    | assumption | apply innerAccess_inv | apply countDmaError_inv | apply hbmError_inv | apply fetchDone_inv
    | apply transferFails_inv | apply itemRead_inv | apply recRead_inv | apply inv_ite | intro _
    | (refine inv_mk ?_ rfl rfl rfl rfl rfl rfl; split)

theorem execDmaReadComplete_inv {target : DmaTarget} {result : ReadResult} {inner : DmaInner} {s : State}
    (hs : State.Inv s) :
    InvR (execDmaReadComplete target result inner s) := by
  unfold execDmaReadComplete
  with_reducible repeat' first | assumption | apply invR_next | apply readDone_inv

/-! ## Machine/Headworks.lean -/

theorem execEthLinkChange_inv {port subPort : Nat} {up : Bool} {s : State} (hs : State.Inv s) :
    InvR (execEthLinkChange port subPort up s) := by
  unfold execEthLinkChange
  with_reducible repeat' first | assumption | apply invR_next | apply modifySub_inv | apply invR_ite | intro _

theorem execEapolMka_inv {port subPort : Nat} {installsSak : Bool} {s : State} (hs : State.Inv s) :
    InvR (execEapolMka port subPort installsSak s) := by
  unfold execEapolMka
  with_reducible repeat' first
    | assumption | apply invR_next | apply draw_inv | apply modifySub_inv | apply invR_ite | intro _

theorem execSakRekeyThreshold_inv {port subPort : Nat} {s : State} (hs : State.Inv s) :
    InvR (execSakRekeyThreshold port subPort s) := by
  unfold execSakRekeyThreshold
  with_reducible repeat' first | assumption | apply invR_next | apply modifySub_inv | apply invR_ite | intro _

theorem writePortCfg_inv {s : State} {port : Nat} {value : Word} (hs : State.Inv s) :
    (State.writePortCfg s port value).Inv := by
  unfold State.writePortCfg
  with_reducible repeat' first
    | assumption | apply setReg_inv | apply resetChan_inv | apply inv_ite | apply inv_foldl | intro _

theorem execPortCfgWrite_inv {port : Nat} {value : Word} {s : State} (hs : State.Inv s) :
    InvR (execPortCfgWrite port value s) := by
  unfold execPortCfgWrite
  with_reducible repeat' first | assumption | apply invR_next | apply writePortCfg_inv | apply invR_ite | intro _

theorem exception_inv {s : State} {f : EthFrame} {reason : Nat} (hs : State.Inv s) :
    (State.exception s f reason).Inv := by
  unfold State.exception
  with_reducible repeat' first
    | assumption | apply countPort_inv | apply inv_ite | intro _
    | (refine inv_mk ?_ rfl rfl rfl rfl rfl rfl; apply hostWrite_inv)

theorem injectOne_inv {s : State} {x : InjectSlot} (hs : State.Inv s) : (State.injectOne s x).Inv := by
  unfold State.injectOne
  with_reducible repeat' first
    | apply portSend_inv | apply inv_ite | intro _
    | (refine inv_mk ?_ rfl rfl rfl rfl rfl rfl; first | assumption | dsimp only)

theorem injectFrames_inv {s : State} {prod : Word} {slots : List InjectSlot} (hs : State.Inv s) :
    (State.injectFrames s prod slots).Inv := by
  unfold State.injectFrames
  with_reducible repeat' first
    | assumption | apply setReg_inv | apply injectOne_inv | apply inv_ite | apply inv_foldl | intro _

theorem execInjectFrame_inv {prod : Word} {slots : List InjectSlot} {s : State} (hs : State.Inv s) :
    InvR (execInjectFrame prod slots s) := by
  unfold execInjectFrame
  with_reducible repeat' first | assumption | apply invR_next | apply injectFrames_inv

theorem refuseTypes_inv {s : State} {c : Nat} (hs : State.Inv s) : (State.refuseTypes s c).Inv := by
  unfold State.refuseTypes
  with_reducible repeat' first
    | assumption | apply setChan_inv | apply sendNack_inv | apply inv_foldl | intro _
    | (refine inv_mk ?_ rfl rfl rfl rfl rfl rfl; split)

theorem ackNow_inv {s : State} {c : Nat} (hs : State.Inv s) : (State.ackNow s c).Inv := by
  unfold State.ackNow
  with_reducible repeat' first | assumption | apply transmitUnseq_inv

theorem acceptPacket_inv {s : State} {port c : Nat} {x : Channel} {p : RxPacket} (hs : State.Inv s) :
    (State.acceptPacket s port c x p).Inv := by
  unfold State.acceptPacket
  with_reducible repeat' first
    | assumption | apply countPort_inv | apply setChan_inv | apply ackNow_inv | apply refuseTypes_inv
    | apply inv_ite | intro _

theorem receiveFrame_inv {s : State} {f : EthFrame} (hs : State.Inv s) : (State.receiveFrame s f).Inv := by
  unfold State.receiveFrame
  with_reducible repeat' first
    | assumption | apply countPort_inv | apply exception_inv | apply acceptPacket_inv | apply inv_ite | intro _
    | (refine inv_mk ?_ rfl rfl rfl rfl rfl rfl; split)

theorem execEthFrameReceive_inv {frame : EthFrame} {s : State} (hs : State.Inv s) :
    InvR (execEthFrameReceive frame s) := by
  unfold execEthFrameReceive
  with_reducible repeat' first | assumption | apply invR_next | apply receiveFrame_inv

theorem takeInbox_inv {s : State} {c typ : Nat} (hs : State.Inv s) : OInv22 (State.takeInbox s c typ) := by
  unfold State.takeInbox
  with_reducible repeat' first
    | assumption | apply OInv22_some | apply OInv22_none | apply OInv22_ite | apply setChan_inv | intro _ | split

theorem takeControl_inv {s : State} {c typ : Nat} (hs : State.Inv s) :
    OInv22 (State.takeControl s c typ) := by
  unfold State.takeControl
  with_reducible repeat' first
    | assumption | apply OInv22_some | apply OInv22_none | apply OInv22_ite | apply setChan_inv | intro _ | split

theorem execCredit_inv {chan : Nat} {s : State} (hs : State.Inv s) : InvR (execCredit chan s) := by
  unfold execCredit
  with_reducible repeat' first
    | assumption | apply invR_next | apply takeControl_inv | apply setChan_inv | apply ackNow_inv | apply inv_ite
    | (refine OInv22_get ?_ (by assumption)) | intro _ | split

theorem chanOpens_inv {s : State} {c : Nat} (hs : State.Inv s) : (State.chanOpens s c).Inv := by
  unfold State.chanOpens
  with_reducible repeat' first
    | assumption | apply setChan_inv | apply inv_ite | intro _
    | (refine inv_mk ?_ rfl rfl rfl rfl rfl rfl; first | apply setChan_inv | split)

theorem execPing_inv {chan : Nat} {s : State} (hs : State.Inv s) : InvR (execPing chan s) := by
  unfold execPing
  with_reducible repeat' first
    | assumption | apply invR_next | apply takeControl_inv | apply chanOpens_inv | apply resetChan_inv
    | apply setChan_inv | apply transmitUnseq_inv | apply invR_ite | (refine OInv22_get ?_ (by assumption))
    | intro _ | split

theorem execAckTimer_inv {chan : Nat} {s : State} (hs : State.Inv s) : InvR (execAckTimer chan s) := by
  unfold execAckTimer
  with_reducible repeat' first | assumption | apply invR_next | apply ackNow_inv | apply invR_ite | intro _ | split

theorem execRetransmitTimeout_inv {chan : Nat} {seq : Word} {s : State} (hs : State.Inv s) :
    InvR (execRetransmitTimeout chan seq s) := by
  unfold execRetransmitTimeout
  with_reducible repeat' first
    | assumption | apply invR_next | apply resetChan_inv | apply transmit_inv | apply invR_ite | intro _
    | (refine inv_mk ?_ rfl rfl rfl rfl rfl rfl; apply setChan_inv) | split

theorem execZeroWindowProbe_inv {chan : Nat} {s : State} (hs : State.Inv s) :
    InvR (execZeroWindowProbe chan s) := by
  unfold execZeroWindowProbe
  with_reducible repeat' first
    | assumption | apply invR_next | apply transmitUnseq_inv | apply invR_ite | intro _ | split

theorem execZeroWindowTimeout_inv {chan : Nat} {s : State} (hs : State.Inv s) :
    InvR (execZeroWindowTimeout chan s) := by
  unfold execZeroWindowTimeout
  with_reducible repeat' first | assumption | apply invR_next | apply resetChan_inv | apply invR_ite | intro _ | split

theorem execSyncPingTimer_inv {chan : Nat} {s : State} (hs : State.Inv s) : InvR (execSyncPingTimer chan s) := by
  unfold execSyncPingTimer
  with_reducible repeat' first
    | assumption | apply invR_next | apply transmitUnseq_inv | apply invR_ite | intro _ | split

theorem execSyncTimeout_inv {chan : Nat} {s : State} (hs : State.Inv s) : InvR (execSyncTimeout chan s) := by
  unfold execSyncTimeout
  with_reducible repeat' first
    | assumption | apply invR_next | apply setChan_inv | apply invR_ite | intro _
    | (refine inv_mk ?_ rfl rfl rfl rfl rfl rfl; apply setChan_inv) | split

theorem execEpochQuarantineEnd_inv {chan : Nat} {s : State} (hs : State.Inv s) :
    InvR (execEpochQuarantineEnd chan s) := by
  unfold execEpochQuarantineEnd
  with_reducible repeat' first
    | assumption | apply invR_next | apply setChan_inv | apply transmitUnseq_inv | apply invR_ite | intro _ | split

theorem execPutackTimeout_inv {chan : Nat} {xid : Word} {s : State} (hs : State.Inv s) :
    InvR (execPutackTimeout chan xid s) := by
  unfold execPutackTimeout
  with_reducible repeat' first | assumption | apply invR_next | apply resetChan_inv | apply invR_ite | intro _ | split

theorem execPacketTransmit_inv {chan : Nat} {s : State} (hs : State.Inv s) : InvR (execPacketTransmit chan s) := by
  unfold execPacketTransmit
  with_reducible repeat' first | assumption | apply invR_next | apply sendHead_inv

theorem setChanData_inv {s : State} {e : List Byte} (hs : State.Inv s) : (State.setChanData s e).Inv := by
  unfold State.setChanData
  with_reducible repeat' first | assumption | apply setReg_inv | apply inv_foldl | intro _

theorem chanResult_inv {s : State} {st : Status} (hs : State.Inv s) : (State.chanResult s st).Inv := by
  unfold State.chanResult
  with_reducible (refine inv_mk ?_ rfl rfl rfl rfl rfl rfl; assumption)

theorem execChanRead_inv {s : State} (hs : State.Inv s) : InvR (execChanRead s) := by
  unfold execChanRead
  with_reducible repeat' first
    | assumption | apply invR_next | apply invR_ite | intro _
    | (refine inv_mk ?_ rfl rfl rfl rfl rfl rfl; apply setChanData_inv)

theorem execChanOpen_inv {s : State} (hs : State.Inv s) : InvR (execChanOpen s) := by
  unfold execChanOpen
  with_reducible repeat' first
    | assumption | apply invR_next | apply chanResult_inv | apply draw_inv | apply synchronise_inv | apply invR_ite
    | intro _ | (refine inv_mk ?_ rfl rfl rfl rfl rfl rfl; apply setChan_inv)

theorem execChanReset_inv {s : State} (hs : State.Inv s) : InvR (execChanReset s) := by
  unfold execChanReset
  with_reducible repeat' first
    | assumption | apply invR_next | apply chanResult_inv | apply resetChan_inv | apply invR_ite | intro _

theorem closeChan_inv {s : State} {c : Nat} (hs : State.Inv s) : (State.closeChan s c).Inv := by
  unfold State.closeChan
  with_reducible repeat' first | assumption | (refine inv_mk ?_ rfl rfl rfl rfl rfl rfl; apply resetChan_inv)

theorem execChanClose_inv {s : State} (hs : State.Inv s) : InvR (execChanClose s) := by
  unfold execChanClose
  with_reducible repeat' first
    | assumption | apply invR_next | apply chanResult_inv | apply closeChan_inv | apply invR_ite | intro _

theorem openGateway_inv {s : State} {c : Nat} {x : Channel} {p : RxPacket} {kind : ExchangeKind} {opcode : Nat}
    {desc : List Byte} (hs : State.Inv s) :
    (State.openGateway s c x p kind opcode desc).Inv := by
  unfold State.openGateway
  with_reducible repeat' first
    | assumption | apply sendNack_inv | apply setChan_inv | apply enqueue_inv | apply inv_ite | intro _
    | (refine inv_mk ?_ rfl rfl rfl rfl rfl rfl; first | assumption | apply setChan_inv | split)

theorem submitData_inv {s : State} {c : Nat} {p : RxPacket} {st : SubmitStream} (hs : State.Inv s) :
    (State.submitData s c p st).Inv := by
  unfold State.submitData
  with_reducible repeat' first
    | assumption | apply failItem_inv | apply endWait_inv | apply inv_ite | intro _
    | (refine inv_mk ?_ rfl rfl rfl rfl rfl rfl; first | assumption | split)

theorem execSubmit_inv {chan : Nat} {s : State} (hs : State.Inv s) : InvR (execSubmit chan s) := by
  unfold execSubmit
  with_reducible repeat' first
    | assumption | apply invR_next | apply takeInbox_inv | apply openGateway_inv | apply failItem_inv
    | apply sendNack_inv | apply submitData_inv | apply invR_ite | (refine OInv22_get ?_ (by assumption)) | intro _
    | split | dsimp only

theorem execRetrieve_inv {chan : Nat} {s : State} (hs : State.Inv s) : InvR (execRetrieve chan s) := by
  unfold execRetrieve
  with_reducible repeat' first
    | assumption | apply invR_next | apply takeInbox_inv | apply openGateway_inv
    | (refine OInv22_get ?_ (by assumption)) | split

theorem execFragPutAck_inv {chan : Nat} {s : State} (hs : State.Inv s) : InvR (execFragPutAck chan s) := by
  unfold execFragPutAck
  with_reducible repeat' first
    | assumption | apply invR_next | apply takeInbox_inv | apply endWait_inv | apply sendNack_inv | apply inv_ite
    | (refine OInv22_get ?_ (by assumption)) | intro _
    | (refine inv_mk ?_ rfl rfl rfl rfl rfl rfl; apply closeExchange_inv) | split

theorem openData_inv {s : State} {r : OpenRun} {j off : Nat} {str : List Byte} (hs : State.Inv s) :
    (State.openData s r j off str).Inv := by
  unfold State.openData
  with_reducible repeat' first
    | assumption | apply setOpen_inv | apply endWait_inv | apply fragMissing_inv | apply inv_ite | intro _
    | (refine inv_mk ?_ rfl rfl rfl rfl rfl rfl; apply setOpen_inv)

theorem repairData_inv {s : State} {r : RepairRun} {j off : Nat} {str tag : List Byte}
    {whole : Bool} (hs : State.Inv s) :
    (State.repairData s r j off str tag whole).Inv := by
  unfold State.repairData
  with_reducible repeat' first | assumption | apply endWait_inv | apply setRepair_inv | apply inv_ite | intro _

theorem fragDataRecord_inv {s : State} {c : Nat} {p : RxPacket} {e : Exchange} {j off len : Nat}
    (hs : State.Inv s) :
    (State.fragDataRecord s c p e j off len).Inv := by
  unfold State.fragDataRecord
  with_reducible repeat' first
    | assumption | apply closeExchange_inv | apply fragMissing_inv | apply endWait_inv | apply setRepair_inv
    | apply openData_inv | apply repairData_inv | apply setChan_inv | apply inv_ite | intro _
    | (refine inv_mk ?_ rfl rfl rfl rfl rfl rfl; first | apply setOpen_inv | split)

theorem execFragData_inv {chan : Nat} {s : State} (hs : State.Inv s) : InvR (execFragData chan s) := by
  unfold execFragData
  with_reducible repeat' first
    | assumption | apply invR_next | apply takeInbox_inv | apply fragDataRecord_inv | apply sendNack_inv
    | (refine OInv22_get ?_ (by assumption)) | split

theorem execNack_inv {chan : Nat} {s : State} (hs : State.Inv s) : InvR (execNack chan s) := by
  unfold execNack
  with_reducible repeat' first
    | assumption | apply invR_next | apply takeInbox_inv | apply fragMissing_inv | apply closeExchange_inv
    | apply resetChan_inv | (refine OInv22_get ?_ (by assumption)) | split

/-! ## Machine/HostPort.lean -/

theorem execPcieLinkTrain_inv {speed : BitVec 4} {width : BitVec 6} {flit : Bool} {s : State} (hs : State.Inv s) :
    InvR (execPcieLinkTrain speed width flit s) := by
  unfold execPcieLinkTrain
  with_reducible repeat' first
    | assumption | apply invR_next | apply invR_ite | intro _
    | (refine inv_mk ?_ rfl rfl rfl rfl rfl rfl; assumption)

theorem discardItem_inv {s : State} {it : Item} (hs : State.Inv s) : (State.discardItem s it).Inv := by
  unfold State.discardItem
  with_reducible repeat' first
    | assumption | apply freeCore_inv | apply unlist_inv | apply releaseClaim_inv | apply setItem_inv
    | apply removeItem_inv | apply trace_inv | apply inv_ite | intro _
    | (refine inv_mk ?_ rfl rfl rfl rfl rfl rfl; apply releaseClaim_inv)

theorem discardItems_inv {s : State} {fn : Nat} (hs : State.Inv s) : (State.discardItems s fn).Inv := by
  unfold State.discardItems
  with_reducible repeat' first
    | assumption | apply discardItem_inv | apply afterRelease_inv | apply releaseFlow_inv | apply inv_foldl
    | intro _

theorem clearRegs_inv {s : State} {fn : Nat} (hs : State.Inv s) : (State.clearRegs s fn).Inv := by
  unfold State.clearRegs
  with_reducible (refine inv_mk ?_ rfl rfl rfl rfl rfl rfl; assumption)

theorem flrVf_inv {s : State} {n : Nat} (hs : State.Inv s) : (State.flrVf s n).Inv := by
  unfold State.flrVf
  with_reducible repeat' first
    | assumption | apply failItem_inv | apply setVf_inv | apply wakeSuspend_inv | apply inv_foldl | intro _
    | (refine inv_mk ?_ rfl rfl rfl rfl rfl rfl; first | apply discardItems_inv | apply clearRegs_inv)

theorem countFlr_inv {s : State} (hs : State.Inv s) : (State.countFlr s).Inv := by
  unfold State.countFlr
  with_reducible (refine inv_mk ?_ rfl rfl rfl rfl rfl rfl; assumption)

theorem execVfFlr_inv {vf : Nat} {s : State} (hs : State.Inv s) : InvR (execVfFlr vf s) := by
  unfold execVfFlr
  with_reducible repeat' first
    | assumption | apply invR_next | apply countFlr_inv | apply flrVf_inv | apply invR_ite | intro _

theorem flrPf_inv {s : State} (hs : State.Inv s) : (State.flrPf s).Inv := by
  unfold State.flrPf
  with_reducible repeat' first
    | assumption | apply discardItems_inv
    | (refine inv_mk ?_ rfl rfl rfl rfl rfl rfl; first | apply dropSteps_inv | apply clearRegs_inv)

theorem flrAllVfs_inv {s : State} (hs : State.Inv s) : (State.flrAllVfs s).Inv := by
  unfold State.flrAllVfs
  with_reducible repeat' first | assumption | apply flrVf_inv | apply inv_ite | apply inv_foldl | intro _

theorem execPfFlr_inv {s : State} (hs : State.Inv s) : InvR (execPfFlr s) := by
  unfold execPfFlr
  with_reducible repeat' first
    | assumption | apply invR_next | apply flrAllVfs_inv | apply countFlr_inv
    | (refine inv_mk ?_ rfl rfl rfl rfl rfl rfl; apply flrPf_inv)

theorem execFlrDone_inv {fn : Nat} {s : State} (hs : State.Inv s) : InvR (execFlrDone fn s) := by
  unfold execFlrDone
  with_reducible repeat' first
    | assumption | apply invR_next | apply setVf_inv | apply invR_ite | intro _
    | (refine inv_mk ?_ rfl rfl rfl rfl rfl rfl; assumption)

theorem execSrIovVfEnable_inv {enable : Bool} {numVfs : Nat} {s : State} (hs : State.Inv s) :
    InvR (execSrIovVfEnable enable numVfs s) := by
  unfold execSrIovVfEnable
  with_reducible repeat' first
    | assumption | apply invR_next | apply invR_ite | intro _
    | (refine inv_mk ?_ rfl rfl rfl rfl rfl rfl; first | assumption | apply flrAllVfs_inv)

theorem execSpdmRequest_inv {establishesSession : Bool} {s : State} (hs : State.Inv s) :
    InvR (execSpdmRequest establishesSession s) := by
  unfold execSpdmRequest
  with_reducible repeat' first | apply invR_next | (refine inv_mk ?_ rfl rfl rfl rfl rfl rfl; assumption)

theorem execIdeKm_inv {msg : IdeMessage} {s : State} (hs : State.Inv s) : InvR (execIdeKm msg s) := by
  unfold execIdeKm
  with_reducible repeat' first
    | assumption | apply invR_next | apply invR_ite | intro _
    | (refine inv_mk ?_ rfl rfl rfl rfl rfl rfl; assumption) | split

theorem execIdeCheckFail_inv {stream : Nat} {s : State} (hs : State.Inv s) : InvR (execIdeCheckFail stream s) := by
  unfold execIdeCheckFail
  with_reducible repeat' first
    | apply invR_next | apply flrVf_inv | apply setVf_inv | apply invR_ite | intro _
    | (refine inv_mk ?_ rfl rfl rfl rfl rfl rfl; assumption) | split | dsimp only

theorem execLockInterface_inv {vf : Nat} {s : State} (hs : State.Inv s) : InvR (execLockInterface vf s) := by
  unfold execLockInterface
  with_reducible repeat' first | assumption | apply invR_next | apply setVf_inv | apply invR_ite | intro _

theorem execStartInterface_inv {vf : Nat} {s : State} (hs : State.Inv s) : InvR (execStartInterface vf s) := by
  unfold execStartInterface
  with_reducible repeat' first | assumption | apply invR_next | apply setVf_inv | apply invR_ite | intro _

theorem execStopInterface_inv {vf : Nat} {s : State} (hs : State.Inv s) : InvR (execStopInterface vf s) := by
  unfold execStopInterface
  with_reducible repeat' first | assumption | apply invR_next | apply setVf_inv | apply invR_ite | intro _

theorem onVfItem_inv {s : State} {item op : Nat} {f : Item → State} (hs : State.Inv s)
    (ha3 : ∀ x0, State.Inv (f x0) ) :
    (State.onVfItem s item op f).Inv := by
  unfold State.onVfItem
  with_reducible repeat' first | assumption | apply onRunning_inv | apply ha3 | apply inv_ite | intro _

theorem execVfDirtyStart_inv {item : Nat} {s : State} (hs : State.Inv s) : InvR (execVfDirtyStart item s) := by
  unfold execVfDirtyStart
  with_reducible repeat' first
    | assumption | apply invR_next | apply onVfItem_inv | apply failItem_inv | apply setVf_inv | apply complete_inv
    | apply inv_ite | intro _ | (refine inv_mk ?_ rfl rfl rfl rfl rfl rfl; split)

theorem execVfDirtySwap_inv {item : Nat} {s : State} (hs : State.Inv s) : InvR (execVfDirtySwap item s) := by
  unfold execVfDirtySwap
  with_reducible repeat' first
    | assumption | apply invR_next | apply onVfItem_inv | apply failItem_inv | apply setVf_inv | apply complete_inv
    | intro _ | (refine inv_mk ?_ rfl rfl rfl rfl rfl rfl; split)

theorem execVfDirtyStop_inv {item : Nat} {s : State} (hs : State.Inv s) : InvR (execVfDirtyStop item s) := by
  unfold execVfDirtyStop
  with_reducible repeat' first
    | assumption | apply invR_next | apply onVfItem_inv | apply failItem_inv | apply complete_inv | apply inv_ite
    | intro _ | (refine inv_mk ?_ rfl rfl rfl rfl rfl rfl; split)

theorem execDirtyBitmapMerge_inv {vf : Nat} {accessOk : Bool} {s : State} (hs : State.Inv s) :
    InvR (execDirtyBitmapMerge vf accessOk s) := by
  unfold execDirtyBitmapMerge
  with_reducible repeat' first
    | assumption | apply invR_next | apply setVf_inv | apply mergeDirty_inv | apply invR_ite | intro _ | split
    | dsimp only

theorem execVfSuspend_inv {item : Nat} {s : State} (hs : State.Inv s) : InvR (execVfSuspend item s) := by
  unfold execVfSuspend
  with_reducible repeat' first
    | assumption | apply invR_next | apply onVfItem_inv | apply failItem_inv | apply setVf_inv | apply complete_inv
    | apply yieldItem_inv | apply inv_ite | intro _ | (refine inv_mk ?_ rfl rfl rfl rfl rfl rfl; split)

theorem execVfSuspendTimeout_inv {item : Nat} {s : State} (hs : State.Inv s) :
    InvR (execVfSuspendTimeout item s) := by
  unfold execVfSuspendTimeout
  with_reducible repeat' first
    | assumption | apply invR_next | apply endWaitWith_inv | apply invR_ite | intro _ | split

theorem sendHeld_inv {s : State} {n : Nat} (hs : State.Inv s) : (State.sendHeld s n).Inv := by
  unfold State.sendHeld
  with_reducible repeat' first | assumption | apply setVf_inv | apply sendVector_inv | apply inv_foldl | intro _

theorem execVfResume_inv {item : Nat} {s : State} (hs : State.Inv s) : InvR (execVfResume item s) := by
  unfold execVfResume
  with_reducible repeat' first
    | assumption | apply invR_next | apply onVfItem_inv | apply failItem_inv | apply setVf_inv | apply sendHeld_inv
    | apply sendVector_inv | apply setReg_inv | apply complete_inv | apply inv_ite | intro _
    | (refine inv_mk ?_ rfl rfl rfl rfl rfl rfl; split)

theorem execVfStateSave_inv {item : Nat} {s : State} (hs : State.Inv s) : InvR (execVfStateSave item s) := by
  unfold execVfStateSave
  with_reducible repeat' first
    | assumption | apply invR_next | apply onVfItem_inv | apply failItem_inv | apply draw_inv | apply writeOut_inv
    | apply complete_inv | apply inv_ite | intro _ | (refine inv_mk ?_ rfl rfl rfl rfl rfl rfl; split)

theorem loadQp_inv {s : State} {n qp : Nat} {r : List Byte} (hs : State.Inv s) :
    (State.loadQp s n qp r).Inv := by
  unfold State.loadQp
  with_reducible repeat' first | assumption | apply setReg_inv | apply setQp_inv

theorem rejectBlob_inv {s : State} {item : Nat} {st : Status} (hs : State.Inv s) :
    (State.rejectBlob s item st).Inv := by
  unfold State.rejectBlob
  with_reducible repeat' first | apply failItem_inv | (refine inv_mk ?_ rfl rfl rfl rfl rfl rfl; assumption)

theorem loadBlob_inv {s : State} {n : Nat} {b body : List Byte} (hs : State.Inv s) :
    (State.loadBlob s n b body).Inv := by
  unfold State.loadBlob
  with_reducible repeat' first
    | assumption | apply loadQp_inv | apply setReg_inv | apply setVf_inv | apply inv_foldl | intro _
    | (refine inv_mk ?_ rfl rfl rfl rfl rfl rfl; apply setReg_inv)

theorem execVfStateRestore_inv {item : Nat} {s : State} (hs : State.Inv s) : InvR (execVfStateRestore item s) := by
  unfold execVfStateRestore
  with_reducible repeat' first
    | assumption | apply invR_next | apply onVfItem_inv | apply failItem_inv | apply rejectBlob_inv
    | apply loadBlob_inv | apply complete_inv | apply inv_ite | intro _
    | (refine inv_mk ?_ rfl rfl rfl rfl rfl rfl; split)

theorem migAck_inv {s : State} {vf : Nat} {value : Word} (hs : State.Inv s) : (State.migAck s vf value).Inv := by
  unfold State.migAck
  with_reducible repeat' first | assumption | apply setVf_inv | apply inv_ite | intro _

theorem execVfMigAck_inv {vf : Nat} {value : Word} {s : State} (hs : State.Inv s) :
    InvR (execVfMigAck vf value s) := by
  unfold execVfMigAck
  with_reducible repeat' first | assumption | apply invR_next | apply migAck_inv

/-! ## Machine/Ring.lean -/

theorem execRingPhyLock_inv {locked : Bool} {s : State} (hs : State.Inv s) : InvR (execRingPhyLock locked s) := by
  unfold execRingPhyLock
  with_reducible repeat' first | apply invR_next | (refine inv_mk ?_ rfl rfl rfl rfl rfl rfl; assumption)

theorem execCulvertOpen_inv {s : State} (hs : State.Inv s) : InvR (execCulvertOpen s) := by
  unfold execCulvertOpen
  with_reducible repeat' first
    | assumption | apply invR_next | apply invR_ite | intro _
    | (refine inv_mk ?_ rfl rfl rfl rfl rfl rfl; assumption)

theorem receive_inv {s : State} {kind : Nat} {f : RingFrame} {handle : State → State} (hs : State.Inv s)
    (ha3 : ∀ x0, State.Inv x0 → State.Inv (handle x0) ) :
    (State.receive s kind f handle).Inv := by
  unfold State.receive
  with_reducible repeat' first
    | assumption | apply ha3 | apply inv_ite | intro _ | (refine inv_mk ?_ rfl rfl rfl rfl rfl rfl; assumption)

theorem maySync_inv {s : State} (hs : State.Inv s) : (State.maySync s).Inv := by
  unfold State.maySync
  with_reducible repeat' first | assumption | apply enterMirrorSync_inv | apply inv_ite | intro _

theorem execHeartbeatTimer_inv {s : State} (hs : State.Inv s) : InvR (execHeartbeatTimer s) := by
  unfold execHeartbeatTimer
  with_reducible repeat' first | assumption | apply invR_next | apply sendRing_inv | apply invR_ite | intro _

theorem execHeartbeat_inv {frame : RingFrame} {s : State} (hs : State.Inv s) : InvR (execHeartbeat frame s) := by
  unfold execHeartbeat
  with_reducible repeat' first
    | assumption | apply invR_next | apply receive_inv | apply relayRing_inv | apply requestSync_inv
    | apply maySync_inv | apply inv_ite | intro _ | (refine inv_mk ?_ rfl rfl rfl rfl rfl rfl; assumption)

theorem execPresenceTimeout_inv {position : Nat} {s : State} (hs : State.Inv s) :
    InvR (execPresenceTimeout position s) := by
  unfold execPresenceTimeout
  with_reducible repeat' first
    | apply invR_next | apply requestSync_inv | apply invR_ite | intro _
    | (refine inv_mk ?_ rfl rfl rfl rfl rfl rfl; assumption)

theorem takeToken_inv {s : State} {epoch : DWord} {generation : Word} (hs : State.Inv s) :
    (State.takeToken s epoch generation).Inv := by
  unfold State.takeToken
  with_reducible repeat' first
    | apply passToken_inv | apply mirrorGo_inv | (refine inv_mk ?_ rfl rfl rfl rfl rfl rfl; assumption)

theorem execToken_inv {frame : RingFrame} {s : State} (hs : State.Inv s) : InvR (execToken frame s) := by
  unfold execToken
  with_reducible repeat' first
    | assumption | apply invR_next | apply receive_inv | apply relayRing_inv | apply takeToken_inv | apply inv_ite
    | intro _ | (refine inv_mk ?_ rfl rfl rfl rfl rfl rfl; assumption)

theorem execTokenLossTimeout_inv {s : State} (hs : State.Inv s) : InvR (execTokenLossTimeout s) := by
  unfold execTokenLossTimeout
  with_reducible repeat' first | assumption | apply invR_next | apply takeToken_inv | apply invR_ite | intro _

theorem stageFrame_inv {s : State} {f : RingFrame} (hs : State.Inv s) : (State.stageFrame s f).1.Inv := by
  unfold State.stageFrame
  with_reducible repeat' first
    | apply countRefusal_inv | apply inv_ite_fst | intro _
    | (refine inv_mk ?_ rfl rfl rfl rfl rfl rfl; first | assumption | dsimp only)

theorem abandonMirror_inv {s : State} {id : Nat} {st : Status} (hs : State.Inv s) :
    (State.abandonMirror s id st).Inv := by
  unfold State.abandonMirror
  with_reducible repeat' first
    | apply failStore_inv | (refine inv_mk ?_ rfl rfl rfl rfl rfl rfl; first | assumption | split)

theorem prepareReturns_inv {s : State} {f : RingFrame} (hs : State.Inv s) : (State.prepareReturns s f).Inv := by
  unfold State.prepareReturns
  with_reducible repeat' first
    | assumption | apply passToken_inv | apply mirrorGo_inv | apply abandonMirror_inv | apply sendRing_inv
    | apply inv_ite | intro _ | (refine inv_mk ?_ rfl rfl rfl rfl rfl rfl; first | apply sendRing_inv | split)

theorem execPrepare_inv {frame : RingFrame} {s : State} (hs : State.Inv s) : InvR (execPrepare frame s) := by
  unfold execPrepare
  with_reducible repeat' first
    | assumption | apply invR_next | apply receive_inv | apply prepareReturns_inv | apply relayRing_inv
    | apply stageFrame_inv | apply inv_ite | intro _

theorem afterForeign_inv {s : State} {a : StoreAction} (hs : State.Inv s) : (State.afterForeign s a).Inv := by
  unfold State.afterForeign
  with_reducible repeat' first | assumption | apply revScan_inv | (refine inv_mk ?_ rfl rfl rfl rfl rfl rfl; split)

theorem missedCommit_inv {s : State} {f : RingFrame} (hs : State.Inv s) : (State.missedCommit s f).Inv := by
  unfold State.missedCommit
  with_reducible repeat' first
    | assumption | apply maySync_inv | (refine inv_mk ?_ rfl rfl rfl rfl rfl rfl; apply relayRing_inv)

theorem foreignCommit_inv {s : State} {f : RingFrame} (hs : State.Inv s) : (State.foreignCommit s f).Inv := by
  unfold State.foreignCommit
  with_reducible repeat' first
    | assumption | apply afterForeign_inv | apply applyStore_inv | apply relayRing_inv | apply missedCommit_inv
    | apply inv_ite | intro _ | (refine inv_mk ?_ rfl rfl rfl rfl rfl rfl; split)

theorem execCommit_inv {frame : RingFrame} {s : State} (hs : State.Inv s) : InvR (execCommit frame s) := by
  unfold execCommit
  with_reducible repeat' first
    | assumption | apply invR_next | apply receive_inv | apply relayRing_inv | apply foreignCommit_inv
    | apply inv_ite | intro _ | (refine inv_mk ?_ rfl rfl rfl rfl rfl rfl; first | assumption | split)

theorem execAbort_inv {frame : RingFrame} {s : State} (hs : State.Inv s) : InvR (execAbort frame s) := by
  unfold execAbort
  with_reducible repeat' first
    | assumption | apply invR_next | apply receive_inv | apply relayRing_inv | apply inv_ite | intro _
    | (refine inv_mk ?_ rfl rfl rfl rfl rfl rfl; assumption)

theorem execPrepareTimeout_inv {s : State} (hs : State.Inv s) : InvR (execPrepareTimeout s) := by
  unfold execPrepareTimeout
  with_reducible repeat' first | assumption | apply invR_next | apply mirrorGo_inv | apply abandonMirror_inv | split

theorem execStagedDiscardTimeout_inv {s : State} (hs : State.Inv s) : InvR (execStagedDiscardTimeout s) := by
  unfold execStagedDiscardTimeout
  with_reducible repeat' first | apply invR_next | (refine inv_mk ?_ rfl rfl rfl rfl rfl rfl; assumption)

theorem execSyncReq_inv {frame : RingFrame} {s : State} (hs : State.Inv s) : InvR (execSyncReq frame s) := by
  unfold execSyncReq
  with_reducible repeat' first
    | assumption | apply invR_next | apply receive_inv | apply relayRing_inv | apply sendRing_inv | apply inv_ite
    | intro _

theorem syncCounters_inv {s : State} {old : Tab Counter} (hs : State.Inv s) : (State.syncCounters s old).Inv := by
  unfold State.syncCounters
  with_reducible (refine inv_mk ?_ rfl rfl rfl rfl rfl rfl; assumption)

theorem applyMirror_inv {s : State} {body : List Byte} (hs : State.Inv s) : (State.applyMirror s body).Inv := by
  unfold State.applyMirror
  with_reducible repeat' first
    | assumption | apply revScan_inv | apply syncCounters_inv | apply applyStore_inv | apply inv_foldl | intro _
    | (refine inv_mk ?_ rfl rfl rfl rfl rfl rfl; apply inv_foldl)

theorem execSyncData_inv {frame : RingFrame} {s : State} (hs : State.Inv s) : InvR (execSyncData frame s) := by
  unfold execSyncData
  with_reducible repeat' first
    | assumption | apply invR_next | apply receive_inv | apply relayRing_inv | apply requestSync_inv
    | apply enterPhase_inv | apply inv_ite | intro _
    | (refine inv_mk ?_ rfl rfl rfl rfl rfl rfl; first | apply countRefusal_inv | apply applyMirror_inv)

theorem execZeroizeFrame_inv {frame : RingFrame} {s : State} (hs : State.Inv s) :
    InvR (execZeroizeFrame frame s) := by
  unfold execZeroizeFrame
  with_reducible repeat' first
    | assumption | apply invR_next | apply receive_inv | apply relayRing_inv | apply raiseEvents_inv | apply inv_ite
    | intro _ | (refine inv_mk ?_ rfl rfl rfl rfl rfl rfl; apply relayRing_inv)

theorem sendForm_inv {s : State} {kind position dest : Nat} {payload : List Byte} (hs : State.Inv s) :
    (State.sendForm s kind position dest payload).Inv := by
  unfold State.sendForm
  with_reducible repeat' first | assumption | (refine inv_mk ?_ rfl rfl rfl rfl rfl rfl; apply emit_inv)

theorem startForm_inv {s : State} {it : Item} {d : List Byte} (hs : State.Inv s) :
    (State.startForm s it d).Inv := by
  unfold State.startForm
  with_reducible repeat' first
    | assumption | apply draw_inv | apply yieldItem_inv | apply sendForm_inv | apply deviceReport_inv | intro _
    | (refine inv_mk ?_ rfl rfl rfl rfl rfl rfl; apply inv_ite_snd)

theorem execRingAssemble_inv {item : Nat} {s : State} (hs : State.Inv s) : InvR (execRingAssemble item s) := by
  unfold execRingAssemble
  with_reducible repeat' first
    | assumption | apply invR_next | apply onRunning_inv | apply failItem_inv | apply yieldItem_inv
    | apply storeSession_inv | apply startForm_inv | apply closeSession_inv | apply inv_ite | intro _
    | (refine inv_mk ?_ rfl rfl rfl rfl rfl rfl; split)

theorem formFails_inv {s : State} {f : RingForm} {st : Status} (hs : State.Inv s) :
    (State.formFails s f st).Inv := by
  unfold State.formFails
  with_reducible repeat' first | apply endWaitWith_inv | (refine inv_mk ?_ rfl rfl rfl rfl rfl rfl; assumption)

theorem execRingFormTimeout_inv {item : Nat} {s : State} (hs : State.Inv s) :
    InvR (execRingFormTimeout item s) := by
  unfold execRingFormTimeout
  with_reducible repeat' first | assumption | apply invR_next | apply formFails_inv | apply invR_ite | intro _ | split

theorem formStore_inv {s : State} {f : RingForm} (hs : State.Inv s) : (State.formStore s f).Inv := by
  unfold State.formStore
  with_reducible repeat' first
    | assumption | apply formFails_inv | apply countRefusal_inv | apply askStore_inv | apply setItem_inv
    | apply inv_ite | (refine AInv_admitted ?_ (by assumption)) | (refine AInv_held ?_ (by assumption))
    | (refine AInv_refused ?_ (by assumption)) | intro _
    | (refine inv_mk ?_ rfl rfl rfl rfl rfl rfl; first | assumption | split)

theorem formPassed_inv {s : State} {f : RingForm} {origin : Nat} (hs : State.Inv s) :
    (State.formPassed s f origin).Inv := by
  unfold State.formPassed
  with_reducible repeat' first
    | apply sendForm_inv | apply formStore_inv | apply inv_ite | intro _
    | (refine inv_mk ?_ rfl rfl rfl rfl rfl rfl; assumption)

theorem formFrame_inv {s : State} {f : RingForm} {frame : RingFrame} (hs : State.Inv s) :
    (State.formFrame s f frame).Inv := by
  unfold State.formFrame
  with_reducible repeat' first
    | assumption | apply formFails_inv | apply formPassed_inv | apply formStore_inv | apply inv_ite | intro _
    | (refine inv_mk ?_ rfl rfl rfl rfl rfl rfl; first | assumption | split)

theorem execKeyExchangeFrame_inv {frame : RingFrame} {s : State} (hs : State.Inv s) :
    InvR (execKeyExchangeFrame frame s) := by
  unfold execKeyExchangeFrame
  with_reducible repeat' first
    | assumption | apply invR_next | apply emit_inv | apply formFrame_inv | apply relayRing_inv | apply inv_ite
    | apply invR_ite | intro _ | split

end Sys2Proof.Machine
end

