-- ==== Sys2Proof/Laws/Keep5.lean ====
section
/-! SUPPORT. One lemma each: the invariant is kept by the operations and meanings of
life-cycle commands, payment opcodes, memory, registers, JTAG and the sideband. -/

namespace Sys2Proof.Machine

/-! ## Machine/LifeCmd.lean -/

theorem openScopes_inv {s : State} {bytes : List Byte} (hs : State.Inv s) : (State.openScopes s bytes).Inv := by
  unfold State.openScopes
  with_reducible (refine inv_mk ?_ rfl rfl rfl rfl rfl rfl; assumption)

theorem presentToken_inv {s : State} {bytes : List Byte} (hs : State.Inv s) :
    (State.presentToken s bytes).2.Inv := by
  unfold State.presentToken
  with_reducible repeat' first | assumption | apply openScopes_inv | (refine inv_mk ?_ rfl rfl rfl rfl rfl rfl; split)

theorem vendorToken_inv {s : State} {bytes : List Byte} (hs : State.Inv s) : (State.vendorToken s bytes).2.Inv := by
  unfold State.vendorToken
  with_reducible repeat' first
    | assumption | apply askStore_inv | apply inv_ite_snd | (refine AInv_admitted ?_ (by assumption))
    | (refine AInv_held ?_ (by assumption)) | (refine AInv_refused ?_ (by assumption)) | intro _
    | (refine inv_mk ?_ rfl rfl rfl rfl rfl rfl; split)

theorem tokenEnds_inv {r : Status × State} (ha0 : State.Inv r.2) : (State.tokenEnds r).Inv := by
  unfold State.tokenEnds
  with_reducible (refine inv_mk ?_ rfl rfl rfl rfl rfl rfl; assumption)

theorem execTokenOpenScopes_inv {s : State} (hs : State.Inv s) : InvR (execTokenOpenScopes s) := by
  unfold execTokenOpenScopes
  with_reducible repeat' first
    | assumption | apply invR_next | apply tokenEnds_inv | apply presentToken_inv | apply invR_ite | intro _

theorem execTokenVendorTransition_inv {s : State} (hs : State.Inv s) : InvR (execTokenVendorTransition s) := by
  unfold execTokenVendorTransition
  with_reducible repeat' first
    | assumption | apply invR_next | apply tokenEnds_inv | apply vendorToken_inv | apply invR_ite | intro _

theorem recordSlot_inv {s : State} {it : Item} {target : Nat} {tag : Word} (hs : State.Inv s) :
    (State.recordSlot s it target tag).Inv := by
  unfold State.recordSlot
  with_reducible repeat' first | assumption | apply storeFor_inv | apply storeSession_inv | apply inv_ite | intro _

theorem execLcTransition_inv {item : Nat} {s : State} (hs : State.Inv s) : InvR (execLcTransition item s) := by
  unfold execLcTransition
  with_reducible repeat' first
    | assumption | apply invR_next | apply onRunning_inv | apply failItem_inv | apply recordSlot_inv
    | apply yieldItem_inv | apply inv_ite | intro _ | (refine inv_mk ?_ rfl rfl rfl rfl rfl rfl; split)

theorem execLcDebugOpen_inv {item : Nat} {s : State} (hs : State.Inv s) : InvR (execLcDebugOpen item s) := by
  unfold execLcDebugOpen
  with_reducible repeat' first
    | assumption | apply invR_next | apply onRunning_inv | apply failItem_inv | apply presentToken_inv
    | apply complete_inv | apply inv_ite | intro _ | (refine inv_mk ?_ rfl rfl rfl rfl rfl rfl; split)

/-! ## Machine/Payment.lean -/

theorem payFail_inv {s : State} {it : Item} {st : Status} (hs : State.Inv s) : (State.payFail s it st).Inv := by
  unfold State.payFail
  with_reducible repeat' first | assumption | apply complete_inv

theorem onPay_inv {s : State} {item op : Nat} {f : Item → State} (hs : State.Inv s)
    (ha3 : ∀ x0, State.Inv (f x0) ) :
    (State.onPay s item op f).Inv := by
  unfold State.onPay
  with_reducible repeat' first | assumption | apply onRunning_inv | apply ha3 | apply inv_ite | intro _

theorem refuseKsn_inv {s : State} {it : Item} (hs : State.Inv s) : (State.refuseKsn s it).Inv := by
  unfold State.refuseKsn
  with_reducible repeat' first | apply payFail_inv | (refine inv_mk ?_ rfl rfl rfl rfl rfl rfl; assumption)

theorem payWork_inv {s : State} {it : Item} {blocks : Nat} (hs : State.Inv s) :
    (State.payWork s it blocks).Inv := by
  unfold State.payWork
  with_reducible repeat' first | assumption | apply countWork_inv

theorem execPinTranslate_inv {item : Nat} {s : State} (hs : State.Inv s) : InvR (execPinTranslate item s) := by
  unfold execPinTranslate
  with_reducible repeat' first
    | assumption | apply invR_next | apply onPay_inv | apply refuseKsn_inv | apply payWork_inv | apply payFail_inv
    | apply complete_inv | apply countWork_inv | intro _ | (refine inv_mk ?_ rfl rfl rfl rfl rfl rfl; split)

theorem pinVerdict_inv {s : State} {it : Item} {params : List Byte} {pin : List Nat} (hs : State.Inv s) :
    (State.pinVerdict s it params pin).2.Inv := by
  unfold State.pinVerdict
  with_reducible repeat' first | assumption | apply choose_inv | apply inv_ite_snd | intro _

theorem execPinVerify_inv {item : Nat} {s : State} (hs : State.Inv s) : InvR (execPinVerify item s) := by
  unfold execPinVerify
  with_reducible repeat' first
    | assumption | apply invR_next | apply onPay_inv | apply refuseKsn_inv | apply payWork_inv | apply payFail_inv
    | apply pinVerdict_inv | apply countWork_inv | apply complete_inv | apply inv_ite | intro _
    | (refine inv_mk ?_ rfl rfl rfl rfl rfl rfl; split)

theorem execMacGen_inv {item : Nat} {s : State} (hs : State.Inv s) : InvR (execMacGen item s) := by
  unfold execMacGen
  with_reducible repeat' first
    | assumption | apply invR_next | apply onPay_inv | apply refuseKsn_inv | apply complete_inv | apply payWork_inv
    | intro _ | (refine inv_mk ?_ rfl rfl rfl rfl rfl rfl; split)

theorem execMacVer_inv {item : Nat} {s : State} (hs : State.Inv s) : InvR (execMacVer item s) := by
  unfold execMacVer
  with_reducible repeat' first
    | assumption | apply invR_next | apply onPay_inv | apply refuseKsn_inv | apply payWork_inv | apply complete_inv
    | apply payFail_inv | apply inv_ite | intro _ | (refine inv_mk ?_ rfl rfl rfl rfl rfl rfl; split)

theorem execArqcVerify_inv {item : Nat} {s : State} (hs : State.Inv s) : InvR (execArqcVerify item s) := by
  unfold execArqcVerify
  with_reducible repeat' first
    | assumption | apply invR_next | apply onPay_inv | apply payWork_inv | apply complete_inv | apply payFail_inv
    | apply inv_ite | intro _ | (refine inv_mk ?_ rfl rfl rfl rfl rfl rfl; split)

theorem refuseBlock_inv {s : State} {it : Item} {st : Status} (hs : State.Inv s) :
    (State.refuseBlock s it st).Inv := by
  unfold State.refuseBlock
  with_reducible repeat' first | apply payFail_inv | (refine inv_mk ?_ rfl rfl rfl rfl rfl rfl; assumption)

theorem kbImport_inv {s : State} {it : Item} {b : List Byte} (hs : State.Inv s) : (State.kbImport s it b).Inv := by
  unfold State.kbImport
  with_reducible repeat' first
    | assumption | apply refuseBlock_inv | apply payFail_inv | apply createKey_inv
    | (refine inv_mk ?_ rfl rfl rfl rfl rfl rfl; split)

theorem payApproval_inv {s : State} {it : Item} {off : Nat} {more : List Byte} (hs : State.Inv s) :
    OInv (State.payApproval s it off more) := by
  unfold State.payApproval
  with_reducible repeat' first | assumption | apply OInv_some | apply OInv_ite | apply consumeApproval_inv | intro _

theorem execKeyblockImport_inv {item : Nat} {s : State} (hs : State.Inv s) : InvR (execKeyblockImport item s) := by
  unfold execKeyblockImport
  with_reducible repeat' first
    | assumption | apply invR_next | apply onPay_inv | apply payApproval_inv | apply payFail_inv
    | apply kbImport_inv | (refine OInv_get ?_ (by assumption)) | intro _
    | (refine inv_mk ?_ rfl rfl rfl rfl rfl rfl; split)

theorem kbExport_inv {s : State} {it : Item} (hs : State.Inv s) : EInv (State.kbExport s it) := by
  unfold State.kbExport
  with_reducible repeat' first
    | assumption | apply EInv_ok | apply EInv_error | apply EInv_ite | apply draw_inv | intro _ | split

theorem execKeyblockExport_inv {item : Nat} {s : State} (hs : State.Inv s) : InvR (execKeyblockExport item s) := by
  unfold execKeyblockExport
  with_reducible repeat' first
    | assumption | apply invR_next | apply onPay_inv | apply payApproval_inv | apply payFail_inv
    | apply kbExport_inv | apply complete_inv | apply writeOut_inv | apply inv_ite
    | (refine EInv_get ?_ (by assumption)) | (refine OInv_get ?_ (by assumption)) | intro _
    | (refine inv_mk ?_ rfl rfl rfl rfl rfl rfl; split)

/-! ## Machine/Memory.lean -/

theorem execMemoryKeyLoad_inv {s : State} (hs : State.Inv s) : InvR (execMemoryKeyLoad s) := by
  unfold execMemoryKeyLoad
  with_reducible repeat' first
    | assumption | apply invR_next | apply draw_inv | apply invR_ite | intro _
    | (refine inv_mk ?_ rfl rfl rfl rfl rfl rfl; apply draw_inv)

theorem execHbmInitSweepDone_inv {s : State} (hs : State.Inv s) : InvR (execHbmInitSweepDone s) := by
  unfold execHbmInitSweepDone
  with_reducible repeat' first
    | assumption | apply invR_next | apply invR_ite | intro _
    | (refine inv_mk ?_ rfl rfl rfl rfl rfl rfl; assumption)

theorem sync_inv {s : State} {answer : Word} (hs : State.Inv s) : (State.sync s answer).Inv := by
  unfold State.sync
  with_reducible repeat' first
    | assumption | apply emit_inv | apply inv_ite | intro _ | (refine inv_mk ?_ rfl rfl rfl rfl rfl rfl; assumption)

theorem puSyncWrite_inv {s : State} {_value : Word} (hs : State.Inv s) : (State.puSyncWrite s _value).Inv := by
  unfold State.puSyncWrite
  with_reducible repeat' first | assumption | apply sync_inv

theorem execMemPuSyncWrite_inv {value : Word} {s : State} (hs : State.Inv s) :
    InvR (execMemPuSyncWrite value s) := by
  unfold execMemPuSyncWrite
  with_reducible repeat' first | assumption | apply invR_next | apply puSyncWrite_inv

theorem execMemPuSyncRead_inv {s : State} (hs : State.Inv s) : InvR (execMemPuSyncRead s) := by
  unfold execMemPuSyncRead
  with_reducible repeat' first | assumption | apply invR_next | apply sync_inv

theorem violPop_inv {s : State} {a1 : Nat} {a2 : Word} (hs : s.Inv) : (State.violPop s a1 a2).Inv := by
  unfold State.violPop
  with_reducible repeat' first
    | assumption | apply inv_ite | intro _ | (refine inv_mk ?_ rfl rfl rfl rfl rfl rfl; split) | dsimp only
  rename_i q hq
  have hl := hs.fifos q (List.mem_of_getElem? hq)
  refine inv_set_fifo (q := { q with records := q.records.drop 1 }) hs ?_ rfl rfl rfl rfl rfl rfl
  rw [List.length_drop]; omega

theorem execMemViolPop_inv {group : Nat} {value : Word} {s : State} (hs : State.Inv s) :
    InvR (execMemViolPop group value s) := by
  unfold execMemViolPop
  with_reducible repeat' first | assumption | apply invR_next | apply violPop_inv

theorem execAllocationZeroed_inv {a0 : Nat} {s : State} (hs : s.Inv) : InvR (execAllocationZeroed a0 s) := by
  unfold execAllocationZeroed
  split
  · exact wakeLacking_inv (inv_cells hs memErase_wf rfl rfl rfl rfl rfl)
  · exact hs

/-! ## Machine/Registers.lean -/

theorem sendPending_inv {s : State} {fn v : Nat} (hs : State.Inv s) : (State.sendPending s fn v).Inv := by
  unfold State.sendPending
  with_reducible repeat' first
    | assumption | apply sendVector_inv | apply setVf_inv | apply inv_ite | intro _
    | (refine inv_mk ?_ rfl rfl rfl rfl rfl rfl; assumption)

theorem writeMsix_inv {s : State} {fn base off : Nat} {value : Word} (hs : State.Inv s) :
    (State.writeMsix s fn base off value).Inv := by
  unfold State.writeMsix
  with_reducible repeat' first | assumption | apply setReg_inv | apply sendPending_inv | apply inv_ite | intro _

theorem writeQp_inv {s : State} {fn qp off : Nat} {value : Word} (hs : State.Inv s) :
    (State.writeQp s fn qp off value).Inv := by
  unfold State.writeQp
  with_reducible repeat' first
    | assumption | apply setReg_inv | apply qpEnable_inv | apply qpDisable_inv | apply inv_ite | intro _

theorem writePage_inv {s : State} {fn off : Nat} {value : Word} (hs : State.Inv s) :
    (State.writePage s fn off value).Inv := by
  unfold State.writePage
  with_reducible repeat' first
    | assumption | apply writeQp_inv | apply sqDoorbell_inv | apply cqDoorbell_inv | apply pushWrite_inv
    | apply setReg_inv | apply migAck_inv | apply writeMsix_inv | apply inv_ite | intro _
    | (refine inv_mk ?_ rfl rfl rfl rfl rfl rfl; split)

theorem after_inv {a0 : Result} {s : State} (h : InvR a0) (hs : s.Inv) : (after a0 s).Inv := by
  unfold after
  split
  · exact h
  · exact hs

theorem writeChanCmd_inv {s : State} {value : Word} (hs : State.Inv s) : (State.writeChanCmd s value).Inv := by
  unfold State.writeChanCmd
  with_reducible repeat' first
    | assumption | apply after_inv | apply execChanRead_inv | apply execChanOpen_inv | apply execChanReset_inv
    | apply execChanClose_inv | (refine inv_mk ?_ rfl rfl rfl rfl rfl rfl; split)

theorem writeTokenCmd_inv {s : State} {value : Word} (hs : State.Inv s) : (State.writeTokenCmd s value).Inv := by
  unfold State.writeTokenCmd
  with_reducible repeat' first
    | assumption | apply after_inv | apply execTokenOpenScopes_inv | apply execTokenVendorTransition_inv
    | (refine inv_mk ?_ rfl rfl rfl rfl rfl rfl; split)

theorem writeSpecial_inv {s : State} {off : Nat} {value : Word} (hs : State.Inv s) :
    OInv (State.writeSpecial s off value) := by
  unfold State.writeSpecial
  with_reducible repeat' first
    | assumption | apply OInv_some | apply OInv_none | apply writePortCfg_inv | apply violPop_inv
    | apply softReset_inv | apply planGo_inv | apply writeChanCmd_inv | apply injectFrames_inv
    | apply puSyncWrite_inv | apply writeTokenCmd_inv | apply recGo_inv | split

theorem clearBits_inv {s : State} {off : Nat} {value : Word} (hs : State.Inv s) :
    (State.clearBits s off value).Inv := by
  unfold State.clearBits
  with_reducible repeat' first | assumption | (refine inv_mk ?_ rfl rfl rfl rfl rfl rfl; first | assumption | split)

theorem writePf_inv {s : State} {off : Nat} {value : Word} (hs : State.Inv s) :
    (State.writePf s off value).Inv := by
  unfold State.writePf
  with_reducible repeat' first
    | assumption | apply writeSpecial_inv | apply clearBits_inv | apply setReg_inv | apply inv_ite
    | (refine OInv_get ?_ (by assumption)) | intro _ | (refine inv_mk ?_ rfl rfl rfl rfl rfl rfl; split)

theorem writeReg_inv {s : State} {fn off : Nat} {value : Word} (hs : State.Inv s) :
    (State.writeReg s fn off value).Inv := by
  unfold State.writeReg
  with_reducible repeat' first
    | assumption | apply writePage_inv | apply writeMsix_inv | apply writePf_inv | apply inv_ite | intro _

theorem execRegisterWrite_inv {fn offset : Nat} {value : Word} {s : State} (hs : State.Inv s) :
    InvR (execRegisterWrite fn offset value s) := by
  unfold execRegisterWrite
  with_reducible repeat' first | assumption | apply invR_next | apply writeReg_inv | apply invR_ite | intro _

/-! ## Machine/Jtag.lean -/

theorem endExtest_inv {s : State} (hs : State.Inv s) : (State.endExtest s).Inv := by
  unfold State.endExtest
  with_reducible (refine inv_mk ?_ rfl rfl rfl rfl rfl rfl; assumption)

theorem tapBypass_inv {s : State} (hs : State.Inv s) : (State.tapBypass s).Inv := by
  unfold State.tapBypass
  with_reducible repeat' first | assumption | apply emit_inv | apply endExtest_inv

theorem tap_inv {s : State} {accepted : Bool} {act : State → State} (hs : State.Inv s)
    (ha2 : ∀ x0, State.Inv x0 → State.Inv (act x0) ) :
    (State.tap s accepted act).Inv := by
  unfold State.tap
  with_reducible repeat' first | assumption | apply tapBypass_inv | apply ha2 | apply inv_ite | intro _

theorem execBypass_inv {_ir : Byte} {s : State} (hs : State.Inv s) : InvR (execBypass _ir s) := by
  unfold execBypass
  with_reducible repeat' first | assumption | apply invR_next | apply tap_inv | apply tapBypass_inv

theorem execIdcode_inv {s : State} (hs : State.Inv s) : InvR (execIdcode s) := by
  unfold execIdcode
  with_reducible repeat' first
    | assumption | apply invR_next | apply tap_inv | apply emit_inv | apply endExtest_inv | intro _

theorem execSamplePreload_inv {levels : List Bool} {s : State} (hs : State.Inv s) :
    InvR (execSamplePreload levels s) := by
  unfold execSamplePreload
  with_reducible repeat' first
    | assumption | apply invR_next | apply tap_inv | apply emit_inv | intro _
    | (refine inv_mk ?_ rfl rfl rfl rfl rfl rfl; apply freeBytes_inv)

theorem execExtest_inv {drive : List Bool} {s : State} (hs : State.Inv s) : InvR (execExtest drive s) := by
  unfold execExtest
  with_reducible repeat' first
    | assumption | apply invR_next | apply tap_inv | apply emit_inv | intro _
    | (refine inv_mk ?_ rfl rfl rfl rfl rfl rfl; apply freeBytes_inv)

theorem execDbgToken_inv {bytes : List Byte} {s : State} (hs : State.Inv s) : InvR (execDbgToken bytes s) := by
  unfold execDbgToken
  with_reducible repeat' first
    | assumption | apply invR_next | apply tap_inv | apply endExtest_inv | apply vendorToken_inv
    | apply presentToken_inv | apply emit_inv | apply inv_ite_snd | intro _

theorem latch_inv {s : State} {off : Nat} (hs : State.Inv s) : (State.latch s off).Inv := by
  unfold State.latch
  split
  · exact hs
  · exact hs

theorem dbgRead_inv {s : State} {a len : Nat} (hs : State.Inv s) : (State.dbgRead s a len).2.2.Inv := by
  unfold State.dbgRead
  with_reducible repeat' first
    | assumption | apply hbmError_inv | apply freeBytes_inv | apply latch_inv | apply inv_foldl | apply inv_ite_snd2 | intro _
    | (refine inv_mk ?_ rfl rfl rfl rfl rfl rfl; assumption)

theorem dbgWrite_inv {s : State} {a : Nat} {data : List Byte} (hs : State.Inv s) :
    (State.dbgWrite s a data).2.Inv := by
  unfold State.dbgWrite
  with_reducible repeat' first
    | assumption | apply writeReg_inv | apply inv_ite_snd | apply inv_foldl | intro _
    | (refine inv_mk ?_ rfl rfl rfl rfl rfl rfl; first | assumption | apply memStore_inv)

theorem dbgPart_inv {s : State} {kind : AccessKind} {a len : Nat} {data : List Byte} (hs : State.Inv s) :
    (State.dbgPart s kind a len data).2.2.Inv := by
  unfold State.dbgPart
  with_reducible repeat' first
    | assumption | apply dbgRead_inv | apply dbgWrite_inv | apply freeBytes_inv | apply inv_ite_snd2 | intro _
    | (refine inv_mk ?_ rfl rfl rfl rfl rfl rfl; split)

theorem dbgParts_inv {s : State} {a : Access} {data : List Byte} {parts : List ((Nat × Nat) × Option Violation)}
    (hs : State.Inv s) :
    (State.dbgParts s a data parts).2.2.Inv := by
  unfold State.dbgParts
  with_reducible repeat' first
    | assumption | apply recordViolation_inv | apply dbgPart_inv | apply inv_foldl_snd2 | intro _
    | (refine inv_mk ?_ rfl rfl rfl rfl rfl rfl; split)

theorem execDbgAccess_inv {access : Access} {data : List Byte} {s : State} (hs : State.Inv s) :
    InvR (execDbgAccess access data s) := by
  unfold execDbgAccess
  with_reducible repeat' first
    | assumption | apply invR_next | apply tap_inv | apply endExtest_inv | apply dbgParts_inv | apply emit_inv
    | intro _

/-! ## Machine/Sideband.lean -/

theorem smbAnswer_inv {s : State} {bytes : List Byte} (hs : State.Inv s) : (State.smbAnswer s bytes).Inv := by
  unfold State.smbAnswer
  with_reducible repeat' first | assumption | apply emit_inv | apply inv_ite | intro _

theorem execSmbMode_inv {s : State} (hs : State.Inv s) : InvR (execSmbMode s) := by
  unfold execSmbMode
  with_reducible repeat' first | assumption | apply invR_next | apply smbAnswer_inv

theorem execSmbLcs_inv {s : State} (hs : State.Inv s) : InvR (execSmbLcs s) := by
  unfold execSmbLcs
  with_reducible repeat' first | assumption | apply invR_next | apply smbAnswer_inv

theorem execSmbTemp_inv {s : State} (hs : State.Inv s) : InvR (execSmbTemp s) := by
  unfold execSmbTemp
  with_reducible repeat' first | assumption | apply invR_next | apply smbAnswer_inv

theorem execSmbTempLimit_inv {s : State} (hs : State.Inv s) : InvR (execSmbTempLimit s) := by
  unfold execSmbTempLimit
  with_reducible repeat' first | assumption | apply invR_next | apply smbAnswer_inv

theorem execSmbPower_inv {quarterWatts : BitVec 16} {s : State} (hs : State.Inv s) :
    InvR (execSmbPower quarterWatts s) := by
  unfold execSmbPower
  with_reducible repeat' first | assumption | apply invR_next | apply smbAnswer_inv

theorem execSmbVres_inv {s : State} (hs : State.Inv s) : InvR (execSmbVres s) := by
  unfold execSmbVres
  with_reducible repeat' first | assumption | apply invR_next | apply smbAnswer_inv

theorem execSmbEuse_inv {s : State} (hs : State.Inv s) : InvR (execSmbEuse s) := by
  unfold execSmbEuse
  with_reducible repeat' first | assumption | apply invR_next | apply smbAnswer_inv

theorem execSmbAlarm_inv {s : State} (hs : State.Inv s) : InvR (execSmbAlarm s) := by
  unfold execSmbAlarm
  with_reducible repeat' first | assumption | apply invR_next | apply smbAnswer_inv

theorem execSmbLogseq_inv {s : State} (hs : State.Inv s) : InvR (execSmbLogseq s) := by
  unfold execSmbLogseq
  with_reducible repeat' first | assumption | apply invR_next | apply smbAnswer_inv

theorem execSmbIdent_inv {s : State} (hs : State.Inv s) : InvR (execSmbIdent s) := by
  unfold execSmbIdent
  with_reducible repeat' first | assumption | apply invR_next | apply smbAnswer_inv

theorem execAlertResponse_inv {s : State} (hs : State.Inv s) : InvR (execAlertResponse s) := by
  unfold execAlertResponse
  with_reducible repeat' first
    | assumption | apply invR_next | apply invR_ite | intro _
    | (refine inv_mk ?_ rfl rfl rfl rfl rfl rfl; apply smbAnswer_inv)

end Sys2Proof.Machine
end

