-- ==== Sys2Proof/Tests/Slice0.lean ====
section
/-! SUPPORT. The model's own tests: for each statement, small states and operands that meet the hypotheses of its clauses, at
a boundary of a range where a clause has one; and the smoke tests of WellFormed. -/

namespace Sys2Proof.Tests

/- The theorems of this file are elaborated one after another: together they would need more threads than the check allows. -/
set_option Elab.async false

open Sys2Proof Sys2Proof.Machine

/-! ## Small states for the tests -/

/-- The device in Service with its host link up. -/
def served : State :=
  { State.reset with
    sys := { SysState.reset with phase := .service }
    host := { HostState.reset with linkUp := true } }

/-- A descriptor: an opcode and byte fields by offset. -/
def descOf (op : Nat) (fields : List (Nat × List Byte)) : List Byte :=
  fields.foldl (fun d p => overlay d p.1 p.2) (padTo 64 (leBytes 2 op))

/-- A PF item that runs on core 0. -/
def running (op : Nat) (fields : List (Nat × List Byte)) : Item :=
  { id := 0, source := .queue 0 0 0, desc := descOf op fields, tenant := none, opcode := op, cls := 0, ready := 0,
    inFlow := none, seq := 0, fence := false, notify := false, traceOn := false, phase := .running 0, general := true,
    failed := false, checked := true, claimed := true, claimFails := 0, lacked := [], claim := Claim.none, stage := 0,
    scratch := [], bufs := [], readFailed := false, written := [],
    outcome := { status := stOk, origin1 := false, body := [] } }

/-- An item of tenant 1 through VF 1 that runs on core 0. -/
def runningVf (op : Nat) (fields : List (Nat × List Byte)) : Item :=
  { running op fields with source := .queue 1 0 0, tenant := some 1 }

/-- A state that holds one item, on core 0 where it runs. -/
def holding (s : State) (it : Item) : State :=
  { s with dsp := { s.dsp with
      items := tabSet s.dsp.items it.id it
      nextItem := it.id + 1
      cores := s.dsp.cores.modify 0 fun k => { k with item := if it.isRunning then some it.id else none } } }

/-! ## The queue of commands and the device as a whole -/

/-- Reset with two commands waiting. -/
def waiting : State := { State.reset with pending := [.powerStable, .coldResetRelease] }

/-- A life-cycle record whose slot 0 is not a committed BLANK. -/
def invalidRecord : State :=
  { State.reset with lcb := { LcbState.reset with slots := List.replicate 32 { premark := 0, intent := 0, commit := 0, tag := 0 } } }

/-- The device in Diagnostic. -/
def diagnostic : State := { served with sys := { served.sys with phase := .diagnostic } }

/-- An item that waits for the reserve. -/
def waitingItem : Item := { running 0x0720 [] with phase := .yielded .reserve }

/-- States and operands that meet the hypotheses of `Obligations.StepRunsTheFrontCommand`, clause by clause. -/
theorem test_witness_StepRunsTheFrontCommand : ∃ (s : State) (c : Instr) (rest : List Instr), s.pending = c :: rest :=
  ⟨waiting, .powerStable, [.coldResetRelease], rfl⟩

/-- States and operands that meet the hypotheses of `Obligations.AnIdleStepIsATick`, clause by clause. -/
theorem test_witness_AnIdleStepIsATick :
    (∃ (s : State), s.pending = [] ∧ s.sys.aonUp = true) ∧
    (∃ (s : State), s.pending = [] ∧ s.sys.aonUp = false) :=
  ⟨⟨State.reset, rfl, rfl⟩,
   ⟨{ State.reset with sys := { SysState.reset with aonUp := false } }, rfl, rfl⟩⟩

/-- States and operands that meet the hypotheses of `Obligations.ModeReportsTheFirstThatHolds`, clause by clause. -/
theorem test_witness_ModeReportsTheFirstThatHolds : ∃ (s : State), s.sys.phase = .service :=
  ⟨served, by decide +kernel⟩

/-- States and operands that meet the hypotheses of `Obligations.DiagnosticHasNoQuiesce`, clause by clause. -/
theorem test_witness_DiagnosticHasNoQuiesce :
    (∃ (s : State) (it : Item), s.Runs it 0x0701 ∧ s.sys.phase = .diagnostic ∧ (10000000 < it.le 16 4 ∨ zeroRange it.desc 20 64 = false)) ∧
    (∃ (s : State) (it : Item), s.Runs it 0x0701 ∧ s.sys.phase = .diagnostic ∧ it.le 16 4 ≤ 10000000 ∧ zeroRange it.desc 20 64 = true) ∧
    (∃ (s : State) (it : Item), s.Runs it 0x0702 ∧ s.sys.phase = .diagnostic ∧ zeroRange it.desc 16 64 = false) ∧
    (∃ (s : State) (it : Item), s.Runs it 0x0702 ∧ s.sys.phase = .diagnostic ∧ zeroRange it.desc 16 64 = true) :=
  ⟨⟨holding diagnostic (running 0x0701 [(16, leBytes 4 10000001)]), running 0x0701 [(16, leBytes 4 10000001)], ⟨rfl, rfl,
      rfl⟩, by decide +kernel, by decide +kernel⟩,
   ⟨holding diagnostic (running 0x0701 [(16, leBytes 4 10000000)]), running 0x0701 [(16, leBytes 4 10000000)], ⟨rfl, rfl,
       rfl⟩, by decide +kernel, by decide +kernel, by decide +kernel⟩,
   ⟨holding diagnostic (running 0x0702 [(63, [1])]), running 0x0702 [(63, [1])], ⟨rfl, rfl, rfl⟩, by decide +kernel, by decide +kernel⟩,
   ⟨holding diagnostic (running 0x0702 []), running 0x0702 [], ⟨rfl, rfl, rfl⟩, by decide +kernel, by decide +kernel⟩⟩

/-- States and operands that meet the hypotheses of `Obligations.InvalidRecordBootsScrapped`, clause by clause. -/
theorem test_witness_InvalidRecordBootsScrapped : ∃ (s : State) (_puf : Bool), s.sys.phase = .boot ∧ s.lcb.stage = 0x1 ∧
    s.lcb.stopped = false ∧ ((s.lcb.slots.head?.map LcSlot.class') ≠ some (.committed lcBlank) ∨ ∃ (i j : Nat) (x y :
    LcSlot) (a b : Nat), i < j ∧ s.lcb.slots[i]? = some x ∧ s.lcb.slots[j]? = some y ∧ x.class' = .pending a ∧ y.class' =
    .committed b) :=
  ⟨invalidRecord, true, rfl, rfl, rfl, (.inl (by decide +kernel))⟩

/-- States and operands that meet the hypotheses of `Obligations.ItemEndsLeaveTheRest`, clause by clause. -/
theorem test_witness_ItemEndsLeaveTheRest :
    (∃ (s : State) (it : Item) (op : Nat) (st : Status) (_body : List Byte), s.Runs it op ∧ (op ≠ 0x0201 ∨ st = stOk)) ∧
    (∃ (s : State) (it : Item) (_why : WaitFor), s.item it.id = some it) ∧
    (∃ (s : State) (it : Item) (why : WaitFor) (_o : Outcome), s.item it.id = some it ∧ it.phase = .yielded why) :=
  ⟨⟨holding served (running 0x0720 []), running 0x0720 [], 0x0720, stOk, [], ⟨rfl, rfl, rfl⟩, by decide +kernel⟩,
   ⟨holding served (running 0x0720 []), running 0x0720 [], .engine, by decide +kernel⟩,
   ⟨holding served waitingItem, waitingItem, .reserve, outcome stOk [], by decide +kernel, by decide +kernel⟩⟩


/-! ## Queue pairs and the dispatcher -/

/-- Queue pair 15 of the PF in a state. -/
def withQp (q : Qp) : State := { served with qps := [(qpKey 0 15, q)] }

/-- An enabled queue pair with 3 descriptors waiting from its head on, one of them fetched. -/
def qpOn (desc : List Byte) : Qp :=
  { Qp.idle with enabled := true, cqPhase := true, sqHead := 13, sqTail := 0, cqTail := 15, cqHead := 14, reserved := 2,
                 inflight := 1, fetched := [(13, desc)] }

/-- The same with its submission queue full. -/
def qpFull : Qp := { qpOn (descOf 0x0700 []) with sqTail := 12 }

/-- A ready item of the PF with RING_ROUTE's opcode, checked and in ready list 0. -/
def readyItem : Item := { running 0x0720 [] with phase := .ready, claimed := false }

/-- A state in which the ready item waits to be offered. -/
def offering : State :=
  { served with dsp := { served.dsp with
      items := [(0, readyItem)]
      nextItem := 1
      lists := { items := [0], barrier := false } :: served.dsp.lists.tail } }

/-- The state of the ready item's class once it has been chosen. -/
def offered : State :=
  { offering with dsp := { offering.dsp with
      credits := [0, 1, 1, 1, 1, 1, 1, 1]
      rrNext := [1, 0, 0, 0, 0, 0, 0, 0] } }

/-- An item whose wait has ended, with a stage of its opcode. -/
def resumable (stage : Nat) : Item := { running 0x0720 [] with phase := .resumable, stage := stage, outcome := outcome stOk (zeros 8) }

/-- A state with that item at the head of the resume queue. -/
def resuming (stage : Nat) : State :=
  { holding served (resumable stage) with dsp := { (holding served (resumable stage)).dsp with resumeQ := [0, 7] } }

/-- An item whose record is ready. -/
def doneItem : Item := { running 0x0720 [] with phase := .done, source := .queue 0 15 3, outcome := outcome stOk (zeros 8) }

/-- A session entry of class 2, index 5, with AES-256 material. -/
def sessionAes : SessionEntry :=
  { gen := 1, live := true, depth := 1, parent := 0, writeSerial := 1, attr := 0x0000_0000_0003_0003, counter := 0,
    noncePrefix := 0, material := List.replicate 32 7, pubOnly := false }

/-- A state in which a fill of that key is under way. -/
def filling : State :=
  { served with vault := { served.vault with
      sessions := [(5, sessionAes)]
      fills := [{ handle := 0x2000_0501, waiters := [], started := true }] } }

/-- States and operands that meet the hypotheses of the part `QueuePairCommandsTakeEffect` of `Obligations.QueuePairsTakeTheirCommands`, clause by
clause. -/
theorem test_witness_QueuePairCommandsTakeEffect :
    (∃ (s : State) (fn qp : Nat) (v : Word), s.mmioOk fn = true ∧ qp < 16 ∧ (s.qp fn qp).enabled = false ∧ (s.qp fn
        qp).draining = false ∧ s.enableOk fn qp (bits v.toNat 8 6) = true) ∧
    (∃ (s : State) (fn qp : Nat) (_v : Word), s.mmioOk fn = true ∧ qp < 16 ∧ (s.qp fn qp).enabled = true) ∧
    (∃ (s : State) (fn qp : Nat) (v : Word), s.qpListens fn qp = true ∧ bits v.toNat 0 16 < s.sqSize fn qp) ∧
    (∃ (s : State) (fn qp : Nat) (bytes : List Byte), s.qpListens fn qp = true ∧ bytes.length = 64 ∧ ((s.qp fn qp).sqTail
        + 1) % s.sqSize fn qp ≠ (s.qp fn qp).sqHead) ∧
    (∃ (s : State) (fn qp : Nat) (v : Word), s.qpListens fn qp = true ∧ bits v.toNat 0 16 < s.cqSize fn qp ∧ (bits v.toNat
        0 16 + s.cqSize fn qp - (s.qp fn qp).cqHead) % s.cqSize fn qp ≤ (s.qp fn qp).reserved - (s.qp fn qp).inflight) :=
  ⟨⟨served, 0, 15, 0x0000_0003#32, by decide +kernel, by decide +kernel, by decide +kernel, by decide +kernel, by decide +kernel⟩,
   ⟨withQp (qpOn []), 0, 15, 0x0000_0002#32, by decide +kernel, by decide +kernel, by decide +kernel⟩,
   ⟨withQp (qpOn []), 0, 15, 15#32, by decide +kernel, by decide +kernel⟩,
   ⟨withQp (qpOn []), 0, 15, zeros 64, by decide +kernel, by decide +kernel, by decide +kernel⟩,
   ⟨withQp (qpOn []), 0, 15, 15#32, by decide +kernel, by decide +kernel, by decide +kernel⟩⟩

/-- States and operands that meet the hypotheses of the part `QueueErrorsAreReported` of `Obligations.QueuePairsTakeTheirCommands`, clause by
clause. -/
theorem test_witness_QueueErrorsAreReported :
    (∃ (s : State) (fn qp : Nat) (v : Word), s.qpListens fn qp = true ∧ s.sqSize fn qp ≤ bits v.toNat 0 16) ∧
    (∃ (s : State) (fn qp : Nat) (_bytes : List Byte) (_one : Bool), s.qpListens fn qp = true ∧ ((s.qp fn qp).sqTail + 1)
        % s.sqSize fn qp = (s.qp fn qp).sqHead) ∧
    (∃ (s : State) (fn qp : Nat) (v : Word), s.qpListens fn qp = true ∧ s.cqSize fn qp ≤ bits v.toNat 0 16) ∧
    (∃ (s : State) (fn _qp : Nat) (_code : BitVec 4), s.hostServed = true ∧ s.vectorMasked fn 0 = false ∧ (fn ≠ 0 → (s.vf
        fn).suspended = false)) :=
  ⟨⟨withQp (qpOn []), 0, 15, 16#32, by decide +kernel, by decide +kernel⟩,
   ⟨withQp qpFull, 0, 15, zeros 64, true, by decide +kernel, by decide +kernel⟩,
   ⟨withQp (qpOn []), 0, 15, 16#32, by decide +kernel, by decide +kernel⟩,
   ⟨(withQp (qpOn [])).setReg 0 0x0029_000C 0, 0, 15, 2#4, by decide +kernel, by decide +kernel, by decide +kernel⟩⟩

/-- States and operands that meet the hypotheses of the part `DescriptorIsConsumed` of `Obligations.DescriptorsAreConsumed`, clause by
clause. -/
theorem test_witness_DescriptorIsConsumed : ∃ (s : State) (fn qp : Nat) (desc : List Byte), s.canConsume fn qp = true ∧
    (s.qp fn qp).fetched.find? (·.1 == (s.qp fn qp).sqHead) = some ((s.qp fn qp).sqHead, desc) ∧ (∀ f, s.flowOf fn desc =
    some f → s.mem.ueLines.contains (s.flowLine f) = false) :=
  ⟨withQp (qpOn (descOf 0x0720 [])), 0, 15, descOf 0x0720 [], by decide +kernel, by decide +kernel, (fun f h => absurd h
      (by rw [show State.flowOf _ 0 (descOf 0x0720 []) = none by decide +kernel]; exact nofun))⟩

/-- States and operands that meet the hypotheses of the part `CommonCheckFailureIsRecorded` of `Obligations.DescriptorsAreConsumed`, clause by
clause. -/
theorem test_witness_CommonCheckFailureIsRecorded : ∃ (s : State) (fn qp : Nat) (desc : List Byte) (st : Status) (off :
    Nat), s.canConsume fn qp = true ∧ (s.qp fn qp).fetched.find? (·.1 == (s.qp fn qp).sqHead) = some ((s.qp fn qp).sqHead,
    desc) ∧ s.flowOf fn desc = none ∧ s.commonCheck (s.newItem fn qp (s.qp fn qp).sqHead desc) = some (st, off) :=
  ⟨withQp (qpOn (descOf 0x0FFF [])), 0, 15, descOf 0x0FFF [], stBadOpcode, 0, by decide +kernel, by decide +kernel,
      by decide +kernel, by decide +kernel⟩

/-- States and operands that meet the hypotheses of the part `DispatchPutsAnItemOnTheCore` of `Obligations.CoresTakeItems`, clause by
clause. -/
theorem test_witness_DispatchPutsAnItemOnTheCore : ∃ (s s1 : State) (core id : Nat) (it : Item), s.takesItems = true ∧
    s.coreIdle core = true ∧ s.dsp.resumeQ = [] ∧ s.runChecks.chooseItem = some (id, s1) ∧ s1.item id = some it ∧ it.id =
    id ∧ it.source ≠ .internal ∧ 0x0502 ≤ it.opcode ∧ it.opcode ≠ 0x050A ∧ it.opcode ≠ 0x0511 :=
  ⟨offering, offered, 63, 0, readyItem, by decide +kernel, by decide +kernel, by decide +kernel, rfl, by decide +kernel,
      by decide +kernel, by decide +kernel, by decide +kernel, by decide +kernel, by decide +kernel⟩

/-- States and operands that meet the hypotheses of the part `OldestWaitEndsFirst` of `Obligations.CoresTakeItems`, clause by
clause. -/
theorem test_witness_OldestWaitEndsFirst :
    (∃ (s : State) (it : Item) (core : Nat) (rest : List Nat), s.takesItems = true ∧ s.dsp.resumeQ = it.id :: rest ∧
        lowest 64 s.coreIdle = some core ∧ s.item it.id = some it ∧ it.stage ≠ 0xFF) ∧
    (∃ (s : State) (it : Item) (core : Nat) (rest : List Nat), s.takesItems = true ∧ s.dsp.resumeQ = it.id :: rest ∧
        lowest 64 s.coreIdle = some core ∧ s.item it.id = some it ∧ it.stage = 0xFF ∧ it.opcode ≠ 0x0201) :=
  ⟨⟨resuming 1, resumable 1, 0, [7], by decide +kernel, by decide +kernel, by decide +kernel, by decide +kernel, by decide +kernel⟩,
   ⟨resuming 0xFF, resumable 0xFF, 0, [7], by decide +kernel, by decide +kernel, by decide +kernel, by decide +kernel,
       by decide +kernel, by decide +kernel⟩⟩

/-- States and operands that meet the hypotheses of `Obligations.RecordIsWrittenAtTheTail`, clause by clause. -/
theorem test_witness_RecordIsWrittenAtTheTail : ∃ (s : State) (it : Item) (fn qp slot : Nat), s.item it.id = some it ∧
    it.isDone = true ∧ it.inFlow = none ∧ it.source = .queue fn qp slot ∧ it.opcode ≠ 0x0751 ∧ it.opcode ≠ 0x0752 ∧ (s.qp
    fn qp).discard = false :=
  ⟨holding (withQp (qpOn [])) doneItem, doneItem, 0, 15, 3, by decide +kernel, by decide +kernel, by decide +kernel,
      by decide +kernel, by decide +kernel, by decide +kernel, by decide +kernel⟩

/-- States and operands that meet the hypotheses of `Obligations.DispatcherTimersTakeEffect`, clause by clause. -/
theorem test_witness_DispatcherTimersTakeEffect :
    (∃ (s : State) (fn qp : Nat), (s.qp fn qp).counted ≠ 0 ∧ bits (s.qpReg fn qp 0x118).toNat 8 10 ≠ 0) ∧
    (∃ (s : State) (h : Word) (f : KeyFill) (k : KeyView), s.vault.fills.find? (·.handle == h) = some f ∧ f.started = true
        ∧ s.keyView h = some k ∧ k.material ≠ [] ∧ linesUsed s.vault.cache + s.keyLines h ≤ 16384) ∧
    (∃ (s : State) (it : Item) (core : Nat) (k : ServiceCore), s.itemList.find? (fun i => i.phase == .running core) = some
        it ∧ s.item it.id = some it ∧ it.opcode ≠ 0x0201 ∧ s.watchdogHolds it = false ∧ s.dsp.cores[core]? = some k ∧
        (inWindow s.sys.tick 1000000 (s.sys.tick :: k.resets)).length < 3) :=
  ⟨⟨(withQp { qpOn [] with counted := 3 }).setReg 0 (queueOff 0 (0x118 + 0x40 * 15)) 0x0000_0100, 0, 15,
      by decide +kernel, by decide +kernel⟩,
   ⟨filling, 0x2000_0501#32, { handle := 0x2000_0501, waiters := [], started := true },
       { handle := 0x2000_0501, attr := sessionAes.attr, parent := 0, depth := 1, noncePrefix := 0, material := sessionAes.material, pubOnly := false, sealsClosed := false },
       by decide +kernel, by decide +kernel, by decide +kernel, by decide +kernel, by decide +kernel⟩,
   ⟨holding served (running 0x0720 []), running 0x0720 [], 0,
       { fenced := false, item := some 0, resets := [], setOf := none }, by decide +kernel, by decide +kernel,
       by decide +kernel, by decide +kernel, by decide +kernel, by decide +kernel⟩⟩

/-- States and operands that meet the hypotheses of `Obligations.QuiesceAndResume`, clause by clause. -/
theorem test_witness_QuiesceAndResume :
    (∃ (s : State) (it : Item), s.Runs it 0x0701 ∧ it.le 16 4 ≤ 10000000 ∧ zeroRange it.desc 20 64 = true ∧ s.sys.phase =
        .service ∧ s.dsp.items = [(it.id, it)] ∧ it.isPf = true) ∧
    (∃ (s : State) (it : Item), s.Runs it 0x0702 ∧ zeroRange it.desc 16 64 = true ∧ s.sys.phase = .service) :=
  ⟨⟨holding served (running 0x0701 [(16, leBytes 4 10000000)]), running 0x0701 [(16, leBytes 4 10000000)], ⟨rfl, rfl,
      rfl⟩, by decide +kernel, by decide +kernel, by decide +kernel, by decide +kernel, by decide +kernel⟩,
   ⟨holding served (running 0x0702 []), running 0x0702 [], ⟨rfl, rfl, rfl⟩, by decide +kernel, by decide +kernel⟩⟩


/-! ## The host port -/

/-- Tenant 1 of the small plan: VFs 1 to 4, flows 16 to 31, storage and payment, with programs. -/
def tenant1 : TenantEntry :=
  { tenant := 1, storage := true, payment := true, programs := true, remoteOfficers := false, vfFirst := 1, vfCount := 4,
    epochUs := 1000000, flowFirst := 16, flowCount := 16, keyrecQuota := 64, sessionQuota := 64, channelQuota := 4,
    segMax := 65536, gcmMax := 65536 }

/-- Service with tenant 1 and 1,023 virtual functions. -/
def tenanted : State :=
  { served with
    host := { served.host with vfEnable := true, numVfs := 1023 }
    plan := { served.plan with running := { Plan.none with tenants := [tenant1] } } }

/-- The same with VF 4 in a state of its own. -/
def withVf4 (v : Vf) : State := { tenanted with host := { tenanted.host with vfs := [(4, v)] } }

/-- The same with the IDE stream 15 secure and covering VF 4, and an SPDM session. -/
def streamed (v : Vf) : State :=
  { withVf4 v with host := { (withVf4 v).host with
      spdmSession := true
      ideKeysSet := [15]
      ideSecure := [15]
      ideRid := [(15, 4)] } }

/-- A dirty log of 8 pages of 4 KiB with two pages marked, one of them not yet merged. -/
def aLog : DirtyLog :=
  { pageLog2 := 12, pages := 8, base := 0x10000, bitmap := 0x8000, marked := [1, 7], unmerged := [7], outside := 3,
    failed := false, swapTo := none }

/-- VF 4 with that log. -/
def logged : State := withVf4 { Vf.fresh with dirty := some aLog }

/-- VF 4 suspended. -/
def suspendedVf : State := withVf4 { Vf.fresh with suspended := true }

/-- The header of a VF state blob sealed by the boot key, and its body of zeros. -/
def vfBlob : List Byte := overlay (zeros 912) 0 (leBytes 4 0x4D56594B ++ leBytes 2 1 ++ leBytes 2 912)

/-- States and operands that meet the hypotheses of the part `FunctionResetsClearTheFunction` of `Obligations.HostPortStates`, clause by
clause. -/
theorem test_witness_FunctionResetsClearTheFunction :
    (∃ (s : State) (vf : Nat), vf ≠ 0 ∧ s.fnExists vf = true) ∧
    (∃ (s : State) (fn : Nat), fn ≠ 0 ∧ (s.vf fn).flrBusy = true) ∧
    (∃ (s : State), s.host.pfFlrBusy = true) :=
  ⟨⟨tenanted, 1023, by decide +kernel, by decide +kernel⟩,
   ⟨withVf4 { Vf.fresh with flrBusy := true }, 4, by decide +kernel, by decide +kernel⟩,
   ⟨{ served with host := { served.host with pfFlrBusy := true } }, by decide +kernel⟩⟩

/-- States and operands that meet the hypotheses of `Obligations.HostReadsEndAsRequested`, clause by clause. -/
theorem test_witness_HostReadsEndAsRequested :
    (∃ (s : State) (fn qp slot _ce : Nat) (_bytes : List Byte), s.mmioOk 0 = true ∧ s.qpListens fn qp = true ∧ slot <
        s.sqSize fn qp ∧ (slot + s.sqSize fn qp - (s.qp fn qp).sqHead) % s.sqSize fn qp < ((s.qp fn qp).sqTail + s.sqSize
        fn qp - (s.qp fn qp).sqHead) % s.sqSize fn qp ∧ (s.qp fn qp).fetched.any (·.1 == slot) = false) ∧
    (∃ (s : State) (it : Item) (_iova : DWord) (_bytes : List Byte), s.mmioOk 0 = true ∧ s.item it.id = some it ∧ it.isRunning = true) ∧
    (∃ (s : State) (it : Item) (_iova : DWord) (_why : ReadFailure) (core : Nat), s.mmioOk 0 = true ∧ s.item it.id = some
        it ∧ it.phase = .running core ∧ it.written = [] ∧ it.opcode ≠ 0x0201) :=
  ⟨⟨withQp (qpOn []), 0, 15, 15, 3, zeros 64, by decide +kernel, by decide +kernel, by decide +kernel, by decide +kernel,
      by decide +kernel⟩,
   ⟨holding served (running 0x0720 []), running 0x0720 [], 64, zeros 32, by decide +kernel, by decide +kernel, by decide +kernel⟩,
   ⟨holding served (running 0x0720 []), running 0x0720 [], 64, .poisoned, 0, by decide +kernel, by decide +kernel,
       by decide +kernel, by decide +kernel, by decide +kernel⟩⟩

/-- States and operands that meet the hypotheses of the part `LinkAndInterfaceStates` of `Obligations.HostPortStates`, clause by
clause. -/
theorem test_witness_LinkAndInterfaceStates :
    (∃ (s : State) (speed : BitVec 4) (width : BitVec 6) (_flit : Bool), s.sys.phase ≠ .off ∧ s.sys.phase ≠ .holdUp ∧
        (speed = 4 ∨ speed = 5 ∨ speed = 6) ∧ (width = 4 ∨ width = 8 ∨ width = 16)) ∧
    (∃ (s : State) (n : Nat), s.host.vfEnable = false ∧ n ≤ 1023) ∧
    (∃ (s : State) (st _rid : Nat), s.host.spdmSession = true ∧ st ≤ 16) ∧
    (∃ (s : State) (st : Nat), s.host.spdmSession = true ∧ s.host.ideKeysSet.contains st = true) ∧
    (∃ (s : State) (_st : Nat), s.host.spdmSession = true) ∧
    (∃ (s : State) (st : Nat), (16 ≤ st ∨ tabGet s.host.ideRid st = none)) ∧
    (∃ (s : State) (st n : Nat), st < 16 ∧ tabGet s.host.ideRid st = some n ∧ n ≠ 0 ∧ ((s.vf n).tdi = .configLocked ∨
        (s.vf n).tdi = .run)) ∧
    (∃ (s : State) (vf : Nat), vf ≠ 0 ∧ s.fnExists vf = true ∧ (s.vf vf).tdi = .configUnlocked ∧ (s.vfTenant vf).isSome =
        true ∧ s.streamCovers vf = true ∧ (∀ q, q < 16 → (s.qp vf q).enabled = false ∧ (s.qp vf q).draining = false) ∧
        (s.vf vf).suspended = false ∧ (s.vf vf).dirty = none) ∧
    (∃ (s : State) (vf : Nat), (s.vf vf).tdi = .configLocked) ∧
    (∃ (s : State) (vf : Nat), (s.vf vf).tdi ≠ .configUnlocked) :=
  ⟨⟨served, 6, 16, true, by decide +kernel, by decide +kernel, by decide +kernel, by decide +kernel⟩,
   ⟨served, 1023, by decide +kernel, by decide +kernel⟩,
   ⟨streamed Vf.fresh, 16, 7, by decide +kernel, by decide +kernel⟩,
   ⟨streamed Vf.fresh, 15, by decide +kernel, by decide +kernel⟩,
   ⟨streamed Vf.fresh, 15, by decide +kernel⟩,
   ⟨streamed Vf.fresh, 14, by decide +kernel⟩,
   ⟨streamed { Vf.fresh with tdi := .run }, 15, 4, by decide +kernel, by decide +kernel, by decide +kernel, by decide +kernel⟩,
   ⟨streamed Vf.fresh, 4, by decide +kernel, by decide +kernel, by decide +kernel, by decide +kernel, by decide +kernel,
       (fun _ _ => ⟨rfl, rfl⟩), by decide +kernel, by decide +kernel⟩,
   ⟨withVf4 { Vf.fresh with tdi := .configLocked }, 4, by decide +kernel⟩,
   ⟨withVf4 { Vf.fresh with tdi := .error }, 4, by decide +kernel⟩⟩

/-- States and operands that meet the hypotheses of the part `DirtyLogCommands` of `Obligations.MigrationCommands`, clause by
clause. -/
theorem test_witness_DirtyLogCommands :
    (∃ (s : State) (it : Item), s.Runs it 0x0750 ∧ s.vfItemBlocked it = false ∧ s.vfOpCheck it true [32] = none ∧ it.byte
        19 = 0 ∧ zeroRange it.desc 40 64 = true ∧ (it.byte 18 = 12 ∨ it.byte 18 = 21) ∧ 1 ≤ it.le 20 4 ∧ it.le 20 4 ≤ 2 ^
        28 ∧ it.le 24 8 % 2 ^ it.byte 18 = 0 ∧ it.le 24 8 + it.le 20 4 * 2 ^ it.byte 18 ≤ 2 ^ 64 ∧ (s.vf (it.le 16
        2)).dirty = none ∧ (s.host.vfs.filter fun p => p.2.dirty.isSome).length < 64) ∧
    (∃ (s : State) (it : Item) (d : DirtyLog), s.Runs it 0x0751 ∧ s.vfItemBlocked it = false ∧ s.vfOpCheck it true [32] =
        none ∧ zeroRange it.desc 18 32 = true ∧ zeroRange it.desc 40 64 = true ∧ (s.vf (it.le 16 2)).dirty = some d) ∧
    (∃ (s : State) (it : Item), s.Runs it 0x0752 ∧ s.vfItemBlocked it = false ∧ s.vfOpCheck it true [] = none ∧ zeroRange
        it.desc 18 64 = true ∧ (s.vf (it.le 16 2)).dirty.isSome = true) ∧
    (∃ (s : State) (vf : Nat) (d : DirtyLog), (s.vf vf).dirty = some d ∧ d.failed = false) ∧
    (∃ (s : State) (vf : Nat) (d : DirtyLog), (s.vf vf).dirty = some d ∧ d.failed = false) :=
  ⟨⟨holding tenanted (running 0x0750 [(16, leBytes 2 4), (18, [12]), (20, leBytes 4 1), (24, leBytes 8 0x10000)]), running
      0x0750 [(16, leBytes 2 4), (18, [12]), (20, leBytes 4 1), (24, leBytes 8 0x10000)], ⟨rfl, rfl, rfl⟩,
      by decide +kernel, by decide +kernel, by decide +kernel, by decide +kernel, by decide +kernel, by decide +kernel,
      by decide +kernel, by decide +kernel, by decide +kernel, by decide +kernel, by decide +kernel⟩,
   ⟨holding logged (running 0x0751 [(16, leBytes 2 4)]), running 0x0751 [(16, leBytes 2 4)], aLog, ⟨rfl, rfl, rfl⟩,
       by decide +kernel, by decide +kernel, by decide +kernel, by decide +kernel, by decide +kernel⟩,
   ⟨holding logged (running 0x0752 [(16, leBytes 2 4)]), running 0x0752 [(16, leBytes 2 4)], ⟨rfl, rfl, rfl⟩,
       by decide +kernel, by decide +kernel, by decide +kernel, by decide +kernel⟩,
   ⟨logged, 4, aLog, by decide +kernel, by decide +kernel⟩,
   ⟨logged, 4, aLog, by decide +kernel, by decide +kernel⟩⟩

/-- States and operands that meet the hypotheses of the part `VfStateTransfer` of `Obligations.MigrationCommands`, clause by
clause. -/
theorem test_witness_VfStateTransfer :
    (∃ (s : State) (it : Item), s.Runs it 0x0753 ∧ s.vfItemBlocked it = false ∧ s.vfOpCheck it true [] = none ∧ zeroRange
        it.desc 18 20 = true ∧ zeroRange it.desc 24 64 = true ∧ it.le 20 4 ≤ 10000000) ∧
    (∃ (s : State) (it : Item), s.item it.id = some it ∧ it.opcode = 0x0753 ∧ it.phase = .yielded .suspension ∧ it.le 20 4 ≠ 0) ∧
    (∃ (s : State) (it : Item), s.item it.id = some it ∧ it.opcode = 0x0701 ∧ it.phase = .yielded .drained ∧ it.le 16 4 ≠ 0) ∧
    (∃ (s : State) (it : Item), s.Runs it 0x0754 ∧ s.vfItemBlocked it = false ∧ s.vfOpCheck it true [] = none ∧ zeroRange
        it.desc 18 64 = true) ∧
    (∃ (s s' : State) (it : Item) (nonce : List Byte), s.Runs it 0x0755 ∧ s.vfItemBlocked it = false ∧ s.vfOpCheck it true
        [24] = none ∧ zeroRange it.desc 18 20 = true ∧ zeroRange it.desc 32 64 = true ∧ (s.vf (it.le 16 2)).suspended =
        true ∧ s.vfDrained (it.le 16 2) = true ∧ 912 ≤ it.le 20 4 ∧ s.draw 12 = (nonce, s')) ∧
    (∃ (s : State) (it : Item) (b k : List Byte), s.Runs it 0x0756 ∧ s.vfItemBlocked it = false ∧ s.vfOpCheck it true [24]
        = none ∧ zeroRange it.desc 18 20 = true ∧ zeroRange it.desc 32 64 = true ∧ it.le 20 4 = 912 ∧ (s.vf (it.le 16
        2)).suspended = true ∧ (∀ q, q < 16 → (s.qp (it.le 16 2) q).enabled = false ∧ (s.qp (it.le 16 2) q).draining =
        false) ∧ it.hostBytes (it.le 24 8) 912 = some b ∧ leAt b 0 4 = 0x4D56594B ∧ leAt b 4 2 = 1 ∧ leAt b 6 2 = 912 ∧
        zeroRange b 60 64 = true ∧ bits (byteAt b 29).toNat 2 6 = 0 ∧ (if bit (byteAt b 29).toNat 0 then
        s.vault.migrationKey else some s.host.bootBlobKey) = some k) ∧
    (∃ (s : State) (vf : Nat) (v : Word), vf ≠ 0 ∧ s.mmioOk vf = true ∧ v.getLsbD 0 = true) :=
  ⟨⟨holding tenanted (running 0x0753 [(16, leBytes 2 4), (20, leBytes 4 10000000)]), running 0x0753 [(16, leBytes 2 4),
      (20, leBytes 4 10000000)], ⟨rfl, rfl, rfl⟩, by decide +kernel, by decide +kernel, by decide +kernel,
      by decide +kernel, by decide +kernel⟩,
   ⟨holding tenanted
       ({ running 0x0753 [(16, leBytes 2 4), (20, leBytes 4 10000000)] with phase := .yielded .suspension }),
       { running 0x0753 [(16, leBytes 2 4), (20, leBytes 4 10000000)] with phase := .yielded .suspension },
       by decide +kernel, by decide +kernel, by decide +kernel, by decide +kernel⟩,
   ⟨holding tenanted ({ running 0x0701 [(16, leBytes 4 1)] with phase := .yielded .drained }),
       { running 0x0701 [(16, leBytes 4 1)] with phase := .yielded .drained }, by decide +kernel, by decide +kernel,
       by decide +kernel, by decide +kernel⟩,
   ⟨holding suspendedVf (running 0x0754 [(16, leBytes 2 4)]), running 0x0754 [(16, leBytes 2 4)], ⟨rfl, rfl, rfl⟩,
       by decide +kernel, by decide +kernel, by decide +kernel⟩,
   ⟨holding suspendedVf (running 0x0755 [(16, leBytes 2 4), (20, leBytes 4 912)]), ((holding suspendedVf (running 0x0755
       [(16, leBytes 2 4), (20, leBytes 4 912)])).draw 12).2, running 0x0755 [(16, leBytes 2 4), (20, leBytes 4 912)],
       ((holding suspendedVf (running 0x0755 [(16, leBytes 2 4), (20, leBytes 4 912)])).draw 12).1, ⟨rfl, rfl, rfl⟩,
       by decide +kernel, by decide +kernel, by decide +kernel, by decide +kernel, by decide +kernel, by decide +kernel,
       by decide +kernel, rfl⟩,
   ⟨holding suspendedVf ({ running 0x0756 [(16, leBytes 2 4), (20, leBytes 4 912)] with bufs := [(0, vfBlob)] }),
       { running 0x0756 [(16, leBytes 2 4), (20, leBytes 4 912)] with bufs := [(0, vfBlob)] }, vfBlob, [], ⟨rfl, rfl,
       rfl⟩, by decide +kernel, by decide +kernel, by decide +kernel, by decide +kernel, by decide +kernel,
       by decide +kernel, (fun _ _ => ⟨rfl, rfl⟩), by decide +kernel, by decide +kernel, by decide +kernel,
       by decide +kernel, by decide +kernel, by decide +kernel, by decide +kernel⟩,
   ⟨withVf4 { Vf.fresh with stale := true, suspended := true }, 4, 1#32, by decide +kernel, by decide +kernel, by decide +kernel⟩⟩


/-! ## Memory, debug and the sideband -/

/-- A DRBG of zeros. -/
def zeroDrbg : Drbg := { key := zeros 32, v := zeros 16, since := 0 }

/-- Service with a main DRBG that serves. -/
def entropic : State :=
  { served with ent := { served.ent with ready := true, mainServing := true, main := some zeroDrbg } }

/-- Service of a BLANK part with the memory key loaded. -/
def keyed : State := { served with mem := { served.mem with keyLoaded := true, memKey := zeros 32 } }

/-- Service of a part whose record is invalid. -/
def scrapped : State := { served with lcb := { served.lcb with slots := invalidRecord.lcb.slots } }

/-- A violation record of the debug port. -/
def aViolation : Violation :=
  { addr := 1, kind := .atomic, master := 0x7F, region := 0xFF, tenant := none, split := false,
    locked := false, onTag := false, onPerm := false, align := true, len := 3, stamp := 0, function := 0xFFFF }

/-- Service with the last violation FIFO full. -/
def fifosFull : State :=
  { served with mem := { served.mem with
      fifos := List.replicate 6 { records := List.replicate 64 aViolation, lost := 0 } } }

/-- Service with an allocation and a run of Cistern slots that are being zeroed. -/
def zeroing : State :=
  { served with
    mem := { served.mem with allocs := [{ id := 3, offset := 0, size := 4096, engine := 7, region := 24, zeroing := true }] }
    pke := { served.pke with engines := List.replicate 8 { PkEngine.reset with zeroing := [(62, 2)] } } }

/-- States and operands that meet the hypotheses of `Obligations.MemoryCommands`, clause by clause. -/
theorem test_witness_MemoryCommands :
    (∃ (s s1 s2 : State) (a b : List Byte), s.mainServes = true ∧ s.mem.keyLoaded = false ∧ s.draw 32 = (a, s1) ∧ s1.draw 32 = (b, s2)) ∧
    (∃ (s : State), s.mem.keyLoaded = true ∧ s.mem.sweepDone = false) ∧
    (∃ (s : State) (_v : Word), s.mmioOk 0 = true) ∧
    (∃ (s : State), s.mmioOk 0 = true) ∧
    (∃ (s : State) (g : Nat) (v : Word) (q : ViolFifo), s.mmioOk 0 = true ∧ v.getLsbD 0 = true ∧ s.mem.fifos[g]? = some q) ∧
    (∃ (s : State) (n : Nat) (a : StagingAlloc), s.mem.allocs.find? (fun x => x.id == n && x.zeroing) = some a) ∧
    (∃ (s : State) (e first n : Nat) (k : PkEngine), s.pke.engines[e]? = some k ∧ k.zeroing.contains (first, n) = true) :=
  ⟨⟨entropic, (entropic.draw 32).2, ((entropic.draw 32).2.draw 32).2, (entropic.draw 32).1, ((entropic.draw 32).2.draw
      32).1, by decide +kernel, by decide +kernel, rfl, rfl⟩,
   ⟨keyed, by decide +kernel, by decide +kernel⟩,
   ⟨served, 0#32, by decide +kernel⟩,
   ⟨served, by decide +kernel⟩,
   ⟨fifosFull, 5, 1#32, { records := List.replicate 64 aViolation, lost := 0 }, by decide +kernel, by decide +kernel, by decide +kernel⟩,
   ⟨zeroing, 3, { id := 3, offset := 0, size := 4096, engine := 7, region := 24, zeroing := true }, by decide +kernel⟩,
   ⟨zeroing, 7, 62, 2, { PkEngine.reset with zeroing := [(62, 2)] }, by decide +kernel, by decide +kernel⟩⟩

/-- States and operands that meet the hypotheses of the part `DebugAccessReadsWhatWasWritten` of `Obligations.DebugAccessIsGuarded`, clause by
clause. -/
theorem test_witness_DebugAccessReadsWhatWasWritten :
    (∃ (s : State) (a : Nat) (data : List Byte), s.tapRuns = true ∧ s.dbgOk = true ∧ (s.setRegion 0x7F 0
        dbgRegion).checkAccess s.cisternLocked 0x7F none 0xFFFF { addr := a, kind := .write, len := data.length } = [((a,
        data.length), none)] ∧ mapped a = true ∧ inRegs a = false ∧ inRom a = false ∧ (inHbm a = true → s.mem.keyLoaded =
        true)) ∧
    (∃ (s : State) (a n : Nat), s.tapRuns = true ∧ s.dbgOk = true ∧ (s.setRegion 0x7F 0 dbgRegion).checkAccess
        s.cisternLocked 0x7F none 0xFFFF { addr := a, kind := .read, len := n } = [((a, n), none)] ∧ mapped a = true ∧
        inRegs a = false ∧ inRom a = false ∧ (inHbm a = true → s.mem.keyLoaded = true ∧ (linesOf a n).any
        s.mem.ueLines.contains = false)) :=
  ⟨⟨keyed, 0x000B_FFFF_FFF8, [1, 2, 3, 4, 5, 6, 7, 8], by decide +kernel, by decide +kernel, by decide +kernel,
      by decide +kernel, by decide +kernel, by decide +kernel, by decide +kernel⟩,
   ⟨keyed, 0x000B_FFFF_FFF8, 8, by decide +kernel, by decide +kernel, by decide +kernel, by decide +kernel,
       by decide +kernel, by decide +kernel, by decide +kernel⟩⟩

/-- States and operands that meet the hypotheses of the part `RefusedAccessIsRecorded` of `Obligations.DebugAccessIsGuarded`, clause by
clause. -/
theorem test_witness_RefusedAccessIsRecorded :
    (∃ (s : State) (a : Access) (_data : List Byte) (v : Violation), s.tapRuns = true ∧ s.dbgOk = true ∧ (s.setRegion 0x7F
        0 dbgRegion).checkAccess s.cisternLocked 0x7F none 0xFFFF a = [((a.addr, a.len), some v)]) ∧
    (∃ (s : State) (v : Violation) (q : ViolFifo), s.mem.fifos[violGroup v.master]? = some q ∧ q.records.length < 64) ∧
    (∃ (s : State) (v : Violation) (q : ViolFifo), s.mem.fifos[violGroup v.master]? = some q ∧ 64 ≤ q.records.length) :=
  ⟨⟨keyed, { addr := 1, kind := .atomic, len := 3 }, zeros 3, aViolation, by decide +kernel, by decide +kernel, by decide +kernel⟩,
   ⟨served, aViolation, { records := [], lost := 0 }, by decide +kernel, by decide +kernel⟩,
   ⟨fifosFull, aViolation, { records := List.replicate 64 aViolation, lost := 0 }, by decide +kernel, by decide +kernel⟩⟩

/-- States and operands that meet the hypotheses of the part `TapInstructions` of `Obligations.TapAndSidebandAnswer`, clause by
clause. -/
theorem test_witness_TapInstructions :
    (∃ (s : State) (_ir : Byte), s.tapRuns = true) ∧
    (∃ (s : State), s.tapRuns = true) ∧
    (∃ (s : State) (_levels : List Bool), s.tapRuns = true ∧ s.bootLcs ≠ lcScrapped) ∧
    (∃ (s : State) (_drive : List Bool), s.tapRuns = true ∧ s.extestOk = true) ∧
    (∃ (s : State) (_drive : List Bool), s.tapRuns = true ∧ s.extestOk = false) ∧
    (∃ (s : State) (_a : Access) (_data : List Byte), s.tapRuns = true ∧ s.dbgOk = false) ∧
    (∃ (s : State) (bytes : List Byte), bytes.length = 257 ∧ s.tapRuns = true ∧ s.bootLcs ≠ lcScrapped ∧ bit (tokenScope bytes) 2 = false) ∧
    (∃ (s : State) (bytes : List Byte), bytes.length = 257 ∧ s.tapRuns = true ∧ s.bootLcs ≠ lcScrapped ∧ bit (tokenScope
        bytes) 2 = true ∧ s.tokenBusy = false) :=
  ⟨⟨served, 0x55#8, by decide +kernel⟩,
   ⟨served, by decide +kernel⟩,
   ⟨served, [true], by decide +kernel, by decide +kernel⟩,
   ⟨served, [true], by decide +kernel, by decide +kernel⟩,
   ⟨scrapped, [true], by decide +kernel, by decide +kernel⟩,
   ⟨scrapped, { addr := 0, kind := .read, len := 8 }, [], by decide +kernel, by decide +kernel⟩,
   ⟨served, overlay (zeros 257) 6 [0], by decide +kernel, by decide +kernel, by decide +kernel, by decide +kernel⟩,
   ⟨served, overlay (zeros 257) 6 [4], by decide +kernel, by decide +kernel, by decide +kernel, by decide +kernel, by decide +kernel⟩⟩

/-- States and operands that meet the hypotheses of the part `SidebandAnswers` of `Obligations.TapAndSidebandAnswer`, clause by
clause. -/
theorem test_witness_SidebandAnswers : ∃ (s : State), s.smbServed = true :=
  ⟨served, by decide +kernel⟩


/-! ## Registers, resets and supplies -/

/-- Reset in one of its phases. -/
def inPhase (p : Phase) : State := { served with sys := { served.sys with phase := p } }

/-- A reserve that carries 1,000 mJ and more, measured. -/
def richSen : SenState := { SenState.reset with vresMv := 12000, capUf := 1000000, esrMohm := 1, measured := true }

/-- Service with that reserve. -/
def rich : State := { served with sen := richSen }

/-- In the reset hold, with the cause of the reset and PERST# as given. -/
def inHold (cause : BitVec 3) (perst done : Bool) (carried : Option Level) : State :=
  { inPhase .reset with
    sys := { (inPhase .reset).sys with nextCause := cause, perstHigh := perst, resetOver := done }
    sen := { SenState.reset with carried := carried } }

/-- States and operands that meet the hypotheses of `Obligations.RegisterWritesTakeEffect`, clause by clause. -/
theorem test_witness_RegisterWritesTakeEffect :
    (∃ (s : State) (off : Nat) (v m : Word), s.barOk 0 = true ∧ s.bootHeld = false ∧ off % 4 = 0 ∧ pfMask off = some m ∧
        s.writeSpecial off v = none ∧ s.traceHeld 0 off = false ∧ (off < 0x0028_0000 ∨ 0x0029_0400 ≤ off)) ∧
    (∃ (s : State) (fn : Nat) (_v : Word), fn ≠ 0 ∧ s.barOk fn = true ∧ s.bootHeld = false) ∧
    (∃ (s : State), s.barOk 0 = true ∧ s.tokenBusy = false) ∧
    (∃ (s : State), s.barOk 0 = true ∧ s.tokenBusy = false ∧ s.ring.member = false ∧ s.storesOpen = true ∧ s.reserveCovers 200 = true) ∧
    (∃ (s : State) (v : Word), s.barOk 0 = true ∧ s.sys.phase = .boot ∧ s.lcb.noImage = true ∧ s.lcb.recBusy = false ∧
        v.getLsbD 0 = true) :=
  ⟨⟨served, 0x0000_0108, 5#32, 0xFFFF_FFFF#32, by decide +kernel, by decide +kernel, by decide +kernel, by decide +kernel,
      by decide +kernel, by decide +kernel, by decide +kernel⟩,
   ⟨tenanted, 4, 1#32, by decide +kernel, by decide +kernel, by decide +kernel⟩,
   ⟨served, by decide +kernel, by decide +kernel⟩,
   ⟨rich, by decide +kernel, by decide +kernel, by decide +kernel, by decide +kernel, by decide +kernel⟩,
   ⟨{ State.reset with host := { HostState.reset with linkUp := true }, lcb := { LcbState.reset with noImage := true } },
       1#32, by decide +kernel, by decide +kernel, by decide +kernel, by decide +kernel, by decide +kernel⟩⟩

/-- States and operands that meet the hypotheses of the part `ResetClearsAndKeeps` of `Obligations.ResetsClearAndKeep`, clause by
clause. -/
theorem test_witness_ResetClearsAndKeeps :
    (∃ (s : State), s.sys.phase = .off ∧ s.sys.aonUp = true ∧ s.sys.ioUp = true) ∧
    (∃ (s : State) (c : WarmCause), s.sys.warmReq = some c ∧ s.vault.stores.any (·.admitted) = false ∧ s.zeroising = false) ∧
    (∃ (s : State), s.sys.phase = .holdUp ∧ s.sen.holdUpDone = true) ∧
    (∃ (s : State), s.sys.phase = .holdUp ∧ s.sen.holdUpDone = false) :=
  ⟨⟨inPhase .off, by decide +kernel, by decide +kernel, by decide +kernel⟩,
   ⟨{ served with sys := { served.sys with warmReq := some .softReset } }, .softReset, by decide +kernel,
       by decide +kernel, by decide +kernel⟩,
   ⟨{ inPhase .holdUp with sen := { SenState.reset with holdUpDone := true } }, by decide +kernel, by decide +kernel⟩,
   ⟨inPhase .holdUp, by decide +kernel, by decide +kernel⟩⟩

/-- States and operands that meet the hypotheses of the part `ResetIsReleased` of `Obligations.ResetsClearAndKeep`, clause by
clause. -/
theorem test_witness_ResetIsReleased :
    (∃ (s : State), s.sys.phase = .reset ∧ s.sys.nextCause.toNat ≤ 1 ∧ s.sys.resetOver = false ∧ s.sen.carried = none ∧
        s.sys.perstHigh = true) ∧
    (∃ (s : State), s.sys.phase = .reset ∧ 2 ≤ s.sys.nextCause.toNat ∧ s.sys.resetOver = false ∧ s.sen.carried = none ∧
        s.sys.perstHigh = true) ∧
    (∃ (s : State), s.sys.phase = .reset ∧ s.sys.resetOver = true ∧ s.sen.carried = none) ∧
    (∃ (s : State), s.sys.phase = .reset ∧ s.sys.nextCause.toNat ≤ 1 ∧ s.sys.resetOver = false ∧ s.sys.perstHigh = false) ∧
    (∃ (s : State) (l : Level), s.sys.phase = .reset ∧ s.sys.nextCause.toNat ≤ 1 ∧ s.sys.resetOver = false ∧ s.sen.carried
        = some l ∧ s.sys.perstHigh = true) :=
  ⟨⟨inHold 1 true false none, by decide +kernel, by decide +kernel, by decide +kernel, by decide +kernel, by decide +kernel⟩,
   ⟨inHold 2 true false none, by decide +kernel, by decide +kernel, by decide +kernel, by decide +kernel, by decide +kernel⟩,
   ⟨inHold 1 false true none, by decide +kernel, by decide +kernel, by decide +kernel⟩,
   ⟨inHold 1 false false none, by decide +kernel, by decide +kernel, by decide +kernel, by decide +kernel⟩,
   ⟨inHold 1 true false (some .halt), .halt, by decide +kernel, by decide +kernel, by decide +kernel, by decide +kernel, by decide +kernel⟩⟩

/-- States and operands that meet the hypotheses of the part `WarmResetIsRequested` of `Obligations.ResetsClearAndKeep`, clause by
clause. -/
theorem test_witness_WarmResetIsRequested :
    (∃ (s : State), s.sys.phase ≠ .off ∧ s.sys.phase ≠ .reset ∧ s.sys.phase ≠ .holdUp) ∧
    (∃ (s : State) (v : Word), s.mmioOk 0 = true ∧ v.getLsbD 0 = true ∧ v.toNat / 2 ^ 16 = 0xA55A ∧ s.sen.steward2nd =
        false ∧ s.sys.phase ≠ .off ∧ s.sys.phase ≠ .reset ∧ s.sys.phase ≠ .holdUp ∧ s.sys.warmReq = none) ∧
    (∃ (_s : State) (v : Word), v.toNat / 2 ^ 16 ≠ 0xA55A) :=
  ⟨⟨served, by decide +kernel, by decide +kernel, by decide +kernel⟩,
   ⟨served, 0xA55A_0001#32, by decide +kernel, by decide +kernel, by decide +kernel, by decide +kernel, by decide +kernel,
       by decide +kernel, by decide +kernel, by decide +kernel⟩,
   ⟨served, 0xA55B_0001#32, by decide +kernel⟩⟩

/-- States and operands that meet the hypotheses of the part `SuppliesComeAndGo` of `Obligations.SuppliesAndHoldUp`, clause by
clause. -/
theorem test_witness_SuppliesComeAndGo :
    (∃ (s : State), s.sys.phase = .off ∧ s.sys.aonUp = false) ∧
    (∃ (s : State) (_a0 _a1 : Bool) (_r : ReserveReading), s.sys.phase = .off ∧ s.sys.aonUp = true ∧ s.sys.ioUp = false ∧
        s.vault.retryRetire = []) ∧
    (∃ (s : State), s.sys.phase = .reset) ∧
    (∃ (s : State), s.sys.phase = .holdUp) :=
  ⟨⟨{ inPhase .off with sys := { (inPhase .off).sys with aonUp := false } }, by decide +kernel, by decide +kernel⟩,
   ⟨{ inPhase .off with sys := { (inPhase .off).sys with ioUp := false } }, true, false,
       { vresMv := 11000, capUf := 900000, esrMohm := 2 }, by decide +kernel, by decide +kernel, by decide +kernel,
       by decide +kernel⟩,
   ⟨inPhase .reset, by decide +kernel⟩,
   ⟨inPhase .holdUp, by decide +kernel⟩⟩

/-- States and operands that meet the hypotheses of the part `MainPowerIsLost` of `Obligations.SuppliesAndHoldUp`, clause by
clause. -/
theorem test_witness_MainPowerIsLost :
    (∃ (s : State) (d _mv : Nat), (d = 2 ∨ d = 3) ∧ s.sys.phase ≠ .off ∧ s.sys.phase ≠ .reset ∧ s.sys.phase ≠ .holdUp) ∧
    (∃ (s : State), s.sys.phase = .holdUp ∧ s.vault.stores.any (·.admitted) = false ∧ s.sen.mainPower = false) ∧
    (∃ (s : State), s.sys.phase ≠ .off ∧ s.sys.phase ≠ .holdUp ∧ s.sys.pllLock = true) :=
  ⟨⟨served, 3, 11000, by decide +kernel, by decide +kernel, by decide +kernel, by decide +kernel⟩,
   ⟨{ inPhase .holdUp with sen := { SenState.reset with mainPower := false } }, by decide +kernel, by decide +kernel, by decide +kernel⟩,
   ⟨served, by decide +kernel, by decide +kernel, by decide +kernel⟩⟩


/-! ## Boot and entropy -/

/-- A state with the first slots of its life-cycle record given. -/
def withSlots (s : State) (xs : List LcSlot) : State :=
  { s with lcb := { s.lcb with
      slots := xs ++ List.replicate (32 - xs.length) { premark := 0, intent := 0, commit := 0, tag := 0 } } }

/-- A committed slot with a target's codeword. -/
def committedSlot (w : Word) : LcSlot := { premark := 0x3C3C_3C3C, intent := w, commit := 0xC3C3_C3C3, tag := 0 }

/-- A pending transition to VENDOR_TEST. -/
def pendingSlot : LcSlot := { premark := 0x3C3C_3C3C, intent := lcCodewords.getD 1 0, commit := 0, tag := 0 }

/-- Boot waits for the reserve to admit the COMMIT word of that transition. -/
def bootWaits : State :=
  { withSlots State.reset [committedSlot 0x0F0F_0F0F, pendingSlot] with
    sen := richSen
    lcb := { (withSlots State.reset [committedSlot 0x0F0F_0F0F, pendingSlot]).lcb with waitOtp := true, stage := 0x3 } }

/-- Boot waits for entropy, with the vault store formatted. -/
def bootAtEntropy : State :=
  { State.reset with
    ent := entropic.ent
    vault := { VaultState.reset with salt := some (zeros 32), formatted := true }
    lcb := { LcbState.reset with stage := 0x7 } }

/-- A new persistent record. -/
def aRecord : KeyRecord :=
  { attr := 0x0000_0000_0003_0003, parent := 0x1000_0001, gen := 1, depth := 1, noncePrefix := 0, material := List.replicate 32 7,
    pubOnly := false, blobs := [], heapBlocks := 1, retired := false, sealsClosed := false }

/-- A store that an item waits for. -/
def aStore : Store := { id := 9, item := some 0, action := .putRecord 5 aRecord, admitted := true, mirror := false }

/-- That item. -/
def storingItem : Item := { running 0x0501 [] with phase := .yielded .store, stage := 0xFE, outcome := outcome stOk (zeros 8) }

/-- Service with that item waiting for that store. -/
def storing : State := { holding served storingItem with vault := { served.vault with stores := [aStore] } }

/-- A carry-over record of the running image, complete, when the first good-boot time ends. -/
def goodBooted (promoting : Bool) (svn : Nat) : State :=
  { rich with
    vault := { served.vault with
      carryOver := some { measurement := List.replicate 48 0, complete := true, promoted := promoting }
      promoting := promoting }
    lcb := { served.lcb with runSvn := svn } }

/-- A zeroisation with some attempts made. -/
def zeroisingWith (n : Nat) : State := { served with sen := { SenState.reset with zstate := .pending, zeroTries := n } }

/-- A healthy source, one that is fenced, and one under re-test. -/
def goodSource : EntSource :=
  { healthy := true, fenced := false, locked := false, fences := 0, fails := [], last := 0, run := none, testing := false }
def fencedSource : EntSource := { goodSource with healthy := false, fenced := true, fences := 1 }
def testedSource : EntSource := { fencedSource with testing := true }

/-- Service with source 31 given and the others healthy, and conditioned outputs in the pool. -/
def sourced (x : EntSource) (pool : List (List Byte)) : State :=
  { entropic with ent := { entropic.ent with sources := List.replicate 31 goodSource ++ [x], pool := pool } }

/-- 512 samples that pass both health tests, and 512 equal ones. -/
def goodBlock : List Byte := (List.range 512).map (BitVec.ofNat 8)
def stuckBlock : List Byte := List.replicate 512 0x55

/-- Service with a DRBG of tenant 1. -/
def tenantRandom (since : Nat) (asked : Bool) : State :=
  { sourced goodSource [zeros 48] with ent := { (sourced goodSource [zeros 48]).ent with
      tenants := [(1, { drbg := { zeroDrbg with since := since }, asked := asked, waiting := [] })] } }

/-- Service whose entropy unit is fenced, with the main DRBG at its limit. -/
def fencedEntropy : State :=
  { entropic with ent := { entropic.ent with fenced := true, main := some { zeroDrbg with since := 2 ^ 20 } } }

/-- States and operands that meet the hypotheses of the part `BootRomStarts` of `Obligations.BootRunsToPlanLoad`, clause by
clause. -/
theorem test_witness_BootRomStarts :
    (∃ (s : State) (_p : BootProbe), s.sys.phase = .boot ∧ s.lcb.stage = 0x1 ∧ s.lcb.stopped = false) ∧
    (∃ (s : State) (_puf : Bool) (n : Nat) (x : LcSlot), s.sys.phase = .boot ∧ s.lcb.stage = 0x1 ∧ s.lcb.stopped = false ∧
        s.sen.zstate ≠ .pending ∧ s.recordInvalid = false ∧ s.topSlot = some (n, x) ∧ x.class' = .committed lcBlank ∧
        s.lcs = lcBlank) ∧
    (∃ (s : State) (n t : Nat) (x : LcSlot), s.lcb.waitOtp = true ∧ s.inResolve = true ∧ s.sen.zstate ≠ .pending ∧
        s.lcb.invalid = false ∧ s.topSlot = some (n, x) ∧ x.class' = .pending t ∧ wipes s.lcs t = false ∧ t ≠ lcScrapped ∧
        s.ring.member = false ∧ s.storesOpen = true ∧ s.reserveCovers 200 = true) :=
  ⟨⟨State.reset, { romOk := false, pufOk := true }, by decide +kernel, by decide +kernel, by decide +kernel⟩,
   ⟨State.reset, true, 0, committedSlot 0x0F0F_0F0F, by decide +kernel, by decide +kernel, by decide +kernel,
       by decide +kernel, by decide +kernel, by decide +kernel, by decide +kernel, by decide +kernel⟩,
   ⟨bootWaits, 1, 1, pendingSlot, by decide +kernel, by decide +kernel, by decide +kernel, by decide +kernel,
       by decide +kernel, by decide +kernel, by decide +kernel, by decide +kernel, by decide +kernel, by decide +kernel,
       by decide +kernel⟩⟩

/-- States and operands that meet the hypotheses of the part `BootOpensTheVault` of `Obligations.BootRunsToPlanLoad`, clause by
clause. -/
theorem test_witness_BootOpensTheVault : ∃ (s : State), s.sys.phase = .boot ∧ s.lcb.stage = 0x7 ∧ s.lcb.stopped = false ∧
    s.mainServes = true ∧ s.vault.salt.isSome = true ∧ s.vault.carryOver = none :=
  ⟨bootAtEntropy, by decide +kernel, by decide +kernel, by decide +kernel, by decide +kernel, by decide +kernel, by decide +kernel⟩

/-- States and operands that meet the hypotheses of the part `StoreCommits` of `Obligations.StoresCommit`, clause by
clause. -/
theorem test_witness_StoreCommits :
    (∃ (s : State) (st : Store) (it : Item), s.vault.stores.find? (·.id == st.id) = some st ∧ st.admitted = true ∧
        st.mirror = false ∧ s.ring.commit = none ∧ st.item = some it.id ∧ (∀ h, st.action ≠ .retire h) ∧ s.item it.id =
        some it ∧ it.phase = .yielded .store ∧ it.stage = 0xFE) ∧
    (∃ (s : State) (n : Nat) (_w _tag : Word) (x : LcSlot), s.lcb.slots[n]? = some x) :=
  ⟨⟨storing, aStore, storingItem, by decide +kernel, by decide +kernel, by decide +kernel, by decide +kernel,
      by decide +kernel, (by intro h e; cases e), by decide +kernel, by decide +kernel, by decide +kernel⟩,
   ⟨withSlots served [committedSlot 0x0F0F_0F0F, pendingSlot], 1, 0x0F0F_0F0F#32, 7#32, pendingSlot, by decide +kernel⟩⟩

/-- States and operands that meet the hypotheses of the part `ReserveAndGoodBoot` of `Obligations.StoresCommit`, clause by
clause. -/
theorem test_witness_ReserveAndGoodBoot :
    (∃ (s : State) (_r : ReserveReading), s.mayMeasure = true ∧ s.vault.retryRetire = [] ∧ s.lcb.waitOtp = false ∧
        s.lcb.waitTries = false) ∧
    (∃ (s : State), s.goodBoot = true ∧ s.vault.promoting = true ∧ s.lcb.runSvn ≤ s.minSvn ∧ s.storesOpen = true ∧
        s.reserveCovers 5 = true) ∧
    (∃ (s : State), s.goodBoot = true ∧ s.vault.promoting = true ∧ s.minSvn < s.lcb.runSvn ∧ s.storesOpen = true ∧
        s.reserveCovers 205 = true) ∧
    (∃ (s : State), s.goodBoot = true ∧ s.vault.promoting = false ∧ s.toPromote = none ∧ s.lcb.runSvn ≤ s.minSvn ∧
        s.storesOpen = true ∧ s.reserveCovers 10 = true) ∧
    (∃ (s : State), s.zeroising = true ∧ s.sys.phase ≠ .boot) ∧
    (∃ (s : State), s.zeroising = true ∧ s.sen.zeroTries < 3) ∧
    (∃ (s : State), s.zeroising = true ∧ 3 ≤ s.sen.zeroTries) :=
  ⟨⟨served, { vresMv := 12000, capUf := 1000000, esrMohm := 1 }, by decide +kernel, by decide +kernel, by decide +kernel,
      by decide +kernel⟩,
   ⟨goodBooted true 0, by decide +kernel, by decide +kernel, by decide +kernel, by decide +kernel, by decide +kernel⟩,
   ⟨goodBooted true 64, by decide +kernel, by decide +kernel, by decide +kernel, by decide +kernel, by decide +kernel⟩,
   ⟨goodBooted false 0, by decide +kernel, by decide +kernel, by decide +kernel, by decide +kernel, by decide +kernel, by decide +kernel⟩,
   ⟨zeroisingWith 3, by decide +kernel, by decide +kernel⟩,
   ⟨zeroisingWith 2, by decide +kernel, by decide +kernel⟩,
   ⟨zeroisingWith 3, by decide +kernel, by decide +kernel⟩⟩

/-- States and operands that meet the hypotheses of the part `EntropySourcesAndPool` of `Obligations.EntropyAndItsGenerators`, clause by
clause. -/
theorem test_witness_EntropySourcesAndPool :
    (∃ (s : State), s.sys.phase = .boot ∧ s.ent.ready = false ∧ s.ent.fault = false ∧ s.ent.awaitMtag = false ∧
        s.ent.erased = false ∧ s.ent.sources.length = 32 ∧ s.lcb.stage ≠ 0x7) ∧
    (∃ (s : State), s.sys.phase = .boot ∧ s.ent.ready = false ∧ s.ent.fault = false ∧ s.ent.awaitMtag = false ∧ s.ent.erased = false) ∧
    (∃ (s : State) (n : Nat) (x : EntSource) (b : List Byte), s.ent.sources[n]? = some x ∧ b.length = 512 ∧ x.healthy =
        true ∧ s.ent.ready = true ∧ s.ent.erased = false ∧ (rctRun x.run b).1 = false ∧ aptFails b = false ∧
        s.ent.pool.length < 4 ∧ (s.ent.fenced = false ∨ 16 ≤ s.healthy)) ∧
    (∃ (s : State) (n : Nat) (x : EntSource) (b : List Byte), s.ent.sources[n]? = some x ∧ b.length = 512 ∧ x.healthy =
        true ∧ s.ent.ready = true ∧ s.ent.erased = false ∧ (rctRun x.run b).1 = true ∧ (s.windowFails n).length + 1 <
        s.senParam 0x7 n 3) ∧
    (∃ (s : State) (n : Nat) (x : EntSource), s.ent.sources[n]? = some x ∧ x.fenced = true ∧ x.locked = false ∧ x.testing
        = false ∧ s.ent.erased = false) ∧
    (∃ (s : State) (n : Nat) (x : EntSource), s.ent.sources[n]? = some x ∧ x.testing = true ∧ s.ent.erased = false) ∧
    (∃ (s : State) (n : Nat) (x : EntSource), s.ent.sources[n]? = some x ∧ x.testing = true ∧ s.ent.erased = false) :=
  ⟨⟨State.reset, by decide +kernel, by decide +kernel, by decide +kernel, by decide +kernel, by decide +kernel,
      by decide +kernel, by decide +kernel⟩,
   ⟨State.reset, by decide +kernel, by decide +kernel, by decide +kernel, by decide +kernel, by decide +kernel⟩,
   ⟨sourced goodSource [[1], [2], [3]], 31, goodSource, goodBlock, by decide +kernel, by decide +kernel,
       by decide +kernel, by decide +kernel, by decide +kernel, by decide +kernel, by decide +kernel, by decide +kernel,
       by decide +kernel⟩,
   ⟨sourced goodSource [], 31, goodSource, stuckBlock, by decide +kernel, by decide +kernel, by decide +kernel,
       by decide +kernel, by decide +kernel, by decide +kernel, by decide +kernel⟩,
   ⟨sourced fencedSource [], 31, fencedSource, by decide +kernel, by decide +kernel, by decide +kernel, by decide +kernel,
       by decide +kernel⟩,
   ⟨sourced testedSource [], 31, testedSource, by decide +kernel, by decide +kernel, by decide +kernel⟩,
   ⟨sourced testedSource [], 31, testedSource, by decide +kernel, by decide +kernel, by decide +kernel⟩⟩

/-- States and operands that meet the hypotheses of the part `DrbgReseeds` of `Obligations.EntropyAndItsGenerators`, clause by
clause. -/
theorem test_witness_DrbgReseeds :
    (∃ (s : State) (d : Drbg) (seed : List Byte) (rest : List (List Byte)), s.ent.main = some d ∧ s.ent.pool = seed ::
        rest ∧ s.ent.erased = false ∧ s.ent.ready = true ∧ (s.ent.fenced = false ∨ 16 ≤ s.healthy)) ∧
    (∃ (s : State), s.ent.fenced = true ∧ 2 ^ 20 ≤ s.mainSince) ∧
    (∃ (s : State) (n : Byte) (d : TenantDrbg), s.tenantDrbg n = some d ∧ 2 ^ 23 ≤ d.drbg.since ∧ d.asked = false) ∧
    (∃ (s s' : State) (n : Byte) (d : TenantDrbg) (r : List Byte), s.tenantDrbg n = some d ∧ d.asked = true ∧ s.ent.fenced
        = false ∧ s.mainServes = true ∧ s.draw 48 = (r, s')) :=
  ⟨⟨sourced goodSource [zeros 48, List.replicate 48 1], zeroDrbg, zeros 48, [List.replicate 48 1], by decide +kernel,
      by decide +kernel, by decide +kernel, by decide +kernel, by decide +kernel⟩,
   ⟨fencedEntropy, by decide +kernel, by decide +kernel⟩,
   ⟨tenantRandom (2 ^ 23) false, 1#8, { drbg := { zeroDrbg with since := 2 ^ 23 }, asked := false, waiting := [] },
       by decide +kernel, by decide +kernel, by decide +kernel⟩,
   ⟨tenantRandom (2 ^ 23) true, ((tenantRandom (2 ^ 23) true).draw 48).2, 1#8,
       { drbg := { zeroDrbg with since := 2 ^ 23 }, asked := true, waiting := [] }, ((tenantRandom (2 ^ 23) true).draw
       48).1, by decide +kernel, by decide +kernel, by decide +kernel, by decide +kernel, rfl⟩⟩

/-- States and operands that meet the hypotheses of `Obligations.RandomOpcodes`, clause by clause. -/
theorem test_witness_RandomOpcodes :
    (∃ (s : State) (it : Item) (d : TenantDrbg), s.Runs it 0x0601 ∧ s.ent.erased = false ∧ s.tenantDrbg it.tenantByte =
        some d ∧ (d.waiting = [] ∨ d.waiting.head? = some it.id) ∧ bit (it.byte 28) 0 = false ∧ d.drbg.since < 2 ^ 24) ∧
    (∃ (s s' : State) (it : Item) (d : TenantDrbg) (r : List Byte) (e : Drbg), s.Runs it 0x0601 ∧ s.ent.erased = false ∧
        s.tenantDrbg it.tenantByte = some d ∧ (d.waiting = [] ∨ d.waiting.head? = some it.id) ∧ bit (it.byte 28) 0 = true
        ∧ s.freshReseed = true ∧ s.reseedMain.draw 48 = (r, s') ∧ e = d.drbg.reseed (padTo 48 r) (zeros 48)) ∧
    (∃ (s s' : State) (it : Item) (d : TenantDrbg) (r : List Byte), s.Runs it 0x0602 ∧ s.ent.erased = false ∧ s.tenantDrbg
        it.tenantByte = some d ∧ (d.waiting = [] ∨ d.waiting.head? = some it.id) ∧ s.freshReseed = true ∧
        s.reseedMain.draw 48 = (r, s')) :=
  ⟨⟨holding (tenantRandom (2 ^ 24 - 1) false) (runningVf 0x0601 [(16, leBytes 4 32), (28, [0])]), runningVf 0x0601 [(16,
      leBytes 4 32), (28, [0])], { drbg := { zeroDrbg with since := 2 ^ 24 - 1 }, asked := false, waiting := [] }, ⟨rfl,
      rfl, rfl⟩, by decide +kernel, by decide +kernel, by decide +kernel, by decide +kernel, by decide +kernel⟩,
   ⟨holding (tenantRandom 0 false) (runningVf 0x0601 [(16, leBytes 4 32), (28, [1])]), ((holding (tenantRandom 0 false)
       (runningVf 0x0601 [(16, leBytes 4 32), (28, [1])])).reseedMain.draw 48).2, runningVf 0x0601 [(16, leBytes 4 32),
       (28, [1])], { drbg := { zeroDrbg with since := 0 }, asked := false, waiting := [] }, ((holding (tenantRandom 0
       false) (runningVf 0x0601 [(16, leBytes 4 32), (28, [1])])).reseedMain.draw 48).1, zeroDrbg.reseed (padTo 48
       ((holding (tenantRandom 0 false) (runningVf 0x0601 [(16, leBytes 4 32), (28, [1])])).reseedMain.draw 48).1) (zeros
       48), ⟨rfl, rfl, rfl⟩, by decide +kernel, by decide +kernel, by decide +kernel, by decide +kernel,
       by decide +kernel, rfl, rfl⟩,
   ⟨holding (tenantRandom 0 false) (runningVf 0x0602 []), ((holding (tenantRandom 0 false) (runningVf 0x0602
       [])).reseedMain.draw 48).2, runningVf 0x0602 [],
       { drbg := { zeroDrbg with since := 0 }, asked := false, waiting := [] }, ((holding (tenantRandom 0 false)
       (runningVf 0x0602 [])).reseedMain.draw 48).1, ⟨rfl, rfl, rfl⟩, by decide +kernel, by decide +kernel,
       by decide +kernel, by decide +kernel, rfl⟩⟩


/-! ## Plans and the sluice -/

/-- An amendment image that gives hash lane 15 to tenant 1. -/
def anImage : Image :=
  { kind := 1, serial := 7, amendSeq := 3, opkeyFp := zeros 48, deviceId := 0, drainFrames := 2, drainTimeout := 1000,
    digest := zeros 48, dirIndex := [], tenants := [], units := some [{ unitNo := 39, owner := 1, role := 0 }], pke := [],
    windows := [], hbm := [], headgates := [], weirs := [], classes := none, regions := [], sentinel := [], sluice := [],
    sluiceDrain := none }

/-- The same that changes no unit. -/
def sameImage : Image := { anImage with units := none }

/-- The change that it makes. -/
def laneChange : UnitChange := { unitNo := 39, oldOwner := 2, oldRole := 0, newOwner := 1, newRole := 0 }

/-- The item of an amendment, and the amendment at one of its stages. -/
def amendItem : Item := { running 0x0711 [] with phase := .yielded .amendment }
def amending (stage : AmendStage) (live : Bool) : Amendment :=
  { item := 0, image := anImage, changes := [laneChange], stage := stage, drainLive := live, preTable := [],
    failStatus := stOk }

/-- Service of tenant 1 with lane 15 of tenant 2 in a state. -/
def laneIn (st : UnitState) : State :=
  { tenanted with sluice := { tenanted.sluice with
      units := List.replicate 39 { owner := 0, role := 0, assigned := false, state := .unassigned } ++
        [{ owner := 2, role := 0, assigned := true, state := st }] } }

/-- The same in an amendment. -/
def inAmend (a : Amendment) (st : UnitState) : State :=
  { holding (laneIn st) amendItem with sluice := { (laneIn st).sluice with
      amend := some a, checking := true, swapPending := true } }

/-- The same whose inactive bank routes for no tenant of the plan. -/
def badBank (a : Amendment) : State :=
  { inAmend a .scrubbed with sluice := { (inAmend a .scrubbed).sluice with bankB := List.replicate 32 0x0000 } }

/-- Plan Load, waiting for an image. -/
def planLoading (waits : Bool) : State :=
  { inPhase .planLoad with plan := { served.plan with waiting := waits, reading := !waits } }

/-- Plan Load of a ring member whose plan has been applied, with an epoch. -/
def comparing (epoch top : DWord) : State :=
  { inPhase .planLoad with
    plan := { served.plan with result := 0 }
    ring := { RingState.reset with member := true, culvertOpen := true, position := 1, epoch := epoch, top := top } }

/-- A plan image that holds its length alone. -/
def lengthOnly : List Byte := overlay (zeros 64) 12 (leBytes 4 64)

/-- States and operands that meet the hypotheses of `Obligations.PlanLoadAppliesAPlan`, clause by clause. -/
theorem test_witness_PlanLoadAppliesAPlan :
    (∃ (s : State) (v : Word), s.mmioOk 0 = true ∧ s.plan.waiting = true ∧ v.getLsbD 0 = true) ∧
    (∃ (s : State), s.plan.waiting = true) ∧
    (∃ (s : State) (_why : ReadFailure), s.plan.reading = true) ∧
    (∃ (s : State) (bytes : List Byte), s.plan.reading = true ∧ bytes.length = (s.reg 0 0x110).toNat) ∧
    (∃ (_s : State) (f : PlanFail), f.code < 16) ∧
    (∃ (s : State), s.sys.phase = .planLoad ∧ s.ring.member = true ∧ s.ring.culvertOpen = true ∧ s.plan.result ≠ 0xF ∧
        s.ring.epoch.toNat < s.ring.top.toNat) ∧
    (∃ (s : State), s.sys.phase = .planLoad ∧ s.ring.member = true ∧ s.ring.culvertOpen = true ∧ s.plan.result ≠ 0xF ∧
        s.ring.top.toNat ≤ s.ring.epoch.toNat) :=
  ⟨⟨planLoading true, 1#32, by decide +kernel, by decide +kernel, by decide +kernel⟩,
   ⟨planLoading true, by decide +kernel⟩,
   ⟨planLoading false, .completionTimeout, by decide +kernel⟩,
   ⟨(planLoading false).setReg 0 0x110 64, lengthOnly, by decide +kernel, by decide +kernel⟩,
   ⟨planLoading false, planFail 0x2, by decide +kernel⟩,
   ⟨comparing 4 5, by decide +kernel, by decide +kernel, by decide +kernel, by decide +kernel, by decide +kernel⟩,
   ⟨comparing 5 5, by decide +kernel, by decide +kernel, by decide +kernel, by decide +kernel, by decide +kernel⟩⟩

/-- States and operands that meet the hypotheses of the part `PlanOpcodes` of `Obligations.PlanOpcodesAndAmendment`, clause by
clause. -/
theorem test_witness_PlanOpcodes :
    (∃ (s : State) (it : Item) (img : List Byte), s.Runs it 0x0710 ∧ planDescCheck it = none ∧ it.hostBytes (it.le 16 8)
        (it.le 24 4) = some img ∧ leAt img 12 4 = img.length) ∧
    (∃ (s : State) (it : Item) (img : List Byte), s.Runs it 0x0711 ∧ s.sys.phase = .service ∧ planDescCheck it = none ∧
        s.sluice.amend = none ∧ s.plan.empty = false ∧ it.hostBytes (it.le 16 8) (it.le 24 4) = some img ∧ leAt img 12 4 =
        img.length) ∧
    (∃ (s : State) (it : Item) (_m : Image), s.item it.id = some it) ∧
    (∃ (s : State) (it : Item) (m : Image), s.item it.id = some it ∧ s.changedUnits m = []) ∧
    (∃ (s : State) (it : Item) (m : Image), s.item it.id = some it ∧ s.changedUnits m ≠ []) :=
  ⟨⟨holding served ({ running 0x0710 [(24, leBytes 4 64)] with bufs := [(0, lengthOnly)] }),
      { running 0x0710 [(24, leBytes 4 64)] with bufs := [(0, lengthOnly)] }, lengthOnly, ⟨rfl, rfl, rfl⟩,
      by decide +kernel, by decide +kernel, by decide +kernel⟩,
   ⟨holding served ({ running 0x0711 [(24, leBytes 4 64)] with bufs := [(0, lengthOnly)] }),
       { running 0x0711 [(24, leBytes 4 64)] with bufs := [(0, lengthOnly)] }, lengthOnly, ⟨rfl, rfl, rfl⟩,
       by decide +kernel, by decide +kernel, by decide +kernel, by decide +kernel, by decide +kernel, by decide +kernel⟩,
   ⟨holding served (running 0x0711 []), running 0x0711 [], anImage, by decide +kernel⟩,
   ⟨holding served (running 0x0711 []), running 0x0711 [], sameImage, by decide +kernel, by decide +kernel⟩,
   ⟨holding served (running 0x0711 []), running 0x0711 [], anImage, by decide +kernel, by decide +kernel⟩⟩

/-- States and operands that meet the hypotheses of the part `AmendmentDrainsAndScrubs` of `Obligations.PlanOpcodesAndAmendment`, clause by
clause. -/
theorem test_witness_AmendmentDrainsAndScrubs :
    (∃ (s : State) (a : Amendment), s.sluice.amend = some a ∧ a.stage.timed = true ∧ a.drainLive = false) ∧
    (∃ (s : State) (a : Amendment), s.sluice.amend = some a ∧ a.stage.timed = true ∧ a.drainLive = true) ∧
    (∃ (s : State) (a : Amendment), s.sluice.amend = some a ∧ a.stage = .drainFrames) ∧
    (∃ (s : State) (a : Amendment) (c : UnitChange) (u : Nat) (x : SluUnit), s.sluice.units[u]? = some x ∧ x.state =
        .scrubbing ∧ 20 ≤ u ∧ s.sluice.lateScrubs.contains u = false ∧ s.sluice.amend = some a ∧ a.changes.find? (·.unitNo
        == u) = some c) ∧
    (∃ (s : State) (u : Nat) (x : SluUnit), s.sluice.units[u]? = some x ∧ x.state = .scrubbing ∧ 20 ≤ u ∧
        s.sluice.lateScrubs.contains u = true) :=
  ⟨⟨inAmend (amending .waitClaims false) .leaving, amending .waitClaims false, by decide +kernel, by decide +kernel, by decide +kernel⟩,
   ⟨inAmend (amending .scrubbing true) .scrubbing, amending .scrubbing true, by decide +kernel, by decide +kernel, by decide +kernel⟩,
   ⟨inAmend (amending .drainFrames true) .draining, amending .drainFrames true, by decide +kernel, by decide +kernel⟩,
   ⟨inAmend (amending .scrubbing true) .scrubbing, amending .scrubbing true, laneChange, 39,
       { owner := 2, role := 0, assigned := true, state := .scrubbing }, by decide +kernel, by decide +kernel,
       by decide +kernel, by decide +kernel, by decide +kernel, by decide +kernel⟩,
   ⟨{ laneIn .scrubbing with sluice := { (laneIn .scrubbing).sluice with lateScrubs := [20, 39] } }, 39,
       { owner := 2, role := 0, assigned := true, state := .scrubbing }, by decide +kernel, by decide +kernel,
       by decide +kernel, by decide +kernel⟩⟩

/-- States and operands that meet the hypotheses of `Obligations.SluiceChecksAndSwaps`, clause by clause. -/
theorem test_witness_SluiceChecksAndSwaps :
    (∃ (s : State) (a : Amendment), s.sluice.checking = true ∧ s.sluice.amend = some a ∧ a.stage = .drainCheck ∧ s.swapOk false = true) ∧
    (∃ (s : State) (a : Amendment), s.sluice.checking = true ∧ s.sluice.amend = some a ∧ a.stage = .finalCheck ∧ s.swapOk false = true) ∧
    (∃ (s : State) (a : Amendment), s.sluice.checking = true ∧ s.sluice.amend = some a ∧ a.stage = .finalCheck ∧ s.swapOk false = false) ∧
    (∃ (s : State) (a : Amendment), s.sluice.swapPending = true ∧ s.sluice.amend = some a) :=
  ⟨⟨inAmend (amending .drainCheck false) .leaving, amending .drainCheck false, by decide +kernel, by decide +kernel,
      by decide +kernel, by decide +kernel⟩,
   ⟨inAmend (amending .finalCheck true) .scrubbed, amending .finalCheck true, by decide +kernel, by decide +kernel,
       by decide +kernel, by decide +kernel⟩,
   ⟨badBank (amending .finalCheck true), amending .finalCheck true, by decide +kernel, by decide +kernel,
       by decide +kernel, by decide +kernel⟩,
   ⟨inAmend (amending .finalSwap true) .scrubbed, amending .finalSwap true, by decide +kernel, by decide +kernel⟩⟩


/-! ## Units and the Sentinel -/

/-- An item that holds one share of a unit. -/
def sharing (u c : Nat) : Item := { runningVf 0x0101 [] with claim := { Claim.none with shares := [(u, c)] } }

/-- Service with every unit and engine fenced after one fence, and a main DRBG that serves. -/
def allFenced : State :=
  { entropic with
    sluice := { served.sluice with units := List.replicate 40 { owner := 1, role := 0, assigned := true, state := .fenced } }
    pke := { served.pke with engines := List.replicate 8 { PkEngine.reset with fenced := true, fences := 1 } } }

/-- The item of a SEN_READMIT that waits for hash lane 0. -/
def readmitItem : Item := { running 0x0763 [(16, [1]), (17, [0])] with stage := 1 }

/-- Service in which that item waits. -/
def readmitting : State :=
  { holding allFenced readmitItem with sen := { allFenced.sen with readmits := [(24, some 0)], operatorFenced := [24] } }

/-- A mask generator, and Service in which every furrow has it in both pipelines. -/
def maskGen (blocks : Nat) (asked : Bool) : MaskGen := { seeded := true, blocks := blocks, asked := asked, stopped := false }
def masked (g : MaskGen) : State :=
  { entropic with cfb := { served.cfb with
      furrows := List.replicate 20 { genA := g, genB := g, fences := 0, blocks := 0, reseeds := 0 } } }

/-- A temperature sample, in degrees. -/
def tempSample (inst : Nat) (v : BitVec 32) : Sample := { cls := 0x2, inst := inst, value := v, occurs := false, tenant := none }

/-- Service with an instance under test, in a run of its own or of an item. -/
def testing (c i : Nat) (r : Option BistRun) : State :=
  { served with sen := { SenState.reset with underTest := some (c, i), bist := r } }

/-- One log entry, and Service with a log of it alone. -/
def anEntry : LogEntry :=
  { tick := 5, cls := 2, inst := 0, level := .notice, applied := .notice, moot := false, bist := false, holdUp := false,
    escalated := false, again := false, tenant := none, mode := 5, unit := 0xFFFF, value := 0, count := 1, seq := 0, boot := 1 }
def oneLogged : State := { served with sen := { SenState.reset with log := [anEntry], logNext := 1 } }

/-- Service with lane 15 and core 63 fenced by an operator. -/
def operatorFencing : State :=
  { allFenced with
    sen := { allFenced.sen with operatorFenced := [39, 0x80 + 63] }
    dsp := { allFenced.dsp with cores := List.replicate 64 { fenced := true, item := none, resets := [], setOf := none } } }

/-- States and operands that meet the hypotheses of the part `UnitFaultsFence` of `Obligations.UnitFaultsAndMasks`, clause by
clause. -/
theorem test_witness_UnitFaultsFence :
    (∃ (s : State) (u ctx : Nat) (kind : BitVec 2), s.furrowPresent u = true ∧ ctx < 8 ∧ kind ≠ 0x3 ∧ s.sluFenced u =
        false ∧ s.cfb.erased = false) ∧
    (∃ (s : State) (lane share : Nat), lane < 16 ∧ share < 4 ∧ s.sluFenced (24 + lane) = false ∧ s.cfb.erased = false) ∧
    (∃ (s : State) (su share : Nat) (_kind : BitVec 2), su < 4 ∧ share < 16 ∧ s.sluFenced (20 + su) = false ∧ s.cfb.erased = false) :=
  ⟨⟨holding tenanted (sharing 19 7), 19, 7, 2#2, by decide +kernel, by decide +kernel, by decide +kernel,
      by decide +kernel, by decide +kernel⟩,
   ⟨holding tenanted (sharing 39 3), 15, 3, by decide +kernel, by decide +kernel, by decide +kernel, by decide +kernel⟩,
   ⟨holding tenanted (sharing 23 15), 3, 15, 1#2, by decide +kernel, by decide +kernel, by decide +kernel, by decide +kernel⟩⟩

/-- States and operands that meet the hypotheses of `Obligations.UnitsAreReadmitted`, clause by clause. -/
theorem test_witness_UnitsAreReadmitted :
    (∃ (s : State) (u : Nat), s.furrowPresent u = true ∧ s.mayReadmit u = true ∧ s.mainServes = true) ∧
    (∃ (s : State) (u : Nat), s.furrowPresent u = true ∧ s.mayReadmit u = true ∧ s.mainServes = true) ∧
    (∃ (s : State) (n : Nat), n < 16 ∧ s.mayReadmit (24 + n) = true) ∧
    (∃ (s : State) (n : Nat), n < 4 ∧ s.mayReadmit (20 + n) = true) ∧
    (∃ (s : State) (n : Nat), n < 4 ∧ s.mayReadmit (20 + n) = true) ∧
    (∃ (s : State) (e : Nat), e < 8 ∧ s.mayReadmit (0x40 + e) = true) ∧
    (∃ (s : State) (it : Item), s.mayReadmit 24 = true ∧ s.sen.readmits = [(24, some it.id)] ∧ s.Runs it 0x0763) :=
  ⟨⟨allFenced, 19, by decide +kernel, by decide +kernel, by decide +kernel⟩,
   ⟨allFenced, 19, by decide +kernel, by decide +kernel, by decide +kernel⟩,
   ⟨allFenced, 15, by decide +kernel, by decide +kernel⟩,
   ⟨allFenced, 3, by decide +kernel, by decide +kernel⟩,
   ⟨allFenced, 3, by decide +kernel, by decide +kernel⟩,
   ⟨allFenced, 7, by decide +kernel, by decide +kernel⟩,
   ⟨readmitting, readmitItem, by decide +kernel, by decide +kernel, ⟨rfl, rfl, rfl⟩⟩⟩

/-- States and operands that meet the hypotheses of the part `MaskGenerators` of `Obligations.UnitFaultsAndMasks`, clause by
clause. -/
theorem test_witness_MaskGenerators :
    (∃ (s : State) (u p : Nat) (g : MaskGen), s.liveGen u p = some g ∧ g.seeded = true ∧ 2 ^ 20 ≤ g.blocks ∧ g.asked = false) ∧
    (∃ (s : State) (u p : Nat) (g : MaskGen), s.liveGen u p = some g ∧ g.asked = true ∧ 2 ^ 22 ≤ g.blocks ∧ g.stopped = false) ∧
    (∃ (s : State) (u p : Nat) (g : MaskGen) (f : Furrow), s.liveGen u p = some g ∧ g.asked = true ∧ s.mainServes = true ∧
        s.cfb.furrows[u]? = some f) :=
  ⟨⟨masked (maskGen (2 ^ 20) false), 19, 1, maskGen (2 ^ 20) false, by decide +kernel, by decide +kernel,
      by decide +kernel, by decide +kernel⟩,
   ⟨masked (maskGen (2 ^ 22) true), 19, 1, maskGen (2 ^ 22) true, by decide +kernel, by decide +kernel, by decide +kernel,
       by decide +kernel⟩,
   ⟨masked (maskGen (2 ^ 20) true), 19, 1, maskGen (2 ^ 20) true,
       { genA := maskGen (2 ^ 20) true, genB := maskGen (2 ^ 20) true, fences := 0, blocks := 0, reseeds := 0 },
       by decide +kernel, by decide +kernel, by decide +kernel, by decide +kernel⟩⟩

/-- States and operands that meet the hypotheses of the part `SampledAlarmsAct` of `Obligations.SentinelActs`, clause by
clause. -/
theorem test_witness_SampledAlarmsAct :
    (∃ (s : State) (x : Sample), s.sys.aonUp = true ∧ sampled x = true ∧ x.cls ≠ 0 ∧ s.condition x = false) ∧
    (∃ (s : State) (x : Sample), VendorDefaults s ∧ sampled x = true ∧ x.cls = 0x2 ∧ s.condition x = true ∧
        s.sen.underTest = none ∧ (s.monitor x.cls x.inst).lastEntry = none) :=
  ⟨⟨served, tempSample 0 25, by decide +kernel, by decide +kernel, by decide +kernel, by decide +kernel⟩,
   ⟨served, tempSample 0 200, (by unfold VendorDefaults; decide +kernel), by decide +kernel, by decide +kernel,
       by decide +kernel, by decide +kernel, by decide +kernel⟩⟩

/-- States and operands that meet the hypotheses of the part `BuiltInTests` of `Obligations.SentinelActs`, clause by
clause. -/
theorem test_witness_BuiltInTests :
    (∃ (s : State), s.sys.phase = .service ∧ s.sen.bist = none ∧ s.sen.underTest = none) ∧
    (∃ (s : State) (c i : Nat), s.sys.phase ≠ .boot ∧ s.sen.bist = none ∧ s.sen.underTest = some (c, i)) ∧
    (∃ (s : State) (i : Nat), s.sys.aonUp = true ∧ s.sys.phase = .service ∧ s.sen.level = none ∧ s.sen.bist = none ∧
        s.sen.underTest = some (0x2, i) ∧ i < 8 ∧ (∃ j, j < 8 ∧ j ≠ i ∧ (s.monitor 0x2 j).failed = false)) ∧
    (∃ (s : State) (it : Item) (r : BistRun) (c i : Nat), s.sys.phase ≠ .boot ∧ s.sen.underTest = some (c, i) ∧ s.sen.bist
        = some r ∧ r.item = some it.id ∧ r.todo.length = 1 ∧ s.Runs it 0x0761) ∧
    (∃ (s : State) (it : Item), s.Runs it 0x0761 ∧ it.stage ≠ 1 ∧ zeroRange it.desc 18 64 = true ∧ (it.byte 16 ≤ 0x5 ∨
        it.byte 16 = 0x9 ∨ it.byte 16 = 0xFF) ∧ it.bistNamed ≠ [] ∧ s.sen.bist = none) :=
  ⟨⟨served, by decide +kernel, by decide +kernel, by decide +kernel⟩,
   ⟨testing 2 0 none, 2, 0, by decide +kernel, by decide +kernel, by decide +kernel⟩,
   ⟨testing 2 7 none, 7, by decide +kernel, by decide +kernel, by decide +kernel, by decide +kernel, by decide +kernel,
       by decide +kernel, (⟨0, by decide, by decide, rfl⟩)⟩,
   ⟨holding (testing 2 0 (some { item := some 0, todo := [(2, 0)], tested := 4, failed := 0 })) (running 0x0761 [(16,
       [0xFF]), (17, [0xFF])]), running 0x0761 [(16, [0xFF]), (17, [0xFF])],
       { item := some 0, todo := [(2, 0)], tested := 4, failed := 0 }, 2, 0, by decide +kernel, by decide +kernel,
       by decide +kernel, by decide +kernel, by decide +kernel, ⟨rfl, rfl, rfl⟩⟩,
   ⟨holding served (running 0x0761 [(16, [0xFF]), (17, [0xFF])]), running 0x0761 [(16, [0xFF]), (17, [0xFF])], ⟨rfl, rfl,
       rfl⟩, by decide +kernel, by decide +kernel, by decide +kernel, by decide +kernel, by decide +kernel⟩⟩

/-- States and operands that meet the hypotheses of `Obligations.SentinelOpcodes`, clause by clause. -/
theorem test_witness_SentinelOpcodes :
    (∃ (s : State) (it : Item) (es : List LogEntry), s.Runs it 0x0760 ∧ zeroRange it.desc 36 64 = true ∧ 1 ≤ it.le 20 4 ∧
        it.le 20 4 ≤ 2040 ∧ it.le 24 8 % 64 = 0 ∧ 32 ≤ it.le 32 4 ∧ es ≠ [] ∧ es = (s.sen.log.reverse.filter fun e =>
        decide (max (it.le 16 4) s.logOldest ≤ e.seq.toNat)).take (min (it.le 20 4) (it.le 32 4 / 32))) ∧
    (∃ (s : State) (it : Item) (u : Nat), s.Runs it 0x0762 ∧ VendorDefaults s ∧ s.sluice.units.length = 40 ∧ zeroRange
        it.desc 18 64 = true ∧ s.namedUnit it = some u ∧ u < 40 ∧ s.unitFenced u = false ∧ (∀ j ∈ s.itemList, j.id = it.id
        → j.claim.shares = []) ∧ (∀ a, s.sluice.amend = some a → a.item ≠ it.id)) ∧
    (∃ (s : State) (it : Item) (u : Nat), s.Runs it 0x0763 ∧ it.stage ≠ 1 ∧ zeroRange it.desc 18 64 = true ∧ s.namedUnit
        it = some u ∧ s.sen.operatorFenced.contains u = true ∧ s.sen.lockedOut.contains u = false ∧ u < 0x80) ∧
    (∃ (s : State) (it : Item) (c : Nat), s.Runs it 0x0763 ∧ it.stage ≠ 1 ∧ zeroRange it.desc 18 64 = true ∧ s.namedUnit
        it = some (0x80 + c) ∧ s.sen.operatorFenced.contains (0x80 + c) = true ∧ s.sen.lockedOut.contains (0x80 + c) =
        false ∧ c < s.dsp.cores.length) ∧
    (∃ (s : State) (it : Item) (_r : ReserveReading), s.Runs it 0x0764 ∧ zeroRange it.desc 16 64 = true ∧ s.mayMeasure =
        true ∧ s.vault.retryRetire = []) :=
  ⟨⟨holding oneLogged (running 0x0760 [(20, leBytes 4 2040), (32, leBytes 4 32)]), running 0x0760 [(20, leBytes 4 2040),
      (32, leBytes 4 32)], [anEntry], ⟨rfl, rfl, rfl⟩, by decide +kernel, by decide +kernel, by decide +kernel,
      by decide +kernel, by decide +kernel, by decide +kernel, by decide +kernel⟩,
   ⟨holding served (running 0x0762 [(16, [1]), (17, [15])]), running 0x0762 [(16, [1]), (17, [15])], 39, ⟨rfl, rfl, rfl⟩,
       (by unfold VendorDefaults; decide +kernel), by decide +kernel, by decide +kernel, by decide +kernel,
       by decide +kernel, by decide +kernel, (by decide +kernel), (by rintro a h; cases h)⟩,
   ⟨holding operatorFencing (running 0x0763 [(16, [1]), (17, [15])]), running 0x0763 [(16, [1]), (17, [15])], 39, ⟨rfl,
       rfl, rfl⟩, by decide +kernel, by decide +kernel, by decide +kernel, by decide +kernel, by decide +kernel,
       by decide +kernel⟩,
   ⟨holding operatorFencing (running 0x0763 [(16, [4]), (17, [63])]), running 0x0763 [(16, [4]), (17, [63])], 63, ⟨rfl,
       rfl, rfl⟩, by decide +kernel, by decide +kernel, by decide +kernel, by decide +kernel, by decide +kernel,
       by decide +kernel⟩,
   ⟨holding served (running 0x0764 []), running 0x0764 [], { vresMv := 12000, capUf := 1000000, esrMohm := 1 }, ⟨rfl, rfl,
       rfl⟩, by decide +kernel, by decide +kernel, by decide +kernel⟩⟩


/-! ## The symmetric opcodes and the vault -/

/-- The handle of session entry 5 and of persistent record 2, generation 0. -/
def sessionKey5 : Word := 0x2000_0500
def recordKey2 : Word := 0x1000_0200

/-- A live session entry of tenant 1: AES-256 for furrows, at the last counter value but one. -/
def cipherEntry : SessionEntry :=
  { gen := 0, live := true, depth := 1, parent := noHandle, writeSerial := 1, attr := 0x0000_0201_0000_0301,
    counter := BitVec.ofNat 64 (2 ^ 64 - 2), noncePrefix := 0x0A0B_0C0D, material := List.replicate 32 7, pubOnly := false }

/-- Service of tenant 1 with that entry, and with record 2's counter live. -/
def cipherState : State :=
  { tenanted with vault := { tenanted.vault with
      sessions := [(5, cipherEntry), (6, { cipherEntry with counter := BitVec.ofNat 64 (2 ^ 64 - 1) })]
      counters := [(2, { value := 5, ceiling := 2 ^ 20, limit := 2 ^ 20, live := true, raising := false, refused := false })] } }

/-- What an item holds of that key. -/
def heldKey : HeldKey :=
  { handle := sessionKey5, attr := cipherEntry.attr, noncePrefix := cipherEntry.noncePrefix, material := cipherEntry.material,
    pubOnly := false }

/-- A symmetric item of tenant 1 with a claim, whose 64 bytes of input have arrived. -/
def symItem (op : Nat) (fields : List (Nat × List Byte)) : Item :=
  { runningVf op ([(8, leBytes 4 sessionKey5.toNat), (24, leBytes 8 4096)] ++ fields) with
    claim := { Claim.none with keys := [heldKey] }
    bufs := [(0, List.replicate 64 0x3C)] }

/-- States and operands that meet the hypotheses of the part `SymmetricResultsAreWritten` of `Obligations.SymmetricOpcodes`, clause by
clause. -/
theorem test_witness_SymmetricResultsAreWritten :
    (∃ (s : State) (it : Item) (b : List Byte), SymReady s it 0x0103 b) ∧
    (∃ (s : State) (it : Item) (b : List Byte), SymReady s it 0x0104 b) ∧
    (∃ (s : State) (it : Item) (b : List Byte), SymReady s it 0x0105 b) ∧
    (∃ (s : State) (it : Item) (b : List Byte), SymReady s it 0x0106 b) ∧
    (∃ (s : State) (it : Item) (b : List Byte), SymReady s it 0x0107 b) ∧
    (∃ (s : State) (it : Item) (b : List Byte), SymReady s it 0x0109 b) ∧
    (∃ (s : State) (it : Item) (b : List Byte), SymReady s it 0x010A b) ∧
    (∃ (s : State) (it : Item) (b : List Byte), SymReady s it 0x0110 b) ∧
    (∃ (s : State) (it : Item) (b : List Byte), SymReady s it 0x0111 b) :=
  ⟨⟨holding cipherState (symItem 0x0103 [(32, leBytes 5 32), (38, [1])]), symItem 0x0103 [(32, leBytes 5 32), (38, [1])],
      List.replicate 32 0x3C, (by unfold SymReady State.Runs; decide +kernel)⟩,
   ⟨holding cipherState (symItem 0x0104 [(32, leBytes 5 32), (38, [1])]), symItem 0x0104 [(32, leBytes 5 32), (38, [1])],
       List.replicate 32 0x3C, (by unfold SymReady State.Runs; decide +kernel)⟩,
   ⟨holding cipherState (symItem 0x0105 [(32, leBytes 5 32)]), symItem 0x0105 [(32, leBytes 5 32)], List.replicate 32
       0x3C, (by unfold SymReady State.Runs; decide +kernel)⟩,
   ⟨holding cipherState (symItem 0x0106 [(32, leBytes 5 32)]), symItem 0x0106 [(32, leBytes 5 32)], List.replicate 32
       0x3C, (by unfold SymReady State.Runs; decide +kernel)⟩,
   ⟨holding cipherState (symItem 0x0107 [(32, leBytes 5 33), (37, [16])]), symItem 0x0107 [(32, leBytes 5 33), (37,
       [16])], List.replicate 33 0x3C, (by unfold SymReady State.Runs; decide +kernel)⟩,
   ⟨holding cipherState (symItem 0x0109 [(32, leBytes 5 32), (40, leBytes 4 32), (44, leBytes 4 7)]), symItem 0x0109 [(32,
       leBytes 5 32), (40, leBytes 4 32), (44, leBytes 4 7)], List.replicate 32 0x3C,
       (by unfold SymReady State.Runs; decide +kernel)⟩,
   ⟨holding cipherState (symItem 0x010A [(32, leBytes 5 32), (40, leBytes 4 32), (44, leBytes 4 7)]), symItem 0x010A [(32,
       leBytes 5 32), (40, leBytes 4 32), (44, leBytes 4 7)], List.replicate 32 0x3C,
       (by unfold SymReady State.Runs; decide +kernel)⟩,
   ⟨holding cipherState (symItem 0x0110 [(32, leBytes 5 64), (38, [1])]), symItem 0x0110 [(32, leBytes 5 64), (38, [1])],
       List.replicate 64 0x3C, (by unfold SymReady State.Runs; decide +kernel)⟩,
   ⟨holding cipherState (symItem 0x0111 [(32, leBytes 5 64), (37, [32]), (38, [1])]), symItem 0x0111 [(32, leBytes 5 64),
       (37, [32]), (38, [1])], List.replicate 64 0x3C, (by unfold SymReady State.Runs; decide +kernel)⟩⟩

/-- States and operands that meet the hypotheses of the part `MacVerdicts` of `Obligations.SymmetricOpcodes`, clause by
clause. -/
theorem test_witness_MacVerdicts :
    (∃ (s : State) (it : Item) (b : List Byte), SymReady s it 0x0108 b) ∧
    (∃ (s : State) (it : Item) (b : List Byte), SymReady s it 0x0112 b) :=
  ⟨⟨holding cipherState (symItem 0x0108 [(32, leBytes 5 48), (37, [16])]), symItem 0x0108 [(32, leBytes 5 48), (37,
      [16])], List.replicate 64 0x3C, (by unfold SymReady State.Runs; decide +kernel)⟩,
   ⟨holding cipherState (symItem 0x0112 [(32, leBytes 5 32), (37, [32]), (38, [1])]), symItem 0x0112 [(32, leBytes 5 32),
       (37, [32]), (38, [1])], List.replicate 64 0x3C, (by unfold SymReady State.Runs; decide +kernel)⟩⟩

/-- States and operands that meet the hypotheses of the part `GcmSealsAndOpens` of `Obligations.SymmetricOpcodes`, clause by
clause. -/
theorem test_witness_GcmSealsAndOpens :
    (∃ (s s' : State) (it : Item) (b : List Byte) (c : DWord), SymReady s it 0x0101 b ∧ s.takeNonce it.key 1 false =
        .taken c s' ∧ s'.item it.id = some it) ∧
    (∃ (s : State) (it : Item) (b : List Byte), SymReady s it 0x0102 b) :=
  ⟨⟨holding cipherState (symItem 0x0101 [(32, leBytes 5 48), (37, [16]), (40, leBytes 4 16)]),
      { holding cipherState (symItem 0x0101 [(32, leBytes 5 48), (37, [16]), (40, leBytes 4 16)]) with vault := { (holding cipherState (symItem 0x0101 [(32, leBytes 5 48), (37, [16]), (40, leBytes 4 16)])).vault with sessions := tabSet (holding cipherState (symItem 0x0101 [(32, leBytes 5 48), (37, [16]), (40, leBytes 4 16)])).vault.sessions 5 { cipherEntry with counter := BitVec.ofNat 64 (2 ^ 64 - 1) }, writeSerial := 1 } },
      symItem 0x0101 [(32, leBytes 5 48), (37, [16]), (40, leBytes 4 16)], List.replicate 64 0x3C, BitVec.ofNat 64 (2 ^ 64
      - 2), (by unfold SymReady State.Runs; decide +kernel), rfl, by decide +kernel⟩,
   ⟨holding cipherState (symItem 0x0102 [(32, leBytes 5 32), (37, [16]), (40, leBytes 4 16)]), symItem 0x0102 [(32,
       leBytes 5 32), (37, [16]), (40, leBytes 4 16)], List.replicate 64 0x3C,
       (by unfold SymReady State.Runs; decide +kernel)⟩⟩

/-- States and operands that meet the hypotheses of `Obligations.CounterValuesAreTakenOnce`, clause by clause. -/
theorem test_witness_CounterValuesAreTakenOnce :
    (∃ (s : State) (h : Word) (n : Nat), hClass h = 2 ∧ counterServes (s.session (hIndex h)).counter n = true) ∧
    (∃ (s : State) (h : Word) (n : Nat), hClass h ≠ 2 ∧ (s.counter (hIndex h)).live = true ∧ counterServes (s.counter
        (hIndex h)).value n = true ∧ (s.counter (hIndex h)).value.toNat + n + 2 ^ 19 < (s.counter (hIndex h)).limit.toNat)
        ∧
    (∃ (s : State) (h : Word) (n : Nat), hClass h = 2 ∧ counterServes (s.session (hIndex h)).counter n = false) :=
  ⟨⟨cipherState, sessionKey5, 1, by decide +kernel, by decide +kernel⟩,
   ⟨cipherState, recordKey2, 1, by decide +kernel, by decide +kernel, by decide +kernel, by decide +kernel⟩,
   ⟨cipherState, 0x2000_0600#32, 1, by decide +kernel, by decide +kernel⟩⟩


/-- Records of tenant 1: a wrapping key, a closed root and an open one, an exportable AES key, an Ed25519 key and a retired
AES key. -/
def keyRecord (attr : DWord) (material : List Byte) : KeyRecord :=
  { attr := attr, parent := noHandle, gen := 0, depth := 0, noncePrefix := 0, material := material, pubOnly := false, blobs := [],
    heapBlocks := 1, retired := false, sealsClosed := false }
def wrapRecord : KeyRecord := keyRecord 0x0000_0201_0000_3020 (List.replicate 32 1)
def rootRecord (closed : Bool) : KeyRecord := { keyRecord 0x0000_6001_0000_4008 (List.replicate 32 2) with sealsClosed := closed }
def exportRecord : KeyRecord := keyRecord 0x0000_0201_0200_0301 (List.replicate 32 3)
def signRecord : KeyRecord := keyRecord 0x0000_2801_0001_8010 (List.replicate 64 4)

/-- A key of tenant 1 from which keys are derived, and a template under it. -/
def deriveEntry : SessionEntry := { cipherEntry with attr := 0x0000_0201_0000_4008, depth := 2, counter := 0 }
def aTemplate : Template :=
  { attr := 0x0000_0201_0000_0301, parent := 0x2000_0700, gen := 0, depth := 3, label := [0x41, 0x42], outClass := 2,
    outPrefix := 0x0102_0304, retired := false }

/-- The committed slots of a life-cycle record that has come to a state. -/
def cameTo (n : Nat) (s : State) : State := withSlots s ((lcCodewords.take n).map committedSlot)

/-- Service of tenant 1 on a DEPLOYED part with a charged reserve, a DRBG and these keys. -/
def vaulted : State :=
  cameTo 4
    { tenanted with
      sen := richSen
      ent := (tenantRandom 0 false).ent
      vault := { tenanted.vault with
        sessions := [(7, deriveEntry)]
        sessRanges := [(1, 7, 2)]
        records := [(0, wrapRecord), (1, rootRecord false), (2, rootRecord true), (3, exportRecord), (4, signRecord),
          (5, { exportRecord with retired := true })]
        templates := [(0, aTemplate)]
        scans := [{ item := 0, handle := 0x2000_0700, result := 0 }]
        dak := List.replicate 48 9 } }

/-- The key specification of a session AES-256 key for GCM, in 16 bytes. -/
def cipherSpec : List Byte := [2, 2, 0, 0] ++ leBytes 8 0x301 ++ leBytes 4 5

/-- A new key of that specification. -/
def aNewKey : NewKey :=
  { attr := 0x0000_0201_0000_0301, parent := noHandle, depth := 0, noncePrefix := 5, material := List.replicate 32 6, pubOnly := false }

/-- The lowest index is free where its test holds. -/
theorem lowest_zero {n : Nat} {p : Nat → Bool} (hn : 0 < n) (h : p 0 = true) : lowest n p = some 0 := by
  obtain ⟨m, rfl⟩ : ∃ m, n = m + 1 := ⟨n - 1, by omega⟩
  simp [lowest, List.range_succ_eq_map, h]

/-- A ceremony session that has its quorum. -/
def aCeremony (session : Word) (kind : Nat) (subject : List Byte) : Ceremony :=
  { session := session, kind := kind, aux := 0, subject := subject, nonce := zeros 32, opened := 0, limitS := 600, counted := [1, 2],
    passed := [], components := [], isOpen := true }
def withCeremony (s : State) (c : Ceremony) : State :=
  { s with ctl := { s.ctl with
      session := some c
      nextSession := c.session + 1
      rosterM := 2
      roster := [{ officer := 1, pubKey := zeros 96 }, { officer := 2, pubKey := List.replicate 96 1 },
          { officer := 3, pubKey := List.replicate 96 2 }] } }

/-- States and operands that meet the hypotheses of the part `KeysAreMadeAsSpecified` of `Obligations.KeysAreMadeAndIndexed`, clause by
clause. -/
theorem test_witness_KeysAreMadeAsSpecified :
    (∃ (s s' : State) (it : Item) (m : List Byte), s.Runs it 0x0501 ∧ s.generateCheck it = none ∧ s.newMaterial
        it.tenantByte it.keySpec.alg = some (m, s')) ∧
    (∃ (s : State) (it : Item) (blob : List Byte), s.Runs it 0x0502 ∧ s.workOf it.id = none ∧ s.importCheck it = none ∧
        it.hostBytes (it.le 40 8) (it.le 32 4) = some blob) ∧
    (∃ (s : State) (it : Item) (ctx : List Byte), s.Runs it 0x0504 ∧ it.byte 33 ≤ 64 ∧ zeroRange it.desc 34 36 = true ∧
        zeroRange it.desc 56 64 = true ∧ hClass it.key ≠ 3 ∧ it.byte 18 = 0 ∧ labelOk (it.byte 32) (slice it.desc 36 12) =
        true ∧ s.parentCheck it.key = none ∧ s.derivedOk it.key it.keySpec = true ∧ s.specCheck it.tenantByte it.keySpec =
        none ∧ it.hostBytes (it.le 48 8) (it.byte 33) = some ctx) ∧
    (∃ (s : State) (it : Item) (ctx : List Byte) (x : Template), s.Runs it 0x0504 ∧ it.byte 33 ≤ 64 ∧ zeroRange it.desc 34
        36 = true ∧ zeroRange it.desc 56 64 = true ∧ hClass it.key = 3 ∧ tabGet s.vault.templates (hIndex it.key) = some x
        ∧ zeroRange it.desc 16 33 = true ∧ zeroRange it.desc 36 48 = true ∧ s.ancestorsOk 3 it.key = true ∧ s.parentCheck
        x.parent = none ∧ s.derivedOk x.parent x.spec = true ∧ s.specCheck it.tenantByte x.spec = none ∧ it.hostBytes
        (it.le 48 8) (it.byte 33) = some ctx) ∧
    (∃ (s : State) (_it : Item) (parent : Word) (k : KeySpec) (label ctx m : List Byte) (p : KeyView), s.keyView parent =
        some p ∧ k.alg ≠ 0x10 ∧ m = kdf p.material label ctx (8 * ((algRow k.alg).map AlgRow.matMax).getD 0)) ∧
    (∃ (s : State) (it : Item) (i : Nat) (p : KeyView) (a : StoreAction), s.Runs it 0x050C ∧ it.byte 18 = 0 ∧ zeroRange
        it.desc 33 36 = true ∧ zeroRange it.desc 48 64 = true ∧ labelOk (it.byte 32) (slice it.desc 36 12) = true ∧ hClass
        it.key ≠ 3 ∧ s.parentCheck it.key = none ∧ s.specOk it.keySpec = true ∧ s.derivedOk it.key it.keySpec = true ∧
        s.quotaLeft it.tenantByte 3 = true ∧ s.freeTemplateIndex = some i ∧ s.keyView it.key = some p ∧ a = .putTemplate i
        { attr := finalAttr it.keySpec.attr (attrOrigin p.attr) (attrBound p.attr) it.tenantByte it.keySpec.alg, parent := it.key, gen := tabGetD s.vault.tmplGen i 0, depth := p.depth + 1, label := (slice it.desc 36 12).take (it.byte 32), outClass := it.keySpec.cls, outPrefix := it.keySpec.noncePrefix, retired := false }
        ∧ StoreReady s a) :=
  ⟨⟨holding (vaulted) (runningVf 0x0501 [(16, cipherSpec)]), (((holding (vaulted) (runningVf 0x0501 [(16,
      cipherSpec)])).newMaterial 1 2).getD ([], holding (vaulted) (runningVf 0x0501 [(16, cipherSpec)]))).2, runningVf
      0x0501 [(16, cipherSpec)], (((holding (vaulted) (runningVf 0x0501 [(16, cipherSpec)])).newMaterial 1 2).getD ([],
      holding (vaulted) (runningVf 0x0501 [(16, cipherSpec)]))).1, ⟨rfl, rfl, rfl⟩, by decide +kernel, rfl⟩,
   ⟨holding (vaulted)
       ({ runningVf 0x0502 [(8, leBytes 4 0x1000_0000), (16, cipherSpec), (32, leBytes 4 48)] with bufs := [(0, zeros 48)] }),
       { runningVf 0x0502 [(8, leBytes 4 0x1000_0000), (16, cipherSpec), (32, leBytes 4 48)] with bufs := [(0, zeros 48)] },
       zeros 48, ⟨rfl, rfl, rfl⟩, by decide +kernel, by decide +kernel, by decide +kernel⟩,
   ⟨holding (vaulted)
       ({ runningVf 0x0504 [(8, leBytes 4 0x2000_0700), (16, cipherSpec), (32, [2, 64, 0, 0, 0x41, 0x42])] with bufs := [(0, zeros 64)] }),
       { runningVf 0x0504 [(8, leBytes 4 0x2000_0700), (16, cipherSpec), (32, [2, 64, 0, 0, 0x41, 0x42])] with bufs := [(0, zeros 64)] },
       zeros 64, ⟨rfl, rfl, rfl⟩, by decide +kernel, by decide +kernel, by decide +kernel, by decide +kernel,
       by decide +kernel, by decide +kernel, by decide +kernel, by decide +kernel, by decide +kernel, by decide +kernel⟩,
   ⟨holding (vaulted) (runningVf 0x0504 [(8, leBytes 4 0x3000_0000), (33, [0])]), runningVf 0x0504 [(8, leBytes 4
       0x3000_0000), (33, [0])], [], aTemplate, ⟨rfl, rfl, rfl⟩, by decide +kernel, by decide +kernel, by decide +kernel,
       by decide +kernel, by decide +kernel, by decide +kernel, by decide +kernel, by decide +kernel, by decide +kernel,
       by decide +kernel, by decide +kernel, by decide +kernel⟩,
   ⟨holding (vaulted)
       ({ runningVf 0x0504 [(8, leBytes 4 0x2000_0700), (16, cipherSpec), (32, [2, 64, 0, 0, 0x41, 0x42])] with bufs := [(0, zeros 64)] }),
       { runningVf 0x0504 [(8, leBytes 4 0x2000_0700), (16, cipherSpec), (32, [2, 64, 0, 0, 0x41, 0x42])] with bufs := [(0, zeros 64)] },
       0x2000_0700#32, keySpecOf cipherSpec, [0x41], [], kdf deriveEntry.material [0x41] [] 256,
       { handle := 0x2000_0700, attr := deriveEntry.attr, parent := noHandle, depth := 2, noncePrefix := deriveEntry.noncePrefix, material := deriveEntry.material, pubOnly := false, sealsClosed := false },
       by decide +kernel, by decide +kernel, rfl⟩,
   ⟨holding (vaulted) (runningVf 0x050C [(8, leBytes 4 0x2000_0700), (16, cipherSpec), (32, [12]), (36, List.replicate 12
       0x41)]), runningVf 0x050C [(8, leBytes 4 0x2000_0700), (16, cipherSpec), (32, [12]), (36, List.replicate 12 0x41)],
       1,
       { handle := 0x2000_0700, attr := deriveEntry.attr, parent := noHandle, depth := 2, noncePrefix := deriveEntry.noncePrefix, material := deriveEntry.material, pubOnly := false, sealsClosed := false },
       .putTemplate 1
       { attr := finalAttr 0x301 false false 1 2, parent := 0x2000_0700, gen := 0, depth := 3, label := List.replicate 12 0x41, outClass := 2, outPrefix := 5, retired := false },
       ⟨rfl, rfl, rfl⟩, by decide +kernel, by decide +kernel, by decide +kernel, by decide +kernel, by decide +kernel,
       by decide +kernel, by decide +kernel, by decide +kernel, by decide +kernel, by decide +kernel, by decide +kernel,
       by decide +kernel, (by unfold StoreReady; decide +kernel)⟩⟩

/-- States and operands that meet the hypotheses of the part `CreatedKeysTakeTheirIndex` of `Obligations.KeysAreMadeAndIndexed`, clause by
clause. -/
theorem test_witness_CreatedKeysTakeTheirIndex :
    (∃ (s : State) (it : Item) (op : Nat) (k : NewKey) (_body : Word → List Byte) (i : Nat), s.Runs it op ∧
        s.freeSessionIndex (attrTenant k.attr) = some i) ∧
    (∃ (s : State) (it : Item) (op : Nat) (k : NewKey) (_body : Word → List Byte) (i : Nat), s.Runs it op ∧
        s.freeRecordIndex = some i ∧ s.heapUsed + heapBlocksOf k ≤ 78592 ∧ StoreReady s (.putRecord i (s.newRecord k
        (tabGetD s.vault.genArray i 0)))) :=
  ⟨⟨holding (vaulted) (runningVf 0x0501 [(16, cipherSpec)]), runningVf 0x0501 [(16, cipherSpec)], 0x0501, aNewKey, fun h
      => leBytes 4 h.toNat, 8, ⟨rfl, rfl, rfl⟩, by decide +kernel⟩,
   ⟨holding rich (running 0x0501 []), running 0x0501 [], 0x0501, aNewKey, fun h => leBytes 4 h.toNat, 0, ⟨rfl, rfl, rfl⟩,
       (lowest_zero (by omega) (by decide +kernel)), by decide +kernel, (by unfold StoreReady; decide +kernel)⟩⟩

/-- States and operands that meet the hypotheses of `Obligations.KeysAreRetiredPurgedAndFreed`, clause by clause. -/
theorem test_witness_KeysAreRetiredPurgedAndFreed :
    (∃ (s : State) (it : Item), s.Runs it 0x0505 ∧ it.byte 16 = 0 ∧ zeroRange it.desc 17 64 = true ∧ hClass it.key ≠ 2 ∧
        StoreReady s (.retire it.key)) ∧
    (∃ (s : State) (it : Item) (r : KeyRecord), s.Runs it 0x0505 ∧ it.byte 16 = 1 ∧ zeroRange it.desc 17 64 = true ∧
        hClass it.key = 1 ∧ tabGet s.vault.records (hIndex it.key) = some r ∧ isRootAlg (attrAlg r.attr) = true ∧
        r.sealsClosed = false ∧ StoreReady s (.closeSeals it.key)) ∧
    (∃ (s : State) (it : Item) (r : KeyRecord), s.Runs it 0x0505 ∧ it.byte 16 = 1 ∧ zeroRange it.desc 17 64 = true ∧
        hClass it.key = 1 ∧ tabGet s.vault.records (hIndex it.key) = some r ∧ isRootAlg (attrAlg r.attr) = true ∧
        r.sealsClosed = true) ∧
    (∃ (s : State) (it : Item) (a : DWord), s.Runs it 0x0506 ∧ zeroRange it.desc 16 64 = true ∧ s.slotAttr it.key = some
        (a, true) ∧ StoreReady s (.purge it.key)) ∧
    (∃ (s : State) (it : Item), s.Runs it 0x0507 ∧ zeroRange it.desc 16 64 = true ∧ hClass it.key = 2) ∧
    (∃ (s : State) (it : Item) (x : RevScan), s.item it.id = some it ∧ it.phase = .yielded .keyCommit ∧
        s.vault.scans.find? (·.item == it.id) = some x) :=
  ⟨⟨holding (vaulted) (runningVf 0x0505 [(8, leBytes 4 0x1000_0300), (16, [0])]), runningVf 0x0505 [(8, leBytes 4
      0x1000_0300), (16, [0])], ⟨rfl, rfl, rfl⟩, by decide +kernel, by decide +kernel, by decide +kernel,
      (by unfold StoreReady; decide +kernel)⟩,
   ⟨holding (vaulted) (runningVf 0x0505 [(8, leBytes 4 0x1000_0100), (16, [1])]), runningVf 0x0505 [(8, leBytes 4
       0x1000_0100), (16, [1])], rootRecord false, ⟨rfl, rfl, rfl⟩, by decide +kernel, by decide +kernel,
       by decide +kernel, by decide +kernel, by decide +kernel, by decide +kernel,
       (by unfold StoreReady; decide +kernel)⟩,
   ⟨holding (vaulted) (runningVf 0x0505 [(8, leBytes 4 0x1000_0200), (16, [1])]), runningVf 0x0505 [(8, leBytes 4
       0x1000_0200), (16, [1])], rootRecord true, ⟨rfl, rfl, rfl⟩, by decide +kernel, by decide +kernel,
       by decide +kernel, by decide +kernel, by decide +kernel, by decide +kernel⟩,
   ⟨holding (vaulted) (runningVf 0x0506 [(8, leBytes 4 0x1000_0500)]), runningVf 0x0506 [(8, leBytes 4 0x1000_0500)],
       exportRecord.attr, ⟨rfl, rfl, rfl⟩, by decide +kernel, by decide +kernel, (by unfold StoreReady; decide +kernel)⟩,
   ⟨holding (vaulted) (runningVf 0x0507 [(8, leBytes 4 0x2000_0700)]), runningVf 0x0507 [(8, leBytes 4 0x2000_0700)],
       ⟨rfl, rfl, rfl⟩, by decide +kernel, by decide +kernel⟩,
   ⟨holding (vaulted) ({ runningVf 0x0507 [(8, leBytes 4 0x2000_0700)] with phase := .yielded .keyCommit }),
       { runningVf 0x0507 [(8, leBytes 4 0x2000_0700)] with phase := .yielded .keyCommit },
       { item := 0, handle := 0x2000_0700, result := 0 }, by decide +kernel, by decide +kernel, by decide +kernel⟩⟩

/-- States and operands that meet the hypotheses of `Obligations.KeyReportsAreWritten`, clause by clause. -/
theorem test_witness_KeyReportsAreWritten :
    (∃ (s : State) (it : Item) (tgt : Word) (k : KeyView), s.Runs it 0x0503 ∧ tgt = BitVec.ofNat 32 (it.le 16 4) ∧
        zeroRange it.desc 32 64 = true ∧ it.le 24 8 % 8 = 0 ∧ s.itemHandle it tgt = none ∧ s.wrapCheck it.key useWrap =
        none ∧ s.readCheck tgt = none ∧ s.keyView tgt = some k ∧ attrExport k.attr = true ∧ (kwpWrap (s.keyMaterial
        it.key) (wrapPayload (attrAlg k.attr) k.attr k.material)).length ≤ it.le 20 4) ∧
    (∃ (s : State) (it : Item) (a : DWord) (parent np : Word) (depth : Nat) (id : List Byte), s.Runs it 0x0508 ∧ zeroRange
        it.desc 24 64 = true ∧ it.le 16 8 % 64 = 0 ∧ s.reportCheck it.key = none ∧ s.describe it.key = some (a, parent,
        depth, np, id)) ∧
    (∃ (s : State) (it : Item) (k : KeyView), s.Runs it 0x0509 ∧ zeroRange it.desc 20 24 = true ∧ zeroRange it.desc 32 64
        = true ∧ s.reportCheck it.key = none ∧ s.keyView it.key = some k ∧ algIsAsym (attrAlg k.attr) = true ∧ (publicPart
        (attrAlg k.attr) k.pubOnly k.material).length ≤ it.le 16 4) ∧
    (∃ (s : State) (it : Item), s.Runs it 0x050A ∧ s.attestCheck it = none ∧ it.key = noHandle) ∧
    (∃ (s : State) (it : Item) (a : DWord) (parent np : Word) (depth : Nat) (id : List Byte) (r : List Byte × State),
        s.Runs it 0x050A ∧ s.attestCheck it = none ∧ it.key ≠ noHandle ∧ s.reportCheck it.key = none ∧ s.describe it.key =
        some (a, parent, depth, np, id) ∧ r = s.signReport (s.reportHead 1 it.tenantByte it.key a parent depth (s.keyFlags
        it.key) (s.reportCounter it.key a) id (slice it.desc 16 32))) ∧
    (∃ (s : State) (it : Item), s.Runs it 0x050B ∧ zeroRange it.desc 20 24 = true ∧ zeroRange it.desc 32 64 = true ∧
        s.certChain.length ≤ it.le 16 4) :=
  ⟨⟨holding (vaulted) (runningVf 0x0503 [(8, leBytes 4 0x1000_0000), (16, leBytes 4 0x1000_0300), (20, leBytes 4 64)]),
      runningVf 0x0503 [(8, leBytes 4 0x1000_0000), (16, leBytes 4 0x1000_0300), (20, leBytes 4 64)], 0x1000_0300#32,
      { handle := 0x1000_0300, attr := (exportRecord).attr, parent := noHandle, depth := 0, noncePrefix := 0, material := (exportRecord).material, pubOnly := false, sealsClosed := false },
      ⟨rfl, rfl, rfl⟩, by decide +kernel, by decide +kernel, by decide +kernel, by decide +kernel, by decide +kernel,
      by decide +kernel, by decide +kernel, by decide +kernel, (by decide +kernel)⟩,
   ⟨holding (vaulted) (runningVf 0x0508 [(8, leBytes 4 0x1000_0300)]), runningVf 0x0508 [(8, leBytes 4 0x1000_0300)],
       exportRecord.attr, noHandle, 0, 0, keyId (attrAlg exportRecord.attr) false exportRecord.material, ⟨rfl, rfl, rfl⟩,
       by decide +kernel, by decide +kernel, by decide +kernel, rfl⟩,
   ⟨holding (vaulted) (runningVf 0x0509 [(8, leBytes 4 0x1000_0400), (16, leBytes 4 32)]), runningVf 0x0509 [(8, leBytes 4
       0x1000_0400), (16, leBytes 4 32)],
       { handle := 0x1000_0400, attr := (signRecord).attr, parent := noHandle, depth := 0, noncePrefix := 0, material := (signRecord).material, pubOnly := false, sealsClosed := false },
       ⟨rfl, rfl, rfl⟩, by decide +kernel, by decide +kernel, by decide +kernel, by decide +kernel, by decide +kernel,
       by decide +kernel⟩,
   ⟨holding (vaulted) (runningVf 0x050A [(8, leBytes 4 0xFFFF_FFFF), (56, leBytes 4 352)]), runningVf 0x050A [(8, leBytes
       4 0xFFFF_FFFF), (56, leBytes 4 352)], ⟨rfl, rfl, rfl⟩, by decide +kernel, by decide +kernel⟩,
   ⟨holding (vaulted) (runningVf 0x050A [(8, leBytes 4 0x1000_0300), (56, leBytes 4 352)]), runningVf 0x050A [(8, leBytes
       4 0x1000_0300), (56, leBytes 4 352)], exportRecord.attr, noHandle, 0, 0, keyId (attrAlg exportRecord.attr) false
       exportRecord.material, (holding (vaulted) (runningVf 0x050A [(8, leBytes 4 0x1000_0300), (56, leBytes 4
       352)])).signReport ((holding (vaulted) (runningVf 0x050A [(8, leBytes 4 0x1000_0300), (56, leBytes 4
       352)])).reportHead 1 1 0x1000_0300#32 exportRecord.attr noHandle 0 ((holding (vaulted) (runningVf 0x050A [(8,
       leBytes 4 0x1000_0300), (56, leBytes 4 352)])).keyFlags 0x1000_0300#32) ((holding (vaulted) (runningVf 0x050A [(8,
       leBytes 4 0x1000_0300), (56, leBytes 4 352)])).reportCounter 0x1000_0300#32 exportRecord.attr) (keyId (attrAlg
       exportRecord.attr) false exportRecord.material) (slice (runningVf 0x050A [(8, leBytes 4 0x1000_0300), (56, leBytes
       4 352)]).desc 16 32)), ⟨rfl, rfl, rfl⟩, by decide +kernel, by decide +kernel, by decide +kernel, rfl, rfl⟩,
   ⟨holding (vaulted) (runningVf 0x050B [(16, leBytes 4 4)]), runningVf 0x050B [(16, leBytes 4 4)], ⟨rfl, rfl, rfl⟩,
       by decide +kernel, by decide +kernel, by decide +kernel⟩⟩

/-- States and operands that meet the hypotheses of `Obligations.LifeCycleOpcodes`, clause by clause. -/
theorem test_witness_LifeCycleOpcodes :
    (∃ (s : State) (it : Item) (a : StoreAction), s.Runs it 0x0731 ∧ s.lcCheck it = none ∧ it.byte 20 ≠ lcDiagnostic ∧
        it.le 16 4 = 0 ∧ a = .otpSlot s.nextSlot (codeword (it.byte 20)) 0 ∧ StoreReady s a) ∧
    (∃ (s : State) (it : Item) (a : StoreAction), s.Runs it 0x0731 ∧ s.lcCheck it = none ∧ it.byte 20 ≠ lcDiagnostic ∧
        it.le 16 4 ≠ 0 ∧ s.consumeAsk (BitVec.ofNat 32 (it.le 16 4)) 0x04 (leBytes 1 (it.byte 20) ++ zeros 31) = .ready ∧
        a = .otpSlot s.nextSlot (codeword (it.byte 20)) 0 ∧ StoreReady s a) ∧
    (∃ (s : State) (it : Item) (tok : List Byte), s.Runs it 0x0731 ∧ s.lcCheck it = none ∧ it.byte 20 = lcDiagnostic ∧
        it.le 16 4 ≠ 0 ∧ it.hostBytes (it.le 24 8) 257 = some tok) ∧
    (∃ (s : State) (it : Item) (tok : List Byte), s.Runs it 0x0732 ∧ s.bootLcs = lcDiagnostic ∧ zeroRange it.desc 24 64 =
        true ∧ it.le 16 8 % 64 = 0 ∧ it.hostBytes (it.le 16 8) 257 = some tok) :=
  ⟨⟨holding (cameTo 5 vaulted) (running 0x0731 [(16, leBytes 4 0), (20, [5])]), running 0x0731 [(16, leBytes 4 0), (20,
      [5])], .otpSlot 5 (codeword 5) 0, ⟨rfl, rfl, rfl⟩, by decide +kernel, by decide +kernel, by decide +kernel,
      by decide +kernel, (by unfold StoreReady; decide +kernel)⟩,
   ⟨holding (withCeremony vaulted (aCeremony 7 0x04 (leBytes 1 5 ++ zeros 31))) (running 0x0731 [(16, leBytes 4 7), (20,
       [5])]), running 0x0731 [(16, leBytes 4 7), (20, [5])], .otpSlot 4 (codeword 5) 0, ⟨rfl, rfl, rfl⟩,
       by decide +kernel, by decide +kernel, by decide +kernel, by decide +kernel, by decide +kernel,
       (by unfold StoreReady; decide +kernel)⟩,
   ⟨holding (vaulted)
       ({ running 0x0731 [(16, leBytes 4 7), (20, [4]), (24, leBytes 8 64)] with bufs := [(64, zeros 257)] }),
       { running 0x0731 [(16, leBytes 4 7), (20, [4]), (24, leBytes 8 64)] with bufs := [(64, zeros 257)] }, zeros 257,
       ⟨rfl, rfl, rfl⟩, by decide +kernel, by decide +kernel, by decide +kernel, by decide +kernel⟩,
   ⟨holding (cameTo 5 vaulted) ({ running 0x0732 [] with bufs := [(0, zeros 257)] }),
       { running 0x0732 [] with bufs := [(0, zeros 257)] }, zeros 257, ⟨rfl, rfl, rfl⟩, by decide +kernel,
       by decide +kernel, by decide +kernel, by decide +kernel⟩⟩


/-! ## Objects, epochs and fragments -/

/-- An open channel of tenant 1. -/
def aChannel : Channel :=
  { entry := overlay (zeros 48) 0 [1], state := .opened, quarantined := false, epoch := 1, epochTicks := [], rxNext := 0, held := [],
    inbox := [], control := [], txNext := 0, ackPeer := 0, winPeer := 256, unsent := [], sent := [], exchanges := [],
    nextXid := 0, ackOwed := false }

/-- The state of the vault's tests with both roots open, their counters live, and channels 1 to 3 open. -/
def objects : State :=
  { vaulted with
    vault := { vaulted.vault with
      records := [(0, rootRecord false), (1, { rootRecord false with attr := 0x0000_6101_0000_4008 }), (4, signRecord)]
      counters := [(0, { value := 5, ceiling := 2 ^ 20, limit := 2 ^ 20, live := true, raising := false, refused := false })] }
    hwk := { vaulted.hwk with chans := [(1, aChannel), (2, aChannel), (3, aChannel)] } }

/-- The parameter block of a seal of 100 bytes in 2 + 1 fragments on channels 1 to 3. -/
def sealParams : List Byte :=
  overlay (zeros 112) 16 (leBytes 8 100 ++ leBytes 4 4096 ++ leBytes 4 64 ++ [2, 1]) |> (overlay · 64 [1]) |> (overlay ·
      80 [2]) |> (overlay · 96 [3])

/-- The item of that seal with its data, before and after its fragments have been sent. -/
def sealItem (stage : Nat) : Item :=
  { runningVf 0x0201 [(24, leBytes 8 0x1000)] with
    bufs := [(0, List.replicate 100 0x3C), (0x1000, sealParams)]
    stage := stage }

/-- What a seal counter's request answers, where it is taken. -/
def takenState : NonceAsk → State → State
  | .taken _ t, _ => t
  | .refused _ t, _ => t
  | _, s => s

/-- The run of that seal. -/
def sealRun : SealRun :=
  { item := 0, gate := none, params := sealParams, ctr := 5, objRoot := 0x1000_0000, frgRoot := 0x1000_0100, objKey := zeros 32,
    frgKey := zeros 32, data := [], segsDone := 1, stream := [], stripesDone := 1, strings := List.replicate 3 (zeros 128),
    sent := [128, 128, 128], unacked := [], manifest := zeros 224 }

/-- Epoch state of tenant 1 with some leaves and closed epochs. -/
def tenantObjects (leaves : List (List Byte)) (waits : List ClosedEpoch) (signKey : Option Word) : TenantObj :=
  { drawn := zeros 8, number := 3, t0 := 0, firstTick := 0, slot := 7, leaves := leaves, waiting := waits, overdue := false,
    prevRoot := zeros 32, signKey := signKey, seals := 0, stopped := 0, discards := 0 }
def closedEpoch (slot : Nat) (record : Option (List Byte)) : ClosedEpoch :=
  { epoch := 2, slot := slot, count := 1, firstTick := 1, lastTick := 2, root := zeros 32, prevRoot := zeros 32, item := 0,
    record := record }
def epochs (x : TenantObj) : State := { objects with obj := { objects.obj with tenants := [(1, x)] } }

/-- The epoch item. -/
def epochItem : Item := { runningVf 0 [] with source := .internal }

/-- A manifest of 100 bytes in 2 + 1 fragments of one stripe. -/
def aManifest : List Byte :=
  overlay (zeros 224) 6 [2, 1] |> (overlay · 32 (leBytes 8 100 ++ leBytes 4 4096 ++ leBytes 4 1 ++ leBytes 4 64 ++ leBytes
      4 64 ++ leBytes 4 1))

/-- A running open with its units in, and a running repair with its survivors in. -/
def openRun : OpenRun :=
  { item := 0, gate := none, manifest := aManifest, segNext := 0, segEnd := 1, objKey := zeros 32, stripe := 0, asked := [2],
    units := [(0, zeros 64), (1, zeros 64), (2, zeros 64)], missing := [], stream := [], streamFrom := 0, used := 0, discarded := 0,
    written := 0 }
def repairRun (corrupt missing : List Nat) : RepairRun :=
  { item := 0, manifest := aManifest, places := [(0, 1), (1, 2), (2, 3)], frgKey := zeros 32, cand := [0, 1, 2], targets := [],
    surv := [0, 1], corrupt := corrupt, missing := missing, passes := 1, stripe := 0, asked := [2],
    strings := [(0, zeros 128), (1, zeros 128), (2, zeros 128)], tags := [], rebuilt := [], sent := [], unacked := [] }
def repairing (r : RepairRun) (s : State) : State := { s with obj := { s.obj with repairs := [r] } }
def opening (s : State) : State := { s with obj := { s.obj with opens := [openRun] } }

/-- The item of a VERIFY_FRAGMENTS with its manifest and placement list. -/
def verifyItem : Item :=
  { runningVf 0x0210 [(24, leBytes 4 224), (32, [7]), (48, leBytes 8 0x2000)] with
    bufs := [(0, aManifest), (0x2000, leBytes 8 1 ++ leBytes 8 2 ++ leBytes 8 3)] }

/-- A network seal whose stream has not ended. -/
def netSeal : Item := { sealItem 0 with source := .headgate 1, phase := .yielded .data }
def streaming : State :=
  { holding objects netSeal with obj := { objects.obj with
      submits := [{ item := 0, chan := 1, xid := 0, received := 10, data := zeros 10, ended := false }] } }

/-- States and operands that meet the hypotheses of the part `SealsProduceAManifest` of `Obligations.ObjectsAreSealedAndOpened`, clause by
clause. -/
theorem test_witness_SealsProduceAManifest :
    (∃ (s s' : State) (it : Item) (b d : List Byte) (o f : Word) (c : DWord), ObjReady s it 0x0201 ∧ it.isNet = false ∧
        s.obj.seals.find? (·.item == it.id) = none ∧ it.sealBlock = some b ∧ s.openRoot it.tenantByte 0x60 = some o ∧
        s.openRoot it.tenantByte 0x61 = some f ∧ s.takeNonce o 1 true = .taken c s' ∧ s'.item it.id = some it ∧
        s'.staleKey o = false ∧ s'.staleKey f = false ∧ s'.obj.seals.find? (·.item == it.id) = none ∧ (placeChans b
        ((byteAt b 32).toNat + (byteAt b 33).toNat)).all s'.chanOpen = true ∧ it.hostBytes (it.le 16 8) (leAt b 16 8) =
        some d ∧ d.length = leAt b 16 8 ∧ 4096 ≤ (s'.sealGeometry it.tenantByte b).segLen) ∧
    (∃ (s : State) (it : Item) (r : SealRun) (x : TenantObj), ObjReady s it 0x0201 ∧ it.stage = 2 ∧ it.isNet = false ∧
        it.id ≠ s.dsp.nextItem ∧ s.obj.seals.find? (·.item == it.id) = some r ∧ r.item = it.id ∧ s.staleKey r.objRoot =
        false ∧ s.staleKey r.frgRoot = false ∧ s.tenantObj it.tenantByte = some x ∧ (placeChans r.params ((byteAt r.params
        32).toNat + (byteAt r.params 33).toNat)).all s.chanOpen = true ∧ r.unacked = []) :=
  ⟨⟨holding (objects) (sealItem 0), takenState ((holding (objects) (sealItem 0)).takeNonce 0x1000_0000#32 1 true) (holding
      (objects) (sealItem 0)), sealItem 0, sealParams, List.replicate 100 0x3C, 0x1000_0000#32, 0x1000_0100#32, 5#64,
      (by unfold ObjReady State.Runs; decide +kernel), by decide +kernel, by decide +kernel, by decide +kernel,
      by decide +kernel, by decide +kernel, rfl, by decide +kernel, by decide +kernel, by decide +kernel,
      by decide +kernel, by decide +kernel, by decide +kernel, by decide +kernel, by decide +kernel⟩,
   ⟨{ holding (epochs (tenantObjects [zeros 48] [] none)) (sealItem 2) with obj := { (epochs (tenantObjects [zeros 48] [] none)).obj with seals := [sealRun] } },
       sealItem 2, sealRun, tenantObjects [zeros 48] [] none, (by unfold ObjReady State.Runs; decide +kernel),
       by decide +kernel, by decide +kernel, by decide +kernel, by decide +kernel, by decide +kernel, by decide +kernel,
       by decide +kernel, by decide +kernel, by decide +kernel, by decide +kernel⟩⟩

/-- States and operands that meet the hypotheses of the part `OpensReleaseVerifiedSegments` of `Obligations.ObjectsAreSealedAndOpened`, clause by
clause. -/
theorem test_witness_OpensReleaseVerifiedSegments :
    (∃ (s : State) (it : Item) (man : List Byte), ObjReady s it 0x0202 ∧ s.obj.opens.find? (·.item == it.id) = none ∧
        it.openManifest = some man) ∧
    (∃ (s : State) (it : Item) (r : OpenRun) (want : List Nat) (p : State × OpenRun × Bool), ObjReady s it 0x0202 ∧
        it.isNet = false ∧ s.obj.opens.find? (·.item == it.id) = some r ∧ r.item = it.id ∧ r.gate = none ∧ r.wanted
        (manGeometry r.manifest) = some want ∧ (want.all fun j => (r.units.map (·.1)).contains j) = true ∧ p =
        State.openSegments it (manGeometry r.manifest) (Geo.segCount (manGeometry r.manifest)) (s, r.decode (manGeometry
        r.manifest))) :=
  ⟨⟨holding (objects) ({ runningVf 0x0202 [(24, leBytes 4 224)] with bufs := [(0, aManifest)] }),
      { runningVf 0x0202 [(24, leBytes 4 224)] with bufs := [(0, aManifest)] }, aManifest,
      (by unfold ObjReady State.Runs; decide +kernel), by decide +kernel, by decide +kernel⟩,
   ⟨opening (holding objects ({ runningVf 0x0202 [(24, leBytes 4 224)] with bufs := [(0, aManifest)] })),
       { runningVf 0x0202 [(24, leBytes 4 224)] with bufs := [(0, aManifest)] }, openRun, [0, 1], State.openSegments
       ({ runningVf 0x0202 [(24, leBytes 4 224)] with bufs := [(0, aManifest)] }) (manGeometry openRun.manifest)
       (Geo.segCount (manGeometry openRun.manifest)) (opening (holding objects
       ({ runningVf 0x0202 [(24, leBytes 4 224)] with bufs := [(0, aManifest)] })), openRun.decode (manGeometry
       openRun.manifest)), (by unfold ObjReady State.Runs; decide +kernel), by decide +kernel, by decide +kernel,
       by decide +kernel, by decide +kernel, by decide +kernel, by decide +kernel, rfl⟩⟩

/-- States and operands that meet the hypotheses of the part `EpochBoundariesCloseEpochs` of `Obligations.EpochsCloseAndAreFetched`, clause by
clause. -/
theorem test_witness_EpochBoundariesCloseEpochs :
    (∃ (s : State) (b : Byte) (x : TenantObj), s.tenantObj b = some x ∧ s.sys.phase = .service ∧ x.leaves = []) ∧
    (∃ (s : State) (b : Byte) (x : TenantObj) (n : Nat), s.tenantObj b = some x ∧ s.sys.phase = .service ∧ x.leaves ≠ [] ∧
        x.freeSlot = some n) ∧
    (∃ (s : State) (b : Byte) (x : TenantObj), s.tenantObj b = some x ∧ s.sys.phase = .service ∧ x.leaves ≠ [] ∧ x.freeSlot = none) :=
  ⟨⟨epochs (tenantObjects [] [] none), 1#8, tenantObjects [] [] none, by decide +kernel, by decide +kernel, by decide +kernel⟩,
   ⟨epochs (tenantObjects [zeros 48] [] none), 1#8, tenantObjects [zeros 48] [] none, 0, by decide +kernel,
       by decide +kernel, by decide +kernel, by decide +kernel⟩,
   ⟨epochs (tenantObjects [zeros 48] ((List.range 7).map fun i => closedEpoch i none) none), 1#8, tenantObjects [zeros 48]
       ((List.range 7).map fun i => closedEpoch i none) none, by decide +kernel, by decide +kernel, by decide +kernel,
       by decide +kernel⟩⟩

/-- States and operands that meet the hypotheses of the part `EpochRecordsAreSignedAndFetched` of `Obligations.EpochsCloseAndAreFetched`, clause by
clause. -/
theorem test_witness_EpochRecordsAreSignedAndFetched :
    (∃ (s : State) (it : Item) (x : TenantObj) (e : ClosedEpoch), s.Runs it 0 ∧ s.tenantObj it.tenantByte = some x ∧
        x.waiting.find? (·.item == it.id) = some e ∧ x.signKey = none) ∧
    (∃ (s : State) (it : Item) (x : TenantObj) (e : ClosedEpoch) (h : Word) (st : Status), s.Runs it 0 ∧ s.tenantObj
        it.tenantByte = some x ∧ x.waiting.find? (·.item == it.id) = some e ∧ x.signKey = some h ∧ s.checkHandle
        it.tenantByte h = some st) ∧
    (∃ (s : State) (it : Item) (x : TenantObj) (e : ClosedEpoch) (h : Word) (k : KeyView) (sc ha : Nat) (head : List Byte)
        (r : List Byte × State), s.Runs it 0 ∧ s.tenantObj it.tenantByte = some x ∧ x.waiting.find? (·.item == it.id) =
        some e ∧ x.signKey = some h ∧ s.checkHandle it.tenantByte h = none ∧ s.useCheck h [useSign] [engPke] 0 = none ∧
        s.keyView h = some k ∧ epochScheme (attrAlg k.attr) = some (sc, ha) ∧ head = s.epochHead it.tenantByte e (attrAlg
        k.attr) h stOk ∧ r = s.signWith sc ha (attrAlg k.attr) k.material (if ha = 0 then head else digest ha head)) ∧
    (∃ (s : State) (it : Item) (x : TenantObj), s.Runs it 0x0203 ∧ zeroRange it.desc 16 64 = true ∧ s.tenantObj
        it.tenantByte = some x ∧ it.key = noHandle) ∧
    (∃ (s : State) (it : Item) (x : TenantObj) (k : KeyView), s.Runs it 0x0203 ∧ zeroRange it.desc 16 64 = true ∧
        s.tenantObj it.tenantByte = some x ∧ it.key ≠ noHandle ∧ s.useCheck it.key [useSign] [engPke] 0 = none ∧ s.keyView
        it.key = some k ∧ (epochScheme (attrAlg k.attr)).isSome = true) ∧
    (∃ (s : State) (it : Item) (x : TenantObj) (e : ClosedEpoch) (rest : List ClosedEpoch) (rec : List Byte), s.Runs it
        0x0204 ∧ zeroRange it.desc 28 64 = true ∧ it.le 16 8 % 64 = 0 ∧ s.tenantObj it.tenantByte = some x ∧ x.waiting = e
        :: rest ∧ e.record = some rec ∧ 256 + 32 * e.count ≤ it.le 24 4) ∧
    (∃ (s : State) (it : Item) (x : TenantObj), s.Runs it 0x0204 ∧ zeroRange it.desc 28 64 = true ∧ it.le 16 8 % 64 = 0 ∧
        s.tenantObj it.tenantByte = some x ∧ x.waiting = []) :=
  ⟨⟨holding (epochs (tenantObjects [] [closedEpoch 0 none] none)) (epochItem), epochItem, tenantObjects [] [closedEpoch 0
      none] none, closedEpoch 0 none, ⟨rfl, rfl, rfl⟩, by decide +kernel, by decide +kernel, by decide +kernel⟩,
   ⟨holding (epochs (tenantObjects [] [closedEpoch 0 none] (some 0x1000_0500))) (epochItem), epochItem, tenantObjects []
       [closedEpoch 0 none] (some 0x1000_0500), closedEpoch 0 none, 0x1000_0500#32, stKeyNotFound, ⟨rfl, rfl, rfl⟩,
       by decide +kernel, by decide +kernel, by decide +kernel, by decide +kernel⟩,
   ⟨holding (epochs (tenantObjects [] [closedEpoch 0 none] (some 0x1000_0400))) epochItem, epochItem, tenantObjects []
       [closedEpoch 0 none] (some 0x1000_0400), closedEpoch 0 none, 0x1000_0400#32,
       { handle := 0x1000_0400, attr := signRecord.attr, parent := noHandle, depth := 0, noncePrefix := 0, material := signRecord.material, pubOnly := false, sealsClosed := false },
       0x02, 0, (holding (epochs (tenantObjects [] [closedEpoch 0 none] (some 0x1000_0400))) epochItem).epochHead 1
       (closedEpoch 0 none) 0x28 0x1000_0400#32 stOk, (holding (epochs (tenantObjects [] [closedEpoch 0 none] (some
       0x1000_0400))) epochItem).signWith 0x02 0 0x28 signRecord.material ((holding (epochs (tenantObjects [] [closedEpoch
       0 none] (some 0x1000_0400))) epochItem).epochHead 1 (closedEpoch 0 none) 0x28 0x1000_0400#32 stOk), ⟨rfl, rfl,
       rfl⟩, by decide +kernel, by decide +kernel, by decide +kernel, by decide +kernel, by decide +kernel,
       by decide +kernel, by decide +kernel, rfl, rfl⟩,
   ⟨holding (epochs (tenantObjects [zeros 48] [] none)) (runningVf 0x0203 [(8, leBytes 4 0xFFFF_FFFF)]), runningVf 0x0203
       [(8, leBytes 4 0xFFFF_FFFF)], tenantObjects [zeros 48] [] none, ⟨rfl, rfl, rfl⟩, by decide +kernel,
       by decide +kernel, by decide +kernel⟩,
   ⟨holding (epochs (tenantObjects [zeros 48] [] none)) (runningVf 0x0203 [(8, leBytes 4 0x1000_0400)]), runningVf 0x0203
       [(8, leBytes 4 0x1000_0400)], tenantObjects [zeros 48] [] none,
       { handle := 0x1000_0400, attr := signRecord.attr, parent := noHandle, depth := 0, noncePrefix := 0, material := signRecord.material, pubOnly := false, sealsClosed := false },
       ⟨rfl, rfl, rfl⟩, by decide +kernel, by decide +kernel, by decide +kernel, by decide +kernel, by decide +kernel,
       by decide +kernel⟩,
   ⟨holding (epochs (tenantObjects [] [closedEpoch 0 (some (zeros 256))] none)) (runningVf 0x0204 [(24, leBytes 4 288)]),
       runningVf 0x0204 [(24, leBytes 4 288)], tenantObjects [] [closedEpoch 0 (some (zeros 256))] none, closedEpoch 0
       (some (zeros 256)), [], zeros 256, ⟨rfl, rfl, rfl⟩, by decide +kernel, by decide +kernel, by decide +kernel,
       by decide +kernel, by decide +kernel, by decide +kernel⟩,
   ⟨holding (epochs (tenantObjects [zeros 48] [] none)) (runningVf 0x0204 [(24, leBytes 4 288)]), runningVf 0x0204 [(24,
       leBytes 4 288)], tenantObjects [zeros 48] [] none, ⟨rfl, rfl, rfl⟩, by decide +kernel, by decide +kernel,
       by decide +kernel, by decide +kernel⟩⟩

/-- States and operands that meet the hypotheses of `Obligations.FragmentsAreVerifiedAndRepaired`, clause by clause. -/
theorem test_witness_FragmentsAreVerifiedAndRepaired :
    (∃ (s : State) (it : Item) (r : RepairRun), ObjReady s it 0x0210 ∧ s.obj.repairs.find? (·.item == it.id) = some r ∧
        s.staleKey it.key = false ∧ (r.cand.all fun j => r.corrupt.contains j || r.missing.contains j || decide (64 +
        Geo.fragLen (manGeometry r.manifest) ≤ (r.str j).length)) = true) ∧
    (∃ (s : State) (it : Item) (man : List Byte) (places : List (Nat × Nat)), ObjReady s it 0x0210 ∧ s.obj.repairs.find?
        (·.item == it.id) = none ∧ it.hostBytes (it.le 16 8) (it.le 24 4) = some man ∧ it.placeList = some places ∧ (∀ p,
        p ∈ places → s.chanOpen p.2 = true) ∧ it.candMask ≠ 0 ∧ maskList it.candMask = places.map (·.1)) ∧
    (∃ (s : State) (it : Item) (r : RepairRun), ObjReady s it 0x0211 ∧ it.stage = 2 ∧ s.obj.repairs.find? (·.item ==
        it.id) = some r ∧ s.staleKey it.key = false ∧ (r.targets.all fun j => s.chanOpen (r.chanOf j)) = true ∧ r.unacked
        = []) ∧
    (∃ (s : State) (it : Item) (r : RepairRun), ObjReady s it 0x0211 ∧ it.stage = 1 ∧ s.obj.repairs.find? (·.item ==
        it.id) = some r ∧ s.staleKey it.key = false ∧ (r.targets.all fun j => s.chanOpen (r.chanOf j)) = true ∧
        (r.surv.any fun j => r.corrupt.contains j || r.missing.contains j) = true ∧ r.nextSurv (manGeometry r.manifest).k
        = none) ∧
    (∃ (s : State) (it : Item) (frag : Nat) (why : WaitFor), s.item it.id = some it ∧ it.phase = .yielded why ∧
        ((s.obj.opens.any fun r => r.item == it.id && r.asked.contains frag) || (s.obj.repairs.any fun r => r.item ==
        it.id && r.asked.contains frag)) = true) ∧
    (∃ (s : State) (it : Item), s.item it.id = some it ∧ it.opcode = 0x0201 ∧ it.isNet = true ∧ it.phase ≠ .done ∧
        it.phase ≠ .dropped ∧ (s.obj.submits.any fun x => x.item == it.id && !x.ended) = true) :=
  ⟨⟨repairing (repairRun [] [2]) (holding objects verifyItem), verifyItem, repairRun [] [2],
      (by unfold ObjReady State.Runs; decide +kernel), by decide +kernel, by decide +kernel, by decide +kernel⟩,
   ⟨holding (objects) (verifyItem), verifyItem, aManifest, [(0, 1), (1, 2), (2, 3)],
       (by unfold ObjReady State.Runs; decide +kernel), by decide +kernel, by decide +kernel, by decide +kernel,
       by decide +kernel, by decide +kernel, by decide +kernel⟩,
   ⟨repairing (repairRun [] []) (holding objects { verifyItem with opcode := 0x0211, stage := 2 }),
       { verifyItem with opcode := 0x0211, stage := 2 }, repairRun [] [], (by unfold ObjReady State.Runs; decide +kernel),
       by decide +kernel, by decide +kernel, by decide +kernel, by decide +kernel, by decide +kernel⟩,
   ⟨repairing (repairRun [1] [2]) (holding objects { verifyItem with opcode := 0x0211, stage := 1 }),
       { verifyItem with opcode := 0x0211, stage := 1 }, repairRun [1] [2],
       (by unfold ObjReady State.Runs; decide +kernel), by decide +kernel, by decide +kernel, by decide +kernel,
       by decide +kernel, by decide +kernel, by decide +kernel⟩,
   ⟨repairing (repairRun [] []) (holding objects { verifyItem with phase := .yielded .data }),
       { verifyItem with phase := .yielded .data }, 2, .data, by decide +kernel, by decide +kernel, by decide +kernel⟩,
   ⟨streaming, netSeal, by decide +kernel, by decide +kernel, by decide +kernel, by decide +kernel, by decide +kernel, by decide +kernel⟩⟩


/-! ## The headworks -/

/-- Service with a main DRBG, and one configuration of ports 0 and 3, every link of which is up. -/
def ported (cfg : Word) (s : State) : State :=
  let t := (s.setReg 0 0x0010_0100 cfg).setReg 0 0x0010_01C0 cfg
  { t with
    hwk := { t.hwk with ports := t.hwk.ports.map fun p =>
      { p with subs := p.subs.map fun x => { x with link := true, pn := 0xC0000000 } } }
    ctl := { t.ctl with caks := [(31, (zeros 16, zeros 32))] } }

/-- A channel of tenant 1 on port 3, sub-port 7, between two addresses. -/
def lateralChannel : Channel :=
  { aChannel with
    entry := overlay (zeros 64) 0 ([1, 31, 0, 0] ++ leBytes 2 7001 ++ leBytes 2 7002) |> (overlay · 16 [10, 0, 0, 1]) |>
      (overlay · 32 [10, 0, 0, 2])
    rxNext := 0xFFFF_FFFF }

/-- The headgate of that channel. -/
def aHeadgate : Headgate :=
  { index := 0, port := 3, subPort := 7, ipv6 := false, enabled := true, dstAddr := [10, 0, 0, 2], dport := 7002, tenant := 1,
    cls := 2, chan := 0xFFFFFE, weir := none }

/-- A frame on port 3, sub-port 7, with a FRAG_DATA packet of that channel. -/
def aFrame : EthFrame :=
  { port := 3, subPort := 7, fcsOk := true, macsecOk := false, dst := .own, kind := .udp, ipv6 := false, srcAddr := [10, 0, 0, 1],
    dstAddr := [10, 0, 0, 2], udpSport := 7001, udpDport := 7002, checksumsOk := true, udpLen := 44
    payload := [1, 6, 0, 1] ++ beBytes 4 0xFFFFFE ++ beBytes 4 0xFFFF_FFFF ++ zeros 4 ++ zeros 8 ++ beBytes 2 256 ++ beBytes 2 4 ++
      beBytes 4 9 ++ zeros 4
    raw := zeros 94 }

/-- Service in which the channel with the highest number holds this. -/
def lateral (x : Channel) : State := { tenanted with hwk := { tenanted.hwk with chans := [(0xFFFFFE, x)] }, ent := entropic.ent }

/-- The same with its frames let in by the headgate. -/
def admitting : State :=
  let s := ported 0x0000_0017 (lateral lateralChannel)
  { s with plan := { s.plan with running := { s.plan.running with headgates := [aHeadgate] } } }

/-- The frame injection ring with 8 slots at its last one. -/
def injecting (s : State) : State :=
  let t := s.setReg 0 0x0010_0A28 3
  { t with hwk := { t.hwk with injCons := 7 } }
def aSlot (src : Option (List Byte × BitVec 16)) : InjectSlot := { port := 0, subPort := 0, udpSrc := src, frame := zeros 64 }

/-- A state whose channel registers select a channel and hold an entry. -/
def selecting (c : Word) (e : List Byte) (s : State) : State := (s.setReg 0 0x0010_0800 c).setChanData e

/-- Packets, and an exchange. -/
def aTxPacket (sends : Nat) : TxPacket :=
  { seq := 0xFFFF_FFFF, typ := ltFragPut, flags := 1, xid := 9, body := zeros 8, weir := none, sends := sends, covered := false }
def aRxPacket (typ flags : Nat) (body : List Byte) : RxPacket :=
  { typ := typ, flags := flags, epoch := 1, seq := 0, ack := 0, sack := 0, window := 256, xid := 9, body := body, tenant := 1,
    cls := 2, weir := none }
def anExchange (kind : ExchangeKind) (mine : Bool) : Exchange :=
  { xid := 9, mine := mine, kind := kind, item := 0, weir := none, got := [], tagged := true }

/-- The channel with a packet in its inbox and with these exchanges. -/
def receiving (p : RxPacket) (es : List Exchange) : Channel := { lateralChannel with inbox := [p], exchanges := es }
def received (es : List Exchange) : Channel := { lateralChannel with exchanges := es }

/-- A record of one unit at a position of fragment 2 of the manifest of these tests. -/
def fragRecord (pos : Nat) : List Byte := manObject aManifest ++ manCtr aManifest ++ leBytes 5 pos ++ leBytes 2 1 ++ [2] ++ zeros 64

/-- A network seal that receives its stream, in its item. -/
def netItem : Item := { netSeal with scratch := overlay (zeros 48) 16 (leBytes 8 20) }

/-- The channel's state with that item. -/
def submitted (x : Channel) : State :=
  holding { lateral x with obj := { (lateral x).obj with
    submits := [{ item := 0, chan := 0xFFFFFE, xid := 9, received := 10, data := zeros 10, ended := false }] } } netItem

/-- States and operands that meet the hypotheses of the part `PortsTakeTheirConfiguration` of `Obligations.PortsAndInjection`, clause by
clause. -/
theorem test_witness_PortsTakeTheirConfiguration :
    (∃ (s : State) (port : Nat) (_v : Word), s.mmioOk 0 = true ∧ port < 4 ∧ (s.sys.variant = .ky4200A → port < 2) ∧
        (s.portCfg port).getLsbD 0 = false) ∧
    (∃ (s : State) (port : Nat) (v : Word), s.mmioOk 0 = true ∧ port < 4 ∧ (s.sys.variant = .ky4200A → port < 2) ∧
        (s.portCfg port).getLsbD 0 = true ∧ v.getLsbD 0 = true) ∧
    (∃ (s : State) (port sub : Nat) (_up : Bool), s.serdesOn = true ∧ s.portEnabled port = true ∧ s.subExists port sub = true) ∧
    (∃ (s : State) (port sub : Nat), s.mkaRuns port sub = true ∧ s.ent.ready = true) ∧
    (∃ (s : State) (port sub : Nat), s.mkaRuns port sub = true ∧ s.rekeyAt port ≤ (s.subPort port sub).pn) :=
  ⟨⟨entropic, 3, 0xFFFF_FFFF#32, by decide +kernel, by decide +kernel, by decide +kernel, by decide +kernel⟩,
   ⟨ported 0x0000_0001 entropic, 3, 0xFFFF_FFFF#32, by decide +kernel, by decide +kernel, by decide +kernel,
       by decide +kernel, by decide +kernel⟩,
   ⟨ported 0x0000_0007 entropic, 3, 7, false, by decide +kernel, by decide +kernel, by decide +kernel⟩,
   ⟨ported 0x0000_8007 entropic, 3, 7, by decide +kernel, by decide +kernel⟩,
   ⟨ported 0x0000_8007 entropic, 3, 7, by decide +kernel, by decide +kernel⟩⟩

/-- States and operands that meet the hypotheses of `Obligations.FramesAreSortedOnArrival`, clause by clause. -/
theorem test_witness_FramesAreSortedOnArrival :
    (∃ (s : State) (f : EthFrame), s.serdesOn = true ∧ s.portEnabled f.port = true ∧ (s.subPort f.port f.subPort).link =
        true ∧ f.fcsOk = false) ∧
    (∃ (s : State) (f : EthFrame), FrameArrives s f ∧ f.kind = .eapolMka) ∧
    (∃ (s : State) (f : EthFrame), FrameArrives s f ∧ f.kind = .udp ∧ f.dst = .own ∧ s.headgateOf f = none) ∧
    (∃ (s : State) (f : EthFrame) (h : Headgate) (c : Nat) (x : Channel), FrameArrives s f ∧ f.kind = .udp ∧ f.dst = .own
        ∧ s.headgateOf f = some h ∧ f.checksumsOk = true ∧ rxHeaderOk f = true ∧ s.resolveChan f h = some c ∧ s.sys.phase
        = .service ∧ s.chan c = some x ∧ x.state = .opened ∧ (rxPacket f h).epoch = x.epoch ∧ (rxPacket f h).seq =
        x.rxNext ∧ x.rxNext < 2 ^ 32 ∧ x.held = [] ∧ (rxPacket f h).typ ≠ ltPing ∧ (rxPacket f h).typ ≠ ltCredit ∧
        neverAccepted (rxPacket f h).typ = false ∧ (x.inbox.all fun p => !neverAccepted p.typ) = true ∧ bit (rxPacket f
        h).flags 3 = false) :=
  ⟨⟨ported 0x0000_0017 (lateral lateralChannel), { aFrame with fcsOk := false }, by decide +kernel, by decide +kernel,
      by decide +kernel, by decide +kernel⟩,
   ⟨ported 0x0000_0017 (lateral lateralChannel), { aFrame with kind := .eapolMka },
       (by unfold FrameArrives; decide +kernel), by decide +kernel⟩,
   ⟨ported 0x0000_0017 (lateral lateralChannel), aFrame, (by unfold FrameArrives; decide +kernel), by decide +kernel,
       by decide +kernel, by decide +kernel⟩,
   ⟨admitting, aFrame, aHeadgate, 0xFFFFFE, lateralChannel, (by unfold FrameArrives; decide +kernel), by decide +kernel,
       by decide +kernel, by decide +kernel, by decide +kernel, by decide +kernel, by decide +kernel, by decide +kernel,
       by decide +kernel, by decide +kernel, by decide +kernel, by decide +kernel, by decide +kernel, by decide +kernel,
       by decide +kernel, by decide +kernel, by decide +kernel, by decide +kernel, by decide +kernel⟩⟩

/-- States and operands that meet the hypotheses of the part `InjectionSendsItsSlots` of `Obligations.PortsAndInjection`, clause by
clause. -/
theorem test_witness_InjectionSendsItsSlots :
    (∃ (s : State) (_prod : Word) (_slots : List InjectSlot), s.mmioOk 0 = true ∧ s.sendsFrames = false) ∧
    (∃ (s : State) (prod : Word) (_x : InjectSlot) (n : Nat), s.mmioOk 0 = true ∧ s.sendsFrames = true ∧ n = 2 ^ ((s.reg 0
        0x0010_0A28).toNat % 32) ∧ 1 < n ∧ s.hwk.injCons < n ∧ (prod &&& 0x0000_FFFF).toNat = (s.hwk.injCons + 1) % n) ∧
    (∃ (s : State) (x : InjectSlot) (a : List Byte) (p : BitVec 16), x.udpSrc = some (a, p) ∧ (s.hwk.chans.any fun c =>
        c.2.isLocal a p) = true) :=
  ⟨⟨injecting { served with sys := { served.sys with phase := .alarmHold } }, 0xFFFF_FFFF#32, [], by decide +kernel, by decide +kernel⟩,
   ⟨injecting served, 0#32, aSlot none, 8, by decide +kernel, by decide +kernel, by decide +kernel, by decide +kernel,
       by decide +kernel, by decide +kernel⟩,
   ⟨injecting (lateral lateralChannel), aSlot (some ([10, 0, 0, 2], 7002#16)), [10, 0, 0, 2], 7002#16, by decide +kernel,
       by decide +kernel⟩⟩

/-- States and operands that meet the hypotheses of the part `ChannelCommandsTakeEffect` of `Obligations.ChannelsTakeCommandsAndTimers`, clause by
clause. -/
theorem test_witness_ChannelCommandsTakeEffect :
    (∃ (s : State) (x : Channel), s.chanCmdOk = true ∧ s.chan s.chanSel = some x) ∧
    (∃ (s : State), s.chanCmdOk = true ∧ s.entryOk s.chanData = true ∧ s.chanSel ≠ 0xFFFFFF ∧ s.chan s.chanSel = none ∧
        (s.hwk.chans.filter fun p => p.2.tenant == byteAt s.chanData 0).length < ((s.tenantEntry (byteAt s.chanData
        0)).map TenantEntry.channelQuota).getD 0 ∧ s.hwk.chans.length < 65536) ∧
    (∃ (s : State), s.chanCmdOk = true ∧ (s.entryOk s.chanData = false ∨ s.chanSel = 0xFFFFFF ∨ (s.chan s.chanSel).isSome = true)) ∧
    (∃ (s : State), s.chanCmdOk = true) ∧
    (∃ (s : State), s.chanCmdOk = true) ∧
    (∃ (s : State) (c : Nat) (x : Channel), s.chan c = some x ∧ x.exchanges = [] ∧ (∀ r, r ∈ s.obj.seals → r.unacked ≠ []
        → c ∉ r.channels)) :=
  ⟨⟨selecting 0xFFFFFE lateralChannel.entry (lateral lateralChannel), lateralChannel, by decide +kernel, by decide +kernel⟩,
   ⟨selecting 0xFFFFFE lateralChannel.entry
       { lateral lateralChannel with hwk := { (lateral lateralChannel).hwk with chans := [(1, lateralChannel), (2, lateralChannel), (3, lateralChannel)] } },
       by decide +kernel, by decide +kernel, by decide +kernel, by decide +kernel, by decide +kernel, by decide +kernel⟩,
   ⟨selecting 0xFFFFFE lateralChannel.entry (lateral lateralChannel), by decide +kernel, by decide +kernel⟩,
   ⟨selecting 0xFFFFFE lateralChannel.entry (lateral lateralChannel), by decide +kernel⟩,
   ⟨selecting 0xFFFFFE lateralChannel.entry (lateral lateralChannel), by decide +kernel⟩,
   ⟨lateral lateralChannel, 0xFFFFFE, lateralChannel, by decide +kernel, by decide +kernel, by decide +kernel⟩⟩

/-- States and operands that meet the hypotheses of the part `ChannelTimersTakeEffect` of `Obligations.ChannelsTakeCommandsAndTimers`, clause by
clause. -/
theorem test_witness_ChannelTimersTakeEffect :
    (∃ (s : State) (c : Nat) (x : Channel), s.chan c = some x ∧ x.ackOwed = true) ∧
    (∃ (s : State) (c : Nat) (x : Channel) (p : TxPacket), s.chan c = some x ∧ p.seq < 2 ^ 32 ∧ x.sent.find? (·.seq ==
        p.seq) = some p ∧ p.covered = false ∧ p.sends < 9) ∧
    (∃ (s : State) (c : Nat) (x : Channel) (p : TxPacket), s.chan c = some x ∧ p.seq < 2 ^ 32 ∧ x.sent.find? (·.seq ==
        p.seq) = some p ∧ p.covered = false ∧ 9 ≤ p.sends) ∧
    (∃ (s : State) (c : Nat) (x : Channel), s.chan c = some x ∧ x.state = .opened ∧ x.winPeer = 0) ∧
    (∃ (s : State) (c : Nat) (x : Channel), s.chan c = some x ∧ x.state ≠ .opened ∧ x.quarantined = false) ∧
    (∃ (s : State) (c : Nat) (x : Channel), s.chan c = some x ∧ x.state = .synchronising ∧ x.quarantined = false) ∧
    (∃ (s : State) (c : Nat) (x : Channel), s.chan c = some x ∧ x.quarantined = true) ∧
    (∃ (s : State) (c : Nat) (xid : Word) (x : Channel), s.chan c = some x ∧ (x.exchanges.any fun e => e.mine && e.xid ==
        xid.toNat && e.tagged) = true) ∧
    (∃ (s : State) (c : Nat) (x : Channel) (p : TxPacket) (rest : List TxPacket), s.chan c = some x ∧ x.unsent = p :: rest
        ∧ s.headMayLeave c x p = true) :=
  ⟨⟨lateral ({ lateralChannel with ackOwed := true }), 0xFFFFFE, { lateralChannel with ackOwed := true },
      by decide +kernel, by decide +kernel⟩,
   ⟨lateral ({ lateralChannel with sent := [aTxPacket 8] }), 0xFFFFFE, { lateralChannel with sent := [aTxPacket 8] },
       aTxPacket 8, by decide +kernel, by decide +kernel, by decide +kernel, by decide +kernel, by decide +kernel⟩,
   ⟨lateral ({ lateralChannel with sent := [aTxPacket 9] }), 0xFFFFFE, { lateralChannel with sent := [aTxPacket 9] },
       aTxPacket 9, by decide +kernel, by decide +kernel, by decide +kernel, by decide +kernel, by decide +kernel⟩,
   ⟨lateral ({ lateralChannel with winPeer := 0 }), 0xFFFFFE, { lateralChannel with winPeer := 0 }, by decide +kernel,
       by decide +kernel, by decide +kernel⟩,
   ⟨lateral ({ lateralChannel with state := .unreachable }), 0xFFFFFE, { lateralChannel with state := .unreachable },
       by decide +kernel, by decide +kernel, by decide +kernel⟩,
   ⟨lateral ({ lateralChannel with state := .synchronising }), 0xFFFFFE, { lateralChannel with state := .synchronising },
       by decide +kernel, by decide +kernel, by decide +kernel⟩,
   ⟨lateral ({ lateralChannel with state := .synchronising, quarantined := true }), 0xFFFFFE,
       { lateralChannel with state := .synchronising, quarantined := true }, by decide +kernel, by decide +kernel⟩,
   ⟨lateral (received [anExchange (.put 2) true]), 0xFFFFFE, 9#32, received [anExchange (.put 2) true], by decide +kernel,
       by decide +kernel⟩,
   ⟨lateral ({ lateralChannel with unsent := [{ aTxPacket 0 with seq := 255 }] }), 0xFFFFFE,
       { lateralChannel with unsent := [{ aTxPacket 0 with seq := 255 }] }, { aTxPacket 0 with seq := 255 }, [],
       by decide +kernel, by decide +kernel, by decide +kernel⟩⟩

/-- States and operands that meet the hypotheses of the part `ControlPacketsAreAnswered` of `Obligations.ChannelMessagesTakeEffect`, clause by
clause. -/
theorem test_witness_ControlPacketsAreAnswered :
    (∃ (s : State) (c : Nat) (x : Channel) (p : RxPacket) (rest : List RxPacket), s.chan c = some x ∧ x.control = p ::
        rest ∧ p.typ = ltCredit ∧ bit p.flags 3 = false) ∧
    (∃ (s : State) (c : Nat) (x : Channel) (p : RxPacket) (rest : List RxPacket), s.chan c = some x ∧ x.control = p ::
        rest ∧ p.typ = ltPing ∧ bit p.flags 4 = true ∧ bit (beAt p.body 0 1) 0 = true ∧ x.state ≠ .opened ∧ x.quarantined
        = false ∧ p.epoch = x.epoch) ∧
    (∃ (s : State) (c : Nat) (x : Channel) (p : RxPacket) (rest : List RxPacket), s.chan c = some x ∧ x.control = p ::
        rest ∧ p.typ = ltPing ∧ bit p.flags 4 = true ∧ bit (beAt p.body 0 1) 0 = false) ∧
    (∃ (s : State) (c : Nat) (x : Channel) (p : RxPacket) (rest : List RxPacket), s.chan c = some x ∧ x.control = p ::
        rest ∧ p.typ = ltPing ∧ bit p.flags 4 = false ∧ bit (beAt p.body 0 1) 0 = false) :=
  ⟨⟨lateral ({ lateralChannel with control := [aRxPacket ltCredit 0 []] }), 0xFFFFFE,
      { lateralChannel with control := [aRxPacket ltCredit 0 []] }, aRxPacket ltCredit 0 [], [], by decide +kernel,
      by decide +kernel, by decide +kernel, by decide +kernel⟩,
   ⟨lateral ({ lateralChannel with state := .synchronising, control := [aRxPacket ltPing 16 ([1] ++ zeros 15)] }),
       0xFFFFFE, { lateralChannel with state := .synchronising, control := [aRxPacket ltPing 16 ([1] ++ zeros 15)] },
       aRxPacket ltPing 16 ([1] ++ zeros 15), [], by decide +kernel, by decide +kernel, by decide +kernel,
       by decide +kernel, by decide +kernel, by decide +kernel, by decide +kernel, by decide +kernel⟩,
   ⟨lateral ({ lateralChannel with control := [aRxPacket ltPing 16 ([0] ++ zeros 15)] }), 0xFFFFFE,
       { lateralChannel with control := [aRxPacket ltPing 16 ([0] ++ zeros 15)] }, aRxPacket ltPing 16 ([0] ++ zeros 15),
       [], by decide +kernel, by decide +kernel, by decide +kernel, by decide +kernel, by decide +kernel⟩,
   ⟨lateral ({ lateralChannel with control := [aRxPacket ltPing 8 ([0] ++ zeros 15)] }), 0xFFFFFE,
       { lateralChannel with control := [aRxPacket ltPing 8 ([0] ++ zeros 15)] }, aRxPacket ltPing 8 ([0] ++ zeros 15),
       [], by decide +kernel, by decide +kernel, by decide +kernel, by decide +kernel, by decide +kernel⟩⟩

/-- States and operands that meet the hypotheses of the part `ExchangesTakeTheirMessages` of `Obligations.ChannelMessagesTakeEffect`, clause by
clause. -/
theorem test_witness_ExchangesTakeTheirMessages :
    (∃ (s s' : State) (c : Nat) (x y : Channel) (p : RxPacket), s.takeInbox c ltSubmit = some (p, x, s') ∧ bit p.flags 0 =
        true ∧ bit p.flags 1 = false ∧ s'.chan c = some y ∧ (x.exchanges.all fun e => e.mine || e.xid != p.xid) = true ∧
        (x.exchanges.filter fun e => !e.mine).length < 64 ∧ (s.obj.submits.all fun z => !(z.chan == c && z.xid == p.xid))
        = true) ∧
    (∃ (s s' : State) (c : Nat) (x : Channel) (p : RxPacket) (e : Exchange) (st : SubmitStream) (it : Item), s.takeInbox c
        ltSubmit = some (p, x, s') ∧ bit p.flags 0 = false ∧ x.exchanges.find? (fun e => e.xid == p.xid && !e.mine &&
        e.kind == .submit) = some e ∧ s.obj.submits.find? (·.item == e.item) = some st ∧ s.item st.item = some it ∧
        it.stage ≠ 1 ∧ st.ended = false ∧ leAt p.body 0 8 = st.received ∧ p.body.drop 8 ≠ [] ∧ (p.body.drop 8).length ≤
        x.chunk ∧ st.received + (p.body.drop 8).length ≤ leAt it.scratch 16 8 ∧ (bit p.flags 1 = true → st.received +
        (p.body.drop 8).length = leAt it.scratch 16 8)) ∧
    (∃ (s s' : State) (c : Nat) (x y : Channel) (p : RxPacket), s.takeInbox c ltRetrieve = some (p, x, s') ∧ s'.chan c =
        some y ∧ (x.exchanges.all fun e => e.mine || e.xid != p.xid) = true ∧ (x.exchanges.filter fun e => !e.mine).length
        < 64) ∧
    (∃ (s s' : State) (c j : Nat) (x : Channel) (p : RxPacket) (e : Exchange), s.takeInbox c ltFragPutAck = some (p, x,
        s') ∧ x.mine p.xid = some e ∧ e.kind = .put j) ∧
    (∃ (s s' : State) (c j off len : Nat) (x y : Channel) (p : RxPacket) (e : Exchange) (r : OpenRun), s.takeInbox c
        ltFragData = some (p, x, s') ∧ s'.chan c = some y ∧ x.mine p.xid = some e ∧ e.kind = .get j off len ∧
        s.obj.opens.find? (·.item == e.item) = some r ∧ recordNames p.body r.manifest j = true ∧ 64 * (leAt p.body 24 5 %
        2 ^ 35) = off + e.got.length ∧ (slice p.body 32 (64 * leAt p.body 29 2)).length = 64 * leAt p.body 29 2 ∧
        e.got.length + 64 * leAt p.body 29 2 < len ∧ bit p.flags 1 = false) ∧
    (∃ (s s' : State) (c j off len : Nat) (x : Channel) (p : RxPacket) (e : Exchange) (r : OpenRun), s.takeInbox c
        ltFragData = some (p, x, s') ∧ x.mine p.xid = some e ∧ e.kind = .get j off len ∧ s.obj.opens.find? (·.item ==
        e.item) = some r ∧ recordNames p.body r.manifest j = true ∧ 64 * (leAt p.body 24 5 % 2 ^ 35) = off + e.got.length
        ∧ (slice p.body 32 (64 * leAt p.body 29 2)).length = 64 * leAt p.body 29 2 ∧ e.got.length + 64 * leAt p.body 29 2
        = len) ∧
    (∃ (s s' : State) (c : Nat) (x : Channel) (p : RxPacket) (e : Exchange), s.takeInbox c ltNack = some (p, x, s') ∧
        x.mine p.xid = some e) :=
  ⟨⟨lateral (receiving (aRxPacket ltSubmit 1 (zeros 48)) (List.replicate 63 { anExchange .submit false with xid := 10 })),
      (lateral (receiving (aRxPacket ltSubmit 1 (zeros 48)) (List.replicate 63
      { anExchange .submit false with xid := 10 }))).setChan 0xFFFFFE (received (List.replicate 63
      { anExchange .submit false with xid := 10 })), 0xFFFFFE, receiving (aRxPacket ltSubmit 1 (zeros 48)) (List.replicate
      63 { anExchange .submit false with xid := 10 }), received (List.replicate 63
      { anExchange .submit false with xid := 10 }), aRxPacket ltSubmit 1 (zeros 48), rfl, by decide +kernel,
      by decide +kernel, by decide +kernel, by decide +kernel, by decide +kernel, by decide +kernel⟩,
   ⟨submitted (receiving (aRxPacket ltSubmit 2 (leBytes 8 10 ++ zeros 10)) [anExchange .submit false]), (submitted
       (receiving (aRxPacket ltSubmit 2 (leBytes 8 10 ++ zeros 10)) [anExchange .submit false])).setChan 0xFFFFFE
       (received [anExchange .submit false]), 0xFFFFFE, receiving (aRxPacket ltSubmit 2 (leBytes 8 10 ++ zeros 10))
       [anExchange .submit false], aRxPacket ltSubmit 2 (leBytes 8 10 ++ zeros 10), anExchange .submit false,
       { item := 0, chan := 0xFFFFFE, xid := 9, received := 10, data := zeros 10, ended := false }, netItem, rfl,
       by decide +kernel, by decide +kernel, by decide +kernel, by decide +kernel, by decide +kernel, by decide +kernel,
       by decide +kernel, by decide +kernel, by decide +kernel, by decide +kernel, by decide +kernel⟩,
   ⟨lateral (receiving (aRxPacket ltRetrieve 3 (zeros 24)) (List.replicate 63
       { anExchange .submit false with xid := 10 })), (lateral (receiving (aRxPacket ltRetrieve 3 (zeros 24))
       (List.replicate 63 { anExchange .submit false with xid := 10 }))).setChan 0xFFFFFE (received (List.replicate 63
       { anExchange .submit false with xid := 10 })), 0xFFFFFE, receiving (aRxPacket ltRetrieve 3 (zeros 24))
       (List.replicate 63 { anExchange .submit false with xid := 10 }), received (List.replicate 63
       { anExchange .submit false with xid := 10 }), aRxPacket ltRetrieve 3 (zeros 24), rfl, by decide +kernel,
       by decide +kernel, by decide +kernel⟩,
   ⟨lateral (receiving (aRxPacket ltFragPutAck 0 []) [anExchange (.put 2) true]), (lateral (receiving (aRxPacket
       ltFragPutAck 0 []) [anExchange (.put 2) true])).setChan 0xFFFFFE (received [anExchange (.put 2) true]), 0xFFFFFE,
       2, receiving (aRxPacket ltFragPutAck 0 []) [anExchange (.put 2) true], aRxPacket ltFragPutAck 0 [], anExchange
       (.put 2) true, rfl, by decide +kernel, by decide +kernel⟩,
   ⟨opening (lateral (receiving (aRxPacket ltFragData 0 (fragRecord 1)) [anExchange (.get 2 64 128) true])), (opening
       (lateral (receiving (aRxPacket ltFragData 0 (fragRecord 1)) [anExchange (.get 2 64 128) true]))).setChan 0xFFFFFE
       (received [anExchange (.get 2 64 128) true]), 0xFFFFFE, 2, 64, 128, receiving (aRxPacket ltFragData 0 (fragRecord
       1)) [anExchange (.get 2 64 128) true], received [anExchange (.get 2 64 128) true], aRxPacket ltFragData 0
       (fragRecord 1), anExchange (.get 2 64 128) true, openRun, rfl, by decide +kernel, by decide +kernel,
       by decide +kernel, by decide +kernel, by decide +kernel, by decide +kernel, by decide +kernel, by decide +kernel,
       by decide +kernel⟩,
   ⟨opening (lateral (receiving (aRxPacket ltFragData 0 (fragRecord 1)) [anExchange (.get 2 64 64) true])), (opening
       (lateral (receiving (aRxPacket ltFragData 0 (fragRecord 1)) [anExchange (.get 2 64 64) true]))).setChan 0xFFFFFE
       (received [anExchange (.get 2 64 64) true]), 0xFFFFFE, 2, 64, 64, receiving (aRxPacket ltFragData 0 (fragRecord 1))
       [anExchange (.get 2 64 64) true], aRxPacket ltFragData 0 (fragRecord 1), anExchange (.get 2 64 64) true, openRun,
       rfl, by decide +kernel, by decide +kernel, by decide +kernel, by decide +kernel, by decide +kernel,
       by decide +kernel, by decide +kernel⟩,
   ⟨opening (lateral (receiving (aRxPacket ltNack 0 (zeros 40)) [anExchange (.get 2 64 128) true])), (opening (lateral
       (receiving (aRxPacket ltNack 0 (zeros 40)) [anExchange (.get 2 64 128) true]))).setChan 0xFFFFFE (received
       [anExchange (.get 2 64 128) true]), 0xFFFFFE, receiving (aRxPacket ltNack 0 (zeros 40)) [anExchange (.get 2 64 128)
       true], aRxPacket ltNack 0 (zeros 40), anExchange (.get 2 64 128) true, rfl, by decide +kernel⟩⟩


/-! ## Public-key engines and payment -/

/-- What is not an error is its value. -/
def okOr {ε α : Type} (d : α) : Except ε α → α
  | .ok x => x
  | .error _ => d
def isFine {ε α : Type} : Except ε α → Bool
  | .ok _ => true
  | .error _ => false
theorem eq_okOr {ε α : Type} {x : Except ε α} (d : α) (h : isFine x = true) : x = .ok (okOr d x) := by
  cases x with
  | ok y => rfl
  | error e => cases h

/-- What tenant 1 holds of a public-key key: Ed25519, and RSA-2048. -/
def edHeld : HeldKey :=
    { handle := 0x1000_0400, attr := signRecord.attr, noncePrefix := 0, material := List.replicate 64 4, pubOnly := false }
def rsaEntry : SessionEntry := { deriveEntry with attr := 0x0000_3001_0000_8010, material := zeros 1024 }
def rsaHeld : HeldKey := { handle := 0x2000_0700, attr := rsaEntry.attr, noncePrefix := 0, material := zeros 1024, pubOnly := false }

/-- Service of tenant 1 with engine 7 in the plan and a window on it. -/
def signing : State :=
  { vaulted with
    plan := { vaulted.plan with running := { vaulted.plan.running with
      pke := [{ engine := 7, pinned := false, fused := false, owner := 0, slotL := 0, longOk := true }]
      windows := [{ engine := 7, tenant := 1, firstSlot := 0, slotCount := 8 }] } }
    cfb :=
        { vaulted.cfb with furrows := List.replicate 20 { genA := maskGen 0 false, genB := maskGen 0 false, fences := 0, blocks := 0, reseeds := 0 } }
        }

/-- A public-key item, and its work on engine 7. -/
def pkItem (op scheme : Nat) (h : HeldKey) : Item :=
  { runningVf op [(8, leBytes 4 h.handle.toNat), (16, [BitVec.ofNat 8 scheme]), (20, leBytes 4 256), (32, leBytes 8 0x1000), (40, leBytes 4 64)] with
    claim := { Claim.none with keys := [h], cistern := some (7, 2000, 64) }
    bufs := [(0, [1] ++ zeros 255)] }
def pkWork (stage : PkStage) (status : BitVec 16) (cycles : Nat) : PkWork :=
  { item := 0, engine := 7, stage := stage, status := status, out := zeros 64, body := [], jobs := 0, cycles := cycles }

/-- A state with one work, and with engine 7 in a state of its own. -/
def working (w : PkWork) (s : State) : State := { s with pke := { s.pke with work := [w] } }
def onEngine7 (k : PkEngine) (s : State) : State := { s with pke := { s.pke with engines := List.replicate 7 PkEngine.reset ++ [k] } }
def aJob (long : Bool) (cycles : Nat) : PkJob := { item := 0, long := long, cycles := cycles }
def busyEngine (j : PkJob) : PkEngine := { PkEngine.reset with running := some j }

/-- The words of an arithmetic program, and its item. -/
def aProgram (last : Nat) : List Byte := leBytes 8 5 ++ leBytes 8 77 ++ leBytes 8 last
def clearWord : Nat := 6 + 7 * 2 ^ 4 + 4 * 2 ^ 52
def progItem (last : Nat) : Item :=
  { runningVf 0x0304 [(16, [7]), (18, [0xFF, 0xFF]), (20, leBytes 4 3), (32, leBytes 8 0x1000), (40, leBytes 4 1), (44, [7, 0, 1, 0])] with
    bufs := [(0, aProgram last), (0x1000, zeros 32)] }
def aWindow : PkeWindow := { engine := 7, tenant := 1, firstSlot := 0, slotCount := 8 }
def commands (last : Nat) : List (Nat × ProgWord × Nat) :=
  match progParse 4 8 0 (progWords (aProgram last)) with
  | .inl cs => cs
  | .inr _ => []

/-- The item that a PK_ABORT ends, and the abort. -/
def victim : Item := { runningVf 0x0301 [] with phase := .yielded .engine, id := 0 }
def aborter : Item := { runningVf 0x0305 [] with id := 1 }

/-- Payment items: TDES keys, and an item with a furrow's share. -/
def tdesHeld (h : Word) : HeldKey :=
  { handle := h, attr := 0x0000_0801_0000_0202, noncePrefix := 0, material := (List.range 16).map fun i => BitVec.ofNat 8 (2 * i + 1), pubOnly := false }
def payItem (op : Nat) (fields : List (Nat × List Byte)) : Item :=
  { runningVf op ([(8, leBytes 4 0x1000_0900), (16, leBytes 4 0x1000_0A00),
      (40, [0x43, 0x21, 0x98, 0x76, 0x54, 0x32, 0x10, 0x98, 0xFF, 0xFF])] ++ fields) with
    claim := { Claim.none with keys := [tdesHeld 0x1000_0900, tdesHeld 0x1000_0A00], shares := [(19, 1)] }
    bufs := [(0x1000, zeros 48)] }

/-- The item of a KEYBLOCK_IMPORT with a block of a data key, and of a KEYBLOCK_EXPORT. -/
def importItem : Item :=
  { payItem 0x0406 [(16, zeros 4), (20, leBytes 4 64), (24, leBytes 8 0x2000), (32, [2, 0, 0, 0])] with
    bufs := [(0x2000, [0x44, 0x30, 0x30, 0x36, 0x34, 0x44, 0x30, 0x41, 0x42] ++ List.replicate 55 0x30)] }
def kbHeld : HeldKey := { tdesHeld 0x1000_0900 with attr := 0x0000_0201_0000_1020, material := List.replicate 32 5 }
def dataHeld : HeldKey := { tdesHeld 0x1000_0A00 with attr := 0x0000_0201_0200_0301, material := List.replicate 32 3 }
def exportItem : Item :=
  { payItem 0x0407 [(20, leBytes 4 9), (24, leBytes 4 4096), (32, [0x44, 0x4E, 0x44, 0x30, 0x42])] with
    claim := { Claim.none with keys := [kbHeld, dataHeld] } }

/-- The same with an approval of it that has its quorum. -/
def approving : State :=
  { signing with ctl := { signing.ctl with
      tenantRosters := [(1, { m := 1, handles := [] })]
      approvals := [(1, { session := 9, subject := exportItem.subject 20 [], nonce := zeros 32, opened := 0, counted := [1] })] } }

/-- The state in which the approval has been consumed. -/
def approved : State :=
  let s := holding approving exportItem
  { s with
    ctl :=
        { s.ctl with approvals := s.ctl.approvals.filter fun x => !(x.1 == exportItem.tenantByte && x.2.session == exportItem.approvalField) }
    pay := { s.pay with approvals := s.pay.approvals + 1 } }

/-- States and operands that meet the hypotheses of the part `PublicKeyItemsOpenTheirWindow` of `Obligations.PublicKeyWorkIsDone`, clause by
clause. -/
theorem test_witness_PublicKeyItemsOpenTheirWindow :
    (∃ (s : State) (it : Item) (op e f n : Nat), (op = 0x0301 ∨ op = 0x0302 ∨ op = 0x0303) ∧ s.Runs it op ∧ it.claimed =
        true ∧ s.workOf it.id = none ∧ s.pkLengths it (s.keyAlg it.key) = none ∧ it.claim.cistern = some (e, f, n)) ∧
    (∃ (s : State) (it : Item) (w : PkWork), s.Runs it 0x0301 ∧ it.claimed = true ∧ s.workOf it.id = some w ∧ w.stage =
        .complete ∧ w.status = stOk) :=
  ⟨⟨holding signing (pkItem 0x0301 2 edHeld), pkItem 0x0301 2 edHeld, 0x0301, 7, 2000, 64, by decide +kernel, ⟨rfl, rfl,
      rfl⟩, by decide +kernel, by decide +kernel, by decide +kernel, by decide +kernel⟩,
   ⟨working (pkWork .complete stOk 53000) (holding signing (pkItem 0x0301 2 edHeld)), pkItem 0x0301 2 edHeld, pkWork
       .complete stOk 53000, ⟨rfl, rfl, rfl⟩, by decide +kernel, by decide +kernel, by decide +kernel, by decide +kernel⟩⟩

/-- States and operands that meet the hypotheses of the part `ValidationWindowsEnd` of `Obligations.PublicKeyWorkIsDone`, clause by
clause. -/
theorem test_witness_ValidationWindowsEnd :
    (∃ (s : State) (it : Item) (w : PkWork) (a b : List Byte) (r : Status × List Byte × State) (n : Nat), s.Runs it
        it.opcode ∧ it.opcode ≠ 0x0502 ∧ s.workOf it.id = some w ∧ w.stage = .window ∧ s.pkInputs it (s.keyAlg it.key) =
        some (a, b) ∧ pkValidate it.opcode it.pkScheme (s.keyAlg it.key) (publicPart (s.keyAlg it.key) ((it.held
        it.key).any (·.pubOnly)) (it.material it.key)) a b = none ∧ r = s.pkResult it (s.keyAlg it.key) a b ∧ pkCycles
        it.opcode (s.keyAlg it.key) ((s.pkeEntry w.engine).any (·.fused)) = some n) ∧
    (∃ (s : State) (it : Item) (w : PkWork) (a b : List Byte) (st : Status), s.Runs it it.opcode ∧ it.opcode ≠ 0x0502 ∧
        it.opcode ≠ 0x0201 ∧ s.workOf it.id = some w ∧ w.stage = .window ∧ s.pkInputs it (s.keyAlg it.key) = some (a, b) ∧
        pkValidate it.opcode it.pkScheme (s.keyAlg it.key) (publicPart (s.keyAlg it.key) ((it.held it.key).any
        (·.pubOnly)) (it.material it.key)) a b = some st) ∧
    (∃ (s : State) (it : Item) (w : PkWork) (blob : List Byte), s.Runs it 0x0502 ∧ s.workOf it.id = some w ∧ w.stage =
        .window ∧ it.hostBytes (it.le 40 8) (it.le 32 4) = some blob) :=
  ⟨⟨working (pkWork .window stOk 0) (holding signing (pkItem 0x0301 2 edHeld)), pkItem 0x0301 2 edHeld, pkWork .window
      stOk 0, [1] ++ zeros 255, [], State.pkResult (working (pkWork .window stOk 0) (holding signing (pkItem 0x0301 2
      edHeld))) (pkItem 0x0301 2 edHeld) 0x28 ([1] ++ zeros 255) [], 53000, ⟨rfl, rfl, rfl⟩, by decide +kernel,
      by decide +kernel, by decide +kernel, by decide +kernel, by decide +kernel, rfl, by decide +kernel⟩,
   ⟨working (pkWork .window stOk 0) (holding
       ({ signing with vault := { signing.vault with sessions := [(7, rsaEntry)] } }) (pkItem 0x0301 5 rsaHeld)), pkItem
       0x0301 5 rsaHeld, pkWork .window stOk 0, [1] ++ zeros 255, [], stInputRange, ⟨rfl, rfl, rfl⟩, by decide +kernel,
       by decide +kernel, by decide +kernel, by decide +kernel, by decide +kernel, by decide +kernel⟩,
   ⟨working (pkWork .window stOk 0) (holding signing
       ({ runningVf 0x0502 [(16, [2, 0x28, 1]), (32, leBytes 4 44), (40, leBytes 8 0)] with bufs := [(0, zeros 44)] })),
       { runningVf 0x0502 [(16, [2, 0x28, 1]), (32, leBytes 4 44), (40, leBytes 8 0)] with bufs := [(0, zeros 44)] },
       pkWork .window stOk 0, zeros 44, ⟨rfl, rfl, rfl⟩, by decide +kernel, by decide +kernel, by decide +kernel⟩⟩

/-- States and operands that meet the hypotheses of the part `JobsCompleteAndYield` of `Obligations.PublicKeyWorkIsDone`, clause by
clause. -/
theorem test_witness_JobsCompleteAndYield :
    (∃ (s : State) (e : Nat) (k : PkEngine) (j : PkJob) (w : PkWork) (it : Item), s.pke.engines[e]? = some k ∧ k.running =
        some j ∧ s.workOf j.item = some w ∧ s.item j.item = some it ∧ it.id = j.item ∧ j.long = true) ∧
    (∃ (s : State) (e : Nat) (k : PkEngine) (j : PkJob) (w : PkWork) (it : Item), s.pke.engines[e]? = some k ∧ k.running =
        some j ∧ s.workOf j.item = some w ∧ s.item j.item = some it ∧ j.long = false ∧ it.opcode ≠ 0x0304 ∧ j.cycles <
        w.cycles) ∧
    (∃ (s : State) (e : Nat) (k : PkEngine) (j : PkJob) (w : PkWork) (it : Item), s.pke.engines[e]? = some k ∧ k.running =
        some j ∧ s.workOf j.item = some w ∧ s.item j.item = some it ∧ j.long = false ∧ it.opcode ≠ 0x0304 ∧ w.cycles ≤
        j.cycles) ∧
    (∃ (s : State) (e : Nat) (k : PkEngine) (j : PkJob), s.pke.engines[e]? = some k ∧ k.running = some j ∧ j.long = true ∧ k.shortQ ≠ []) ∧
    (∃ (s : State) (e : Nat) (_kind : BitVec 4) (k : PkEngine) (j : PkJob) (it : Item), s.pke.engines[e]? = some k ∧
        k.fenced = false ∧ s.oddFused e = false ∧ s.pke.erased = false ∧ k.running = some j ∧ s.item j.item = some it) :=
  ⟨⟨onEngine7 (busyEngine (aJob true 400000)) (working (pkWork .queued stOk 400000) (holding signing (pkItem 0x0301 2
      edHeld))), 7, busyEngine (aJob true 400000), aJob true 400000, pkWork .queued stOk 400000, pkItem 0x0301 2 edHeld,
      by decide +kernel, by decide +kernel, by decide +kernel, by decide +kernel, by decide +kernel, by decide +kernel⟩,
   ⟨onEngine7 (busyEngine (aJob false 160000)) (working (pkWork .queued stOk 160001) (holding signing (pkItem 0x0301 2
       edHeld))), 7, busyEngine (aJob false 160000), aJob false 160000, pkWork .queued stOk 160001, pkItem 0x0301 2
       edHeld, by decide +kernel, by decide +kernel, by decide +kernel, by decide +kernel, by decide +kernel,
       by decide +kernel, by decide +kernel⟩,
   ⟨onEngine7 (busyEngine (aJob false 53000)) (working (pkWork .queued stOk 53000) (holding signing (pkItem 0x0301 2
       edHeld))), 7, busyEngine (aJob false 53000), aJob false 53000, pkWork .queued stOk 53000, pkItem 0x0301 2 edHeld,
       by decide +kernel, by decide +kernel, by decide +kernel, by decide +kernel, by decide +kernel, by decide +kernel,
       by decide +kernel⟩,
   ⟨onEngine7 ({ busyEngine (aJob true 400000) with shortQ := [aJob false 1] }) (working (pkWork .queued stOk 400000)
       (holding signing (pkItem 0x0301 2 edHeld))), 7, { busyEngine (aJob true 400000) with shortQ := [aJob false 1] },
       aJob true 400000, by decide +kernel, by decide +kernel, by decide +kernel, by decide +kernel⟩,
   ⟨onEngine7 (busyEngine (aJob false 53000)) (working (pkWork .queued stOk 53000) (holding signing (pkItem 0x0301 2
       edHeld))), 7, 5#4, busyEngine (aJob false 53000), aJob false 53000, pkItem 0x0301 2 edHeld, by decide +kernel,
       by decide +kernel, by decide +kernel, by decide +kernel, by decide +kernel, by decide +kernel⟩⟩

/-- States and operands that meet the hypotheses of the part `ProgramsRunInTheirWindow` of `Obligations.ProgramsAndAborts`, clause by
clause. -/
theorem test_witness_ProgramsRunInTheirWindow :
    (∃ (s : State) (it : Item) (win : PkeWindow) (prog input : List Byte) (cs : List (Nat × ProgWord × Nat)) (n : Nat),
        s.Runs it 0x0304 ∧ it.claimed = true ∧ s.workOf it.id = none ∧ s.windowOf it.tenantByte it.progEngine = some win ∧
        it.hostBytes (it.le 24 8) (8 * it.progLen) = some prog ∧ it.hostBytes (it.le 32 8) (8 * s.engineL it.progEngine *
        it.progSlots) = some input ∧ it.progKeyDst = 0xFFFF ∧ progParse (s.engineL it.progEngine) win.slotCount 0
        (progWords prog) = .inl cs ∧ n = (cs.map fun c => progCycles ((s.pkeEntry it.progEngine).any (·.fused)) c.2.1).sum
        ∧ n ≤ 160000) ∧
    (∃ (s : State) (it : Item) (win : PkeWindow) (prog input : List Byte) (i : Nat), s.Runs it 0x0304 ∧ it.claimed = true
        ∧ s.workOf it.id = none ∧ s.windowOf it.tenantByte it.progEngine = some win ∧ it.hostBytes (it.le 24 8) (8 *
        it.progLen) = some prog ∧ it.hostBytes (it.le 32 8) (8 * s.engineL it.progEngine * it.progSlots) = some input ∧
        progParse (s.engineL it.progEngine) win.slotCount 0 (progWords prog) = .inr i) ∧
    (∃ (s : State) (it : Item) (w : PkWork) (win : PkeWindow) (cs : List (Nat × ProgWord × Nat)) (out : List Byte), s.Runs
        it 0x0304 ∧ it.claimed = true ∧ s.workOf it.id = some w ∧ w.stage = .complete ∧ s.windowOf it.tenantByte
        it.progEngine = some win ∧ progParse (s.engineL it.progEngine) win.slotCount 0 (progWords w.out) = .inl cs ∧
        progRun (s.engineL it.progEngine) (s.windowBytes win) cs = (out, none)) :=
  ⟨⟨holding signing (progItem clearWord), progItem clearWord, aWindow, aProgram clearWord, zeros 32, commands clearWord,
      ((commands clearWord).map fun c => progCycles ((State.pkeEntry (holding signing (progItem clearWord)) 7).any
      (·.fused)) c.2.1).sum, ⟨rfl, rfl, rfl⟩, by decide +kernel, by decide +kernel, by decide +kernel, by decide +kernel,
      by decide +kernel, by decide +kernel, by decide +kernel, rfl, by decide +kernel⟩,
   ⟨holding signing (progItem 0), progItem 0, aWindow, aProgram 0, zeros 32, 2, ⟨rfl, rfl, rfl⟩, by decide +kernel,
       by decide +kernel, by decide +kernel, by decide +kernel, by decide +kernel, by decide +kernel⟩,
   ⟨working ({ pkWork .complete stOk 300 with out := aProgram clearWord }) (holding signing (progItem clearWord)),
       progItem clearWord, { pkWork .complete stOk 300 with out := aProgram clearWord }, aWindow, commands clearWord,
       (progRun 4 (State.windowBytes (working ({ pkWork .complete stOk 300 with out := aProgram clearWord }) (holding
       signing (progItem clearWord))) aWindow) (commands clearWord)).1, ⟨rfl, rfl, rfl⟩, by decide +kernel,
       by decide +kernel, by decide +kernel, by decide +kernel, by decide +kernel, by decide +kernel⟩⟩

/-- States and operands that meet the hypotheses of the part `AbortEndsMatchingItems` of `Obligations.ProgramsAndAborts`, clause by
clause. -/
theorem test_witness_AbortEndsMatchingItems : ∃ (s : State) (it : Item) (n : Nat), s.Runs it 0x0305 ∧ n =
    (s.itemList.filter (abortHits it)).length :=
  ⟨holding (holding signing victim) aborter, aborter, 1, ⟨rfl, rfl, rfl⟩, by decide +kernel⟩

/-- States and operands that meet the hypotheses of the part `PinOpcodes` of `Obligations.PinMacAndCryptogramOpcodes`, clause by
clause. -/
theorem test_witness_PinOpcodes :
    (∃ (s : State) (it : Item) (k : List Byte), PayReady s it 0x0401 ∧ it.payKey dukptPin = some k) ∧
    (∃ (s : State) (it : Item) (k params : List Byte), PayReady s it 0x0402 ∧ it.pinParams = some params ∧ it.payKey dukptPin = some k) ∧
    (∃ (s : State) (it : Item), PayReady s it 0x0401 ∧ it.payKey dukptPin = none) :=
  ⟨⟨holding (signing) (payItem 0x0401 [(20, [0, 1])]), payItem 0x0401 [(20, [0, 1])], (tdesHeld 0).material,
      (by unfold PayReady State.Runs; decide +kernel), by decide +kernel⟩,
   ⟨holding (signing) (payItem 0x0402 [(20, [0, 1]), (52, leBytes 8 0x1000)]), payItem 0x0402 [(20, [0, 1]), (52, leBytes
       8 0x1000)], (tdesHeld 0).material, zeros 48, (by unfold PayReady State.Runs; decide +kernel), by decide +kernel,
       by decide +kernel⟩,
   ⟨holding (signing) (payItem 0x0401 [(20, [4, 4, 1])]), payItem 0x0401 [(20, [4, 4, 1])],
       (by unfold PayReady State.Runs; decide +kernel), by decide +kernel⟩⟩

/-- States and operands that meet the hypotheses of the part `MacAndCryptogramOpcodes` of `Obligations.PinMacAndCryptogramOpcodes`, clause by
clause. -/
theorem test_witness_MacAndCryptogramOpcodes :
    (∃ (s : State) (it : Item) (msg k : List Byte), PayReady s it 0x0403 ∧ it.macInput = some msg ∧ it.payKey dukptMacGen = some k) ∧
    (∃ (s : State) (it : Item) (msg k : List Byte), PayReady s it 0x0404 ∧ it.macInput = some msg ∧ it.payKey dukptMacVer = some k) ∧
    (∃ (s : State) (it : Item) (data mk sk : List Byte) (aes : Bool), PayReady s it 0x0405 ∧ it.macInput = some data ∧ aes
        = !it.tdesKey it.key ∧ mk = iccKey aes (it.material it.key) it.pan (nibbles (slice it.desc 17 1)) ∧ sk =
        emvSession aes mk (slice it.desc 18 2)) :=
  ⟨⟨holding (signing) (payItem 0x0403 [(16, [3, 1, 8]), (20, leBytes 4 48), (24, leBytes 8 0x1000)]), payItem 0x0403 [(16,
      [3, 1, 8]), (20, leBytes 4 48), (24, leBytes 8 0x1000)], zeros 48, (tdesHeld 0).material,
      (by unfold PayReady State.Runs; decide +kernel), by decide +kernel, by decide +kernel⟩,
   ⟨holding (signing) (payItem 0x0404 [(16, [3, 1, 8]), (20, leBytes 4 48), (24, leBytes 8 0x1000)]), payItem 0x0404 [(16,
       [3, 1, 8]), (20, leBytes 4 48), (24, leBytes 8 0x1000)], zeros 48, (tdesHeld 0).material,
       (by unfold PayReady State.Runs; decide +kernel), by decide +kernel, by decide +kernel⟩,
   ⟨holding (signing) (payItem 0x0405 [(16, [1, 0x12]), (18, [0, 7]), (20, leBytes 4 48), (24, leBytes 8 0x1000)]),
       payItem 0x0405 [(16, [1, 0x12]), (18, [0, 7]), (20, leBytes 4 48), (24, leBytes 8 0x1000)], zeros 48, iccKey false
       ((tdesHeld 0).material) (Item.pan (payItem 0x0405 [(16, [1, 0x12]), (18, [0, 7]), (20, leBytes 4 48), (24, leBytes
       8 0x1000)])) (nibbles [0x12]), emvSession false (iccKey false ((tdesHeld 0).material) (Item.pan (payItem 0x0405
       [(16, [1, 0x12]), (18, [0, 7]), (20, leBytes 4 48), (24, leBytes 8 0x1000)])) (nibbles [0x12])) [0, 7], false,
       (by unfold PayReady State.Runs; decide +kernel), by decide +kernel, by decide +kernel, (congrArg₂ (iccKey false · ·
       (nibbles [0x12])) rfl rfl), rfl⟩⟩

/-- States and operands that meet the hypotheses of `Obligations.KeyBlockOpcodes`, clause by clause. -/
theorem test_witness_KeyBlockOpcodes :
    (∃ (s s' : State) (it : Item) (b : List Byte), s.Runs it 0x0406 ∧ it.claimed = true ∧ s.maskWaits it = false ∧
        it.keyBlock = some b ∧ s.payApproval it 16 b = some s' ∧ s'.item it.id = some it) ∧
    (∃ (s s' s2 : State) (it : Item) (b : List Byte), s.Runs it 0x0407 ∧ it.claimed = true ∧ s.maskWaits it = false ∧
        s.payApproval it 20 [] = some s' ∧ s'.kbExport it = .ok (b, s2) ∧ b.length ≤ it.le 24 4) ∧
    (∃ (s : State) (it : Item), s.Runs it 0x0407 ∧ it.claimed = true ∧ s.maskWaits it = false ∧ s.payApproval it 20 [] = none) :=
  ⟨⟨holding signing importItem, holding signing importItem, importItem, [0x44, 0x30, 0x30, 0x36, 0x34, 0x44, 0x30, 0x41,
      0x42] ++ List.replicate 55 0x30, ⟨rfl, rfl, rfl⟩, by decide +kernel, by decide +kernel, by decide +kernel, (if_neg
      (by decide +kernel)), by decide +kernel⟩,
   ⟨holding approving exportItem, approved, (okOr ([], holding approving exportItem) ((approved).kbExport exportItem)).2,
       exportItem, (okOr ([], holding approving exportItem) ((approved).kbExport exportItem)).1, ⟨rfl, rfl, rfl⟩,
       by decide +kernel, by decide +kernel, ((if_pos rfl).trans (if_pos ⟨by decide, rfl⟩)), (eq_okOr ([], holding
       approving exportItem) (by decide +kernel)), by decide +kernel⟩,
   ⟨holding signing exportItem, exportItem, ⟨rfl, rfl, rfl⟩, by decide +kernel, by decide +kernel,
       (Option.isNone_iff_eq_none.mp (by decide +kernel))⟩⟩


/-! ## Cards, ceremonies and approvals -/

/-- An officer's public key, and the service of its tenant with remote officers. -/
def officerRecord : KeyRecord := { keyRecord 0x0000_2001_0001_0010 (zeros 64) with pubOnly := true }
def officered : State :=
  { signing with
    plan := { signing.plan with running := { signing.plan.running with tenants := [{ tenant1 with remoteOfficers := true }] } }
    vault := { signing.vault with records := signing.vault.records ++ [(8, officerRecord), (9, officerRecord)] } }

/-- An approval session of tenant 1, with and without a roster beside it. -/
def anApproval (n : Word) (counted : List Word) : Approval :=
  { session := n, subject := zeros 32, nonce := zeros 8, opened := 0, counted := counted }
def aTenantRoster : TenantRoster := { m := 2, handles := [0x1000_0800, 0x1000_0900] }
def withApprovals (xs : List (Byte × Approval)) : State :=
  { officered with ctl := { officered.ctl with tenantRosters := [(1, aTenantRoster)], approvals := xs, nextApproval := [(1, 16)] } }

/-- The items of the ceremony opcodes, for session 9. -/
def cardItem : Item := running 0x0721 [(16, leBytes 4 9), (20, [3]), (24, [0x31, 0x32, 0x33, 0x34, 0xFF, 0xFF, 0xFF, 0xFF])]
def applyItem (d : List Byte) : Item :=
  { running 0x0723 [(16, leBytes 4 9), (20, leBytes 4 32), (24, leBytes 8 4096)] with bufs := [(4096, d)] }

/-- Session 9 on the service of a charged part, and with port 3 in a state of its own. -/
def atPort (p : CardPort) (c : Ceremony) : State := (withCeremony signing c).setPort 3 p
def stepping (w : CardWait) (ph : BitVec 3) : CardPort :=
  { CardPort.reset with present := true, powered := true, step := some 0, wait := w, phase := ph, officer := 3, lesengo := true }

/-- A first roster's component, and its session. -/
def aComponent : List Byte := [1, 2] ++ zeros 30
def componentSession : Ceremony :=
  { aCeremony 9 0x01 (sha256 aComponent) with
    aux := 0x01
    passed := [{ officer := 1, pubKey := zeros 96 }, { officer := 2, pubKey := List.replicate 96 1 }] }

/-- States and operands that meet the hypotheses of the part `CeremonySessionsOpenAndClose` of `Obligations.CeremonySessionsAreKept`, clause by
clause. -/
theorem test_witness_CeremonySessionsOpenAndClose :
    (∃ (s : State) (it : Item) (c : Ceremony), s.Runs it 0x0720 ∧ 1 ≤ it.byte 16 ∧ it.byte 16 ≤ 8 ∧ auxOk (it.byte 16)
        (it.byte 17) = true ∧ it.le 18 2 ≤ 300 ∧ zeroRange it.desc 20 24 = true ∧ zeroRange it.desc 56 64 = true ∧
        s.sys.phase = .service ∧ s.ceremonyOpen = false ∧ (s.ctl.roster ≠ [] ∨ (it.byte 16 = 0x01 ∧ it.byte 17 = 0x01)) ∧
        c =
        { session := s.ctl.nextSession, kind := it.byte 16, aux := it.byte 17, subject := slice it.desc 24 32, nonce := (s.draw 8).1, opened := s.sys.tick, limitS := if it.le 18 2 = 0 then 300 else it.le 18 2, counted := [], passed := [], components := [], isOpen := true })
        ∧
    (∃ (s : State) (it : Item) (c : Ceremony), s.Runs it 0x0722 ∧ zeroRange it.desc 20 64 = true ∧ s.openSession it.cerSession = some c) ∧
    (∃ (s : State) (it : Item), s.Runs it 0x0722 ∧ zeroRange it.desc 20 64 = true ∧ s.openSession it.cerSession = none) ∧
    (∃ (s : State) (c : Ceremony), s.ctl.session = some c ∧ c.isOpen = true) :=
  ⟨⟨holding vaulted (running 0x0720 [(16, [1, 1]), (18, leBytes 2 300)]), running 0x0720 [(16, [1, 1]), (18, leBytes 2
      300)],
      { session := (holding vaulted (running 0x0720 [(16, [1, 1]), (18, leBytes 2 300)])).ctl.nextSession, kind := 1, aux := 1, subject := slice (running 0x0720 [(16, [1, 1]), (18, leBytes 2 300)]).desc 24 32, nonce := ((holding vaulted (running 0x0720 [(16, [1, 1]), (18, leBytes 2 300)])).draw 8).1, opened := (holding vaulted (running 0x0720 [(16, [1, 1]), (18, leBytes 2 300)])).sys.tick, limitS := 300, counted := [], passed := [], components := [], isOpen := true },
      ⟨rfl, rfl, rfl⟩, by decide +kernel, by decide +kernel, by decide +kernel, by decide +kernel, by decide +kernel,
      by decide +kernel, by decide +kernel, by decide +kernel, by decide +kernel, rfl⟩,
   ⟨holding (withCeremony signing (aCeremony 9 0x06 (zeros 32))) (running 0x0722 [(16, leBytes 4 9)]), running 0x0722
       [(16, leBytes 4 9)], aCeremony 9 0x06 (zeros 32), ⟨rfl, rfl, rfl⟩, by decide +kernel, by decide +kernel⟩,
   ⟨holding (withCeremony signing (aCeremony 8 0x06 (zeros 32))) (running 0x0722 [(16, leBytes 4 9)]), running 0x0722
       [(16, leBytes 4 9)], ⟨rfl, rfl, rfl⟩, by decide +kernel, by decide +kernel⟩,
   ⟨withCeremony signing (aCeremony 9 0x06 (zeros 32)), aCeremony 9 0x06 (zeros 32), by decide +kernel, by decide +kernel⟩⟩

/-- States and operands that meet the hypotheses of the part `CardStepsRunOnTheirPort` of `Obligations.CardStepsAndPorts`, clause by
clause. -/
theorem test_witness_CardStepsRunOnTheirPort :
    (∃ (s : State) (it : Item) (c : Ceremony), s.Runs it 0x0721 ∧ it.byte 20 ≤ 3 ∧ zeroRange it.desc 21 24 = true ∧
        zeroRange it.desc 32 64 = true ∧ pinFieldOk (slice it.desc 24 8) = true ∧ s.openSession it.cerSession = some c ∧
        s.eligible none 0x20 false ≠ [] ∧ s.ctl.ports.length = 4 ∧ (s.port (it.byte 20)).step = none ∧ (s.port (it.byte
        20)).queue = []) ∧
    (∃ (s : State) (it : Item) (c : Ceremony) (id : Nat), s.Runs it 0x0721 ∧ it.byte 20 ≤ 3 ∧ zeroRange it.desc 21 24 =
        true ∧ zeroRange it.desc 32 64 = true ∧ pinFieldOk (slice it.desc 24 8) = true ∧ s.openSession it.cerSession =
        some c ∧ s.eligible none 0x20 false ≠ [] ∧ s.ctl.ports.length = 4 ∧ (s.port (it.byte 20)).step = some id) ∧
    (∃ (s : State) (port : Nat) (it : Item) (_st : Status) (_n _f : Nat) (_u : Word), port < s.ctl.ports.length ∧ (s.port
        port).step = some it.id ∧ (s.port port).queue = [] ∧ s.item it.id = some it ∧ it.phase = .yielded .card) :=
  ⟨⟨holding (atPort CardPort.reset (aCeremony 9 0x06 (zeros 32))) (cardItem), cardItem, aCeremony 9 0x06 (zeros 32), ⟨rfl,
      rfl, rfl⟩, by decide +kernel, by decide +kernel, by decide +kernel, by decide +kernel, by decide +kernel,
      by decide +kernel, by decide +kernel, by decide +kernel, by decide +kernel⟩,
   ⟨holding (atPort { stepping .pin 0x2 with step := some 7 } (aCeremony 9 0x06 (zeros 32))) (cardItem), cardItem,
       aCeremony 9 0x06 (zeros 32), 7, ⟨rfl, rfl, rfl⟩, by decide +kernel, by decide +kernel, by decide +kernel,
       by decide +kernel, by decide +kernel, by decide +kernel, by decide +kernel, by decide +kernel⟩,
   ⟨holding (atPort (stepping .pin 0x2) (aCeremony 9 0x06 (zeros 32))) ({ cardItem with phase := .yielded .card }), 3,
       { cardItem with phase := .yielded .card }, stCardProtocol, 0, 0, 0#32, by decide +kernel, by decide +kernel,
       by decide +kernel, by decide +kernel, by decide +kernel⟩⟩

/-- States and operands that meet the hypotheses of `Obligations.CardRepliesDriveTheStep`, clause by clause. -/
theorem test_witness_CardRepliesDriveTheStep :
    (∃ (s : State) (port : Nat) (it : Item) (_o : Word) (_k : List Byte), (s.port port).step = some it.id ∧ s.item it.id =
        some it ∧ (s.port port).wait = .select) ∧
    (∃ (s : State) (port : Nat) (it : Item) (c : Ceremony), (s.port port).step = some it.id ∧ s.item it.id = some it ∧
        (s.port port).wait = .pin ∧ s.openSession it.cerSession = some c) ∧
    (∃ (s : State) (port : Nat) (it : Item), (s.port port).step = some it.id ∧ s.item it.id = some it ∧ (s.port port).wait = .pin) ∧
    (∃ (s : State) (port : Nat) (it : Item) (c : Ceremony) (key _sig : List Byte) (_n : Word), port < s.ctl.ports.length ∧
        (s.port port).step = some it.id ∧ s.item it.id = some it ∧ (s.port port).wait = .sign ∧ s.openSession
        it.cerSession = some c ∧ s.rostered (s.port port).officer = some key ∧ c.counted.contains (s.port port).officer =
        false) ∧
    (∃ (s : State) (port : Nat), (s.port port).step.isSome = true ∧ ((s.port port).wait = .select ∨ (s.port port).wait =
        .pin ∨ (s.port port).wait = .sign)) ∧
    (∃ (s : State) (port : Nat), (s.port port).step.isSome = true ∧ (s.port port).wait = .atr ∧ (s.port port).classB = false) ∧
    (∃ (s : State) (port id : Nat), (s.port port).step = some id ∧ (s.port port).wait = .classRetry) ∧
    (∃ (s : State) (port : Nat), (s.port port).step.isSome = true ∧ ((s.port port).phase = 0x2 ∨ (s.port port).phase = 0x3)) ∧
    (∃ (s : State) (port : Nat), (s.port port).powered = true) :=
  ⟨⟨holding (atPort (stepping .select 0x2) (aCeremony 9 0x06 (zeros 32))) ({ cardItem with phase := .yielded .card }), 3,
      { cardItem with phase := .yielded .card }, 3#32, zeros 96, by decide +kernel, by decide +kernel, by decide +kernel⟩,
   ⟨holding (atPort (stepping .pin 0x2) (aCeremony 9 0x06 (zeros 32))) ({ cardItem with phase := .yielded .card }), 3,
       { cardItem with phase := .yielded .card }, aCeremony 9 0x06 (zeros 32), by decide +kernel, by decide +kernel,
       by decide +kernel, by decide +kernel⟩,
   ⟨holding (atPort (stepping .pin 0x2) (aCeremony 9 0x06 (zeros 32))) ({ cardItem with phase := .yielded .card }), 3,
       { cardItem with phase := .yielded .card }, by decide +kernel, by decide +kernel, by decide +kernel⟩,
   ⟨holding (atPort (stepping .sign 0x2) (aCeremony 9 0x06 (zeros 32))) ({ cardItem with phase := .yielded .card }), 3,
       { cardItem with phase := .yielded .card }, aCeremony 9 0x06 (zeros 32), List.replicate 96 2, zeros 96, 5#32,
       by decide +kernel, by decide +kernel, by decide +kernel, by decide +kernel, by decide +kernel, by decide +kernel,
       by decide +kernel⟩,
   ⟨holding (atPort (stepping .sign 0x3) (aCeremony 9 0x06 (zeros 32))) ({ cardItem with phase := .yielded .card }), 3,
       by decide +kernel, by decide +kernel⟩,
   ⟨holding (atPort (stepping .atr 0x1) (aCeremony 9 0x06 (zeros 32))) ({ cardItem with phase := .yielded .card }), 3,
       by decide +kernel, by decide +kernel, by decide +kernel⟩,
   ⟨holding (atPort (stepping .classRetry 0x0) (aCeremony 9 0x06 (zeros 32))) ({ cardItem with phase := .yielded .card }),
       3, 0, by decide +kernel, by decide +kernel⟩,
   ⟨holding (atPort (stepping .sign 0x3) (aCeremony 9 0x06 (zeros 32))) ({ cardItem with phase := .yielded .card }), 3,
       by decide +kernel, by decide +kernel⟩,
   ⟨holding (atPort (stepping .sign 0x3) (aCeremony 9 0x06 (zeros 32))) ({ cardItem with phase := .yielded .card }), 3, by decide +kernel⟩⟩

/-- States and operands that meet the hypotheses of the part `CardsComeAndGo` of `Obligations.CardStepsAndPorts`, clause by
clause. -/
theorem test_witness_CardsComeAndGo :
    (∃ (s : State) (port : Nat), port < 4 ∧ s.ctl.ports.length = 4 ∧ (s.port port).present = false ∧ s.portsRun = true) ∧
    (∃ (s : State) (port : Nat), port < 4 ∧ s.ctl.ports.length = 4 ∧ (s.port port).present = true ∧ s.portsRun = true ∧
        ((s.port port).phase = 0x5 ∨ (s.port port).step = none)) :=
  ⟨⟨atPort CardPort.reset (aCeremony 9 0x06 (zeros 32)), 3, by decide +kernel, by decide +kernel, by decide +kernel, by decide +kernel⟩,
   ⟨holding (atPort (stepping .sign 0x5) (aCeremony 9 0x06 (zeros 32))) ({ cardItem with phase := .yielded .card }), 3,
       by decide +kernel, by decide +kernel, by decide +kernel, by decide +kernel, by decide +kernel⟩⟩

/-- States and operands that meet the hypotheses of the part `CeremoniesAreApplied` of `Obligations.CeremonySessionsAreKept`, clause by
clause. -/
theorem test_witness_CeremoniesAreApplied :
    (∃ (s : State) (it : Item) (d : List Byte) (c : Ceremony) (a : StoreAction), s.Runs it 0x0723 ∧ zeroRange it.desc 32
        64 = true ∧ it.le 24 8 % 64 = 0 ∧ it.hostBytes (it.le 24 8) (it.le 20 4) = some d ∧ it.stage = 0 ∧ s.openSession
        it.cerSession = some c ∧ c.kind = 0x01 ∧ sha256 d = c.subject ∧ s.hasQuorum c = true ∧ c.loadComponent d = .ok a ∧
        StoreReady s a) ∧
    (∃ (s : State) (it : Item) (d : List Byte) (c : Ceremony), s.Runs it 0x0723 ∧ zeroRange it.desc 32 64 = true ∧ it.le
        24 8 % 64 = 0 ∧ it.hostBytes (it.le 24 8) (it.le 20 4) = some d ∧ it.stage = 0 ∧ s.openSession it.cerSession =
        some c ∧ c.kind = 0x06 ∧ sha256 d = c.subject ∧ s.hasQuorum c = true) ∧
    (∃ (s : State) (it : Item) (d : List Byte) (c : Ceremony), s.Runs it 0x0723 ∧ zeroRange it.desc 32 64 = true ∧ it.le
        24 8 % 64 = 0 ∧ it.hostBytes (it.le 24 8) (it.le 20 4) = some d ∧ it.stage = 0 ∧ s.openSession it.cerSession =
        some c ∧ (c.kind = 0x01 ∨ c.kind = 0x03 ∨ c.kind = 0x06 ∨ c.kind = 0x07) ∧ sha256 d = c.subject ∧ s.hasQuorum c =
        false) ∧
    (∃ (s : State) (it : Item) (d : List Byte), s.Runs it 0x0723 ∧ zeroRange it.desc 32 64 = true ∧ it.le 24 8 % 64 = 0 ∧
        it.hostBytes (it.le 24 8) (it.le 20 4) = some d ∧ it.stage = 3) :=
  ⟨⟨holding (withCeremony signing componentSession) (applyItem aComponent), applyItem aComponent, aComponent,
      componentSession, .roster 2 componentSession.passed, ⟨rfl, rfl, rfl⟩, by decide +kernel, by decide +kernel,
      by decide +kernel, by decide +kernel, rfl, by decide +kernel, rfl, by decide +kernel, rfl,
      (by unfold StoreReady; decide +kernel)⟩,
   ⟨holding (withCeremony signing (aCeremony 9 0x06 (sha256 (zeros 32)))) (applyItem (zeros 32)), applyItem (zeros 32),
       zeros 32, aCeremony 9 0x06 (sha256 (zeros 32)), ⟨rfl, rfl, rfl⟩, by decide +kernel, by decide +kernel,
       by decide +kernel, by decide +kernel, rfl, by decide +kernel, rfl, by decide +kernel⟩,
   ⟨holding (withCeremony signing { aCeremony 9 0x06 (sha256 (zeros 32)) with counted := [1] }) (applyItem (zeros 32)),
       applyItem (zeros 32), zeros 32, { aCeremony 9 0x06 (sha256 (zeros 32)) with counted := [1] }, ⟨rfl, rfl, rfl⟩,
       by decide +kernel, by decide +kernel, by decide +kernel, by decide +kernel, rfl, by decide +kernel, rfl,
       by decide +kernel⟩,
   ⟨holding (signing) ({ applyItem (zeros 32) with stage := 3 }), { applyItem (zeros 32) with stage := 3 }, zeros 32,
       ⟨rfl, rfl, rfl⟩, by decide +kernel, by decide +kernel, by decide +kernel, by decide +kernel⟩⟩

/-- States and operands that meet the hypotheses of `Obligations.ApprovalOpcodes`, clause by clause. -/
theorem test_witness_ApprovalOpcodes :
    (∃ (s : State) (it : Item) (r : TenantRoster) (n : Nat), s.Runs it 0x0510 ∧ zeroRange it.desc 48 64 = true ∧
        s.remoteOfficers it.tenantByte = true ∧ tabGet s.ctl.tenantRosters it.tenantByte.toNat = some r ∧
        (s.ctl.approvals.filter (·.1 == it.tenantByte)).length < 16 ∧ n = tabGetD s.ctl.nextApproval it.tenantByte.toNat
        1) ∧
    (∃ (s : State) (it : Item) (sig : List Byte) (a : Approval) (r : TenantRoster) (k : KeyView), s.Runs it 0x0511 ∧
        zeroRange it.desc 32 64 = true ∧ it.le 24 8 % 8 = 0 ∧ s.remoteOfficers it.tenantByte = true ∧ it.hostBytes (it.le
        24 8) 64 = some sig ∧ s.approvalOf it.tenantByte it.cerSession = some a ∧ tabGet s.ctl.tenantRosters
        it.tenantByte.toNat = some r ∧ r.handles.contains it.key = true ∧ s.checkHandle it.tenantByte it.key = none ∧
        s.useCheck it.key [useVerify] [engPke] 0 = none ∧ s.keyView it.key = some k ∧ a.counted.contains it.key = false) ∧
    (∃ (s : State) (it : Item) (list : List Byte) (a : StoreAction), s.Runs it 0x0512 ∧ 2 ≤ it.byte 16 ∧ it.byte 16 ≤ 8 ∧
        it.byte 16 ≤ it.byte 17 ∧ it.byte 17 ≤ 8 ∧ zeroRange it.desc 18 20 = true ∧ zeroRange it.desc 32 64 = true ∧
        s.remoteOfficers it.tenantByte = true ∧ tabGet s.ctl.tenantRosters it.tenantByte.toNat = none ∧ it.le 20 4 = 0 ∧
        it.hostBytes (it.le 24 8) (4 * it.byte 17) = some list ∧ ((chunks 4 list).map fun b => BitVec.ofNat 32 (ofLe
        b)).findSome? (s.officerHandle it.tenantByte) = none ∧ s.quotaLeft it.tenantByte 1 = true ∧ a = .tenantRoster
        it.tenantByte (it.byte 16) ((chunks 4 list).map fun b => BitVec.ofNat 32 (ofLe b)) ∧ StoreReady s a) :=
  ⟨⟨holding (withApprovals ((List.range 15).map fun i => ((1 : Byte), anApproval (BitVec.ofNat 32 (i + 1)) [])))
      (runningVf 0x0510 []), runningVf 0x0510 [], aTenantRoster, 16, ⟨rfl, rfl, rfl⟩, by decide +kernel,
      by decide +kernel, by decide +kernel, by decide +kernel, by decide +kernel⟩,
   ⟨holding (withApprovals [(1, anApproval 9 [0x1000_0900])])
       ({ runningVf 0x0511 [(8, leBytes 4 0x1000_0800), (16, leBytes 4 9), (24, leBytes 8 8)] with bufs := [(8, zeros 64)] }),
       { runningVf 0x0511 [(8, leBytes 4 0x1000_0800), (16, leBytes 4 9), (24, leBytes 8 8)] with bufs := [(8, zeros 64)] },
       zeros 64, anApproval 9 [0x1000_0900], aTenantRoster,
       { handle := 0x1000_0800, attr := 0x0000_2001_0001_0010, parent := noHandle, depth := 0, noncePrefix := 0, material := zeros 64, pubOnly := true, sealsClosed := false },
       ⟨rfl, rfl, rfl⟩, by decide +kernel, by decide +kernel, by decide +kernel, by decide +kernel, by decide +kernel,
       by decide +kernel, by decide +kernel, by decide +kernel, by decide +kernel, by decide +kernel, by decide +kernel⟩,
   ⟨holding (officered)
       ({ runningVf 0x0512 [(16, [2, 2]), (24, leBytes 8 8)] with bufs := [(8, leBytes 4 0x1000_0800 ++ leBytes 4 0x1000_0900)] }),
       { runningVf 0x0512 [(16, [2, 2]), (24, leBytes 8 8)] with bufs := [(8, leBytes 4 0x1000_0800 ++ leBytes 4 0x1000_0900)] },
       leBytes 4 0x1000_0800 ++ leBytes 4 0x1000_0900, .tenantRoster 1 2 [0x1000_0800, 0x1000_0900], ⟨rfl, rfl, rfl⟩,
       by decide +kernel, by decide +kernel, by decide +kernel, by decide +kernel, by decide +kernel, by decide +kernel,
       by decide +kernel, by decide +kernel, by decide +kernel, by decide +kernel, by decide +kernel, by decide +kernel,
       by decide +kernel, (by unfold StoreReady; decide +kernel)⟩⟩


/-! ## The cluster ring -/

/-- Position 15 of a ring of 16, in a phase, and what it changes. -/
def ringed (p : Phase) (f : RingState → RingState) : State :=
  { vaulted with
    sys := { vaulted.sys with phase := p, serial := 16 }
    ring := f { RingState.reset with
      member := true, position := 15, serials := (List.range 16).map fun i => BitVec.ofNat 64 (i + 1), ringId := 9
      culvertOpen := true, locked := true, epoch := 7, top := 7, generation := 5, bootSalt := zeros 8 } }

/-- A frame of member 0. -/
def ringFrame (kind : Nat) (body : List Byte) : RingFrame :=
  { kind := kind, origin := 0, hops := 3, refused := false, epoch := 7, counter := 2, tagOk := true, generation := 5, salt := zeros 8,
    body := body }

/-- A store in its mirror commit, and the item that asked for it. -/
def mirrorStore : Store := { id := 3, item := some 0, action := .operatorKey (zeros 96), admitted := true, mirror := true }
def mirrorItem : Item := { running 0x0723 [] with phase := .yielded .store }

/-- A ring descriptor of some serials, its item and its session. -/
def ringDesc (n : Nat) (serials : List Nat) : List Byte :=
  leBytes 4 0x4752594B ++ leBytes 2 1 ++ leBytes 1 n ++ [1] ++ leBytes 8 9 ++ serials.flatMap (leBytes 8)
def ringItem (d : List Byte) : Item :=
  { running 0x0740 [(16, leBytes 4 9), (20, leBytes 4 d.length), (24, leBytes 8 4096)] with bufs := [(4096, d)] }
def ringSession (d : List Byte) : Ceremony := aCeremony 9 0x08 (sha256 d)
def assembling (d : List Byte) : State :=
  holding (withCeremony { vaulted with sys := { vaulted.sys with serial := 16 } } (ringSession d)) (ringItem d)

/-- A session with its quorum, kind and subject is ready to be consumed. -/
theorem consume_ready {s : State} {c : Ceremony} {n : Word} {kind : Nat} {subj : List Byte} (h : s.ctl.session = some c)
    (ho : c.isOpen = true) (hn : c.session = n) (hk : c.kind = kind) (hs : c.subject = subj) (hq : s.hasQuorum c = true) :
    s.consumeAsk n kind subj = .ready := by
  simp [State.consumeAsk, State.sessionFor, h, ho, hn, hk, hs, hq]

/-- An exchange in progress at position 15. -/
def aForm : RingForm :=
  { item := 0, desc := [], serials := [], ringId := 9, zprop := true, position := 15, ephemeral := zeros 48, passed := [], ringKey := [],
    peerKeys := [] }

/-- States and operands that meet the hypotheses of the part `PresenceIsKept` of `Obligations.PresenceAndToken`, clause by
clause. -/
theorem test_witness_PresenceIsKept :
    (∃ (s : State), s.ring.member = true ∧ s.ring.locked = true ∧ s.culvertMode = true ∧ s.ring.culvertOpen = false) ∧
    (∃ (s : State), s.ring.member = true ∧ s.ring.culvertOpen = true) ∧
    (∃ (s : State) (f : RingFrame), FrameComes s f 0x01 ∧ f.origin ≠ s.ring.position ∧ s.sys.phase = .service ∧
        f.epoch.toNat ≤ s.ring.epoch.toNat ∧ s.ring.top.toNat ≤ s.ring.epoch.toNat) ∧
    (∃ (s : State) (f : RingFrame), s.ring.culvertOpen = true ∧ s.ring.member = true ∧ f.kind = 0x01 ∧ f.tagOk = false) ∧
    (∃ (s : State) (_p : Nat), s.sys.phase ≠ .mirrorSync) :=
  ⟨⟨ringed .planLoad fun r => { r with culvertOpen := false }, by decide +kernel, by decide +kernel, by decide +kernel, by decide +kernel⟩,
   ⟨ringed .service fun r => r, by decide +kernel, by decide +kernel⟩,
   ⟨ringed .service fun r => r, ringFrame 0x01 [], (by unfold FrameComes; decide +kernel), by decide +kernel,
       by decide +kernel, by decide +kernel, by decide +kernel⟩,
   ⟨ringed .service fun r => r, { ringFrame 0x01 [] with tagOk := false }, by decide +kernel, by decide +kernel,
       by decide +kernel, by decide +kernel⟩,
   ⟨ringed .service fun r => r, 0, by decide +kernel⟩⟩

/-- States and operands that meet the hypotheses of the part `TheTokenIsPassedOn` of `Obligations.PresenceAndToken`, clause by
clause. -/
theorem test_witness_TheTokenIsPassedOn :
    (∃ (s : State) (f : RingFrame), FrameComes s f 0x02 ∧ f.origin ≠ s.ring.position ∧ s.ring.generation.toNat ≤
        f.generation.toNat ∧ s.mirrorWaiting = []) ∧
    (∃ (s : State) (f : RingFrame), FrameComes s f 0x02 ∧ f.generation.toNat < s.ring.generation.toNat) ∧
    (∃ (s : State), s.ring.member = true ∧ s.ring.culvertOpen = true ∧ s.ring.token = false ∧ s.sys.phase ≠ .mirrorSync ∧
        (∀ p, p < s.ring.position → s.ringPresent p = false) ∧ s.mirrorWaiting = [] ∧ s.ring.commit = none) :=
  ⟨⟨ringed .service fun r => r, ringFrame 0x02 [], (by unfold FrameComes; decide +kernel), by decide +kernel,
      by decide +kernel, by decide +kernel⟩,
   ⟨ringed .service fun r => r, { ringFrame 0x02 [] with generation := 4 }, (by unfold FrameComes; decide +kernel), by decide +kernel⟩,
   ⟨ringed .service fun r => r, by decide +kernel, by decide +kernel, by decide +kernel, by decide +kernel,
       by decide +kernel, by decide +kernel, by decide +kernel⟩⟩

/-- States and operands that meet the hypotheses of `Obligations.MirrorCommitsTakeTheirCourse`, clause by clause. -/
theorem test_witness_MirrorCommitsTakeTheirCourse :
    (∃ (s : State) (f : RingFrame), FrameComes s f 0x03 ∧ f.origin ≠ s.ring.position ∧ s.sys.phase ≠ .mirrorSync ∧
        s.storesOpen = true ∧ s.reserveCovers 10 = true) ∧
    (∃ (s : State) (f : RingFrame) (id : Nat), FrameComes s f 0x03 ∧ f.origin = s.ring.position ∧ s.ring.commit = some
        (id, .prepared) ∧ f.epoch = s.ring.epoch + 1 ∧ f.refused = false) ∧
    (∃ (s : State) (f : RingFrame) (a : StoreAction), FrameComes s f 0x04 ∧ f.origin ≠ s.ring.position ∧ s.sys.phase ≠
        .mirrorSync ∧ s.ring.staged.map (·.origin) = some f.origin ∧ s.ring.staged.map (·.epoch) = some f.epoch ∧
        (s.ring.staged.bind fun x => s.actionParse x.body) = some a ∧ (∀ h, a ≠ .retire h) ∧ (∀ h, a ≠ .purge h)) ∧
    (∃ (s : State) (f : RingFrame) (id : Nat), FrameComes s f 0x04 ∧ f.origin = s.ring.position ∧ s.ring.commit = some (id, .committed)) ∧
    (∃ (s : State) (f : RingFrame), FrameComes s f 0x05 ∧ f.origin ≠ s.ring.position ∧ (s.ring.staged.any fun x =>
        x.origin == f.origin && x.epoch == f.epoch) = true) ∧
    (∃ (s : State) (id : Nat) (st : Store) (it : Item), s.ring.commit = some (id, .prepared) ∧ s.vault.stores.find? (·.id
        == id) = some st ∧ st.item = some it.id ∧ (∀ i c, st.action ≠ .ceiling i c) ∧ s.item it.id = some it ∧ it.phase =
        .yielded .store ∧ s.ring.token = false) :=
  ⟨⟨ringed .service fun r => r, { ringFrame 0x03 ([7] ++ zeros 96) with epoch := 8 },
      (by unfold FrameComes; decide +kernel), by decide +kernel, by decide +kernel, by decide +kernel, by decide +kernel⟩,
   ⟨ringed .service fun r => { r with commit := some (3, .prepared) },
       { ringFrame 0x03 [] with epoch := 8, origin := 15 }, 3, (by unfold FrameComes; decide +kernel), by decide +kernel,
       by decide +kernel, by decide +kernel, by decide +kernel⟩,
   ⟨ringed .service fun r => { r with staged := some { origin := 0, epoch := 8, body := [7] ++ zeros 96 } },
       { ringFrame 0x04 [] with epoch := 8 }, .operatorKey (zeros 96), (by unfold FrameComes; decide +kernel),
       by decide +kernel, by decide +kernel, by decide +kernel, by decide +kernel, by decide +kernel, (fun _ => nofun),
       (fun _ => nofun)⟩,
   ⟨ringed .service fun r => { r with commit := some (3, .committed) }, { ringFrame 0x04 [] with origin := 15 }, 3,
       (by unfold FrameComes; decide +kernel), by decide +kernel, by decide +kernel⟩,
   ⟨ringed .service fun r => { r with staged := some { origin := 0, epoch := 7, body := [] } }, ringFrame 0x05 [],
       (by unfold FrameComes; decide +kernel), by decide +kernel, by decide +kernel⟩,
   ⟨holding
       { ringed .service (fun r => { r with commit := some (3, .prepared) }) with vault := { vaulted.vault with stores := [mirrorStore] } }
       mirrorItem, 3, mirrorStore, mirrorItem, by decide +kernel, by decide +kernel, by decide +kernel, (fun _ _ =>
       nofun), by decide +kernel, by decide +kernel, by decide +kernel⟩⟩

/-- States and operands that meet the hypotheses of the part `MirrorSyncBringsTheState` of `Obligations.MirrorSyncAndZeroize`, clause by
clause. -/
theorem test_witness_MirrorSyncBringsTheState :
    (∃ (s : State) (f : RingFrame), FrameComes s f 0x06 ∧ f.origin ≠ s.ring.position ∧ s.sys.phase ≠ .mirrorSync ∧ (byteAt
        f.body 0).toNat = s.ring.position) ∧
    (∃ (s : State) (f : RingFrame), FrameComes s f 0x07 ∧ f.origin ≠ s.ring.position ∧ s.sys.phase = .mirrorSync ∧ (byteAt
        f.body 0).toNat = s.ring.position ∧ s.ring.syncFrom = some f.origin ∧ s.storesOpen = true ∧ s.reserveCovers 5 =
        true ∧ s.ring.top.toNat ≤ f.epoch.toNat) ∧
    (∃ (s : State) (f : RingFrame), FrameComes s f 0x07 ∧ f.origin ≠ s.ring.position ∧ s.sys.phase = .mirrorSync ∧ (byteAt
        f.body 0).toNat = s.ring.position ∧ s.ring.syncFrom = some f.origin ∧ s.storesOpen = true ∧ s.reserveCovers 5 =
        false) :=
  ⟨⟨ringed .service fun r => r, ringFrame 0x06 [15], (by unfold FrameComes; decide +kernel), by decide +kernel,
      by decide +kernel, by decide +kernel⟩,
   ⟨ringed .mirrorSync fun r => { r with syncFrom := some 0, epoch := 6 }, ringFrame 0x07 (15 :: zeros 8),
       (by unfold FrameComes; decide +kernel), by decide +kernel, by decide +kernel, by decide +kernel, by decide +kernel,
       by decide +kernel, by decide +kernel, by decide +kernel⟩,
   ⟨{ ringed .mirrorSync (fun r => { r with syncFrom := some 0, epoch := 6 }) with sen := { richSen with capUf := 0 } },
       ringFrame 0x07 (15 :: zeros 8), (by unfold FrameComes; decide +kernel), by decide +kernel, by decide +kernel,
       by decide +kernel, by decide +kernel, by decide +kernel, by decide +kernel⟩⟩

/-- States and operands that meet the hypotheses of the part `ZeroizeFramesPropagate` of `Obligations.MirrorSyncAndZeroize`, clause by
clause. -/
theorem test_witness_ZeroizeFramesPropagate :
    (∃ (s : State) (f : RingFrame), FrameComes s f 0x08 ∧ f.origin ≠ s.ring.position ∧ s.ring.zprop = false) ∧
    (∃ (s : State) (f : RingFrame), FrameComes s f 0x08 ∧ f.origin ≠ s.ring.position ∧ s.ring.zprop = true) :=
  ⟨⟨ringed .service fun r => r, ringFrame 0x08 [], (by unfold FrameComes; decide +kernel), by decide +kernel, by decide +kernel⟩,
   ⟨ringed .service fun r => { r with zprop := true }, ringFrame 0x08 [], (by unfold FrameComes; decide +kernel),
       by decide +kernel, by decide +kernel⟩⟩

/-- States and operands that meet the hypotheses of `Obligations.RingsAreFormed`, clause by clause. -/
theorem test_witness_RingsAreFormed :
    (∃ (s : State) (it : Item) (d : List Byte), s.Runs it 0x0740 ∧ zeroRange it.desc 32 64 = true ∧ 24 ≤ it.le 20 4 ∧
        it.le 20 4 ≤ 144 ∧ it.hostBytes (it.le 24 8) (it.le 20 4) = some d ∧ s.descOk d = true ∧ it.le 24 8 % 64 = 0 ∧
        s.consumeAsk (BitVec.ofNat 32 (it.le 16 4)) 0x08 (sha256 d) = .ready ∧ s.lcs = lcDeployed ∧ byteAt d 6 ≠ 1) ∧
    (∃ (s : State) (it : Item) (d : List Byte), s.Runs it 0x0740 ∧ zeroRange it.desc 32 64 = true ∧ 24 ≤ it.le 20 4 ∧
        it.le 20 4 ≤ 144 ∧ it.hostBytes (it.le 24 8) (it.le 20 4) = some d ∧ s.descOk d = true ∧ it.le 24 8 % 64 = 0 ∧
        s.consumeAsk (BitVec.ofNat 32 (it.le 16 4)) 0x08 (sha256 d) = .ready ∧ s.lcs = lcDeployed ∧ byteAt d 6 = 1 ∧
        StoreReady s .ringLeave) ∧
    (∃ (s : State) (f : RingForm) (it : Item), s.ring.form = some f ∧ s.item f.item = some it ∧ it.id = f.item ∧ it.phase
        = .yielded .ring) ∧
    (∃ (s : State) (f : RingForm) (x : RingFrame), s.ring.form = some f ∧ x.kind = 0x09 ∧ x.tagOk = true ∧ x.origin ≠
        f.position ∧ (byteAt x.body 0).toNat = f.position ∧ x.origin = 0 ∧ f.position ≠ 0) :=
  ⟨⟨assembling (ringDesc 16 ((List.range 16).map (· + 1))), ringItem (ringDesc 16 ((List.range 16).map (· + 1))), ringDesc
      16 ((List.range 16).map (· + 1)), ⟨rfl, rfl, rfl⟩, by decide +kernel, by decide +kernel, by decide +kernel,
      by decide +kernel, by decide +kernel, by decide +kernel, (consume_ready (c := ringSession (ringDesc 16 ((List.range
      16).map (· + 1)))) rfl rfl (by decide) rfl rfl (by decide +kernel)), by decide +kernel, by decide +kernel⟩,
   ⟨assembling (ringDesc 1 [16]), ringItem (ringDesc 1 [16]), ringDesc 1 [16], ⟨rfl, rfl, rfl⟩, by decide +kernel,
       by decide +kernel, by decide +kernel, by decide +kernel, by decide +kernel, by decide +kernel, (consume_ready (c :=
       ringSession (ringDesc 1 [16])) rfl rfl (by decide) rfl rfl (by decide +kernel)), by decide +kernel,
       by decide +kernel, (by unfold StoreReady; decide +kernel)⟩,
   ⟨holding (ringed .service (fun r => { r with form := some aForm }))
       ({ running 0x0740 [] with phase := .yielded .ring }), aForm, { running 0x0740 [] with phase := .yielded .ring },
       by decide +kernel, by decide +kernel, by decide +kernel, by decide +kernel⟩,
   ⟨ringed .service fun r => { r with form := some aForm }, aForm, ringFrame 0x09 (15 :: zeros 96), by decide +kernel,
       by decide +kernel, by decide +kernel, by decide +kernel, by decide +kernel, by decide +kernel, by decide +kernel⟩⟩

/-! ## Cases within a clause -/

/-- A state that meets the invariant and whose step, of a command or of none, answers a next state. -/
theorem test_witness_StepsKeepTheInvariant :
    (∃ s t : State, s.Inv ∧ s.pending = [.ringPhyLock true] ∧ step s = .next t) ∧
    (∃ s t : State, s.Inv ∧ s.pending = [] ∧ step s = .next t) :=
  ⟨⟨{ State.reset with pending := [.ringPhyLock true] }, { State.reset with ring := { RingState.reset with locked := true } },
      ⟨rfl, trivial, by decide +kernel, by decide +kernel, by decide +kernel, by decide +kernel⟩, rfl, rfl⟩,
    ⟨State.reset, _, ⟨rfl, trivial, by decide +kernel, by decide +kernel, by decide +kernel, by decide +kernel⟩, rfl, rfl⟩⟩

/-- The sideband is served in Off and in Hold-Up, with the alert line low, and where a level is in force. -/
theorem test_witness_sideband_cases :
    (inPhase .off).smbServed = true ∧ (inPhase .holdUp).smbServed = true ∧
    (State.smbServed { served with sen := { SenState.reset with level := some .halt } } = true ∧
      State.alertLow { served with sen := { SenState.reset with level := some .halt } } = true) := by
  refine ⟨?_, ?_, ?_, ?_⟩ <;> decide +kernel

/-- A card without the busy extension is on its port, in a command. -/
theorem test_witness_busy_without_extension :
    ∃ s : State, (s.port 3).step.isSome = true ∧ (s.port 3).phase = 0x2 ∧ (s.port 3).lesengo = false :=
  ⟨atPort { stepping .pin 0x2 with lesengo := false } (aCeremony 9 0x06 (zeros 32)), by decide +kernel, by decide +kernel,
    by decide +kernel⟩

/-- A channel with a FRAG_PUT exchange and a NACK of it. -/
theorem test_witness_nack_of_a_put :
    ∃ (s s' : State) (x : Channel) (p : RxPacket) (e : Exchange), s.takeInbox 0xFFFFFE ltNack = some (p, x, s') ∧
      x.mine p.xid = some e ∧ e.kind = .put 2 :=
  ⟨lateral (receiving (aRxPacket ltNack 0 (zeros 40)) [anExchange (.put 2) true]),
    (lateral (receiving (aRxPacket ltNack 0 (zeros 40)) [anExchange (.put 2) true])).setChan 0xFFFFFE
      (received [anExchange (.put 2) true]),
    receiving (aRxPacket ltNack 0 (zeros 40)) [anExchange (.put 2) true], aRxPacket ltNack 0 (zeros 40), anExchange (.put 2) true,
    rfl, by decide +kernel, rfl⟩

/-! ## WellFormed -/

/-- One command for each check of a number that names a function, a queue pair, a virtual function or a register. -/
theorem test_wf_refuses_functions :
    ([.qpEnable 1024 0 0, .qpEnable 0 16 0, .qpDisable 1024 0 0, .qpDisable 0 16 0, .sqDoorbell 1024 0 0, .sqDoorbell 0 16 0,
      .pushWrite 1024 0 [0] true, .pushWrite 0 16 [0] true, .pushWrite 0 0 (List.replicate 65 0) true, .pushWrite 0 0 [] true,
      .cqDoorbell 1024 0 0, .cqDoorbell 0 16 0, .descriptorConsume 1024 0, .descriptorConsume 0 16, .coalTimeout 1024 0,
      .coalTimeout 0 16, .vfFlr 0, .vfFlr 1024, .flrDone 1024, .lockInterface 0, .lockInterface 1024, .startInterface 0,
      .startInterface 1024, .stopInterface 0, .stopInterface 1024, .vfMigAck 0 0, .vfMigAck 1024 0, .dirtyBitmapMerge 0 true,
      .dirtyBitmapMerge 1024 true, .srIovVfEnable true 1024, .registerWrite 1024 0 0, .registerWrite 0 67108864 0,
      .registerWrite 0 2 0, .dmaReadComplete (.fetch 1024 0 0) (.ok []) ⟨none, none, 0⟩,
      .dmaReadComplete (.fetch 0 16 0) (.ok []) ⟨none, none, 0⟩] : List Instr).any Instr.wf = false := by decide

/-- The same at the last number in range. -/
theorem test_wf_accepts_functions :
    ([.qpEnable 1023 15 0, .pushWrite 1023 15 (List.replicate 64 0) true, .pushWrite 0 0 [0] false, .vfFlr 1, .vfFlr 1023,
      .dirtyBitmapMerge 1023 true, .srIovVfEnable true 1023, .registerWrite 1023 67108860 0,
      .dmaReadComplete (.fetch 1023 15 0) (.ok []) ⟨none, none, 0⟩, .dmaReadComplete .recovery (.ok []) ⟨none, none, 0⟩] :
      List Instr).all Instr.wf = true := by decide

/-- One command for each check of a number that names a unit, a core, an engine, a source or a monitor. -/
theorem test_wf_refuses_units :
    ([.mainPowerLost 1 0, .mainPowerLost 4 0, .dispatch 64, .coreWatchdog 64, .unitScrubDone 40, .furrowMismatch 20 0 0,
      .furrowMismatch 0 8 0, .maskReseedRequest 20 0, .maskReseedRequest 0 2, .maskWaitStop 20 0, .maskWaitStop 0 2,
      .maskSeedArrive 20 0, .maskSeedArrive 0 2, .furrowReadmit 20 true, .hashLaneParityError 16 0, .hashLaneParityError 0 4,
      .hashLaneReadmit 16 true, .spreadCheckFail 4 0 0, .spreadCheckFail 0 16 0, .spreadUnitReadmit 4 true,
      .fragGetTimeout 0 48, .pkYieldPoint 8, .pkJobComplete 8, .pkEndCheckFail 8 0, .pkEngineReadmit 8 true,
      .cisternPoolZeroed 8 0 0, .entropyBlock 32 [], .sourceRetest 32, .sourceRetestDone 32 true, .memViolPop 6 0,
      .alarmRaise [⟨0xB, 0, 0, false, none⟩], .alarmRaise [⟨0, 49, 0, false, none⟩], .bistTestDone 0xB 0 true,
      .bistTestDone 0 49 true] : List Instr).any Instr.wf = false := by decide

/-- The same at the last number in range. -/
theorem test_wf_accepts_units :
    ([.mainPowerLost 2 0, .mainPowerLost 3 0, .dispatch 63, .unitScrubDone 39, .furrowMismatch 19 7 0, .maskSeedArrive 19 1,
      .hashLaneParityError 15 3, .spreadCheckFail 3 15 0, .fragGetTimeout 0 47, .pkJobComplete 7, .entropyBlock 31 [],
      .memViolPop 5 0, .alarmRaise [⟨0xA, 48, 0, false, none⟩], .bistTestDone 0xA 48 true] : List Instr).all Instr.wf = true := by
  decide

/-- One command for each check of a number that names a port, a channel, a stream or a ring position, and of a length. -/
theorem test_wf_refuses_links :
    ([.ethFrameReceive { aFrame with port := 4 }, .ethFrameReceive { aFrame with subPort := 8 }, .ethLinkChange 4 0 true,
      .ethLinkChange 0 8 true, .eapolMka 4 0 true, .eapolMka 0 8 true, .sakRekeyThreshold 4 0, .sakRekeyThreshold 0 8,
      .submit 16777216, .retrieve 16777216, .fragPutAck 16777216, .fragData 16777216, .nack 16777216, .credit 16777216,
      .ping 16777216, .ackTimer 16777216, .retransmitTimeout 16777216 0, .zeroWindowProbe 16777216,
      .zeroWindowTimeout 16777216, .syncPingTimer 16777216, .syncTimeout 16777216, .epochQuarantineEnd 16777216,
      .putackTimeout 16777216 0, .packetTransmit 16777216, .portCfgWrite 4 0, .injectFrame 0 [⟨4, 0, none, []⟩],
      .injectFrame 0 [⟨0, 8, none, []⟩], .injectFrame 0 [⟨0, 0, none, List.replicate 2033 0⟩], .ideKm (.keyProg 17 0),
      .ideKm (.keyProg 0 1024), .ideKm (.keySetGo 17), .ideKm (.keySetStop 17), .ideCheckFail 17, .dbgToken [],
      .dbgAccess ⟨281474976710655, .read, 2⟩ [], .dbgAccess ⟨0, .write, 2⟩ [0], .cardInsert 4, .cardRemove 4,
      .cardResponse 4 .noAtr, .cardWaitTimeout 4, .cardClassRetry 4, .cardOvercurrent 4, .cardBusyDetect 4,
      .presenceTimeout 16, .heartbeat { ringFrame 1 [] with origin := 16 }, .token { ringFrame 2 [] with origin := 16 },
      .prepare { ringFrame 3 [] with origin := 16 }, .commit { ringFrame 4 [] with origin := 16 },
      .abort { ringFrame 5 [] with origin := 16 }, .syncReq { ringFrame 6 [] with origin := 16 },
      .syncData { ringFrame 7 [] with origin := 16 }, .zeroizeFrame { ringFrame 8 [] with origin := 16 },
      .keyExchangeFrame { ringFrame 9 [] with origin := 16 }] : List Instr).any Instr.wf = false := by decide +kernel

/-- The same at the last number in range. -/
theorem test_wf_accepts_links :
    ([.ethFrameReceive aFrame, .ethLinkChange 3 7 true, .submit 16777215, .portCfgWrite 3 0,
      .injectFrame 0 [⟨3, 7, none, List.replicate 2032 0⟩], .ideKm (.keyProg 16 1023), .ideCheckFail 16,
      .dbgToken (List.replicate 257 0), .dbgAccess ⟨281474976710655, .write, 1⟩ [0], .cardResponse 3 .noAtr,
      .presenceTimeout 15, .heartbeat { ringFrame 1 [] with origin := 15 }] : List Instr).all Instr.wf = true := by
  decide +kernel

end Sys2Proof.Tests
end

/-! PROOFS. Registers: what a read of GLB_MODE shows (R4, R5), what the device holds right after reset, and what a write to
a register does (R12, R13, R451, R453). -/

namespace Sys2Proof.Machine

/-! ## Fields of a register -/

@[simp] theorem fields_nil : fields [] = 0 := rfl

@[simp] theorem fields_cons {lo width v : Nat} {fs : List (Nat × Nat × Nat)} :
    fields ((lo, width, v) :: fs) = v % 2 ^ width * 2 ^ lo + fields fs := by
  simp [fields]

theorem b2n_lt_two {b : Bool} : b2n b < 2 := by cases b <;> decide

/-- A bit of a register whose quotient by its weight ends in a flag is the flag. -/
theorem getLsbD_eq_of_div_mod {n i : Nat} {b : Bool} (hi : i < 32) (h : n / 2 ^ i % 2 = b2n b) :
    (BitVec.ofNat 32 n).getLsbD i = b := by
  rw [BitVec.getLsbD_ofNat, Nat.testBit_eq_decide_div_mod_eq, h]
  cases b <;> simp [hi, b2n]

/-! ## GLB_MODE and GLB_RESET_CAUSE -/

theorem readReg_glbMode {s : State} : s.readReg 0 0x10 = BitVec.ofNat 32 s.glbMode := rfl

theorem readReg_resetCause {s : State} : s.readReg 0 0x24 = BitVec.ofNat 32
    (fields [(0, 3, s.sys.cause.toNat), (3, 1, b2n s.sys.deferred), (16, 16, s.sys.warmCount.toNat)]) := rfl

theorem glbMode_mod_sixteen {s : State} : s.glbMode % 16 = s.mode.toNat := by
  simp only [State.glbMode, fields_cons, fields_nil]
  omega

/-- MODE of GLB_MODE is the mode (R4). -/
theorem readReg_glbMode_mode {s : State} : (s.readReg 0 0x10).extractLsb' 0 4 = s.mode := by
  apply BitVec.eq_of_toNat_eq
  have hm := glbMode_mod_sixteen (s := s)
  simp only [readReg_glbMode, BitVec.extractLsb'_toNat, BitVec.toNat_ofNat, Nat.shiftRight_zero]
  omega

theorem readReg_glbMode_ceremonyOpen {s : State} : (s.readReg 0 0x10).getLsbD 8 = s.ceremonyOpen := by
  have hflag := b2n_lt_two (b := s.ceremonyOpen)
  refine getLsbD_eq_of_div_mod (n := s.glbMode) (by decide) ?_
  simp only [State.glbMode, fields_cons, fields_nil]
  omega

theorem readReg_glbMode_unitsFenced {s : State} : (s.readReg 0 0x10).getLsbD 9 = s.anyFenced := by
  have hflag := b2n_lt_two (b := s.anyFenced)
  refine getLsbD_eq_of_div_mod (n := s.glbMode) (by decide) ?_
  simp only [State.glbMode, fields_cons, fields_nil]
  omega

theorem mode_of_service {s : State} (h : s.sys.phase = .service) :
    s.mode = if s.sys.quiesce then 0x7 else if s.ceremonyOpen then 0x6 else if s.anyFenced then 0x8 else 0x5 := by
  simp only [State.mode, h]

/-- Settles O57: MODE is the mode, and bits 8 and 9 are fields of their own. -/
theorem modeReportsTheFirstThatHolds : Obligations.ModeReportsTheFirstThatHolds := by
  intro s hservice
  exact ⟨readReg_glbMode_mode.trans (mode_of_service hservice), readReg_glbMode_ceremonyOpen,
    readReg_glbMode_unitsFenced⟩

/-! ## Right after reset -/

theorem reset_mode : State.reset.mode = 0x2 := rfl

theorem reset_ceremonyOpen : State.reset.ceremonyOpen = false := rfl

theorem reset_anyFenced : State.reset.anyFenced = false := by decide

theorem reset_glbMode : State.reset.glbMode = 0x12 := by
  rw [State.glbMode, reset_mode, reset_ceremonyOpen, reset_anyFenced]
  rfl

/-- Settles O54: the lists and the plan are empty by the definition of the reset state, and the two registers show its
mode and its cause. -/
theorem resetHoldsItsValues : Obligations.ResetHoldsItsValues := by
  refine ⟨rfl, rfl, rfl, rfl, rfl, rfl, rfl, rfl, rfl, rfl, rfl, rfl, rfl, ?_, ?_⟩
  · rw [readReg_glbMode, reset_glbMode]; rfl
  · rw [readReg_resetCause]; rfl

/-! ## A write to a register (R13) -/

theorem exec_registerWrite_served {s : State} {fn off : Nat} {v : Word} (hbar : s.barOk fn = true)
    (hboot : s.bootHeld = false) : exec (.registerWrite fn off v) s = .next (s.writeReg fn off v) := by
  change execRegisterWrite fn off v s = _
  simp [execRegisterWrite, hbar, hboot]

@[simp] theorem clearBits_regs {s : State} {off : Nat} {v : Word} : (s.clearBits off v).regs = s.regs := by
  unfold State.clearBits
  split <;> rfl

/-- The trace's registers are held by bits of the register file alone. -/
theorem traceHeld_congr {s t : State} (h : t.regs = s.regs) {fn off : Nat} : t.traceHeld fn off = s.traceHeld fn off := by
  simp [State.traceHeld, State.reg, h]

theorem writeReg_pf {s : State} {off : Nat} {v : Word} (halign : off % 4 = 0)
    (hoff : off < 0x0028_0000 ∨ 0x0029_0400 ≤ off) : s.writeReg 0 off v = s.writePf off v := by
  have hpage : ¬ (0x28_0000 ≤ off ∧ off < 0x29_0000) := by omega
  have hmsix : ¬ (0x29_0000 ≤ off ∧ off < 0x29_0400) := by omega
  simp [State.writeReg, halign, hpage, hmsix]

theorem writePf_plain {s : State} {off : Nat} {v m : Word} (hmask : pfMask off = some m)
    (hplain : s.writeSpecial off v = none) (htrace : s.traceHeld 0 off = false) :
    s.writePf off v = (s.clearBits off v).setReg 0 off (v &&& m) := by
  have hfree : (s.clearBits off v).traceHeld 0 off = false := (traceHeld_congr clearBits_regs).trans htrace
  simp [State.writePf, hmask, hplain, hfree]

/-- VF_EVENT of a VF is W1C (R13). -/
theorem writeReg_vfEvent {s : State} {fn : Nat} {v : Word} (hfn : fn ≠ 0) :
    s.writeReg fn 4 v = s.setReg fn 4 (s.reg fn 4 &&& ~~~v) := by
  have hpage : s.writeReg fn 4 v = s.writePage fn 4 v := by simp [State.writeReg, hfn]
  simp [hpage, State.writePage, element, queueOff, hfn]

/-! ## LCB_TOKEN_CMD (R453) -/

/-- Off a ring, an open store that the reserve covers is admitted at once (R429). -/
theorem askStore_admitted {s : State} {item : Option Nat} {a : StoreAction} (hring : s.ring.member = false)
    (hopen : s.storesOpen = true) (hcover : s.reserveCovers (storeBudget a) = true) :
    s.askStore item a = .admitted (s.addStore item a true false) := by
  simp [State.askStore, hring, hopen, hcover]

theorem exec_tokenOpenScopes_idle {s : State} (hbar : s.barOk 0 = true) (hidle : s.tokenBusy = false) :
    exec .tokenOpenScopes s = .next (State.tokenEnds (s.presentToken s.tokenRegs)) := by
  change execTokenOpenScopes s = _
  simp [execTokenOpenScopes, hbar, hidle]

theorem exec_tokenVendorTransition_idle {s : State} (hbar : s.barOk 0 = true) (hidle : s.tokenBusy = false) :
    exec .tokenVendorTransition s = .next (State.tokenEnds (s.vendorToken s.tokenRegs)) := by
  change execTokenVendorTransition s = _
  simp [execTokenVendorTransition, hbar, hidle]

theorem vendorToken_refused {s : State} {bytes : List Byte} {st : Status} (h : s.tokenCheck .vendor bytes = some st) :
    s.vendorToken bytes = (st, s) := by
  simp only [State.vendorToken, h]

theorem vendorToken_noSlot {s : State} {bytes : List Byte} (h : s.tokenCheck .vendor bytes = none)
    (hslot : s.slotBusy = true ∨ s.slotFree (byteAt bytes 17).toNat = false) :
    s.vendorToken bytes = (stNoResource, s) := by
  simp [State.vendorToken, h, hslot]

theorem vendorToken_stores {s : State} {bytes : List Byte} (h : s.tokenCheck .vendor bytes = none)
    (hslot : ¬ (s.slotBusy = true ∨ s.slotFree (byteAt bytes 17).toNat = false)) (hring : s.ring.member = false)
    (hopen : s.storesOpen = true) (hcover : s.reserveCovers 200 = true) :
    s.vendorToken bytes =
      (stOk, s.addStore none (.otpSlot s.nextSlot (codeword (byteAt bytes 17).toNat) 0) true false) := by
  have hask := askStore_admitted (item := none) (a := .otpSlot s.nextSlot (codeword (byteAt bytes 17).toNat) 0)
    hring hopen hcover
  simp only [State.vendorToken, h, Bool.not_eq_true', if_neg hslot, hask]

/-! ## LCB_REC_GO (R451) -/

theorem recGo_started {s : State} {v : Word} (hbar : s.barOk 0 = true) (hboot : s.sys.phase = .boot)
    (himage : s.lcb.noImage = true) (hidle : s.lcb.recBusy = false) (hgo : v.getLsbD 0 = true) :
    s.recGo v =
      if 3145888 < (s.reg 0 0x00A0_0218).toNat % 2 ^ 23 then { s with lcb := { s.lcb with recStat := stLengthLimit } }
      else { s with lcb := { s.lcb with recBusy := true } } := by
  simp [State.recGo, hbar, hboot, himage, hidle, hgo]

/-- Settles O13, clause by clause: a plain register, VF_EVENT, the two commands of LCB_TOKEN_CMD, and LCB_REC_GO. -/
theorem registerWritesTakeEffect : Obligations.RegisterWritesTakeEffect := by
  refine ⟨?_, ?_, ?_, ?_, ?_⟩
  · intro s off v m hbar hboot halign hmask hplain htrace hoff
    rw [exec_registerWrite_served hbar hboot, writeReg_pf halign hoff, writePf_plain hmask hplain htrace]
  · intro s fn v hfn hbar hboot
    rw [exec_registerWrite_served hbar hboot, writeReg_vfEvent hfn]
  · intro s hbar hidle
    rw [exec_tokenOpenScopes_idle hbar hidle, State.presentToken]
    cases s.tokenCheck .scopes s.tokenRegs <;> rfl
  · intro s hbar hidle hring hopen hcover
    rw [exec_tokenVendorTransition_idle hbar hidle]
    cases hcheck : s.tokenCheck .vendor s.tokenRegs with
    | some st => rw [vendorToken_refused hcheck]; rfl
    | none =>
      by_cases hslot : s.slotBusy = true ∨ s.slotFree (byteAt s.tokenRegs 17).toNat = false
      · rw [vendorToken_noSlot hcheck hslot]; simp only [if_pos hslot]; rfl
      · rw [vendorToken_stores hcheck hslot hring hopen hcover]; simp only [if_neg hslot]; rfl
  · intro s v hbar hboot himage hidle hgo
    change Host.Outcome.next (s.recGo v) = _
    rw [recGo_started hbar hboot himage hidle hgo]

end Sys2Proof.Machine

/-! PROOFS. Plan Load (R43, R44, R500): what it leaves of the plan, the crossbar and the key records. -/

namespace Sys2Proof.Machine

/-! ## What an item's end leaves of the crossbar -/

@[simp] theorem hostWrite_sluice {s : State} {fn iova : Nat} {bytes : List Byte} :
    (s.hostWrite fn iova bytes).sluice = s.sluice := by
  unfold State.hostWrite
  extract_lets t v
  split
  · rfl
  · split <;> rfl

@[simp] theorem pushTrace_sluice {s : State} {n : Nat} {rec : List Byte} : (s.pushTrace n rec).sluice = s.sluice := by
  unfold State.pushTrace
  extract_lets
  split
  · rfl
  · exact hostWrite_sluice

@[simp] theorem trace_sluice {s : State} {event detail : Nat} {it : Item} {st : Status} :
    (s.trace event detail it st).sluice = s.sluice := by
  unfold State.trace
  extract_lets core t
  have ht : t.sluice = s.sluice := by
    unfold t
    split
    · exact pushTrace_sluice
    · rfl
  clear_value t
  split
  · rw [pushTrace_sluice, ht]
  · exact ht

@[simp] theorem freeCore_sluice {s : State} {it : Item} : (s.freeCore it).sluice = s.sluice := by
  unfold State.freeCore
  split <;> rfl

@[simp] theorem noteEnd_sluice {s : State} {it : Item} {o : Outcome} : (s.noteEnd it o).sluice = s.sluice := by
  unfold State.noteEnd
  extract_lets ok pay nas obj spr t
  change t.sluice = s.sluice
  unfold t
  split
  · rfl
  · split <;> rfl

/-- An item that yields leaves the crossbar as it is. -/
@[simp] theorem yieldItem_sluice {s : State} {id : Nat} {why : WaitFor} : (s.yieldItem id why).sluice = s.sluice := by
  unfold State.yieldItem
  split
  · rfl
  · simp

/-- Releasing a claim reaches the crossbar only by waking an amendment that waits for claims (R56). -/
theorem releaseClaim_sluice {s : State} {it : Item} :
    ∃ t : State, t.sluice = s.sluice ∧ (s.releaseClaim it).sluice = t.amendWake.sluice := by
  unfold State.releaseClaim
  extract_lets src t1 mem t2 pke t3 t4
  refine ⟨t4.wakeLacking it.claim.kinds, ?_, rfl⟩
  have h2 : t2.sluice = s.sluice := by
    unfold t2
    split <;> rfl
  have h3 : t3.sluice = t2.sluice := by
    unfold t3
    split
    · extract_lets u
      split <;> rfl
    · rfl
  exact h3.trans h2

/-! ## The two banks (R50) -/

/-- A table written to the inactive bank stands there. -/
@[simp] theorem writeInactive_inactiveBank {s : State} {t : List (BitVec 16)} :
    (s.writeInactive t).inactiveBank = t := by
  cases h : s.sluice.activeB <;> simp [State.writeInactive, State.inactiveBank, h]

/-- A write of the inactive bank leaves the active one. -/
@[simp] theorem writeInactive_activeBank {s : State} {t : List (BitVec 16)} :
    (s.writeInactive t).activeBank = s.activeBank := by
  cases h : s.sluice.activeB <;> simp [State.writeInactive, State.activeBank, h]

theorem activeBank_congr {s t : State} (h : t.sluice = s.sluice) : t.activeBank = s.activeBank := by
  simp only [State.activeBank, h]

theorem amendWake_activeBank {s : State} : s.amendWake.activeBank = s.activeBank := by
  unfold State.amendWake
  split
  · rfl
  · split
    · rfl
    · exact writeInactive_activeBank

theorem finish_activeBank {s : State} {id : Nat} {o : Outcome} : (s.finish id o).activeBank = s.activeBank := by
  unfold State.finish
  split
  · rfl
  · split
    · rfl
    · next it _ _ =>
      extract_lets o' u1 u2 u3 u4 it'
      obtain ⟨t, ht, hrelease⟩ := releaseClaim_sluice (s := u3) (it := it)
      have hu3 : u3.sluice = s.sluice := freeCore_sluice.trans noteEnd_sluice
      calc ((u4.setItem it').trace 0x03 0 it' o'.status).activeBank
          = t.amendWake.activeBank := activeBank_congr (trace_sluice.trans hrelease)
        _ = t.activeBank := amendWake_activeBank
        _ = s.activeBank := activeBank_congr (ht.trans hu3)

/-! ## What the end of Plan Load keeps -/

/-- The parts of a state that hold an applied plan, and the key records. -/
structure PlanKept (s t : State) : Prop where
  plan : t.plan = s.plan
  activeB : t.sluice.activeB = s.sluice.activeB
  activeBank : t.activeBank = s.activeBank
  records : t.vault.records = s.vault.records

theorem PlanKept.of_sluice {s t : State} (hplan : t.plan = s.plan) (hsluice : t.sluice = s.sluice)
    (hrecords : t.vault.records = s.vault.records) : PlanKept s t :=
  ⟨hplan, by rw [hsluice], activeBank_congr hsluice, hrecords⟩

theorem PlanKept.refl {s : State} : PlanKept s s := .of_sluice rfl rfl rfl

theorem PlanKept.trans {s t u : State} (h : PlanKept s t) (k : PlanKept t u) : PlanKept s u :=
  ⟨k.plan.trans h.plan, k.activeB.trans h.activeB, k.activeBank.trans h.activeBank, k.records.trans h.records⟩

theorem PlanKept.foldl {α : Type} {f : State → α → State} (hf : ∀ s a, PlanKept s (f s a)) :
    ∀ {as : List α} {s : State}, PlanKept s (as.foldl f s)
  | [], _ => .refl
  | _ :: _, _ => (hf _ _).trans (PlanKept.foldl hf)

theorem mainRequest_planKept {s : State} {n : Nat} : PlanKept s (s.mainRequest n).2 := by
  unfold State.mainRequest
  split <;> exact .of_sluice rfl rfl rfl

theorem drawRequests_planKept {per : Nat} :
    ∀ {fuel n : Nat} {s : State}, PlanKept s (s.drawRequests per fuel n).2
  | 0, _, _ => .refl
  | fuel + 1, n, s => by
    unfold State.drawRequests
    split
    · exact .refl
    · exact mainRequest_planKept.trans (drawRequests_planKept (fuel := fuel))

theorem draw_planKept {s : State} {n : Nat} : PlanKept s (s.draw n).2 := drawRequests_planKept

theorem seedGen_planKept {s : State} {u : Nat} {b : Bool} : PlanKept s (s.seedGen u b) :=
  draw_planKept.trans (.of_sluice rfl rfl rfl)

theorem seedFurrow_planKept {s : State} {u : Nat} : PlanKept s (s.seedFurrow u) := seedGen_planKept.trans seedGen_planKept

theorem zeroCistern_planKept {s : State} {e : Nat} : PlanKept s (s.zeroCistern e) := .of_sluice rfl rfl rfl

theorem scrubAll_planKept {s : State} : PlanKept s s.scrubAll := by
  have hzero : PlanKept s (((List.range 8).filter s.enginePresent).foldl State.zeroCistern s) :=
    .foldl fun _ _ => zeroCistern_planKept
  unfold State.scrubAll
  extract_lets t
  split
  · exact hzero.trans (.foldl fun _ _ => seedFurrow_planKept)
  · exact hzero

theorem openTenant_planKept {s : State} {t : TenantEntry} : PlanKept s (s.openTenant t) := by
  unfold State.openTenant
  split
  · exact .refl
  · exact draw_planKept.trans (.of_sluice rfl rfl rfl)

theorem instantiateTenant_planKept {s : State} {t : Byte} : PlanKept s (s.instantiateTenant t) :=
  draw_planKept.trans (.of_sluice rfl rfl rfl)

theorem enterPhase_planKept {s : State} {p : Phase} : PlanKept s (s.enterPhase p) := by
  unfold State.enterPhase State.noteMode
  split <;> exact .of_sluice rfl rfl rfl

theorem ItemFrame.records {s t : State} (h : ItemFrame s t) : t.vault.records = s.vault.records := by
  have hv := congrArg VaultState.records h.vault
  exact hv

theorem reject_planKept {s : State} {id off : Nat} {st : Status} : PlanKept s (s.reject id st off) where
  plan := reject_frame.plan
  activeB := reject_frame.activeB
  activeBank := finish_activeBank
  records := reject_frame.records

theorem modeStatusAll_planKept {s : State} {st : Status} {p : Item → Bool} : PlanKept s (s.modeStatusAll st p) :=
  .foldl fun _ _ => reject_planKept

theorem sendRing_planKept {s : State} {kind : Nat} {epoch : DWord} {body : List Byte} :
    PlanKept s (s.sendRing kind epoch body) := by
  unfold State.sendRing
  split <;> exact .of_sluice rfl rfl rfl

theorem requestSync_planKept {s : State} : PlanKept s s.requestSync := by
  unfold State.requestSync
  split
  · exact sendRing_planKept.trans (.of_sluice rfl rfl rfl)
  · exact .of_sluice rfl rfl rfl

theorem dropSteps_planKept {s : State} {st : Status} : PlanKept s (s.dropSteps st) := .of_sluice rfl rfl rfl

theorem enterMirrorSync_planKept {s : State} : PlanKept s s.enterMirrorSync :=
  enterPhase_planKept.trans (modeStatusAll_planKept.trans (dropSteps_planKept.trans requestSync_planKept))

/-- Whatever follows Plan Load, its plan stays. -/
theorem leavePlanLoad_planKept {s : State} : PlanKept s s.leavePlanLoad := by
  unfold State.leavePlanLoad
  split
  · exact .refl
  · split
    · exact .refl
    · split
      · exact enterMirrorSync_planKept
      · exact enterPhase_planKept

/-! ## Applying a plan (R43, R44) -/

/-- The state of a plan that has just been applied. -/
def PlanState.applied (p : PlanState) (running : Plan) : PlanState :=
  { p with running := running, amendSeq := 0, waiting := false, reading := false }

/-- After Plan Load the plan runs, its table stands in bank A, which is active, and the key records are as they were. -/
structure PlanApplied (s t : State) (p : Plan) (table : List (BitVec 16)) : Prop where
  plan : t.plan = s.plan.applied p
  bankA : t.sluice.bankA = table
  activeB : t.sluice.activeB = false
  records : t.vault.records = s.vault.records

theorem PlanApplied.of_kept {s t u : State} {p : Plan} {table : List (BitVec 16)} (h : PlanApplied s t p table)
    (k : PlanKept t u) : PlanApplied s u p table where
  plan := k.plan.trans h.plan
  bankA := by
    have hbank := k.activeBank
    simp only [State.activeBank, k.activeB, h.activeB] at hbank
    exact hbank.trans h.bankA
  activeB := k.activeB.trans h.activeB
  records := k.records.trans h.records

theorem applyPlan_applied {s : State} {p : Plan} {units : List SluUnit} {table : List (BitVec 16)} :
    PlanApplied s (s.applyPlan p units table) p table := by
  unfold State.applyPlan
  extract_lets t plan sluice dsp vault mem obj hwk u spr v opened
  have hscrub : PlanKept s t := scrubAll_planKept
  have hset : PlanApplied s v p table :=
    ⟨congrArg (PlanState.applied · p) hscrub.plan, rfl, rfl, hscrub.records⟩
  have hopen : PlanKept v opened := .foldl fun _ _ => openTenant_planKept
  exact (hset.of_kept hopen).of_kept (.foldl fun _ _ => instantiateTenant_planKept)

/-- A failed Plan Load applies the empty plan (R44). -/
theorem planLoadFails_applied {s : State} {f : PlanFail} :
    PlanApplied { s with plan := { s.plan with
        serial := 0
        digest := zeros 48
        result := BitVec.ofNat 4 f.code
        empty := true
        failSection := if f.secNo = noSection then 0xFF else BitVec.ofNat 8 f.secNo
        failEntry := BitVec.ofNat 32 f.entry } }
      (s.planLoadFails f) s.emptyPlan [] :=
  applyPlan_applied.of_kept leavePlanLoad_planKept

/-- A Plan Load whose checks pass applies the announced plan (R43). -/
theorem planLoads_applied {s : State} {img : List Byte} :
    PlanApplied { s with plan := { s.plan with
        serial := (parseImage img).serial
        digest := (parseImage img).digest
        result := 0x0
        empty := false
        failSection := 0xFF
        failEntry := 0xFFFF_FFFF } }
      (s.planLoads img) (parseImage img).plan (parseImage img).sluice :=
  applyPlan_applied.of_kept leavePlanLoad_planKept

/-! ## The commands of Plan Load -/

theorem exec_glbPlanGo_announced {s : State} {v : Word} (hmmio : s.mmioOk 0 = true) (hwaiting : s.plan.waiting = true)
    (hgo : v.getLsbD 0 = true) : exec (.glbPlanGo v) s = .next (
      if (s.reg 0 0x108).toNat % 64 ≠ 0 ∨ (s.reg 0 0x110).toNat = 0 ∨ imageMax < (s.reg 0 0x110).toNat then
        { s with plan := { s.plan with waiting := false } }.planLoadFails (planFail 0xB)
      else { s with plan := { s.plan with waiting := false, reading := true } }) := by
  change Host.Outcome.next (s.planGo v) = _
  rw [State.planGo, if_neg (by simp [hmmio, hwaiting, hgo])]
  rfl

theorem exec_planWaitTimeout_waiting {s : State} (hwaiting : s.plan.waiting = true) :
    exec .planWaitTimeout s = .next (s.planLoadFails (planFail 0x2)) := by
  change execPlanWaitTimeout s = _
  rw [execPlanWaitTimeout, if_pos hwaiting]

theorem exec_planImageReadDone_failed {s : State} {why : ReadFailure} (hreading : s.plan.reading = true) :
    exec (.planImageReadDone (.failed why)) s = .next (s.planLoadFails (planFail 0xC)) := by
  change execPlanImageReadDone (.failed why) s = _
  unfold execPlanImageReadDone
  rw [if_neg (by simp [hreading])]

theorem padTo_length_self {bytes : List Byte} : padTo bytes.length bytes = bytes := by simp [padTo]

theorem exec_planImageReadDone_ok {s : State} {bytes : List Byte} (hreading : s.plan.reading = true)
    (hlen : bytes.length = (s.reg 0 0x110).toNat) :
    exec (.planImageReadDone (.ok bytes)) s = .next (match s.loadCheck bytes bytes.length with
      | some f => s.planLoadFails f
      | none => s.planLoads bytes) := by
  change execPlanImageReadDone (.ok bytes) s = _
  unfold execPlanImageReadDone
  rw [if_neg (by simp [hreading])]
  simp only [← hlen, padTo_length_self]
  cases s.loadCheck bytes bytes.length <;> rfl

/-! ## A member's epoch compare (R500) -/

theorem enterPhase_phase {s : State} {p : Phase} : (s.enterPhase p).sys.phase = p := by
  unfold State.enterPhase State.noteMode
  split <;> rfl

theorem enterPhase_ring {s : State} {p : Phase} : (s.enterPhase p).ring = s.ring := by
  unfold State.enterPhase State.noteMode
  split <;> rfl

theorem modeStatusAll_frame {s : State} {st : Status} {p : Item → Bool} : ItemFrame s (s.modeStatusAll st p) := by
  unfold State.modeStatusAll
  generalize (s.itemList.filter p).map (·.id) = ids
  induction ids generalizing s with
  | nil => exact ItemFrame.refl
  | cons id ids ih => exact reject_frame.trans ih

theorem sendRing_sys {s : State} {kind : Nat} {epoch : DWord} {body : List Byte} :
    (s.sendRing kind epoch body).sys = s.sys := by
  unfold State.sendRing
  split <;> rfl

theorem sendRing_compared {s : State} {kind : Nat} {epoch : DWord} {body : List Byte} :
    (s.sendRing kind epoch body).ring.compared = s.ring.compared := by
  unfold State.sendRing
  split <;> rfl

theorem requestSync_sys {s : State} : s.requestSync.sys = s.sys := by
  unfold State.requestSync
  split
  · exact sendRing_sys
  · rfl

theorem requestSync_compared {s : State} : s.requestSync.ring.compared = s.ring.compared := by
  unfold State.requestSync
  split
  · exact sendRing_compared
  · rfl

theorem enterMirrorSync_phase {s : State} : s.enterMirrorSync.sys.phase = .mirrorSync := by
  unfold State.enterMirrorSync
  rw [requestSync_sys]
  exact (congrArg SysState.phase modeStatusAll_frame.sys).trans enterPhase_phase

theorem enterMirrorSync_compared {s : State} : s.enterMirrorSync.ring.compared = s.ring.compared := by
  unfold State.enterMirrorSync
  rw [requestSync_compared]
  exact congrArg RingState.compared (modeStatusAll_frame.ring.trans enterPhase_ring)

/-- A member in Plan Load that has compared its epoch. -/
def State.epochCompared (s : State) : State := { s with ring := { s.ring with compared := true } }

theorem exec_mirrorEpochCompare_member {s : State} (hphase : s.sys.phase = .planLoad) (hmember : s.ring.member = true)
    (hopen : s.ring.culvertOpen = true) : exec .mirrorEpochCompare s = .next s.epochCompared.leavePlanLoad := by
  change execMirrorEpochCompare s = _
  rw [execMirrorEpochCompare, if_pos ⟨hphase, hmember, hopen⟩]
  rfl

/-- Once the epochs are compared, a member whose Plan Load has ended leaves for Mirror Sync if it is behind and for
Service otherwise. -/
theorem epochCompared_leavePlanLoad {s : State} (hphase : s.sys.phase = .planLoad) (hresult : s.plan.result ≠ 0xF) :
    s.epochCompared.leavePlanLoad =
      if s.behind then s.epochCompared.enterMirrorSync else s.epochCompared.enterPhase .service := by
  have hends : ¬ (s.epochCompared.sys.phase ≠ .planLoad ∨ s.epochCompared.plan.result = 0xF) :=
    not_or.mpr ⟨not_not_intro hphase, hresult⟩
  have hcompared : ¬ (s.epochCompared.ring.member && s.epochCompared.ring.locked &&
      !s.epochCompared.ring.compared) = true := by simp [State.epochCompared]
  rw [State.leavePlanLoad, if_neg hends, if_neg hcompared]
  rfl

/-- Settles O20: GO, the wait and the read, clause by clause; the end of a Plan Load applies its plan and keeps the key
records; and a member leaves by its epoch. -/
theorem planLoadAppliesAPlan : Obligations.PlanLoadAppliesAPlan := by
  refine ⟨?_, ?_, ?_, ?_, ?_, ?_, ?_, ?_⟩
  · intro s v hmmio hwaiting hgo
    exact exec_glbPlanGo_announced hmmio hwaiting hgo
  · intro s hwaiting
    exact exec_planWaitTimeout_waiting hwaiting
  · intro s why hreading
    exact exec_planImageReadDone_failed hreading
  · intro s bytes hreading hlen
    exact exec_planImageReadDone_ok hreading hlen
  · intro s f _
    have h := planLoadFails_applied (s := s) (f := f)
    rw [h.plan, h.records]
    exact ⟨rfl, rfl, rfl, rfl, rfl⟩
  · intro s img
    have h := planLoads_applied (s := s) (img := img)
    rw [h.plan, h.records]
    exact ⟨rfl, rfl, rfl, rfl, h.bankA, h.activeB, rfl⟩
  · intro s hphase hmember hopen hresult hbehind
    have hb : s.behind = true := by simp [State.behind, hmember, hbehind]
    refine ⟨_, exec_mirrorEpochCompare_member hphase hmember hopen, ?_⟩
    rw [epochCompared_leavePlanLoad hphase hresult, if_pos hb]
    exact ⟨enterMirrorSync_phase, enterMirrorSync_compared⟩
  · intro s hphase hmember hopen hresult hlevel
    have hb : ¬ s.behind = true := by simp [State.behind, hlevel]
    refine ⟨_, exec_mirrorEpochCompare_member hphase hmember hopen, ?_⟩
    rw [epochCompared_leavePlanLoad hphase hresult, if_neg hb]
    exact ⟨enterPhase_phase, congrArg RingState.compared enterPhase_ring⟩

end Sys2Proof.Machine

/-! PROOFS. PLAN_STAGE and PLAN_AMEND (R20 to R22, R54, R56), and the course of an amendment (R56 to R58). -/

namespace Sys2Proof.Machine

/-! ## Changing the units of an amendment -/

/-- Changing each unit of a list of changes alike is a change of the units and of nothing else. -/
theorem foldl_modifyUnit {f : SluUnit → SluUnit} : ∀ {cs : List UnitChange} {s : State},
    cs.foldl (fun s c => s.modifyUnit c.unitNo f) s = { s with sluice := { s.sluice with
      units := cs.foldl (fun us c => us.modify c.unitNo f) s.sluice.units } }
  | [], _ => rfl
  | c :: cs, s => foldl_modifyUnit (cs := cs) (s := s.modifyUnit c.unitNo f)

theorem returnUnit_dsp {s : State} {c : UnitChange} : (s.returnUnit c).dsp = s.dsp := by
  unfold State.returnUnit
  extract_lets back scrubs t
  split <;> rfl

theorem returnUnit_plan {s : State} {c : UnitChange} : (s.returnUnit c).plan = s.plan := by
  unfold State.returnUnit
  extract_lets back scrubs t
  split <;> rfl

theorem foldl_returnUnit_dsp : ∀ {cs : List UnitChange} {s : State}, (cs.foldl State.returnUnit s).dsp = s.dsp
  | [], _ => rfl
  | c :: cs, s => (foldl_returnUnit_dsp (cs := cs) (s := s.returnUnit c)).trans returnUnit_dsp

theorem foldl_returnUnit_plan : ∀ {cs : List UnitChange} {s : State}, (cs.foldl State.returnUnit s).plan = s.plan
  | [], _ => rfl
  | c :: cs, s => (foldl_returnUnit_plan (cs := cs) (s := s.returnUnit c)).trans returnUnit_plan

/-! ## The final table (R56) -/

theorem finalTable_units {s : State} {a : Amendment} : (s.finalTable a).sluice.units = s.sluice.units :=
  writeInactive_frame.units

theorem finalTable_inactiveBank {s : State} {a : Amendment} : (s.finalTable a).inactiveBank = a.image.sluice :=
  writeInactive_inactiveBank

theorem amendWake_dsp {s : State} : s.amendWake.dsp = s.dsp := by
  unfold State.amendWake
  split
  · rfl
  · split <;> rfl

/-! ## The two opcodes -/

theorem exec_planStage_complete {s : State} {it : Item} {img : List Byte} (hrun : s.Runs it 0x0710)
    (hdesc : planDescCheck it = none) (hbytes : it.hostBytes (it.le 16 8) (it.le 24 4) = some img)
    (hlen : leAt img 12 4 = img.length) : exec (.planStage it.id) s = .next (
      match s.stageCheck img, s.consumeAsk (BitVec.ofNat 32 (it.le 28 4)) 0x02 (sha256 img) with
      | some f, _ => s.complete it.id (if f.code = 0x4 then stAccessDenied else stBadField) (planBody 0 f.secNo f.entry)
      | none, .missing => s.complete it.id stQuorumMissing planNoBody
      | none, .waits => s.yieldItem it.id .quorum
      | none, .ready => s.storeSession it.id (.planRecord
          { serial := BitVec.ofNat 64 (leAt img 16 8), digest := sha384 img, fingerprint := slice img 32 8 })
          { status := stOk, origin1 := false, body := planNoBody }) := by
  have hop : it.opcode = 0x0710 := hrun.2.2
  change Host.Outcome.next (s.onRunning it.id fun it => if it.opcode ≠ 0x0710 then s else s.planStage it) = _
  rw [onRunning_eq hrun, if_neg (not_not_intro hop)]
  unfold State.planStage
  rw [hdesc, hbytes]
  dsimp only
  rw [if_neg (not_not_intro hlen)]
  cases s.stageCheck img with
  | some f => rfl
  | none => cases s.consumeAsk (BitVec.ofNat 32 (it.le 28 4)) 0x02 (sha256 img) <;> rfl

theorem exec_planAmend_complete {s : State} {it : Item} {img : List Byte} (hrun : s.Runs it 0x0711)
    (hphase : s.sys.phase = .service) (hdesc : planDescCheck it = none) (hidle : s.sluice.amend = none)
    (hplan : s.plan.empty = false) (hbytes : it.hostBytes (it.le 16 8) (it.le 24 4) = some img)
    (hlen : leAt img 12 4 = img.length) : exec (.planAmend it.id) s = .next (
      match s.amendCheck img with
      | some f => s.complete it.id (if f.code = 0x4 then stAccessDenied else stBadField) (planBody 0 f.secNo f.entry)
      | none =>
        if (s.changedUnits (parseImage img)).any fun c => s.sluFenced c.unitNo then
          s.complete it.id stNoResource planNoBody
        else s.beginAmend it (parseImage img)) := by
  have hop : it.opcode = 0x0711 := hrun.2.2
  change Host.Outcome.next (s.onRunning it.id fun it => if it.opcode ≠ 0x0711 then s else s.planAmend it) = _
  rw [onRunning_eq hrun, if_neg (not_not_intro hop)]
  unfold State.planAmend
  rw [if_neg (not_not_intro hphase), hdesc, hbytes]
  dsimp only
  rw [if_neg (by simp [hidle]), if_neg (by simp [hplan]), if_neg (not_not_intro hlen)]
  cases s.amendCheck img <;> rfl

/-! ## An amendment begins (R56) -/

/-- The amendment that an image that passed begins. -/
def State.newAmendment (s : State) (it : Item) (m : Image) : Amendment :=
  { item := it.id, image := m, changes := s.changedUnits m, stage := .waitClaims, drainLive := false,
    preTable := s.activeBank, failStatus := stOk }

theorem beginAmend_unchanged {s : State} {it : Item} {m : Image} (hnone : s.changedUnits m = []) :
    s.beginAmend it m = (s.yieldItem it.id .amendment).finalTable (s.newAmendment it m) := if_pos hnone

theorem beginAmend_changed {s : State} {it : Item} {m : Image} (hsome : s.changedUnits m ≠ []) :
    ∃ t : State, s.beginAmend it m = t.amendWake ∧ t.dsp = (s.yieldItem it.id .amendment).dsp ∧
      t.plan = (s.yieldItem it.id .amendment).plan ∧ t.sluice.units = ((s.changedUnits m).foldl
        (fun s c => s.modifyUnit c.unitNo fun x => { x with state := .leaving })
        (s.yieldItem it.id .amendment)).sluice.units := by
  refine ⟨_, if_neg hsome, ?_, ?_, rfl⟩ <;> rw [foldl_modifyUnit]

theorem beginAmend_dsp {s : State} {it : Item} {m : Image} :
    (s.beginAmend it m).dsp = (s.yieldItem it.id .amendment).dsp := by
  by_cases hcs : s.changedUnits m = []
  · rw [beginAmend_unchanged hcs]; rfl
  · obtain ⟨t, ht, hdsp, -, -⟩ := beginAmend_changed (it := it) hcs
    rw [ht, amendWake_dsp, hdsp]

/-- The item of an amendment that begins waits for it. -/
theorem beginAmend_waits {s : State} {it : Item} {m : Image} (hitem : s.item it.id = some it) :
    (s.beginAmend it m).Waits it.id .amendment := by
  obtain ⟨it', hit', hphase⟩ := yieldItem_waits (why := .amendment) hitem
  refine ⟨it', ?_, hphase⟩
  rw [State.item, beginAmend_dsp]
  exact hit'

/-- The two opcodes, and how an amendment begins with no changed unit and with some. -/
theorem planOpcodes : PlanOpcodes := by
  refine ⟨?_, ?_, ?_, ?_, ?_⟩
  · intro s it img hrun hdesc hbytes hlen
    exact exec_planStage_complete hrun hdesc hbytes hlen
  · intro s it img hrun hphase hdesc hidle hplan hbytes hlen
    exact exec_planAmend_complete hrun hphase hdesc hidle hplan hbytes hlen
  · intro s it m hitem
    exact beginAmend_waits hitem
  · intro s it m _ hnone
    rw [beginAmend_unchanged hnone]
    exact ⟨rfl, finalTable_inactiveBank, finalTable_units.trans yieldItem_frame.units⟩
  · intro s it m _ hsome
    obtain ⟨t, ht, -, hplan, hunits⟩ := beginAmend_changed (it := it) hsome
    rw [ht, amendWake_frame.units, amendWake_frame.plan, hunits, hplan]
    simp only [foldl_modifyUnit, yieldItem_sluice]
    exact ⟨trivial, yieldItem_frame.plan⟩

/-! ## The course of an amendment (R56 to R58) -/

/-- A rollback before the swap of the final table is due (R57). -/
theorem rollback_timed {s : State} {a : Amendment} {st : Status} (hamend : s.sluice.amend = some a)
    (htimed : a.stage.timed = true) : s.rollback st =
      if a.drainLive then
        let t := (a.changes.foldl State.returnUnit s).writeInactive a.preTable
        { t with sluice := { t.sluice with
            checking := true
            swapPending := false
            amend := some { a with stage := .rollbackCheck, failStatus := st } } }
      else (a.changes.foldl State.returnUnit s).endAmend st planNoBody := by
  unfold State.rollback
  rw [hamend]
  dsimp only
  split
  · next hstage => rw [hstage] at htimed; contradiction
  · next hstage => rw [hstage] at htimed; contradiction
  · rfl

theorem exec_amendDeadline_timed {s : State} {a : Amendment} (hamend : s.sluice.amend = some a)
    (htimed : a.stage.timed = true) : exec .amendDeadline s = .next (s.rollback stTimeout) := by
  change execAmendDeadline s = _
  unfold execAmendDeadline
  rw [hamend]
  exact if_pos htimed

theorem exec_drainFramesElapsed_draining {s : State} {a : Amendment} (hamend : s.sluice.amend = some a)
    (hstage : a.stage = .drainFrames) :
    let t := a.changes.foldl (fun s c => s.modifyUnit c.unitNo fun x => { x with state := .scrubbing }) s
    exec .drainFramesElapsed s =
      .next { t with sluice := { t.sluice with amend := some { a with stage := .scrubbing } } } := by
  change execDrainFramesElapsed s = _
  unfold execDrainFramesElapsed
  rw [hamend]
  exact if_neg (not_not_intro hstage)

/-- A changed unit as its scrub leaves it: its new owner's, and scrubbed (R56). -/
def UnitChange.scrubbed (c : UnitChange) : SluUnit :=
  { owner := c.newOwner, role := c.newRole, assigned := true, state := .scrubbed }

theorem scrubDone_late {s : State} {u : Nat} {x : SluUnit} (hunit : s.sluice.units[u]? = some x)
    (hstate : x.state = .scrubbing) (hlane : 20 ≤ u) (hlate : s.sluice.lateScrubs.contains u = true) :
    s.scrubDone u =
      let t := s.modifyUnit u fun x => { x with state := if x.assigned then .owned else .unassigned }
      { t with sluice := { t.sluice with lateScrubs := s.sluice.lateScrubs.erase u } } := by
  have hfurrow : ¬ u < 20 := by omega
  unfold State.scrubDone
  rw [hunit]
  dsimp only
  rw [if_neg (by simp [hstate, hfurrow]), if_neg hfurrow, if_pos hlate]
  rfl

theorem scrubDone_change {s : State} {a : Amendment} {c : UnitChange} {u : Nat} {x : SluUnit}
    (hunit : s.sluice.units[u]? = some x) (hstate : x.state = .scrubbing) (hlane : 20 ≤ u)
    (hlate : s.sluice.lateScrubs.contains u = false) (hamend : s.sluice.amend = some a)
    (hchange : a.changes.find? (·.unitNo == u) = some c) :
    s.scrubDone u =
      let t := s.modifyUnit u fun _ => c.scrubbed
      if a.changes.all fun d => (t.sluice.units[d.unitNo]?).any (·.state == .scrubbed) then t.finalTable a else t := by
  have hfurrow : ¬ u < 20 := by omega
  unfold State.scrubDone
  rw [hunit]
  dsimp only
  rw [if_neg (by simp [hstate, hfurrow]), if_neg hfurrow, if_neg (by rw [hlate]; decide), hamend]
  dsimp only
  rw [hchange]
  rfl

theorem all_scrubbed_iff {units : List SluUnit} {cs : List UnitChange} :
    (cs.all fun d => (units[d.unitNo]?).any (·.state == .scrubbed)) = true ↔
      ∀ d ∈ cs, (units[d.unitNo]?).map (·.state) = some .scrubbed := by
  rw [List.all_eq_true]
  refine forall₂_congr fun d _ => ?_
  cases units[d.unitNo]? <;> simp

theorem modifyUnit_unit {s : State} {u : Nat} {f : SluUnit → SluUnit} {x : SluUnit}
    (h : s.sluice.units[u]? = some x) : (s.modifyUnit u f).sluice.units[u]? = some (f x) := by
  simp [State.modifyUnit, h]

/-- The deadline, the end of the drain frames, and the end of a scrub in its amendment and after it. -/
theorem amendmentDrainsAndScrubs : AmendmentDrainsAndScrubs := by
  refine ⟨?_, ?_, ?_, ?_, ?_⟩
  · intro s a hamend htimed hlive
    rw [exec_amendDeadline_timed hamend htimed, rollback_timed hamend htimed, if_neg (by simp [hlive])]
  · intro s a hamend htimed hlive
    refine ⟨_, exec_amendDeadline_timed hamend htimed, ?_⟩
    rw [rollback_timed hamend htimed, if_pos hlive]
    exact ⟨rfl, rfl, rfl, writeInactive_inactiveBank, foldl_returnUnit_dsp, foldl_returnUnit_plan⟩
  · intro s a hamend hstage
    refine ⟨_, exec_drainFramesElapsed_draining hamend hstage, rfl, rfl, ?_, ?_⟩ <;> rw [foldl_modifyUnit]
  · intro s a c u x hunit hstate hlane hlate hamend hchange
    have hnew : (s.modifyUnit u fun _ => c.scrubbed).sluice.units[u]? = some c.scrubbed := modifyUnit_unit hunit
    refine ⟨s.scrubDone u, rfl, ?_⟩
    rw [scrubDone_change hunit hstate hlane hlate hamend hchange]
    dsimp only
    split
    · exact ⟨(congrArg (·[u]?) finalTable_units).trans hnew, rfl, rfl, rfl, rfl, fun _ => ⟨rfl, finalTable_inactiveBank, rfl⟩⟩
    · next hsome => exact ⟨hnew, rfl, rfl, rfl, rfl, fun hall => absurd (all_scrubbed_iff.mpr hall) hsome⟩
  · intro s u x hunit hstate hlane hlate
    refine ⟨s.scrubDone u, rfl, ?_⟩
    rw [scrubDone_late hunit hstate hlane hlate]
    exact ⟨modifyUnit_unit hunit, rfl, rfl⟩

/-- Settles O21: the opcodes, and the course of an amendment. -/
theorem planOpcodesAndAmendment : Obligations.PlanOpcodesAndAmendment := ⟨planOpcodes, amendmentDrainsAndScrubs⟩

end Sys2Proof.Machine
/-! PROOFS. The crossbar's check and swap (R51, R52). -/

namespace Sys2Proof.Machine

/-- An item with the number 7 that waits for its amendment. -/
def waitingItem : Item :=
  { id := 7, source := .internal, desc := [], tenant := none, opcode := 0x0711, cls := 0, ready := 0, inFlow := none,
    seq := 0, fence := false, notify := false, traceOn := false, phase := .yielded .amendment, general := false,
    failed := false, checked := true, claimed := true, claimFails := 0, lacked := [], claim := Claim.none, stage := 0,
    scratch := [], bufs := [], readFailed := false, written := [],
    outcome := { status := stOk, origin1 := false, body := [] } }

/-- An amendment of the item filed under 5 whose final swap is due. -/
def dueAmendment : Amendment :=
  { item := 5, image := parseImage [], changes := [], stage := .finalSwap, drainLive := true, preTable := [],
    failStatus := stOk }

/-- The swap of that amendment is pending, and the item table files the item 7 under 5. -/
def misfiledItem : State :=
  { State.reset with
    sluice := { SluiceState.reset with swapPending := true, amend := some dueAmendment }
    dsp := { DspState.reset with items := [(5, waitingItem)] } }

/-- The final swap sets the item anew under its own number, 7, so the entry 5 still holds the waiting item. -/
theorem misfiledItem_sluiceSwap_item : misfiledItem.sluiceSwap.item 5 = some waitingItem := rfl

/-- Refutes O22: its last clause does not ask that the amendment's item is filed under its own number, and of an item that
is not, the entry that the amendment names still waits after the final swap. -/
theorem not_sluiceChecksAndSwaps : ¬ Obligations.SluiceChecksAndSwaps := by
  rintro ⟨-, -, -, hswaps⟩
  obtain ⟨t, hnext, -, -, -, -, -, -, -, -, -, -, hfinal⟩ := hswaps misfiledItem dueAmendment rfl rfl
  obtain ⟨-, -, hended⟩ := hfinal rfl
  cases hnext
  have hsame := misfiledItem_sluiceSwap_item.symm.trans (hended waitingItem rfl rfl)
  exact absurd (congrArg (Option.map Item.stage) hsame) (by decide)

end Sys2Proof.Machine

/-! PROOFS. The end, the yield and the waking of an item (R76, R99 to R102), and QUIESCE and RESUME (R81, R84, R552). -/

namespace Sys2Proof.Machine

/-- Settles O60 by the item laws: what an end, a yield and a wait's end leave of the item, and the frame of each. -/
theorem itemEndsLeaveTheRest : Obligations.ItemEndsLeaveTheRest := by
  refine ⟨?_, ?_, ?_⟩
  · intro s it op st body hrun hop
    exact ⟨complete_completed hrun hop, complete_frame⟩
  · intro s it why hitem
    exact ⟨yieldItem_waits hitem, yieldItem_frame⟩
  · intro s it why o hitem hphase
    exact ⟨endWaitWith_item hitem hphase, endWaitWith_frame⟩

/-! ## The field checks of QUIESCE and RESUME (R84), and the modes that do not serve them (R552) -/

theorem exec_quiesce_badField {s : State} {it : Item} (hrun : s.Runs it 0x0701)
    (hbad : 10000000 < it.le 16 4 ∨ zeroRange it.desc 20 64 = false) :
    exec (.quiesce it.id) s = .next (s.failItem it.id stBadField) := by
  have hop : it.opcode = 0x0701 := hrun.2.2
  change execQuiesce it.id s = _
  rw [execQuiesce, onRunning_eq hrun, if_neg (not_not_intro hop), if_pos (by simpa using hbad)]

theorem exec_quiesce_notServing {s : State} {it : Item} (hrun : s.Runs it 0x0701) (htime : it.le 16 4 ≤ 10000000)
    (hzero : zeroRange it.desc 20 64 = true) (hphase : s.sys.phase ≠ .service) :
    exec (.quiesce it.id) s = .next (s.failItem it.id stNotServing) := by
  have hop : it.opcode = 0x0701 := hrun.2.2
  change execQuiesce it.id s = _
  rw [execQuiesce, onRunning_eq hrun, if_neg (not_not_intro hop), if_neg (by simp [htime, hzero]), if_pos hphase]

theorem exec_quiesce_service {s : State} {it : Item} (hrun : s.Runs it 0x0701) (htime : it.le 16 4 ≤ 10000000)
    (hzero : zeroRange it.desc 20 64 = true) (hphase : s.sys.phase = .service) :
    exec (.quiesce it.id) s = .next (if s.enterQuiesce.drainHolds
      then s.enterQuiesce.complete it.id stOk (okBody 0 []) else s.enterQuiesce.yieldItem it.id .drained) := by
  have hop : it.opcode = 0x0701 := hrun.2.2
  change execQuiesce it.id s = _
  rw [execQuiesce, onRunning_eq hrun, if_neg (not_not_intro hop), if_neg (by simp [htime, hzero]),
    if_neg (not_not_intro hphase)]

theorem exec_resume_badField {s : State} {it : Item} (hrun : s.Runs it 0x0702)
    (hbad : zeroRange it.desc 16 64 = false) : exec (.resume it.id) s = .next (s.failItem it.id stBadField) := by
  have hop : it.opcode = 0x0702 := hrun.2.2
  change execResume it.id s = _
  rw [execResume, onRunning_eq hrun, if_neg (not_not_intro hop), if_pos (by simp [hbad])]

theorem exec_resume_notServing {s : State} {it : Item} (hrun : s.Runs it 0x0702)
    (hzero : zeroRange it.desc 16 64 = true) (hphase : s.sys.phase ≠ .service) :
    exec (.resume it.id) s = .next (s.failItem it.id stNotServing) := by
  have hop : it.opcode = 0x0702 := hrun.2.2
  change execResume it.id s = _
  rw [execResume, onRunning_eq hrun, if_neg (not_not_intro hop), if_neg (by simp [hzero]), if_pos hphase]

theorem exec_resume_service {s : State} {it : Item} (hrun : s.Runs it 0x0702)
    (hzero : zeroRange it.desc 16 64 = true) (hphase : s.sys.phase = .service) :
    exec (.resume it.id) s = .next ((s.noteMode { s with sys := { s.sys with quiesce := false } }).complete it.id stOk
      (okBody (b2n s.sys.quiesce) [])) := by
  have hop : it.opcode = 0x0702 := hrun.2.2
  change execResume it.id s = _
  rw [execResume, onRunning_eq hrun, if_neg (not_not_intro hop), if_neg (by simp [hzero]),
    if_neg (not_not_intro hphase)]

/-- A running item of any opcode but OBJ_SEAL that fails has its record ready, and the rest is as it was. -/
theorem failItem_ends {s : State} {it : Item} {op : Nat} {st : Status} (hrun : s.Runs it op) (hop : op ≠ 0x0201) :
    (s.failItem it.id st).Completed it.id st [] ∧ ItemFrame s (s.failItem it.id st) :=
  ⟨failItem_completed hrun (.inl hop), failItem_frame⟩

/-- Settles O58: each of the four ends is a failure of the item, which leaves the rest of the device. -/
theorem diagnosticHasNoQuiesce : Obligations.DiagnosticHasNoQuiesce := by
  refine ⟨?_, ?_, ?_, ?_⟩
  · intro s it hrun _ hbad
    exact ⟨_, exec_quiesce_badField hrun hbad, failItem_ends hrun (by decide)⟩
  · intro s it hrun hphase htime hzero
    exact ⟨_, exec_quiesce_notServing hrun htime hzero (by simp [hphase]), failItem_ends hrun (by decide)⟩
  · intro s it hrun _ hbad
    exact ⟨_, exec_resume_badField hrun hbad, failItem_ends hrun (by decide)⟩
  · intro s it hrun hphase hzero
    exact ⟨_, exec_resume_notServing hrun hzero (by simp [hphase]), failItem_ends hrun (by decide)⟩

/-! ## Into and out of Quiesce (R81, R84) -/

/-- Noting a change of mode moves PREV_MODE and CHANGES alone. -/
theorem noteMode_eq {s t : State} : ∃ sys : SysState, s.noteMode t = { t with sys := sys } ∧
    sys.phase = t.sys.phase ∧ sys.quiesce = t.sys.quiesce := by
  unfold State.noteMode
  split
  · exact ⟨t.sys, rfl, rfl, rfl⟩
  · exact ⟨_, rfl, rfl, rfl⟩

theorem mode_quiesce {s : State} (hphase : s.sys.phase = .service) (hquiesce : s.sys.quiesce = true) :
    s.mode = 0x7 := by
  rw [mode_of_service hphase, if_pos hquiesce]

theorem isAdmin_of_quiesce {it : Item} (hop : it.opcode = 0x0701) (hpf : it.isPf = true) : it.isAdmin = true := by
  simp [Item.isAdmin, hop, hpf]

theorem modeStatusAll_of_none {s : State} {st : Status} {p : Item → Bool} (h : s.itemList.filter p = []) :
    s.modeStatusAll st p = s := by
  rw [State.modeStatusAll, h]
  rfl

/-- Where the device holds an administrative item alone, entry into Quiesce ends no item (R81). -/
theorem enterQuiesce_of_admin {s : State} {it : Item} (hitems : s.dsp.items = [(it.id, it)])
    (hadmin : it.isAdmin = true) :
    s.enterQuiesce = s.noteMode { s with sys := { s.sys with quiesce := true } } := by
  obtain ⟨sys, hnote, -, -⟩ := noteMode_eq (s := s) (t := { s with sys := { s.sys with quiesce := true } })
  refine modeStatusAll_of_none ?_
  rw [hnote]
  simp [State.itemList, hitems, hadmin]

theorem drainHolds_of_quiesce {s : State} {it : Item} (hitems : s.dsp.items = [(it.id, it)])
    (hop : it.opcode = 0x0701) (hpf : it.isPf = true) : s.drainHolds = true := by
  simp [State.drainHolds, State.itemList, hitems, hop, hpf]

/-- Settles O6: the mode is noted first, then the item completes, which leaves mode and registers. -/
theorem quiesceAndResume : Obligations.QuiesceAndResume := by
  refine ⟨?_, ?_⟩
  · intro s it hrun htime hzero hphase hitems hpf
    have hop : it.opcode = 0x0701 := hrun.2.2
    obtain ⟨sys, hnote, hsysPhase, hsysQuiesce⟩ :=
      noteMode_eq (s := s) (t := { s with sys := { s.sys with quiesce := true } })
    have henter : s.enterQuiesce = { s with sys := sys } :=
      (enterQuiesce_of_admin hitems (isAdmin_of_quiesce hop hpf)).trans hnote
    have hdrain : State.drainHolds { s with sys := sys } = true := drainHolds_of_quiesce hitems hop hpf
    have hframe := complete_frame (s := { s with sys := sys }) (id := it.id) (st := stOk) (body := okBody 0 [])
    refine ⟨_, exec_quiesce_service hrun htime hzero hphase, ?_⟩
    rw [henter, if_pos hdrain]
    refine ⟨mode_quiesce ?_ ?_, complete_completed (op := 0x0701) hrun (.inr rfl), hframe.regs, hframe.qps,
      hframe.plan, hframe.cells⟩
    · rw [hframe.sys]; exact hsysPhase.trans hphase
    · rw [hframe.sys]; exact hsysQuiesce
  · intro s it hrun hzero hphase
    obtain ⟨sys, hnote, -, hsysQuiesce⟩ :=
      noteMode_eq (s := s) (t := { s with sys := { s.sys with quiesce := false } })
    refine ⟨_, exec_resume_service hrun hzero hphase, ?_, ?_, complete_frame⟩
    · rw [complete_frame.sys, hnote]; exact hsysQuiesce
    · rw [hnote]; exact complete_completed (op := 0x0702) hrun (.inr rfl)

end Sys2Proof.Machine

/-! PROOFS. The dispatcher's timers: coalescing time (R87), the end of a key fill (R124, R126) and the core watchdog
(R111). -/

namespace Sys2Proof.Machine

theorem exec_coalTimeout_due {s : State} {fn qp : Nat} (hcount : (s.qp fn qp).counted ≠ 0)
    (htime : bits (s.qpReg fn qp 0x118).toNat 8 10 ≠ 0) : exec (.coalTimeout fn qp) s =
      .next ((s.setQp fn qp { s.qp fn qp with counted := 0 }).sendVector fn (s.qpVector fn qp)) := by
  change execCoalTimeout fn qp s = _
  rw [execCoalTimeout, if_pos ⟨hcount, htime⟩]

/-! ## The end of a key fill (R126) -/

theorem mainRequest_eq {s : State} {n : Nat} :
    ∃ ent fresh, (s.mainRequest n).2 = { s with ent := ent, fresh := fresh } := by
  unfold State.mainRequest
  split
  · exact ⟨_, s.fresh, rfl⟩
  · exact ⟨s.ent, _, rfl⟩

theorem drawRequests_eq {per : Nat} : ∀ {fuel n : Nat} {s : State},
    ∃ ent fresh, (s.drawRequests per fuel n).2 = { s with ent := ent, fresh := fresh }
  | 0, _, s => ⟨s.ent, s.fresh, rfl⟩
  | fuel + 1, n, s => by
    rw [State.drawRequests]
    split
    · exact ⟨s.ent, s.fresh, rfl⟩
    · obtain ⟨_, _, hone⟩ := mainRequest_eq (s := s) (n := min n per)
      obtain ⟨ent, fresh, hrest⟩ :=
        drawRequests_eq (per := per) (fuel := fuel) (n := n - min n per) (s := (s.mainRequest (min n per)).2)
      refine ⟨ent, fresh, hrest.trans ?_⟩
      rw [hone]

/-- A draw from the main DRBG moves the DRBG and the count of open values alone. -/
theorem draw_eq {s : State} {n : Nat} : ∃ ent fresh, (s.draw n).2 = { s with ent := ent, fresh := fresh } :=
  drawRequests_eq

/-- Steps that each change the dispatcher alone change it alone together. -/
theorem foldl_dsp {α : Type} {f : State → α → State} (hf : ∀ s a, ∃ dsp, f s a = { s with dsp := dsp }) :
    ∀ {as : List α} {s : State}, ∃ dsp, as.foldl f s = { s with dsp := dsp }
  | [], s => ⟨s.dsp, rfl⟩
  | a :: as, s => by
    obtain ⟨_, hone⟩ := hf s a
    obtain ⟨dsp, hrest⟩ := foldl_dsp hf (as := as) (s := f s a)
    refine ⟨dsp, hrest.trans ?_⟩
    rw [hone]

/-- The end of a fill takes it off the list of fills; its waiters are woken in the dispatcher. -/
theorem endFill_eq {s : State} {f : KeyFill} : ∃ dsp, s.endFill f =
    { s with vault := { s.vault with fills := s.vault.fills.filter (·.handle != f.handle) }, dsp := dsp } := by
  refine foldl_dsp fun t id => ?_
  split
  · exact ⟨_, rfl⟩
  · exact ⟨t.dsp, rfl⟩

/-- Where there is room nothing is evicted. -/
theorem makeRoom_of_fits {n fuel : Nat} {c : List CacheEntry} (h : linesUsed c + n ≤ 16384) :
    makeRoom n fuel c = some c := by
  cases fuel <;> rw [makeRoom, if_pos h]

/-- The entry of a key that has just been filled into the cache. -/
def State.filledEntry (s : State) (h : Word) : CacheEntry := CacheEntry.mk h (s.keyLines h) 0 false s.vault.useClock

/-- A fill that has material and room puts its key behind what the cache holds, draws its masks and ends. -/
theorem fillDone_eq {s : State} {h : Word} {f : KeyFill} {k : KeyView}
    (hfill : s.vault.fills.find? (·.handle == h) = some f) (hstarted : f.started = true) (hview : s.keyView h = some k)
    (hmaterial : k.material ≠ []) (hroom : linesUsed s.vault.cache + s.keyLines h ≤ 16384) :
    ∃ ent fresh dsp, s.fillDone h true = { s with
      vault := { s.vault with cache := s.vault.cache ++ [s.filledEntry h]
                              fills := s.vault.fills.filter (·.handle != f.handle) }
      ent := ent, fresh := fresh, dsp := dsp } := by
  obtain ⟨ent, fresh, hdraw⟩ := draw_eq (s := s) (n := 64 * s.keyLines h)
  unfold State.fillDone
  rw [hfill]
  dsimp only
  rw [if_neg (by simp [hstarted]), if_neg (by simp), hview]
  dsimp only
  rw [if_neg hmaterial, makeRoom_of_fits hroom]
  dsimp only
  rw [hdraw]
  obtain ⟨dsp, hend⟩ := endFill_eq (f := f) (s := { s with
    vault := { s.vault with cache := s.vault.cache ++ [s.filledEntry h] }, ent := ent, fresh := fresh })
  exact ⟨ent, fresh, dsp, hend⟩

/-! ## The core watchdog (R111) -/

/-- What the dispatcher keeps of a core's past: its resets within 1 s, and whether it is fenced. -/
def ServiceCore.past (k : ServiceCore) : List Nat × Bool := (k.resets, k.fenced)

/-- CORE_RESETS and the past of every core stay as they are. -/
structure CorePastKept (s t : State) : Prop where
  coreResets : t.dsp.coreResets = s.dsp.coreResets
  past : ∀ c : Nat, (t.dsp.cores[c]?).map ServiceCore.past = (s.dsp.cores[c]?).map ServiceCore.past

theorem CorePastKept.of_cores {s t : State} (hresets : t.dsp.coreResets = s.dsp.coreResets)
    (hcores : t.dsp.cores = s.dsp.cores) : CorePastKept s t :=
  ⟨hresets, fun _ => by rw [hcores]⟩

theorem CorePastKept.of_dsp {s t : State} (h : t.dsp = s.dsp) : CorePastKept s t := .of_cores (by rw [h]) (by rw [h])

theorem CorePastKept.refl {s : State} : CorePastKept s s := .of_dsp rfl

theorem CorePastKept.trans {s t u : State} (h : CorePastKept s t) (k : CorePastKept t u) : CorePastKept s u :=
  ⟨k.coreResets.trans h.coreResets, fun c => (k.past c).trans (h.past c)⟩

theorem CorePastKept.core {s t : State} (h : CorePastKept s t) {core : Nat} {k : ServiceCore}
    (hcore : s.dsp.cores[core]? = some k) :
    ∃ k', t.dsp.cores[core]? = some k' ∧ k'.resets = k.resets ∧ k'.fenced = k.fenced := by
  have hpast := h.past core
  rw [hcore] at hpast
  obtain ⟨k', hcore', hk⟩ := Option.map_eq_some_iff.mp hpast
  exact ⟨k', hcore', congrArg Prod.fst hk, congrArg Prod.snd hk⟩

theorem noteEnd_corePast {s : State} {it : Item} {o : Outcome} : CorePastKept s (s.noteEnd it o) := by
  unfold State.noteEnd
  extract_lets ok pay nas obj spr t
  have ht : t.dsp = s.dsp := by
    unfold t
    split
    · rfl
    · split <;> rfl
  exact .of_dsp ht

theorem freeCore_corePast {s : State} {it : Item} : CorePastKept s (s.freeCore it) := by
  unfold State.freeCore
  split
  · next core _ =>
    refine ⟨rfl, fun c => ?_⟩
    rw [State.modifyCore, List.getElem?_modify, Option.map_eq_map, Option.map_map]
    congr 1
    funext k
    by_cases h : core = c <;> simp [h, ServiceCore.past]
  · exact .refl

theorem releaseClaim_corePast {s : State} {it : Item} : CorePastKept s (s.releaseClaim it) := by
  unfold State.releaseClaim
  extract_lets src t1 mem t2 pke t3 t4
  have h2 : CorePastKept s t2 := by
    unfold t2
    split <;> exact .of_dsp rfl
  have h3 : CorePastKept t2 t3 := by
    unfold t3
    split
    · extract_lets u
      split <;> exact .of_dsp rfl
    · exact .refl
  have h4 : CorePastKept t3 (t4.wakeLacking it.claim.kinds) := .of_cores rfl rfl
  exact (h2.trans (h3.trans h4)).trans (.of_dsp amendWake_dsp)

theorem pushTrace_corePast {s : State} {n : Nat} {rec : List Byte} : CorePastKept s (s.pushTrace n rec) := by
  unfold State.pushTrace
  extract_lets
  split
  · exact .of_cores rfl rfl
  · refine CorePastKept.trans ?_ (.of_dsp hostWrite_dsp)
    exact .of_cores rfl rfl

theorem trace_corePast {s : State} {event detail : Nat} {it : Item} {st : Status} :
    CorePastKept s (s.trace event detail it st) := by
  unfold State.trace
  extract_lets core t
  have ht : CorePastKept s t := by
    unfold t
    split
    · exact pushTrace_corePast
    · exact .refl
  clear_value t
  split
  · exact ht.trans pushTrace_corePast
  · exact ht

/-- An item's end leaves CORE_RESETS and the past of its core. -/
theorem finish_corePast {s : State} {id : Nat} {o : Outcome} : CorePastKept s (s.finish id o) := by
  have hunlist {t : State} : CorePastKept t (t.unlist id) := .of_cores rfl rfl
  have hset {t : State} {it : Item} : CorePastKept t (t.setItem it) := .of_cores rfl rfl
  unfold State.finish
  split
  · exact .refl
  · split
    · exact .refl
    · exact noteEnd_corePast.trans (freeCore_corePast.trans (hunlist.trans (releaseClaim_corePast.trans
        (hset.trans trace_corePast))))

/-- A core's reset as the Steward records it: its scratch is cleared, and its resets and CORE_RESETS are up to date. -/
def State.noteReset (s : State) (core : Nat) (resets : List Nat) : State :=
  let t := (s.clearScratch core).modifyCore core fun k => { k with resets := resets }
  { t with dsp := { t.dsp with coreResets := t.dsp.coreResets + 1 } }

@[simp] theorem noteReset_core {s : State} {core : Nat} {resets : List Nat} :
    (s.noteReset core resets).dsp.cores[core]? = (s.dsp.cores[core]?).map fun k => { k with resets := resets } := by
  simp [State.noteReset, State.modifyCore, State.clearScratch]

theorem noteReset_coreResets {s : State} {core : Nat} {resets : List Nat} :
    (s.noteReset core resets).dsp.coreResets = s.dsp.coreResets + 1 := rfl

theorem noteReset_cells {s : State} {core : Nat} {resets : List Nat} : (s.noteReset core resets).mem.cells =
    memErase s.mem.cells (scratchBase core) (scratchBase (core + 1)) := rfl

/-- A reset that is not the third within 1 s ends the item and resets the core, and fences nothing. -/
theorem watchdog_eq {s : State} {it : Item} {core : Nat} {k : ServiceCore} (hcore : s.dsp.cores[core]? = some k)
    (hfew : (inWindow s.sys.tick 1000000 (s.sys.tick :: k.resets)).length < 3) :
    s.watchdog core it = (s.failItem it.id stTimeout).noteReset core
      (inWindow s.sys.tick 1000000 (s.sys.tick :: k.resets)) := by
  have hsys : (s.failItem it.id stTimeout).sys = s.sys := failItem_frame.sys
  obtain ⟨k', hcore', hresets, -⟩ := finish_corePast.core hcore
  have hclear : ((s.failItem it.id stTimeout).clearScratch core).dsp.cores[core]? = some k' := hcore'
  have htick : ((s.failItem it.id stTimeout).clearScratch core).sys.tick = s.sys.tick := congrArg SysState.tick hsys
  unfold State.watchdog
  dsimp only
  rw [hclear]
  dsimp only
  simp only [htick, hresets, if_neg (Nat.not_le.mpr hfew)]
  rfl

theorem exec_coreWatchdog_counts {s : State} {it : Item} {core : Nat}
    (hfind : s.itemList.find? (fun i => i.phase == .running core) = some it) (hcounts : s.watchdogHolds it = false) :
    exec (.coreWatchdog core) s = .next (s.watchdog core it) := by
  change execCoreWatchdog core s = _
  rw [execCoreWatchdog, hfind]
  simp [hcounts]

theorem running_of_find {s : State} {it : Item} {core : Nat}
    (hfind : s.itemList.find? (fun i => i.phase == .running core) = some it) : it.isRunning = true := by
  have hphase : it.phase = .running core := by simpa using List.find?_some hfind
  simp [Item.isRunning, Item.core?, hphase]

/-- Settles O5: the coalescing time by its equation; a fill by what its end changes; and a reset as the item's end,
which leaves the core's past, followed by the record of the reset. -/
theorem dispatcherTimersTakeEffect : Obligations.DispatcherTimersTakeEffect := by
  refine ⟨?_, ?_, ?_⟩
  · intro s fn qp hcount htime
    exact exec_coalTimeout_due hcount htime
  · intro s h f k hfill hstarted hview hmaterial hroom
    obtain ⟨ent, fresh, dsp, hdone⟩ := fillDone_eq hfill hstarted hview hmaterial hroom
    exact ⟨_, congrArg Host.Outcome.next hdone, rfl, rfl, rfl, rfl, rfl, rfl, rfl, rfl⟩
  · intro s it core k hfind hitem hop hcounts hcore hfew
    have hrun : s.Runs it it.opcode := ⟨hitem, running_of_find hfind, rfl⟩
    obtain ⟨hended, hframe⟩ := failItem_ends (st := stTimeout) hrun hop
    have hkept : CorePastKept s (s.failItem it.id stTimeout) := finish_corePast
    obtain ⟨k', hcore', -, hfenced⟩ := hkept.core hcore
    refine ⟨_, exec_coreWatchdog_counts hfind hcounts, ?_⟩
    rw [watchdog_eq hcore hfew]
    generalize s.failItem it.id stTimeout = u at *
    refine ⟨hended, ?_, ?_, ?_, hframe.regs, hframe.qps, hframe.sys, hframe.sen, fun a ha => ?_, fun a hlo hhi => ?_⟩
    · rw [noteReset_coreResets, hkept.coreResets]
    · simp [hcore']
    · simp [hcore', hfenced]
    · rw [noteReset_cells, memByte_memErase_out ha, hframe.cells]
    · rw [noteReset_cells, memByte_memErase_in hlo hhi]

end Sys2Proof.Machine

/-! PROOFS. Consumption (R68, R77, R92, R103, R105): what a consumed descriptor's queue pair, flow and item become. -/

namespace Sys2Proof.Machine

/-! ## The flow of the descriptor (R384) -/

/-- The state in which a descriptor's flow has been looked up. -/
def State.flowTouched (s : State) (fn : Nat) (desc : List Byte) : State :=
  match s.flowOf fn desc with
  | some f => s.touchFlow f
  | none => s

/-- Without an uncorrectable error in its line, looking a flow up moves the flow cache and its counters alone. -/
theorem touchFlow_eq {s : State} {f : Nat} (hline : s.mem.ueLines.contains (s.flowLine f) = false) :
    ∃ hits misses cached, s.touchFlow f =
      { s with dsp := { s.dsp with flowHit := hits, flowMiss := misses, flowCached := cached } } := by
  unfold State.touchFlow
  split
  · exact ⟨_, s.dsp.flowMiss, s.dsp.flowCached, rfl⟩
  · exact ⟨s.dsp.flowHit, _, _, if_neg (ne_true_of_eq_false hline)⟩

theorem flowTouched_eq {s : State} {fn : Nat} {desc : List Byte}
    (hline : ∀ f, s.flowOf fn desc = some f → s.mem.ueLines.contains (s.flowLine f) = false) :
    ∃ hits misses cached, s.flowTouched fn desc =
      { s with dsp := { s.dsp with flowHit := hits, flowMiss := misses, flowCached := cached } } := by
  unfold State.flowTouched
  split
  · next f hflow => exact touchFlow_eq (hline f hflow)
  · exact ⟨s.dsp.flowHit, s.dsp.flowMiss, s.dsp.flowCached, rfl⟩

theorem ItemFrame.flow {s t : State} (h : ItemFrame s t) (f : Nat) : t.flow f = s.flow f := by
  unfold State.flow; rw [h.flows]

/-! ## The item of the descriptor (R77, R103) -/

/-- An item is still the item of the same descriptor. -/
structure Item.SameDescriptor (it it' : Item) : Prop where
  id : it'.id = it.id
  desc : it'.desc = it.desc
  source : it'.source = it.source
  inFlow : it'.inFlow = it.inFlow

theorem Item.SameDescriptor.trans {a b c : Item} (h : a.SameDescriptor b) (k : b.SameDescriptor c) :
    a.SameDescriptor c :=
  ⟨k.id.trans h.id, k.desc.trans h.desc, k.source.trans h.source, k.inFlow.trans h.inFlow⟩

/-- The record that a failed common check leaves (R76). -/
def checkOutcome (st : Status) (off : Nat) : Outcome :=
  { status := st, origin1 := true, body := padTo 24 (zeros 8 ++ leBytes 2 off) }

/-- An item after the common checks: one that fails has its outcome. -/
def State.checkedItem (s : State) (it : Item) : Item :=
  match s.commonCheck it with
  | some (st, off) => { it with failed := true, outcome := checkOutcome st off }
  | none => it

theorem checkedItem_sameDescriptor {s : State} {it : Item} : it.SameDescriptor (s.checkedItem it) := by
  unfold State.checkedItem
  split <;> exact ⟨rfl, rfl, rfl, rfl⟩

theorem checkedItem_of_failure {s : State} {it : Item} {st : Status} {off : Nat}
    (h : s.commonCheck it = some (st, off)) :
    s.checkedItem it = { it with failed := true, outcome := checkOutcome st off } := by
  rw [State.checkedItem, h]

/-! ## Its queue pair and its sequence number (R68, R103) -/

/-- A queue pair whose head descriptor has been consumed. -/
def Qp.consumed (q : Qp) (size : Nat) : Qp :=
  { q with sqHead := (q.sqHead + 1) % size, reserved := q.reserved + 1, inflight := q.inflight + 1,
           fetched := q.fetched.filter (·.1 != q.sqHead) }

/-- The state in which an item has taken its queue pair's head and its numbers, before it stands in the device. -/
def State.numbered (s : State) (fn qp : Nat) (it : Item) : State :=
  let s := s.setQp fn qp ((s.qp fn qp).consumed (s.sqSize fn qp))
  let s := { s with dsp := { s.dsp with nextItem := s.dsp.nextItem + 1, consumed := s.dsp.consumed + 1 } }
  match it.inFlow with
  | some f => s.setFlow f { s.flow f with nextSeq := (s.flow f).nextSeq + 1 }
  | none => s

theorem numbered_eq {s : State} {fn qp : Nat} {it : Item} : ∃ flows, s.numbered fn qp it =
    { s with qps := tabSet s.qps (qpKey fn qp) ((s.qp fn qp).consumed (s.sqSize fn qp))
             dsp := { s.dsp with nextItem := s.dsp.nextItem + 1, consumed := s.dsp.consumed + 1, flows := flows } } := by
  unfold State.numbered
  extract_lets t u
  split
  · exact ⟨_, rfl⟩
  · exact ⟨s.dsp.flows, rfl⟩

theorem numbered_flow_self {s : State} {fn qp f : Nat} {it : Item} (h : it.inFlow = some f) :
    (s.numbered fn qp it).flow f = { s.flow f with nextSeq := (s.flow f).nextSeq + 1 } := by
  rw [State.numbered, h]
  exact tabGetD_tabSet_self

theorem numbered_flow_ne {s : State} {fn qp f : Nat} {it : Item} (h : it.inFlow ≠ some f) :
    (s.numbered fn qp it).flow f = s.flow f := by
  unfold State.numbered
  extract_lets t u
  split
  · next g hg => exact tabGetD_tabSet_ne fun hfg => h (hfg ▸ hg)
  · rfl

/-! ## The item's place in the device (R91, R92, R105) -/

/-- An item that may leave Parked is enqueued; any other is parked. -/
def State.place (s : State) (it : Item) : State :=
  if s.mayUnpark it then s.enqueue it 0x00 else (s.setItem it).trace 0x01 0x02 it 0

theorem enqueue_frame {s : State} {it : Item} {detail : Nat} : ItemFrame s (s.enqueue it detail) := by
  unfold State.enqueue
  extract_lets general it' t dsp u
  split
  · exact setItem_frame.trans trace_frame
  · have hlisted : ItemFrame t u := by constructor <;> rfl
    exact setItem_frame.trans (hlisted.trans trace_frame)

theorem place_frame {s : State} {it : Item} : ItemFrame s (s.place it) := by
  unfold State.place
  split
  · exact enqueue_frame
  · exact setItem_frame.trans trace_frame

/-- An enqueued item whose common checks failed has its record ready (R105). -/
theorem enqueue_failed_item {s : State} {it : Item} {detail : Nat} (h : it.failed = true) :
    (s.enqueue it detail).item it.id = some { it with phase := .done, general := it.inFlow.isSome && !s.isHead it } := by
  unfold State.enqueue
  extract_lets general it' t u
  rw [if_pos h, trace_item]
  exact setItem_item_self (it := { it with phase := .done, general := general })

theorem enqueue_item {s : State} {it : Item} {detail : Nat} (h : it.failed = false) :
    (s.enqueue it detail).item it.id = some { it with phase := .ready, general := it.inFlow.isSome && !s.isHead it } := by
  unfold State.enqueue
  extract_lets general it' t u
  rw [if_neg (ne_true_of_eq_false h), trace_item]
  exact setItem_item_self (it := it')

theorem place_item {s : State} {it : Item} :
    ∃ it', (s.place it).item it.id = some it' ∧ it.SameDescriptor it' := by
  unfold State.place
  split
  · cases h : it.failed with
    | true => exact ⟨_, enqueue_failed_item h, rfl, rfl, rfl, rfl⟩
    | false => exact ⟨_, enqueue_item h, rfl, rfl, rfl, rfl⟩
  · exact ⟨it, by rw [trace_item, setItem_item_self], rfl, rfl, rfl, rfl⟩

/-- A failed item that is not ordered in a flow does not park. -/
theorem mayUnpark_of_failed {s : State} {it : Item} (hfailed : it.failed = true) (hflow : it.inFlow = none) :
    s.mayUnpark it = true := by
  simp [State.mayUnpark, hfailed, hflow]

/-! ## The opcode's own checks (R78) -/

theorem runCheck_frame {s : State} {id : Nat} : ItemFrame s (s.runCheck id) := by
  unfold State.runCheck
  split
  · exact .refl
  · split
    · exact .refl
    · split
      · exact .refl
      · exact setItem_frame
      · split
        · exact setItem_frame
        · exact failItem_frame

/-- The checks of an opcode leave an item's descriptor as it is. -/
theorem runCheck_item {s : State} {it : Item} (hitem : s.item it.id = some it) :
    ∃ it', (s.runCheck it.id).item it.id = some it' ∧ it.SameDescriptor it' := by
  unfold State.runCheck
  rw [hitem]
  dsimp only
  split
  · exact ⟨it, hitem, rfl, rfl, rfl, rfl⟩
  · next hopen =>
    split
    · exact ⟨it, hitem, rfl, rfl, rfl, rfl⟩
    · exact ⟨_, setItem_item_self (it := { it with checked := true }), rfl, rfl, rfl, rfl⟩
    · split
      · exact ⟨_, setItem_item_self (it := { it with failed := true, outcome := _ }), rfl, rfl, rfl, rfl⟩
      · have hphase : it.phase ≠ .done := fun h => hopen (by simp [h])
        exact ⟨_, complete_item hitem hphase, rfl, rfl, rfl, rfl⟩

theorem runCheck_of_failed {s : State} {id : Nat} {it : Item} (hitem : s.item id = some it) (h : it.failed = true) :
    s.runCheck id = s := by
  rw [State.runCheck, hitem]
  simp [h]

/-! ## Consumption -/

/-- The item that a queue pair's head descriptor makes, after the common checks. -/
def State.consumedItem (s : State) (fn qp : Nat) (desc : List Byte) : Item :=
  s.checkedItem (s.newItem fn qp (s.qp fn qp).sqHead desc)

theorem consumedItem_sameDescriptor {s : State} {fn qp : Nat} {desc : List Byte} :
    (s.newItem fn qp (s.qp fn qp).sqHead desc).SameDescriptor (s.consumedItem fn qp desc) := checkedItem_sameDescriptor

/-- Consumption of a descriptor whose flow has been looked up, in the order of R103. -/
def State.takeDescriptor (s : State) (fn qp : Nat) (desc : List Byte) : State :=
  ((s.numbered fn qp (s.consumedItem fn qp desc)).place (s.consumedItem fn qp desc)).runCheck s.dsp.nextItem

theorem takeDescriptor_frame {s : State} {fn qp : Nat} {desc : List Byte} :
    ItemFrame (s.numbered fn qp (s.consumedItem fn qp desc)) (s.takeDescriptor fn qp desc) :=
  place_frame.trans runCheck_frame

/-- The consumed item stands in the device under the next number. -/
theorem takeDescriptor_item {s : State} {fn qp : Nat} {desc : List Byte} :
    ∃ it, (s.takeDescriptor fn qp desc).item s.dsp.nextItem = some it ∧
      (s.newItem fn qp (s.qp fn qp).sqHead desc).SameDescriptor it := by
  have hnew := consumedItem_sameDescriptor (s := s) (fn := fn) (qp := qp) (desc := desc)
  have hid : (s.consumedItem fn qp desc).id = s.dsp.nextItem := hnew.id
  obtain ⟨placed, hplaced, hsame⟩ := place_item (s := s.numbered fn qp (s.consumedItem fn qp desc))
    (it := s.consumedItem fn qp desc)
  rw [← hsame.id] at hplaced
  obtain ⟨it, hit, hchecked⟩ := runCheck_item hplaced
  rw [hsame.id, hid] at hit
  exact ⟨it, hit, hnew.trans (hsame.trans hchecked)⟩

/-- A descriptor that fails a common check outside any flow has its record ready. -/
theorem takeDescriptor_ended {s : State} {fn qp off : Nat} {desc : List Byte} {st : Status}
    (hflow : s.flowOf fn desc = none)
    (hfails : s.commonCheck (s.newItem fn qp (s.qp fn qp).sqHead desc) = some (st, off)) :
    (s.takeDescriptor fn qp desc).Ended s.dsp.nextItem (checkOutcome st off) := by
  have hitem : s.consumedItem fn qp desc =
      { s.newItem fn qp (s.qp fn qp).sqHead desc with failed := true, outcome := checkOutcome st off } :=
    checkedItem_of_failure hfails
  have hid : (s.consumedItem fn qp desc).id = s.dsp.nextItem := consumedItem_sameDescriptor.id
  have hfailed : (s.consumedItem fn qp desc).failed = true := by rw [hitem]
  have hinFlow : (s.consumedItem fn qp desc).inFlow = none := consumedItem_sameDescriptor.inFlow.trans hflow
  have hplaced := enqueue_failed_item (s := s.numbered fn qp (s.consumedItem fn qp desc)) (detail := 0x00) hfailed
  rw [hid] at hplaced
  unfold State.takeDescriptor
  rw [State.place, if_pos (mayUnpark_of_failed hfailed hinFlow), runCheck_of_failed hplaced hfailed]
  exact ⟨_, hplaced, rfl, by rw [hitem]⟩

section
variable {s : State} {fn qp : Nat} {desc : List Byte}

theorem takeDescriptor_nextItem : (s.takeDescriptor fn qp desc).dsp.nextItem = s.dsp.nextItem + 1 := by
  obtain ⟨flows, hnumbered⟩ := numbered_eq (s := s) (fn := fn) (qp := qp) (it := s.consumedItem fn qp desc)
  rw [takeDescriptor_frame.nextItem, hnumbered]

theorem takeDescriptor_consumed : (s.takeDescriptor fn qp desc).dsp.consumed = s.dsp.consumed + 1 := by
  obtain ⟨flows, hnumbered⟩ := numbered_eq (s := s) (fn := fn) (qp := qp) (it := s.consumedItem fn qp desc)
  rw [takeDescriptor_frame.consumed, hnumbered]

theorem takeDescriptor_qps : (s.takeDescriptor fn qp desc).qps =
    tabSet s.qps (qpKey fn qp) ((s.qp fn qp).consumed (s.sqSize fn qp)) := by
  obtain ⟨flows, hnumbered⟩ := numbered_eq (s := s) (fn := fn) (qp := qp) (it := s.consumedItem fn qp desc)
  rw [takeDescriptor_frame.qps, hnumbered]

theorem takeDescriptor_qp_self :
    (s.takeDescriptor fn qp desc).qp fn qp = (s.qp fn qp).consumed (s.sqSize fn qp) := by
  rw [State.qp, takeDescriptor_qps, tabGetD_tabSet_self]

theorem takeDescriptor_qp_ne {f q : Nat} (h : qpKey f q ≠ qpKey fn qp) :
    (s.takeDescriptor fn qp desc).qp f q = s.qp f q := by
  rw [State.qp, takeDescriptor_qps, tabGetD_tabSet_ne h]
  rfl

theorem takeDescriptor_nextSeq {f : Nat} (h : s.flowOf fn desc = some f) :
    ((s.takeDescriptor fn qp desc).flow f).nextSeq = (s.flow f).nextSeq + 1 := by
  rw [takeDescriptor_frame.flow f, numbered_flow_self (consumedItem_sameDescriptor.inFlow.trans h)]

theorem takeDescriptor_flow_ne {f : Nat} (h : s.flowOf fn desc ≠ some f) :
    (s.takeDescriptor fn qp desc).flow f = s.flow f :=
  (takeDescriptor_frame.flow f).trans
    (numbered_flow_ne fun hf => h (consumedItem_sameDescriptor.inFlow.symm.trans hf))

/-- Consumption leaves registers, device memory, the plan and the system's part. -/
theorem takeDescriptor_kept : (s.takeDescriptor fn qp desc).regs = s.regs ∧
    (s.takeDescriptor fn qp desc).mem.cells = s.mem.cells ∧ (s.takeDescriptor fn qp desc).plan = s.plan ∧
    (s.takeDescriptor fn qp desc).sys = s.sys := by
  obtain ⟨flows, hnumbered⟩ := numbered_eq (s := s) (fn := fn) (qp := qp) (it := s.consumedItem fn qp desc)
  have hframe := takeDescriptor_frame (s := s) (fn := fn) (qp := qp) (desc := desc)
  rw [hframe.regs, hframe.cells, hframe.plan, hframe.sys, hnumbered]
  exact ⟨rfl, rfl, rfl, rfl⟩

end

theorem consume_eq {s : State} {fn qp : Nat} {desc : List Byte} (hcan : s.canConsume fn qp = true)
    (hfetched : (s.qp fn qp).fetched.find? (·.1 == (s.qp fn qp).sqHead) = some ((s.qp fn qp).sqHead, desc)) :
    s.consume fn qp = ((s.flowTouched fn desc).numbered fn qp ((s.flowTouched fn desc).checkedItem
      ((s.flowTouched fn desc).newItem fn qp (s.qp fn qp).sqHead desc))).place ((s.flowTouched fn desc).checkedItem
      ((s.flowTouched fn desc).newItem fn qp (s.qp fn qp).sqHead desc)) := by
  rw [State.consume, if_neg (by simp [hcan])]
  dsimp only
  rw [hfetched]
  rfl

theorem exec_descriptorConsume_eq {s : State} {fn qp : Nat} {desc : List Byte} (hcan : s.canConsume fn qp = true)
    (hfetched : (s.qp fn qp).fetched.find? (·.1 == (s.qp fn qp).sqHead) = some ((s.qp fn qp).sqHead, desc))
    (hline : ∀ f, s.flowOf fn desc = some f → s.mem.ueLines.contains (s.flowLine f) = false) :
    exec (.descriptorConsume fn qp) s = .next ((s.flowTouched fn desc).takeDescriptor fn qp desc) := by
  obtain ⟨hits, misses, cached, htouched⟩ := flowTouched_eq hline
  change Host.Outcome.next (if s.canConsume fn qp then (s.consume fn qp).runCheck s.dsp.nextItem else s) = _
  rw [if_pos hcan, consume_eq hcan hfetched, htouched]
  rfl

/-- The first part of O2: looking the flow up leaves all that the statement names, and the rest is read off the
state in which the item took its numbers. -/
theorem descriptorIsConsumed : DescriptorIsConsumed := by
  intro s fn qp desc hcan hfetched hline
  obtain ⟨hits, misses, cached, htouched⟩ := flowTouched_eq hline
  have hexec := exec_descriptorConsume_eq hcan hfetched hline
  rw [htouched] at hexec
  obtain ⟨it, hitem, hsame⟩ := takeDescriptor_item (fn := fn) (qp := qp) (desc := desc) (s :=
    { s with dsp := { s.dsp with flowHit := hits, flowMiss := misses, flowCached := cached } })
  exact ⟨_, it, hexec, takeDescriptor_qp_self, hitem, hsame.desc, hsame.source, hsame.inFlow, takeDescriptor_nextItem,
    takeDescriptor_consumed, fun f hf => takeDescriptor_nextSeq hf, fun f hf => takeDescriptor_flow_ne hf,
    fun f q hq => takeDescriptor_qp_ne hq, takeDescriptor_kept⟩

/-- The second part of O2: outside any flow the failed item does not park, and its opcode's checks pass it by. -/
theorem commonCheckFailureIsRecorded : CommonCheckFailureIsRecorded := by
  intro s fn qp desc st off hcan hfetched hflow hfails
  have htouched : s.flowTouched fn desc = s := by rw [State.flowTouched, hflow]
  refine ⟨_, exec_descriptorConsume_eq hcan hfetched (by simp [hflow]), ?_⟩
  rw [htouched]
  exact takeDescriptor_ended hflow hfails

/-- Settles O2 by its two parts. -/
theorem descriptorsAreConsumed : Obligations.DescriptorsAreConsumed :=
  ⟨descriptorIsConsumed, commonCheckFailureIsRecorded⟩

end Sys2Proof.Machine

/-! PROOFS. Dispatch (R93, R94, R96) and resumption (R101): the item that an idle core takes, and what it is then. -/

namespace Sys2Proof.Machine

/-! ## A trace record and an item's end in the dispatcher -/

theorem pushTrace_dsp {s : State} {n : Nat} {rec : List Byte} :
    ∃ traces, (s.pushTrace n rec).dsp = { s.dsp with traces := traces } := by
  unfold State.pushTrace
  extract_lets
  split
  · exact ⟨_, rfl⟩
  · exact ⟨_, hostWrite_dsp⟩

/-- A trace record moves the trace rings alone in the dispatcher. -/
theorem trace_dsp {s : State} {event detail : Nat} {it : Item} {st : Status} :
    ∃ traces, (s.trace event detail it st).dsp = { s.dsp with traces := traces } := by
  unfold State.trace
  extract_lets core t
  have ht : ∃ traces, t.dsp = { s.dsp with traces := traces } := by
    unfold t
    split
    · exact pushTrace_dsp
    · exact ⟨s.dsp.traces, rfl⟩
  obtain ⟨_, ht⟩ := ht
  split
  · obtain ⟨traces, hpush⟩ := pushTrace_dsp (s := t) (n := it.fn)
      (rec := traceRecord true t.uptimeNs event detail core it st)
    exact ⟨traces, by rw [hpush, ht]⟩
  · exact ⟨_, ht⟩

@[simp] theorem trace_resumeQ {s : State} {event detail : Nat} {it : Item} {st : Status} :
    (s.trace event detail it st).dsp.resumeQ = s.dsp.resumeQ := by
  obtain ⟨_, h⟩ := trace_dsp (s := s) (event := event) (detail := detail) (it := it) (st := st)
  rw [h]

@[simp] theorem trace_cores {s : State} {event detail : Nat} {it : Item} {st : Status} :
    (s.trace event detail it st).dsp.cores = s.dsp.cores := by
  obtain ⟨_, h⟩ := trace_dsp (s := s) (event := event) (detail := detail) (it := it) (st := st)
  rw [h]

theorem noteEnd_eq {s : State} {it : Item} {o : Outcome} :
    ∃ obj spr pay, s.noteEnd it o = { s with obj := obj, spr := spr, pay := pay } := by
  unfold State.noteEnd
  extract_lets ok pay nas obj spr t
  have ht : ∃ obj spr, t = { s with obj := obj, spr := spr } := by
    unfold t
    split
    · exact ⟨_, s.spr, rfl⟩
    · split
      · exact ⟨s.obj, _, rfl⟩
      · exact ⟨s.obj, s.spr, rfl⟩
  clear_value t
  obtain ⟨_, _, rfl⟩ := ht
  exact ⟨_, _, _, rfl⟩

theorem freeCore_eq {s : State} {it : Item} :
    ∃ cores, s.freeCore it = { s with dsp := { s.dsp with cores := cores } } := by
  unfold State.freeCore
  split
  · exact ⟨_, rfl⟩
  · exact ⟨s.dsp.cores, rfl⟩

theorem amendWake_eq {s : State} : ∃ sluice, s.amendWake = { s with sluice := sluice } := by
  unfold State.amendWake
  split
  · exact ⟨s.sluice, rfl⟩
  · split
    · exact ⟨s.sluice, rfl⟩
    · exact ⟨_, rfl⟩

/-- The release of a claim reaches no more of the dispatcher than its items, and the parts that lend to a claim. -/
theorem releaseClaim_eq {s : State} {it : Item} : ∃ items vault mem pke sluice, s.releaseClaim it =
    { s with dsp := { s.dsp with items := items }, vault := vault, mem := mem, pke := pke, sluice := sluice } := by
  unfold State.releaseClaim
  extract_lets src t1 mem t2 pke t3 t4
  have h2 : ∃ vault mem, t2 = { s with vault := vault, mem := mem } := by
    unfold t2
    split
    · exact ⟨_, _, rfl⟩
    · exact ⟨_, s.mem, rfl⟩
  have h3 : ∃ pke, t3 = { t2 with pke := pke } := by
    unfold t3
    split
    · extract_lets u
      split <;> exact ⟨_, rfl⟩
    · exact ⟨t2.pke, rfl⟩
  obtain ⟨_, _, h2⟩ := h2
  obtain ⟨_, h3⟩ := h3
  obtain ⟨_, hwake⟩ := amendWake_eq (s := t4.wakeLacking it.claim.kinds)
  rw [hwake]
  unfold t4
  rw [h3, h2]
  exact ⟨_, _, _, _, _, rfl⟩

/-- An item's end does nothing, or writes its trace record once the item is off the resume queue; before that record
nothing leaves the device. -/
theorem finish_eq_self_or_trace {s : State} {id : Nat} {o : Outcome} : s.finish id o = s ∨
    ∃ (t : State) (it : Item) (st : Status), s.finish id o = t.trace 0x03 0 it st ∧
      t.dsp.resumeQ = s.dsp.resumeQ.erase id ∧ t.out = s.out := by
  unfold State.finish
  split
  · exact .inl rfl
  · next it _ =>
    split
    · exact .inl rfl
    · obtain ⟨_, _, _, hnote⟩ := noteEnd_eq (s := s) (it := it) (o := s.endBody it o)
      obtain ⟨_, hfree⟩ := freeCore_eq (s := s.noteEnd it (s.endBody it o)) (it := it)
      obtain ⟨_, _, _, _, _, hrelease⟩ :=
        releaseClaim_eq (s := ((s.noteEnd it (s.endBody it o)).freeCore it).unlist id) (it := it)
      refine .inr ⟨_, _, _, rfl, ?_, ?_⟩ <;> rw [hrelease, hfree, hnote] <;> rfl

/-- An item's end adds no item to the resume queue. -/
theorem finish_resumeQ_subset {s : State} {id : Nat} {o : Outcome} :
    (s.finish id o).dsp.resumeQ ⊆ s.dsp.resumeQ := by
  obtain hself | ⟨t, it, st, htrace, hqueue, -⟩ := finish_eq_self_or_trace (s := s) (id := id) (o := o)
  · rw [hself]; exact List.Subset.refl _
  · rw [htrace, trace_resumeQ, hqueue]; exact List.erase_subset

/-! ## The open checks and the choice (R78, R94) -/

/-- The checks of one item leave the device as it is, change an item, or fail the item. -/
theorem runCheck_cases {s : State} {id : Nat} : s.runCheck id = s ∨ (∃ it, s.runCheck id = s.setItem it) ∨
    ∃ st, s.runCheck id = s.failItem id st := by
  unfold State.runCheck
  split
  · exact .inl rfl
  · split
    · exact .inl rfl
    · split
      · exact .inl rfl
      · exact .inr (.inl ⟨_, rfl⟩)
      · split
        · exact .inr (.inl ⟨_, rfl⟩)
        · exact .inr (.inr ⟨_, rfl⟩)

theorem runCheck_resumeQ_subset {s : State} {id : Nat} : (s.runCheck id).dsp.resumeQ ⊆ s.dsp.resumeQ := by
  obtain h | ⟨_, h⟩ | ⟨_, h⟩ := runCheck_cases (s := s) (id := id) <;> rw [h]
  · exact List.Subset.refl _
  · exact List.Subset.refl _
  · exact finish_resumeQ_subset

theorem runCheck_corePast {s : State} {id : Nat} : CorePastKept s (s.runCheck id) := by
  obtain h | ⟨_, h⟩ | ⟨_, h⟩ := runCheck_cases (s := s) (id := id) <;> rw [h]
  · exact .refl
  · exact .of_cores rfl rfl
  · exact finish_corePast

theorem runChecks_resumeQ_subset {s : State} : s.runChecks.dsp.resumeQ ⊆ s.dsp.resumeQ :=
  List.foldlRecOn (motive := fun t : State => t.dsp.resumeQ ⊆ s.dsp.resumeQ) _ _ (List.Subset.refl _)
    fun _ ht _ _ => List.Subset.trans runCheck_resumeQ_subset ht

theorem runChecks_corePast {s : State} : CorePastKept s s.runChecks :=
  List.foldlRecOn (motive := CorePastKept s) _ _ .refl fun _ ht _ _ => ht.trans runCheck_corePast

/-- The class rule moves credits and list pointers alone. -/
theorem chooseItem_eq {s t : State} {id : Nat} (h : s.chooseItem = some (id, t)) :
    ∃ credits rrNext, t = { s with dsp := { s.dsp with credits := credits, rrNext := rrNext } } := by
  unfold State.chooseItem at h
  extract_lets es u at h
  have hu : ∃ credits, u = { s with dsp := { s.dsp with credits := credits } } := by
    unfold u
    split
    · exact ⟨_, rfl⟩
    · exact ⟨s.dsp.credits, rfl⟩
  clear_value u
  obtain ⟨_, rfl⟩ := hu
  split at h
  · cases h
  · split at h
    · cases h
    · split at h
      · cases h
      · obtain ⟨_, -, hpair⟩ := Option.map_eq_some_iff.mp h
        exact ⟨_, _, (congrArg Prod.snd hpair).symm⟩

/-! ## The claim of an opcode that claims nothing (R96) -/

section
variable {s : State} {it : Item}

/-- An item from a queue pair or a headgate, of an opcode past KEY_GENERATE: of these KEY_ATTEST and APPROVAL_SIGN alone
claim anything, the public-key run of R155. -/
structure Item.ClaimsNothing (it : Item) : Prop where
  source : it.source ≠ .internal
  range : 0x0502 ≤ it.opcode
  attest : it.opcode ≠ 0x050A
  approve : it.opcode ≠ 0x0511

theorem Item.ClaimsNothing.claimKeys (h : it.ClaimsNothing) : s.claimKeys it = [] := by
  have hop := h.range
  unfold State.claimKeys
  simp (disch := omega) only [if_neg h.source, if_neg]

theorem Item.ClaimsNothing.claimCheck (h : it.ClaimsNothing) : s.claimCheck it = none := by
  have hop := h.range
  unfold State.claimCheck
  simp (disch := omega) only [if_neg h.source, if_neg]

theorem Item.ClaimsNothing.vaultRun (h : it.ClaimsNothing) : it.vaultRun = none := by
  have hop := h.range
  unfold Item.vaultRun
  simp (disch := omega) only [if_neg h.attest, if_neg h.approve, if_neg]

theorem Item.ClaimsNothing.claimCistern (h : it.ClaimsNothing) : s.claimCistern it = some none := by
  have hop := h.range
  unfold State.claimCistern
  simp (disch := omega) only [if_neg h.source, if_neg, h.vaultRun]

theorem Item.ClaimsNothing.claimShares (h : it.ClaimsNothing) : s.claimShares it = some [] := by
  have hop := h.range
  have hlane : ¬ isLaneOp it.opcode = true := by
    simp only [isLaneOp, isHmac, Bool.or_eq_true, beq_iff_eq]
    omega
  unfold State.claimShares
  simp (disch := omega) only [if_neg h.source, if_neg hlane, if_neg]

theorem Item.ClaimsNothing.claimStaging (h : it.ClaimsNothing) : s.claimStaging it = some (s, none) := by
  have hop : it.opcode ≠ 0x0102 := by have := h.range; omega
  simp [State.claimStaging, Item.stages, hop]

theorem Item.ClaimsNothing.firstUnit (h : it.ClaimsNothing) : s.firstUnit it = [] := by
  have hop := h.range
  unfold State.firstUnit
  simp (disch := omega) only [if_neg]

theorem takeEgress_nil : s.takeEgress [] = some (s, 0) := by
  simp [State.takeEgress, State.weirShare]

/-- An item whose claim of nothing has succeeded. -/
def Item.emptyClaimed (it : Item) : Item := { it with claim := Claim.none, claimed := true, lacked := [] }

theorem Item.ClaimsNothing.claimItem (h : it.ClaimsNothing) :
    s.claimItem it = ((s.unlist it.id).setItem it.emptyClaimed).trace 0x02 0 it.emptyClaimed 0 := by
  unfold State.claimItem
  simp [Item.emptyClaimed, Claim.none, h.claimKeys, h.claimCheck, h.claimCistern, h.claimShares, h.claimStaging,
    h.firstUnit, takeEgress_nil]

theorem Item.ClaimsNothing.claimOnCore (h : it.ClaimsNothing) (hitem : s.item it.id = some it) :
    s.claimOnCore it.id = s.claimItem it := by
  have hop : it.opcode ≠ 0x0401 := by have := h.range; omega
  rw [State.claimOnCore, hitem]
  simp [Item.needsFill, hop]

end

/-! ## A core takes an item (R110) -/

theorem takeOn_frame {s : State} {core : Nat} {it : Item} : ItemFrame s (s.takeOn core it) := by constructor <;> rfl

theorem takeOn_item_self {s : State} {core : Nat} {it : Item} :
    (s.takeOn core it).item it.id = some { it with phase := .running core } :=
  setItem_item_self (it := { it with phase := .running core })

theorem takeOn_item_ne {s : State} {core id : Nat} {it : Item} (h : id ≠ it.id) :
    (s.takeOn core it).item id = s.item id := setItem_item_ne h

theorem takeOn_core {s : State} {core : Nat} {it : Item} (h : core < s.dsp.cores.length) :
    ((s.takeOn core it).dsp.cores[core]?).map (·.item) = some (some it.id) := by
  simp [State.takeOn, State.setItem, State.modifyCore, h]

/-! ## Dispatch -/

theorem exec_dispatch_chosen {s s1 : State} {core id : Nat} {it : Item} (htakes : s.takesItems = true)
    (hidle : s.coreIdle core = true) (hqueue : s.dsp.resumeQ = []) (hchoice : s.runChecks.chooseItem = some (id, s1))
    (hitem : s1.item id = some it) : exec (.dispatch core) s = .next ((s1.takeOn core it).claimOnCore id) := by
  change Host.Outcome.next (s.dispatch core) = _
  rw [State.dispatch, if_neg (by simp [htakes]), if_pos hidle, hqueue, hchoice]
  dsimp only
  rw [hitem]

/-- The first part of O3: the choice leaves the chosen item as it stood, and its empty claim succeeds on the core. -/
theorem dispatchPutsAnItemOnTheCore : DispatchPutsAnItemOnTheCore := by
  intro s s1 core id it htakes hidle hqueue hchoice hitem hid hsource hlow hattest happrove
  subst hid
  have hclaims : Item.ClaimsNothing { it with phase := .running core } := ⟨hsource, hlow, hattest, happrove⟩
  obtain ⟨_, _, hs1⟩ := chooseItem_eq hchoice
  have hqueue1 : s1.dsp.resumeQ = [] := by
    rw [hs1]; exact List.subset_nil.mp (hqueue ▸ runChecks_resumeQ_subset)
  have hcore : core < s1.dsp.cores.length := by
    obtain ⟨k, hk, -⟩ := (Option.any_eq_true _ _).mp hidle
    obtain ⟨k', hk', -⟩ := runChecks_corePast.core hk
    rw [hs1]; exact (List.getElem?_eq_some_iff.mp hk').1
  have hclaimed := (hclaims.claimOnCore (takeOn_item_self (s := s1))).trans hclaims.claimItem
  refine ⟨_, (exec_dispatch_chosen htakes hidle hqueue hchoice hitem).trans (congrArg Host.Outcome.next hclaimed), ?_⟩
  refine ⟨takeOn_frame.trans (unlist_frame.trans (setItem_frame.trans trace_frame)), ?_, fun j hj => ?_, ?_, ?_⟩
  · rw [trace_item]
    exact setItem_item_self (it := Item.emptyClaimed { it with phase := .running core })
  · rw [trace_item]
    exact (setItem_item_ne (it := Item.emptyClaimed { it with phase := .running core }) hj).trans (takeOn_item_ne hj)
  · rw [trace_cores]; exact takeOn_core hcore
  · rw [trace_resumeQ]
    change it.id ∉ s1.dsp.resumeQ.erase it.id
    simp [hqueue1]

/-! ## Resumption (R101) -/

/-- An item off the head of the resume queue, on a core, before its settled outcome is looked at. -/
def State.resumed (s : State) (core : Nat) (it : Item) : State :=
  ((({ s with dsp := { s.dsp with resumeQ := s.dsp.resumeQ.erase it.id } } : State).takeOn core it).trace 0x06 0
    { it with phase := .running core } 0)

theorem resumed_frame {s : State} {core : Nat} {it : Item} : ItemFrame s (s.resumed core it) := by
  refine ItemFrame.trans ?_ (takeOn_frame.trans trace_frame)
  constructor <;> rfl

theorem resumed_item {s : State} {core : Nat} {it : Item} :
    (s.resumed core it).item it.id = some { it with phase := .running core } := by
  rw [State.resumed, trace_item, takeOn_item_self]

theorem resumed_resumeQ {s : State} {core : Nat} {it : Item} :
    (s.resumed core it).dsp.resumeQ = s.dsp.resumeQ.erase it.id := by
  rw [State.resumed, trace_resumeQ]
  rfl

theorem exec_itemResume_head {s : State} {it : Item} {core : Nat} {rest : List Nat} (htakes : s.takesItems = true)
    (hqueue : s.dsp.resumeQ = it.id :: rest) (hcore : lowest 64 s.coreIdle = some core)
    (hitem : s.item it.id = some it) : exec (.itemResume it.id) s =
      .next (if it.stage = 0xFF then (s.resumed core it).finish it.id it.outcome else s.resumed core it) := by
  change execItemResume it.id s = _
  rw [execItemResume, if_pos ⟨htakes, by rw [hqueue]; rfl⟩, hcore]
  dsimp only
  rw [State.resumeOn, hitem]
  rfl

/-- The second part of O3: the head of the resume queue runs, and one with a settled outcome ends as a running item. -/
theorem oldestWaitEndsFirst : OldestWaitEndsFirst := by
  refine ⟨?_, ?_⟩
  · intro s it core rest htakes hqueue hcore hitem hstage
    refine ⟨_, exec_itemResume_head htakes hqueue hcore hitem, ?_⟩
    rw [if_neg hstage]
    refine ⟨resumed_item, ?_, resumed_frame⟩
    rw [resumed_resumeQ, hqueue, List.erase_cons_head]
  · intro s it core rest htakes hqueue hcore hitem hstage hop
    refine ⟨_, exec_itemResume_head htakes hqueue hcore hitem, ?_⟩
    rw [if_pos hstage]
    have hended := finish_item (it := { it with phase := .running core }) (o := it.outcome) (s := s.resumed core it)
      resumed_item (by simp)
    exact ⟨⟨_, hended, rfl, endBody_eq (.inl hop)⟩, resumed_frame.trans finish_frame⟩

/-- Settles O3 by its two parts. -/
theorem coresTakeItems : Obligations.CoresTakeItems :=
  ⟨dispatchPutsAnItemOnTheCore, oldestWaitEndsFirst⟩

end Sys2Proof.Machine

/-! PROOFS. Release of a record (R70, R76, R106): what is written at CQ_TAIL, and what the rest of the release
leaves. -/

namespace Sys2Proof.Machine

/-! ## What leaves the device stays sent -/

theorem hostWrite_out {s : State} {fn iova : Nat} {bytes : List Byte} : (s.hostWrite fn iova bytes).out =
    .host { fn := fn, iova := BitVec.ofNat 64 iova, bytes := bytes } :: s.out := by
  unfold State.hostWrite
  extract_lets t v
  split
  · rfl
  · split <;> rfl

theorem sendVector_out {s : State} {fn v : Nat} : s.out ⊆ (s.sendVector fn v).out := by
  unfold State.sendVector
  extract_lets x
  split
  · exact List.Subset.refl _
  · split <;> split
    · exact List.Subset.refl _
    · exact List.subset_cons_self _ _
    · exact List.Subset.refl _
    · exact List.subset_cons_self _ _

theorem pushTrace_out {s : State} {n : Nat} {rec : List Byte} : s.out ⊆ (s.pushTrace n rec).out := by
  unfold State.pushTrace
  extract_lets
  split
  · exact List.Subset.refl _
  · rw [hostWrite_out]
    exact List.subset_cons_self _ _

theorem trace_out {s : State} {event detail : Nat} {it : Item} {st : Status} :
    s.out ⊆ (s.trace event detail it st).out := by
  unfold State.trace
  extract_lets core t
  have ht : s.out ⊆ t.out := by
    unfold t
    split
    · exact pushTrace_out
    · exact List.Subset.refl _
  clear_value t
  split
  · exact List.Subset.trans ht pushTrace_out
  · exact ht

theorem finish_out {s : State} {id : Nat} {o : Outcome} : s.out ⊆ (s.finish id o).out := by
  obtain hself | ⟨t, it, st, htrace, -, hout⟩ := finish_eq_self_or_trace (s := s) (id := id) (o := o)
  · rw [hself]; exact List.Subset.refl _
  · rw [htrace, ← hout]; exact trace_out

theorem endWaitWith_out {s : State} {id : Nat} {o : Outcome} : s.out ⊆ (s.endWaitWith id o).out := by
  unfold State.endWaitWith
  split
  · exact List.Subset.refl _
  · split
    · exact List.Subset.refl _
    · exact finish_out

theorem enqueue_out {s : State} {it : Item} {detail : Nat} : s.out ⊆ (s.enqueue it detail).out := by
  unfold State.enqueue
  extract_lets general it' t dsp u
  split
  · refine List.Subset.trans ?_ trace_out
    exact List.Subset.refl _
  · refine List.Subset.trans ?_ trace_out
    exact List.Subset.refl _

/-! ## What a release leaves once the record is written -/

/-- Nothing that was sent is lost, and registers, device memory, the system's part and the queue pairs stay as they are,
but for the records that one queue pair counts toward its interrupt. -/
structure ReleaseKept (fn qp : Nat) (s t : State) : Prop where
  out : s.out ⊆ t.out
  own : ∃ counted, t.qp fn qp = { s.qp fn qp with counted := counted }
  others : ∀ f q, qpKey f q ≠ qpKey fn qp → t.qp f q = s.qp f q
  regs : t.regs = s.regs
  cells : t.mem.cells = s.mem.cells
  sys : t.sys = s.sys

section
variable {fn qp : Nat}

theorem ReleaseKept.of_frame {s t : State} (h : ItemFrame s t) (hout : s.out ⊆ t.out) : ReleaseKept fn qp s t :=
  ⟨hout, ⟨(s.qp fn qp).counted, h.qp fn qp⟩, fun f q _ => h.qp f q, h.regs, h.cells, h.sys⟩

theorem ReleaseKept.refl {s : State} : ReleaseKept fn qp s s := .of_frame .refl (List.Subset.refl _)

theorem ReleaseKept.trans {s t u : State} (h : ReleaseKept fn qp s t) (k : ReleaseKept fn qp t u) :
    ReleaseKept fn qp s u := by
  obtain ⟨_, hown⟩ := h.own
  obtain ⟨counted, kown⟩ := k.own
  exact ⟨List.Subset.trans h.out k.out, ⟨counted, by rw [kown, hown]⟩,
    fun f q hq => (k.others f q hq).trans (h.others f q hq), k.regs.trans h.regs, k.cells.trans h.cells,
    k.sys.trans h.sys⟩

theorem setCounted_kept {s : State} {n : Nat} :
    ReleaseKept fn qp s (s.setQp fn qp { s.qp fn qp with counted := n }) :=
  ⟨List.Subset.refl _, ⟨n, tabGetD_tabSet_self⟩, fun _ _ hq => tabGetD_tabSet_ne hq, rfl, rfl, rfl⟩

theorem countRecord_kept {s : State} {it : Item} : ReleaseKept fn qp s (s.countRecord fn qp it) := by
  unfold State.countRecord
  split
  · extract_lets q limit
    split
    · exact setCounted_kept.trans (.of_frame sendVector_frame sendVector_out)
    · exact setCounted_kept
  · exact .refl

theorem removeItem_kept {s : State} {id : Nat} : ReleaseKept fn qp s (s.removeItem id) :=
  ⟨List.Subset.refl _, ⟨(s.qp fn qp).counted, rfl⟩, fun _ _ _ => rfl, rfl, rfl, rfl⟩

/-! ## What follows a release (R92, R104, R84, R365) -/

/-- A fold over steps that each keep it keeps it. -/
theorem ReleaseKept.foldl {f : State → Nat → State} (hf : ∀ t id, ReleaseKept fn qp t (f t id)) {s : State}
    {ids : List Nat} : ReleaseKept fn qp s (ids.foldl f s) :=
  List.foldlRecOn (motive := ReleaseKept fn qp s) _ _ .refl fun _ ht _ _ => ht.trans (hf _ _)

theorem freeHeadEntry_kept {s : State} {id : Nat} : ReleaseKept fn qp s (s.freeHeadEntry id) := by
  unfold State.freeHeadEntry
  split
  · split
    · exact .of_frame setItem_frame (List.Subset.refl _)
    · exact .refl
  · exact .refl

theorem unparkOne_kept {s : State} {id : Nat} : ReleaseKept fn qp s (s.unparkOne id) := by
  unfold State.unparkOne
  split
  · split
    · exact .of_frame enqueue_frame enqueue_out
    · exact .refl
  · exact .refl

theorem unpark_kept {s : State} : ReleaseKept fn qp s s.unpark :=
  (ReleaseKept.foldl fun _ _ => freeHeadEntry_kept).trans (.foldl fun _ _ => unparkOne_kept)

theorem endWaitWith_kept {s : State} {id : Nat} {o : Outcome} : ReleaseKept fn qp s (s.endWaitWith id o) :=
  .of_frame endWaitWith_frame endWaitWith_out

theorem wakeQuiesce_kept {s : State} : ReleaseKept fn qp s s.wakeQuiesce := by
  unfold State.wakeQuiesce
  split
  · refine .foldl fun t id => ?_
    split
    · split
      · exact endWaitWith_kept
      · exact .refl
    · exact .refl
  · exact .refl

theorem wakeSuspend_kept {s : State} : ReleaseKept fn qp s s.wakeSuspend := by
  refine .foldl fun t id => ?_
  split
  · split
    · exact endWaitWith_kept
    · exact .refl
  · exact .refl

theorem afterRelease_kept {s : State} : ReleaseKept fn qp s s.afterRelease :=
  unpark_kept.trans (wakeQuiesce_kept.trans wakeSuspend_kept)

end

/-! ## The record (R70, R76) -/

/-- A queue pair whose CQ of `size` entries has taken one more record. -/
def Qp.recorded (q : Qp) (size : Nat) : Qp :=
  Qp.settle { q with
    cqTail := if q.cqTail + 1 = size then 0 else q.cqTail + 1
    cqPhase := if q.cqTail + 1 = size then !q.cqPhase else q.cqPhase
    inflight := q.inflight - 1 }

/-- A queue pair that was disabled settles, which changes its enable state alone (R74). -/
theorem Qp.settle_eq {q : Qp} : ∃ draining, q.settle = { q with draining := draining } := by
  unfold Qp.settle
  split
  · exact ⟨false, rfl⟩
  · exact ⟨q.draining, rfl⟩

theorem Qp.recorded_eq {q : Qp} {size : Nat} : ∃ draining, q.recorded size = { q with
    cqTail := if q.cqTail + 1 = size then 0 else q.cqTail + 1
    cqPhase := if q.cqTail + 1 = size then !q.cqPhase else q.cqPhase
    inflight := q.inflight - 1
    draining := draining } := Qp.settle_eq

/-- The state in which an item's record has been written at CQ_TAIL. -/
def State.recorded (s : State) (fn qp : Nat) (it : Item) : State :=
  (s.hostWrite fn (s.cqBase fn qp + 32 * (s.qp fn qp).cqTail) (completionRecord it (s.qp fn qp).cqPhase)).setQp fn qp
    ((s.qp fn qp).recorded (s.cqSize fn qp))

section
variable {s : State} {it : Item} {fn qp : Nat}

theorem recorded_out : (s.recorded fn qp it).out =
    .host { fn := fn, iova := BitVec.ofNat 64 (s.cqBase fn qp + 32 * (s.qp fn qp).cqTail),
            bytes := completionRecord it (s.qp fn qp).cqPhase } :: s.out := hostWrite_out

theorem recorded_qp_self : (s.recorded fn qp it).qp fn qp = (s.qp fn qp).recorded (s.cqSize fn qp) :=
  tabGetD_tabSet_self

theorem recorded_qp_ne {f q : Nat} (h : qpKey f q ≠ qpKey fn qp) : (s.recorded fn qp it).qp f q = s.qp f q :=
  (tabGetD_tabSet_ne h).trans (hostWrite_frame.qp f q)

theorem recorded_regs : (s.recorded fn qp it).regs = s.regs := hostWrite_frame.regs

theorem recorded_cells : (s.recorded fn qp it).mem.cells = s.mem.cells := hostWrite_frame.cells

theorem recorded_sys : (s.recorded fn qp it).sys = s.sys := hostWrite_frame.sys

/-- Only the record of a VF_DIRTY_SWAP or VF_DIRTY_STOP ends a dirty log (R373). -/
theorem closeSwap_of_other (hswap : it.opcode ≠ 0x0751) (hstop : it.opcode ≠ 0x0752) : s.closeSwap it = (s, it) := by
  rw [State.closeSwap, if_neg]
  rintro ⟨hswap' | hstop', -⟩
  · exact hswap hswap'
  · exact hstop hstop'

theorem writeRecord_eq {slot : Nat} (hsource : it.source = .queue fn qp slot) (hswap : it.opcode ≠ 0x0751)
    (hstop : it.opcode ≠ 0x0752) (hkeep : (s.qp fn qp).discard = false) : s.writeRecord it true =
      (((s.recorded fn qp it).countRecord fn qp it).trace 0x04 0 it it.outcome.status).removeItem it.id := by
  unfold State.writeRecord
  rw [closeSwap_of_other hswap hstop]
  dsimp only
  rw [hsource]
  dsimp only
  rw [if_neg (ne_true_of_eq_false hkeep)]
  simp only [decide_eq_true_eq, if_true]
  rfl

/-- Once the record is written, the rest of the release keeps what the statement names. -/
theorem release_kept {slot : Nat} (hsource : it.source = .queue fn qp slot) (hswap : it.opcode ≠ 0x0751)
    (hstop : it.opcode ≠ 0x0752) (hkeep : (s.qp fn qp).discard = false) :
    ReleaseKept fn qp (s.recorded fn qp it) (s.writeRecord it true).afterRelease := by
  rw [writeRecord_eq hsource hswap hstop hkeep]
  exact countRecord_kept.trans ((ReleaseKept.of_frame trace_frame trace_out).trans
    (removeItem_kept.trans afterRelease_kept))

theorem exec_recordRelease_unordered {ok : Bool} (hitem : s.item it.id = some it) (hdone : it.isDone = true)
    (hflow : it.inFlow = none) : exec (.recordRelease it.id ok) s = .next (s.writeRecord it ok).afterRelease := by
  change Host.Outcome.next (s.release it.id ok) = _
  rw [State.release, hitem]
  simp [hdone, hflow]

end

/-- Settles O4: the record is written first, and what follows in the release leaves it and its queue pair. -/
theorem recordIsWrittenAtTheTail : Obligations.RecordIsWrittenAtTheTail := by
  intro s it fn qp slot hitem hdone hflow hsource hswap hstop hkeep
  have hkept := release_kept hsource hswap hstop hkeep
  obtain ⟨_, hown⟩ := hkept.own
  obtain ⟨_, hrecorded⟩ := Qp.recorded_eq (q := s.qp fn qp) (size := s.cqSize fn qp)
  rw [recorded_qp_self, hrecorded] at hown
  refine ⟨_, exec_recordRelease_unordered hitem hdone hflow, hkept.out ?_, by rw [hown], by rw [hown],
    by rw [hown], by rw [hown], fun f q hq => (hkept.others f q hq).trans (recorded_qp_ne hq),
    hkept.regs.trans recorded_regs, hkept.cells.trans recorded_cells, hkept.sys.trans recorded_sys⟩
  rw [recorded_out]
  exact List.mem_cons_self

end Sys2Proof.Machine

/-! PROOFS. Session entries, and the nonce counters of session keys and of persistent keys (R123, R147, R149). -/

namespace Sys2Proof.Machine

/-! ## Session entries (R123, R138) -/

section
variable {s t : State} {i j : Nat} {e : SessionEntry} {h : Word}

/-- A session table with one entry written reads that entry. -/
theorem session_of_tabSet_self (hset : t.vault.sessions = tabSet s.vault.sessions i e) : t.session i = e := by
  rw [State.session, hset, tabGetD_tabSet_self]

/-- A session table with one entry written keeps every other entry. -/
theorem session_of_tabSet_ne (hset : t.vault.sessions = tabSet s.vault.sessions i e) (hj : j ≠ i) :
    t.session j = s.session j := by
  rw [State.session, hset, tabGetD_tabSet_ne hj, State.session]

theorem freeSession_session_self : (s.freeSession i).session i =
    { SessionEntry.free with gen := (s.session i).gen + 1, writeSerial := s.vault.writeSerial + 1 } :=
  session_of_tabSet_self (s := s) rfl

theorem freeSession_session_ne (hj : j ≠ i) : (s.freeSession i).session j = s.session j :=
  session_of_tabSet_ne (s := s) rfl hj

@[simp] theorem revScan_session : (s.revScan h).session i = s.session i := rfl

end

/-! ## Nonce counters (R147, R149) -/

section
variable {s : State} {h : Word} {n : Nat} {root : Bool}

/-- A session key that has the values asked for gives the one its counter holds, and its entry is written with the counter
moved past them. -/
theorem takeNonce_session_taken (hclass : hClass h = 2)
    (hserves : counterServes (s.session (hIndex h)).counter n = true) :
    ∃ t, s.takeNonce h n root = .taken (s.session (hIndex h)).counter t ∧
      t.vault.sessions = tabSet s.vault.sessions (hIndex h) { s.session (hIndex h) with
        counter := (s.session (hIndex h)).counter + BitVec.ofNat 64 n, writeSerial := s.vault.writeSerial + 1 } ∧
      t.vault.records = s.vault.records := by
  unfold State.takeNonce
  rw [if_pos hclass]
  dsimp only
  rw [if_pos hserves]
  exact ⟨_, rfl, rfl, rfl⟩

/-- A session key that lacks the values asked for is freed (R147). -/
theorem takeNonce_session_refused (hclass : hClass h = 2)
    (hserves : counterServes (s.session (hIndex h)).counter n = false) :
    s.takeNonce h n root = .refused stNonceExhausted ((s.freeSession (hIndex h)).revScan h) := by
  unfold State.takeNonce
  rw [if_pos hclass]
  dsimp only
  rw [if_neg (ne_true_of_eq_false hserves), State.exhaust, if_pos hclass]

/-- A live counter further than 2^19 below the end of its range serves at once and raises no ceiling. -/
theorem takeNonce_live_taken (hclass : hClass h ≠ 2) (hlive : (s.counter (hIndex h)).live = true)
    (hserves : counterServes (s.counter (hIndex h)).value n = true)
    (hfar : (s.counter (hIndex h)).value.toNat + n + 2 ^ 19 < (s.counter (hIndex h)).limit.toNat) :
    s.takeNonce h n root = .taken (s.counter (hIndex h)).value (s.setCounter (hIndex h)
      { s.counter (hIndex h) with value := (s.counter (hIndex h)).value + BitVec.ofNat 64 n }) := by
  have hin : ¬ (s.counter (hIndex h)).limit.toNat < (s.counter (hIndex h)).value.toNat + n := by omega
  unfold State.takeNonce
  rw [if_neg hclass]
  dsimp only
  rw [if_neg (by simp [hlive]), if_neg (by simp [hserves]), if_neg (fun hend => hin hend.1),
    if_neg (fun hnear => Nat.not_le.mpr hfar hnear.1)]

end

/-- Settles O28: a session key's entry, a live counter, and a session key that is freed. -/
theorem counterValuesAreTakenOnce : Obligations.CounterValuesAreTakenOnce := by
  refine ⟨?_, fun _ _ _ => takeNonce_live_taken, ?_⟩
  · intro s h n hclass hserves
    obtain ⟨t, htaken, hsessions, hrecords⟩ := takeNonce_session_taken hclass hserves
    refine ⟨t, htaken, ?_, fun i hi => session_of_tabSet_ne hsessions hi, hrecords⟩
    rw [session_of_tabSet_self hsessions]
  · intro s h n hclass hserves
    refine ⟨_, takeNonce_session_refused hclass hserves, ?_⟩
    rw [revScan_session, freeSession_session_self]
    rfl

end Sys2Proof.Machine

/-! PROOFS. Stores that are admitted at once, and the ends of keys: KEY_RETIRE, KEY_PURGE, KEY_FREE and the revocation
scan (R137 to R139). -/

namespace Sys2Proof.Machine

/-! ## What a report, an end or a yield leaves of the vault -/

section
variable {s t : State}

theorem ItemFrame.scans (h : ItemFrame s t) : t.vault.scans = s.vault.scans := by
  have hscans := congrArg VaultState.scans h.vault
  exact hscans

theorem ItemFrame.stores (h : ItemFrame s t) : t.vault.stores = s.vault.stores := by
  have hstores := congrArg VaultState.stores h.vault
  exact hstores

end

/-! ## A store that is admitted at once (R102, R429) -/

section
variable {s t : State} {it : Item} {a : StoreAction} {o : Outcome}

theorem ItemFrame.storesOpen (h : ItemFrame s t) : t.storesOpen = s.storesOpen := by
  unfold State.storesOpen
  rw [h.sys]

theorem ItemFrame.reserveCovers (h : ItemFrame s t) {n : Nat} : t.reserveCovers n = s.reserveCovers n := by
  unfold State.reserveCovers State.reserved State.eUse
  rw [h.stores, h.ring, h.sen]

theorem storeReady_of_frame (h : ItemFrame s t) (hready : StoreReady s a) : StoreReady t a := by
  unfold StoreReady
  rw [h.ring, h.storesOpen, h.reserveCovers]
  exact hready

theorem askStore_of_ready {id : Option Nat} (hready : StoreReady s a) :
    s.askStore id a = .admitted (s.addStore id a true false) := by
  obtain ⟨hlocal, hopen, hcovers⟩ := hready
  rw [State.askStore, if_neg (ne_true_of_eq_false hlocal), if_neg (by simp [hopen]), if_pos hcovers]

/-- An item whose store is admitted at once has yielded its core, and its store is the newest. -/
theorem storeFor_of_ready (hitem : s.item it.id = some it) (hready : StoreReady s a) :
    s.storeFor it.id a o = asked s it a o := by
  have hyielded : StoreReady ((s.setItem { it with outcome := o, stage := 0xFE }).yieldItem it.id .store) a :=
    storeReady_of_frame (setItem_frame.trans yieldItem_frame) hready
  have hask := askStore_of_ready (id := some it.id) hyielded
  obtain ⟨-, -, hcovers⟩ := hready
  unfold State.storeFor
  rw [hitem]
  dsimp only
  rw [if_neg (by simp [hcovers]), hask]
  rfl

end

/-! ## The body of a record (R76) -/

theorem length_leBytes {n v : Nat} : (leBytes n v).length = n := by simp [leBytes]

theorem length_padTo {n : Nat} {bytes : List Byte} : (padTo n bytes).length = n := by simp [padTo, zeros]

/-- RESULT and the bytes from 16 on fill a record's body. -/
theorem padTo_okBody {result : Nat} {rest : List Byte} : padTo 24 (okBody result rest) = okBody result rest := by
  have hlength : (okBody result rest).length = 24 := by
    rw [okBody, List.length_append, length_leBytes, length_padTo]
  rw [← hlength, padTo_length_self]

theorem okOutcome_eq {result : Nat} {rest : List Byte} :
    okOutcome result rest = { status := stOk, origin1 := false, body := okBody result rest } := by
  rw [okOutcome, outcome, padTo_okBody]

theorem storeFor_okOutcome {s : State} {it : Item} {a : StoreAction} {result : Nat} {rest : List Byte}
    (hitem : s.item it.id = some it) (hready : StoreReady s a) :
    s.storeFor it.id a { status := stOk, origin1 := false, body := okBody result rest } =
      asked s it a (okOutcome result rest) := by
  rw [okOutcome_eq, storeFor_of_ready hitem hready]

/-! ## KEY_RETIRE, KEY_PURGE and KEY_FREE (R137 to R139) -/

section
variable {s : State} {it : Item}

theorem exec_keyRetire_key (hrun : s.Runs it 0x0505) (hmode : it.byte 16 = 0) (hzero : zeroRange it.desc 17 64 = true)
    (hclass : hClass it.key ≠ 2) (hready : StoreReady s (.retire it.key)) :
    exec (.keyRetire it.id) s = .next (asked s it (.retire it.key) (okOutcome (hGen it.key + 1).toNat [])) := by
  obtain ⟨hitem, -, hop⟩ := id hrun
  change execKeyRetire it.id s = _
  rw [execKeyRetire, onRunning_eq hrun]
  dsimp only
  rw [if_neg (not_not_intro hop), if_neg (by simp [hmode, hzero, hclass]), if_pos hmode,
    storeFor_okOutcome hitem hready]

/-- KEY_RETIRE with mode 1 closes the seals of a root, once. -/
theorem exec_keyRetire_root {r : KeyRecord} (hrun : s.Runs it 0x0505) (hmode : it.byte 16 = 1)
    (hzero : zeroRange it.desc 17 64 = true) (hclass : hClass it.key = 1)
    (hrecord : tabGet s.vault.records (hIndex it.key) = some r) (hroot : isRootAlg (attrAlg r.attr) = true) :
    exec (.keyRetire it.id) s = .next (
      if r.sealsClosed then s.complete it.id stOk (okBody (s.currentGen it.key).toNat [])
      else s.storeFor it.id (.closeSeals it.key)
        { status := stOk, origin1 := false, body := okBody (s.currentGen it.key).toNat [] }) := by
  have hop : it.opcode = 0x0505 := hrun.2.2
  have hattr : s.slotAttr it.key = some (r.attr, r.retired) := by rw [State.slotAttr, if_pos hclass, hrecord]; rfl
  change execKeyRetire it.id s = _
  rw [execKeyRetire, onRunning_eq hrun, hattr, hrecord]
  dsimp only
  rw [if_neg (not_not_intro hop), if_neg (by simp [hmode, hzero, hclass]), if_neg (by simp [hmode]),
    if_neg (by simp [hclass, hroot])]
  rfl

theorem exec_keyPurge_retired {a : DWord} (hrun : s.Runs it 0x0506) (hzero : zeroRange it.desc 16 64 = true)
    (hattr : s.slotAttr it.key = some (a, true)) (hready : StoreReady s (.purge it.key)) :
    exec (.keyPurge it.id) s = .next (asked s it (.purge it.key) (okOutcome 0 [])) := by
  obtain ⟨hitem, -, hop⟩ := id hrun
  change execKeyPurge it.id s = _
  rw [execKeyPurge, onRunning_eq hrun, if_neg (not_not_intro hop), if_neg (by simp [hzero, hattr]),
    storeFor_okOutcome hitem hready]

theorem exec_keyFree_session (hrun : s.Runs it 0x0507) (hzero : zeroRange it.desc 16 64 = true)
    (hclass : hClass it.key = 2) : exec (.keyFree it.id) s =
      .next (((s.freeSession (hIndex it.key)).startScan it.id it.key).yieldItem it.id .keyCommit) := by
  have hop : it.opcode = 0x0507 := hrun.2.2
  change execKeyFree it.id s = _
  rw [execKeyFree, onRunning_eq hrun, if_neg (not_not_intro hop), if_neg (by simp [hzero, hclass])]

@[simp] theorem startScan_session {item i : Nat} {h : Word} : (s.startScan item h).session i = s.session i := rfl

/-! ## The end of a revocation scan (R139) -/

/-- The end of the wait of a yielded item moves the dispatcher alone. -/
theorem endWaitWith_yielded_eq {why : WaitFor} {o : Outcome} (hitem : s.item it.id = some it)
    (hphase : it.phase = .yielded why) : ∃ dsp, s.endWaitWith it.id o = { s with dsp := dsp } := by
  unfold State.endWaitWith
  rw [hitem]
  dsimp only
  rw [hphase]
  exact ⟨_, rfl⟩

/-- The state in which a scan has marked the cache and left the list of scans. -/
def State.scanned (s : State) (x : RevScan) : State :=
  let t := s.revScan x.handle
  { t with vault := { t.vault with scans := t.vault.scans.filter (·.item != x.item) } }

theorem item_of_find_scan {scans : List RevScan} {x : RevScan} {item : Nat}
    (hscan : scans.find? (·.item == item) = some x) : x.item = item := by
  simpa using List.find?_some hscan

theorem exec_revocationScanDone_found {x : RevScan} {item : Nat}
    (hscan : s.vault.scans.find? (·.item == item) = some x) : exec (.revocationScanDone item) s =
      .next ((s.scanned x).endWaitWith item (okOutcome x.result.toNat [])) := by
  obtain rfl := item_of_find_scan hscan
  change execRevocationScanDone x.item s = _
  rw [execRevocationScanDone, hscan, okOutcome_eq]
  rfl

end

/-- Settles O30: each clause by what its opcode's run gives, and KEY_FREE's scan by the end of its wait. -/
theorem keysAreRetiredPurgedAndFreed : Obligations.KeysAreRetiredPurgedAndFreed := by
  refine ⟨fun _ _ => exec_keyRetire_key, ?_, ?_, fun _ _ _ => exec_keyPurge_retired, ?_, ?_⟩
  · intro s it r hrun hmode hzero hclass hrecord hroot hopen hready
    rw [exec_keyRetire_root hrun hmode hzero hclass hrecord hroot, if_neg (ne_true_of_eq_false hopen),
      storeFor_okOutcome hrun.1 hready]
  · intro s it r hrun hmode hzero hclass hrecord hroot hclosed
    rw [exec_keyRetire_root hrun hmode hzero hclass hrecord hroot, if_pos hclosed]
  · intro s it hrun hzero hclass
    refine ⟨_, exec_keyFree_session hrun hzero hclass, ?_⟩
    have hframe := yieldItem_frame (s := (s.freeSession (hIndex it.key)).startScan it.id it.key) (id := it.id)
      (why := .keyCommit)
    have hfreed := (hframe.session (hIndex it.key)).trans (startScan_session.trans freeSession_session_self)
    refine ⟨yieldItem_waits hrun.1, ?_, ?_, ?_, fun j hj => ?_, hframe.scans, hframe.records, hframe.regs, hframe.qps,
      hframe.cells⟩
    · rw [hfreed]; rfl
    · rw [hfreed]
    · rw [hfreed]; rfl
    · rw [hframe.session, startScan_session, freeSession_session_ne hj]
  · intro s it x hitem hphase hscan
    have hwaiting : (s.scanned x).item it.id = some it := hitem
    obtain ⟨dsp, hended⟩ := endWaitWith_yielded_eq (o := okOutcome x.result.toNat []) hwaiting hphase
    refine ⟨_, exec_revocationScanDone_found hscan, endWaitWith_item hwaiting hphase, ?_⟩
    rw [hended, ← item_of_find_scan hscan]
    exact ⟨rfl, rfl, rfl, rfl, rfl, rfl, rfl⟩

end Sys2Proof.Machine

/-! PROOFS. New keys: their index, KEY_GENERATE, KEY_IMPORT, KEY_DERIVE and KEY_TEMPLATE (R123, R131, R135, R140 to R143,
R154). -/

namespace Sys2Proof.Machine

/-! ## A new key's index (R123, R135, R549) -/

section
variable {s : State} {it : Item} {k : NewKey} {body : Word → List Byte} {i : Nat}

/-- The session entry that a new key gets (R123). -/
def NewKey.entry (k : NewKey) (gen : Byte) (serial : DWord) : SessionEntry :=
  { gen := gen, live := true, depth := k.depth, parent := k.parent, writeSerial := serial, attr := k.attr, counter := 0
    noncePrefix := k.noncePrefix, material := k.material, pubOnly := k.pubOnly }

/-- The state in which a new session key has been written at an index. -/
def State.withSession (s : State) (i : Nat) (k : NewKey) : State :=
  { s with vault := { s.vault with
      sessions := tabSet s.vault.sessions i (k.entry (s.session i).gen (s.vault.writeSerial + 1))
      writeSerial := s.vault.writeSerial + 1 } }

theorem createKey_session (hfree : s.freeSessionIndex (attrTenant k.attr) = some i) :
    s.createKey it 2 k body = (s.withSession i k).complete it.id stOk (body (mkHandle 2 i (s.session i).gen)) := by
  unfold State.createKey State.createSession
  rw [if_pos rfl, hfree]
  rfl

theorem createKey_record (hitem : s.item it.id = some it) (hfree : s.freeRecordIndex = some i)
    (hheap : s.heapUsed + heapBlocksOf k ≤ 78592)
    (hready : StoreReady s (.putRecord i (s.newRecord k (tabGetD s.vault.genArray i 0)))) :
    s.createKey it 1 k body = asked s it (.putRecord i (s.newRecord k (tabGetD s.vault.genArray i 0)))
      (outcome stOk (body (mkHandle 1 i (tabGetD s.vault.genArray i 0)))) := by
  have hfits : ¬ heapTotal < s.heapUsed + heapBlocksOf k := Nat.not_lt.mpr hheap
  unfold State.createKey
  rw [if_neg (by decide), hfree]
  dsimp only
  rw [if_neg hfits, storeFor_of_ready hitem hready]
  rfl

end

/-- The second part of O29: the session entry is written and the item completes; a record waits for its store. -/
theorem createdKeysTakeTheirIndex : CreatedKeysTakeTheirIndex := by
  refine ⟨?_, ?_⟩
  · intro s it op k body i hrun hfree
    have hwritten : (s.withSession i k).vault.sessions =
        tabSet s.vault.sessions i (k.entry (s.session i).gen (s.vault.writeSerial + 1)) := rfl
    have hframe := complete_frame (s := s.withSession i k) (id := it.id) (st := stOk)
      (body := body (mkHandle 2 i (s.session i).gen))
    rw [createKey_session hfree]
    exact ⟨complete_completed (op := op) hrun (.inr rfl),
      (hframe.session i).trans (session_of_tabSet_self hwritten),
      fun j hj => (hframe.session j).trans (session_of_tabSet_ne hwritten hj), hframe.records, hframe.regs, hframe.qps,
      hframe.cells⟩
  · intro s it op k body i hrun hfree hheap hready
    exact createKey_record hrun.1 hfree hheap hready

/-! ## KEY_GENERATE and KEY_IMPORT (R131, R154, R285) -/

section
variable {s : State} {it : Item}

theorem exec_keyGenerate_drawn {s' : State} {m : List Byte} (hrun : s.Runs it 0x0501)
    (hcheck : s.generateCheck it = none) (hdrawn : s.newMaterial it.tenantByte it.keySpec.alg = some (m, s')) :
    exec (.keyGenerate it.id) s = .next (s'.createKey it it.keySpec.cls
      { attr := finalAttr it.keySpec.attr false (attrBound it.keySpec.attr) it.tenantByte it.keySpec.alg, parent := noHandle
        depth := 0, noncePrefix := it.keySpec.noncePrefix, material := m, pubOnly := false }
      (newKeyBody it.keySpec.alg false m)) := by
  have hop : it.opcode = 0x0501 := hrun.2.2
  change execKeyGenerate it.id s = _
  rw [execKeyGenerate, onRunning_eq hrun, if_neg (not_not_intro hop), hcheck]
  dsimp only
  rw [hdrawn]

/-- How KEY_IMPORT goes on with its material, or with the status that refuses it (R154, R285). -/
def State.importEnds (s : State) (it : Item) : Except Status (List Byte) → State
  | .error st => s.failItem it.id st
  | .ok m => if algIsAsym it.keySpec.alg then s.openWindow it 0xFF else s.finishImport it m

theorem exec_keyImport_checked {blob : List Byte} (hrun : s.Runs it 0x0502) (hwork : s.workOf it.id = none)
    (hcheck : s.importCheck it = none) (hblob : it.hostBytes (it.le 40 8) (it.le 32 4) = some blob) :
    exec (.keyImport it.id) s = .next (s.importEnds it (s.importMaterial it blob)) := by
  have hop : it.opcode = 0x0502 := hrun.2.2
  change execKeyImport it.id s = _
  rw [execKeyImport, onRunning_eq hrun, if_neg (by simp [hop, hwork]), hcheck]
  dsimp only
  rw [hblob]
  dsimp only
  cases s.importMaterial it blob <;> rfl

/-- The work put for an item is the work of that item. -/
theorem setWork_workOf {w : PkWork} : (s.setWork w).workOf w.item = some w := by
  have hothers : (s.pke.work.filter (·.item != w.item)).find? (·.item == w.item) = none := by
    simp [List.find?_eq_none]
  rw [State.workOf, State.setWork, List.find?_append, hothers]
  simp

/-! ## KEY_DERIVE and KEY_TEMPLATE (R140 to R143) -/

section
variable {ctx : List Byte} (hrun : s.Runs it 0x0504) (hlen : it.byte 33 ≤ 64)
  (hzero : zeroRange it.desc 34 36 = true) (htail : zeroRange it.desc 56 64 = true)
  (hctx : it.hostBytes (it.le 48 8) (it.byte 33) = some ctx)
include hrun hlen hzero htail hctx

theorem exec_keyDerive_key (hclass : hClass it.key ≠ 3) (hbyte : it.byte 18 = 0)
    (hlabel : labelOk (it.byte 32) (slice it.desc 36 12) = true) (hparent : s.parentCheck it.key = none)
    (hderived : s.derivedOk it.key it.keySpec = true) (hspec : s.specCheck it.tenantByte it.keySpec = none) :
    exec (.keyDerive it.id) s =
      .next (s.deriveKey it it.key it.keySpec ((slice it.desc 36 12).take (it.byte 32)) ctx) := by
  have hop : it.opcode = 0x0504 := hrun.2.2
  change execKeyDerive it.id s = _
  rw [execKeyDerive, onRunning_eq hrun]
  simp [hop, hlen, hzero, htail, hclass, hbyte, hlabel, hparent, hderived, hspec, hctx]

theorem exec_keyDerive_template {x : Template} (hclass : hClass it.key = 3)
    (htemplate : tabGet s.vault.templates (hIndex it.key) = some x) (hspecZero : zeroRange it.desc 16 33 = true)
    (hlabelZero : zeroRange it.desc 36 48 = true) (hancestors : s.ancestorsOk 3 it.key = true)
    (hparent : s.parentCheck x.parent = none) (hderived : s.derivedOk x.parent x.spec = true)
    (hspec : s.specCheck it.tenantByte x.spec = none) :
    exec (.keyDerive it.id) s = .next (s.deriveKey it x.parent x.spec x.label ctx) := by
  have hop : it.opcode = 0x0504 := hrun.2.2
  change execKeyDerive it.id s = _
  rw [execKeyDerive, onRunning_eq hrun]
  simp [hop, hlen, hzero, htail, hclass, htemplate, hspecZero, hlabelZero, hancestors, hparent, hderived, hspec, hctx]

end

/-- The length of a derived key is its ALG's, but for an HMAC key, whose length is open. -/
theorem derivedLen_fixed {alg : Nat} (halg : alg ≠ 0x10) :
    s.derivedLen alg = (((algRow alg).map AlgRow.matMax).getD 0, s) := if_neg halg

theorem deriveKey_eq {parent : Word} {k : KeySpec} {label ctx : List Byte} {p : KeyView}
    (hparent : s.keyView parent = some p) (halg : k.alg ≠ 0x10) :
    s.deriveKey it parent k label ctx =
      let m := kdf p.material label ctx (8 * ((algRow k.alg).map AlgRow.matMax).getD 0)
      { s with vault := { s.vault with kdfCount := s.vault.kdfCount + 1 } }.createKey it k.cls
        { attr := finalAttr k.attr (attrOrigin p.attr) (attrBound p.attr) it.tenantByte k.alg, parent := parent
          depth := p.depth + 1, noncePrefix := k.noncePrefix, material := m, pubOnly := false }
        (newKeyBody k.alg false m) := by
  unfold State.deriveKey
  rw [hparent]
  dsimp only
  rw [derivedLen_fixed halg]

theorem exec_keyTemplate_asked {i : Nat} {p : KeyView} (hrun : s.Runs it 0x050C) (hbyte : it.byte 18 = 0)
    (hzero : zeroRange it.desc 33 36 = true) (htail : zeroRange it.desc 48 64 = true)
    (hlabel : labelOk (it.byte 32) (slice it.desc 36 12) = true) (hclass : hClass it.key ≠ 3)
    (hparent : s.parentCheck it.key = none) (hspec : s.specOk it.keySpec = true)
    (hderived : s.derivedOk it.key it.keySpec = true) (hquota : s.quotaLeft it.tenantByte 3 = true)
    (hfree : s.freeTemplateIndex = some i) (hview : s.keyView it.key = some p) :
    exec (.keyTemplate it.id) s = .next (s.storeFor it.id (.putTemplate i
      { attr := finalAttr it.keySpec.attr (attrOrigin p.attr) (attrBound p.attr) it.tenantByte it.keySpec.alg
        parent := it.key, gen := tabGetD s.vault.tmplGen i 0, depth := p.depth + 1
        label := (slice it.desc 36 12).take (it.byte 32), outClass := it.keySpec.cls, outPrefix := it.keySpec.noncePrefix
        retired := false })
      { status := stOk, origin1 := false, body := okBody (mkHandle 3 i (tabGetD s.vault.tmplGen i 0)).toNat [] }) := by
  have hop : it.opcode = 0x050C := hrun.2.2
  change execKeyTemplate it.id s = _
  rw [execKeyTemplate, onRunning_eq hrun]
  simp [hop, hbyte, hzero, htail, hlabel, hclass, hparent, hspec, hderived, hquota, hfree, hview]

end

/-- The first part of O29, opcode by opcode. -/
theorem keysAreMadeAsSpecified : KeysAreMadeAsSpecified := by
  refine ⟨fun _ _ _ _ => exec_keyGenerate_drawn, ?_, ?_, ?_, ?_, ?_⟩
  · intro s it blob hrun hwork hcheck hblob
    refine ⟨_, exec_keyImport_checked hrun hwork hcheck hblob, fun st hrefused => ?_, fun m hmaterial hasym => ?_,
      fun m hmaterial hsym => ?_⟩
    · rw [hrefused]
      exact failItem_ends hrun (by decide)
    · rw [hmaterial, State.importEnds, if_pos hasym]
      exact ⟨setWork_workOf, rfl, rfl⟩
    · rw [hmaterial, State.importEnds, if_neg (ne_true_of_eq_false hsym)]
      rfl
  · intro s it ctx hrun hlen hzero htail hclass hbyte hlabel hparent hderived hspec hctx
    exact exec_keyDerive_key hrun hlen hzero htail hctx hclass hbyte hlabel hparent hderived hspec
  · intro s it ctx x hrun hlen hzero htail hclass htemplate hspecZero hlabelZero hancestors hparent hderived hspec hctx
    exact exec_keyDerive_template hrun hlen hzero htail hctx hclass htemplate hspecZero hlabelZero hancestors hparent
      hderived hspec
  · rintro s it parent k label ctx _ p hparent halg rfl
    exact deriveKey_eq hparent halg
  · rintro s it i p _ hrun hbyte hzero htail hlabel hclass hparent hspec hderived hquota hfree hview rfl hready
    rw [exec_keyTemplate_asked hrun hbyte hzero htail hlabel hclass hparent hspec hderived hquota hfree hview,
      storeFor_okOutcome hrun.1 hready]

/-- Settles O29 by its two parts. -/
theorem keysAreMadeAndIndexed : Obligations.KeysAreMadeAndIndexed := ⟨keysAreMadeAsSpecified, createdKeysTakeTheirIndex⟩

end Sys2Proof.Machine

/-! PROOFS. The vault's reports: KEY_EXPORT, KEY_INFO, KEY_PUBLIC, KEY_ATTEST and KEY_DEVICE_CERT (R150 to R154). -/

namespace Sys2Proof.Machine

section
variable {s : State} {it : Item}

theorem exec_keyExport_wrapped {tgt : Word} {k : KeyView} (hrun : s.Runs it 0x0503)
    (htarget : tgt = BitVec.ofNat 32 (it.le 16 4)) (hzero : zeroRange it.desc 32 64 = true) (halign : it.le 24 8 % 8 = 0)
    (hhandle : s.itemHandle it tgt = none) (hwrap : s.wrapCheck it.key useWrap = none) (hread : s.readCheck tgt = none)
    (hview : s.keyView tgt = some k) (hexport : attrExport k.attr = true) (hroom :
      (kwpWrap (s.keyMaterial it.key) (wrapPayload (attrAlg k.attr) k.attr k.material)).length ≤ it.le 20 4) :
    ∃ t, exec (.keyExport it.id) s = .next t ∧
      Reports s t it (it.le 24 8) (kwpWrap (s.keyMaterial it.key) (wrapPayload (attrAlg k.attr) k.attr k.material)) := by
  have hop : it.opcode = 0x0503 := hrun.2.2
  subst htarget
  refine ⟨_, ?_, rfl⟩
  change execKeyExport it.id s = _
  rw [execKeyExport, onRunning_eq hrun]
  simp [hop, hzero, halign, hhandle, hwrap, hread, hview, hexport, Nat.not_lt.mpr hroom]

theorem exec_keyInfo_described {a : DWord} {parent np : Word} {depth : Nat} {id : List Byte} (hrun : s.Runs it 0x0508)
    (hzero : zeroRange it.desc 24 64 = true) (halign : it.le 16 8 % 64 = 0) (hcheck : s.reportCheck it.key = none)
    (hdescribe : s.describe it.key = some (a, parent, depth, np, id)) :
    exec (.keyInfo it.id) s = .next ((s.writeOut it.id (it.le 16 8) (leBytes 4 it.key.toNat ++ [s.currentGen it.key] ++
      leBytes 1 depth ++ leBytes 1 (s.keyFlags it.key) ++ [0] ++ leBytes 8 a.toNat ++ leBytes 4 parent.toNat ++
      leBytes 8 (s.reportCounter it.key a) ++ leBytes 4 np.toNat ++ id.take 8 ++ zeros 24)).complete it.id stOk
      (okBody 64 [])) := by
  have hop : it.opcode = 0x0508 := hrun.2.2
  change execKeyInfo it.id s = _
  rw [execKeyInfo, onRunning_eq hrun, if_neg (not_not_intro hop), if_neg (by simp [hzero]),
    if_neg (not_not_intro halign), hcheck, hdescribe]

theorem exec_keyPublic_written {k : KeyView} (hrun : s.Runs it 0x0509) (hzero : zeroRange it.desc 20 24 = true)
    (htail : zeroRange it.desc 32 64 = true) (hcheck : s.reportCheck it.key = none) (hview : s.keyView it.key = some k)
    (hasym : algIsAsym (attrAlg k.attr) = true)
    (hroom : (publicPart (attrAlg k.attr) k.pubOnly k.material).length ≤ it.le 16 4) :
    ∃ t, exec (.keyPublic it.id) s = .next t ∧
      Reports s t it (it.le 24 8) (publicPart (attrAlg k.attr) k.pubOnly k.material) := by
  have hop : it.opcode = 0x0509 := hrun.2.2
  refine ⟨_, ?_, rfl⟩
  change execKeyPublic it.id s = _
  rw [execKeyPublic, onRunning_eq hrun, if_neg (not_not_intro hop), if_neg (by simp [hzero, htail]), hcheck, hview]
  dsimp only
  rw [if_neg (by simp [hasym]), if_neg (Nat.not_lt.mpr hroom)]

theorem exec_keyAttest_device (hrun : s.Runs it 0x050A) (hcheck : s.attestCheck it = none) (hkey : it.key = noHandle) :
    exec (.keyAttest it.id) s = .next (((s.deviceReport it.tenantByte (slice it.desc 16 32)).2.writeOut it.id (it.le 48 8)
      (s.deviceReport it.tenantByte (slice it.desc 16 32)).1).complete it.id stOk (okBody 352 [])) := by
  have hop : it.opcode = 0x050A := hrun.2.2
  change execKeyAttest it.id s = _
  rw [execKeyAttest, onRunning_eq hrun, if_neg (not_not_intro hop)]
  dsimp only
  rw [hcheck]
  dsimp only
  rw [if_pos hkey]

theorem exec_keyAttest_key {a : DWord} {parent np : Word} {depth : Nat} {id : List Byte} {r : List Byte × State}
    (hrun : s.Runs it 0x050A) (hcheck : s.attestCheck it = none) (hkey : it.key ≠ noHandle)
    (hreport : s.reportCheck it.key = none) (hdescribe : s.describe it.key = some (a, parent, depth, np, id))
    (hsigned : r = s.signReport (s.reportHead 1 it.tenantByte it.key a parent depth (s.keyFlags it.key)
      (s.reportCounter it.key a) id (slice it.desc 16 32))) :
    exec (.keyAttest it.id) s = .next ((r.2.writeOut it.id (it.le 48 8) r.1).complete it.id stOk (okBody 352 [])) := by
  have hop : it.opcode = 0x050A := hrun.2.2
  subst hsigned
  change execKeyAttest it.id s = _
  rw [execKeyAttest, onRunning_eq hrun, if_neg (not_not_intro hop)]
  dsimp only
  rw [hcheck]
  dsimp only
  rw [if_neg hkey, hreport, hdescribe]

theorem exec_keyDeviceCert_written (hrun : s.Runs it 0x050B) (hzero : zeroRange it.desc 20 24 = true)
    (htail : zeroRange it.desc 32 64 = true) (hroom : s.certChain.length ≤ it.le 16 4) :
    ∃ t, exec (.keyDeviceCert it.id) s = .next t ∧ Reports s t it (it.le 24 8) s.certChain := by
  have hop : it.opcode = 0x050B := hrun.2.2
  refine ⟨_, ?_, rfl⟩
  change execKeyDeviceCert it.id s = _
  rw [execKeyDeviceCert, onRunning_eq hrun]
  dsimp only
  rw [if_neg (not_not_intro hop), if_neg (by simp [hzero, htail]), if_neg (Nat.not_lt.mpr hroom)]

end

/-- Settles O31, opcode by opcode. -/
theorem keyReportsAreWritten : Obligations.KeyReportsAreWritten :=
  ⟨fun _ _ _ _ => exec_keyExport_wrapped, fun _ _ _ _ _ _ _ => exec_keyInfo_described,
    fun _ _ _ => exec_keyPublic_written, fun _ _ => exec_keyAttest_device,
    fun _ _ _ _ _ _ _ _ => exec_keyAttest_key, fun _ _ => exec_keyDeviceCert_written⟩

end Sys2Proof.Machine

/-! PROOFS. The symmetric opcodes (R147, R173 to R183): what a result, a verdict and an opened text leave of the
device. -/

namespace Sys2Proof.Machine

section
variable {s t : State} {it : Item} {op : Nat}

/-! ## The vault in the frame of an item's end -/

theorem ItemFrame.sessions (h : ItemFrame s t) : t.vault.sessions = s.vault.sessions := by
  have hsessions := congrArg VaultState.sessions h.vault
  exact hsessions

theorem ItemFrame.counters (h : ItemFrame s t) : t.vault.counters = s.vault.counters := by
  have hcounters := congrArg VaultState.counters h.vault
  exact hcounters

/-! ## Outputs that an item writes and overwrites (R71, R183) -/

section
variable {iova : Nat} {bytes : List Byte}

/-- An item that writes output runs on; only what it remembers to have written has changed. -/
theorem writeOut_runs (hrun : s.Runs it op) :
    ∃ w, (s.writeOut it.id iova bytes).Runs { it with written := w } op := by
  obtain ⟨hitem, hrest⟩ := hrun
  unfold State.writeOut
  rw [hitem]
  dsimp only
  split
  · exact ⟨it.written, hitem, hrest⟩
  · exact ⟨_, hostWrite_item.trans setItem_item_self, hrest⟩

theorem writeOut_out (hitem : s.item it.id = some it) (hbytes : bytes ≠ []) :
    (s.writeOut it.id iova bytes).out = .host { fn := it.fn, iova := BitVec.ofNat 64 iova, bytes := bytes } :: s.out := by
  unfold State.writeOut
  rw [hitem]
  dsimp only
  rw [if_neg hbytes, hostWrite_out, State.setItem_out]

theorem zeroOutputs_runs (hrun : s.Runs it op) : (s.zeroOutputs it.id).Runs { it with written := [] } op := by
  obtain ⟨hitem, hrest⟩ := hrun
  unfold State.zeroOutputs
  rw [hitem]
  exact ⟨setItem_item_self, hrest⟩

end

/-! ## Results and verdicts (R175, R182, R189) -/

/-- The work of an item is counted in the cipher fabric alone (R189). -/
theorem countWork_eq {blocks bytes : Nat} : ∃ cfb, s.countWork it blocks bytes = { s with cfb := cfb } := by
  unfold State.countWork
  split
  · split
    · exact ⟨_, rfl⟩
    · split <;> exact ⟨_, rfl⟩
  · exact ⟨_, rfl⟩

/-- A running item that writes its output and completes with ST_OK leaves the device as R175 says. -/
theorem complete_writeOut_writes {out nonce : List Byte} (hrun : s.Runs it op) :
    SymWrites s ((s.writeOut it.id it.symDst out).complete it.id stOk (okBody out.length nonce)) it out nonce := by
  obtain ⟨w, hwritten⟩ := writeOut_runs (iova := it.symDst) (bytes := out) hrun
  have hframe := writeOut_frame.trans
    (complete_frame (s := s.writeOut it.id it.symDst out) (id := it.id) (st := stOk) (body := okBody out.length nonce))
  refine ⟨complete_completed (it := { it with written := w }) hwritten (.inr rfl), fun hout => finish_out ?_,
    hframe.regs, hframe.qps, hframe.cells, hframe.sys, hframe.plan, hframe.sen, hframe.records, hframe.sessions,
    hframe.counters⟩
  rw [writeOut_out hrun.1 hout]
  exact List.mem_cons_self

theorem symDone_writes {out nonce : List Byte} (hrun : s.Runs it op) :
    SymWrites s (s.symDone it out nonce) it out nonce := by
  obtain ⟨cfb, hcount⟩ := countWork_eq (s := s) (it := it) (blocks := (it.symAad + it.symLen + 15) / 16)
    (bytes := it.symLen)
  rw [State.symDone, hcount]
  exact complete_writeOut_writes (s := { s with cfb := cfb }) hrun

/-- A verdict of equality writes nothing and completes with ST_OK. -/
theorem symVerdict_true_writes (hrun : s.Runs it op) : SymWrites s (s.symVerdict it true) it [] [] := by
  obtain ⟨cfb, hcount⟩ := countWork_eq (s := s) (it := it) (blocks := (it.symLen + 15) / 16) (bytes := it.symLen)
  have hwritten : ({ s with cfb := cfb } : State).writeOut it.id it.symDst [] = { s with cfb := cfb } := by
    unfold State.writeOut
    split
    · rfl
    · exact if_pos rfl
  have hdone := complete_writeOut_writes (s := { s with cfb := cfb }) (out := []) (nonce := []) hrun
  rw [State.symVerdict, hcount]
  rwa [hwritten] at hdone

/-- A verdict of inequality ends the item with ST_TAG_MISMATCH, whatever it has written before. -/
theorem symVerdict_false_ends {w : List (DWord × Nat)} (hrun : s.Runs { it with written := w } op) (hop : op ≠ 0x0201) :
    (s.symVerdict it false).Completed it.id stTagMismatch [] ∧ (s.symVerdict it false).regs = s.regs ∧
      (s.symVerdict it false).qps = s.qps ∧ (s.symVerdict it false).mem.cells = s.mem.cells := by
  obtain ⟨cfb, hcount⟩ := countWork_eq (s := s) (it := it) (blocks := (it.symLen + 15) / 16) (bytes := it.symLen)
  obtain ⟨hended, hframe⟩ := failItem_ends (s := { s with cfb := cfb }) (st := stTagMismatch) hrun hop
  rw [State.symVerdict, hcount]
  exact ⟨hended, hframe.regs, hframe.qps, hframe.cells⟩

/-- The verdict on a computed tag and the expected one. -/
theorem symVerdict_decides {mac tag : List Byte} (hrun : s.Runs it op) (hop : op ≠ 0x0201) :
    (mac = tag → SymWrites s (s.symVerdict it (decide (mac = tag))) it [] []) ∧
    (mac ≠ tag → (s.symVerdict it (decide (mac = tag))).Completed it.id stTagMismatch [] ∧
      (s.symVerdict it (decide (mac = tag))).regs = s.regs ∧ (s.symVerdict it (decide (mac = tag))).qps = s.qps ∧
      (s.symVerdict it (decide (mac = tag))).mem.cells = s.mem.cells) := by
  refine ⟨fun hsame => ?_, fun hother => ?_⟩
  · rw [decide_eq_true hsame]
    exact symVerdict_true_writes hrun
  · rw [decide_eq_false hother]
    exact symVerdict_false_ends (w := it.written) hrun hop

/-! ## The opcodes (R173, R174) -/

section
variable {b : List Byte}

theorem runs_of_symReady (h : SymReady s it op b) : s.Runs it op := h.1

/-- A symmetric opcode whose item is ready works on the key of its claim and on the parts of its input. -/
theorem onSym_ready {f : Item → List Byte → List Byte → List Byte → List Byte → State} (h : SymReady s it op b) :
    s.onSym it.id op f = f it (it.material it.key) (symAadOf it b) (symTextOf it b) (symTagOf it b) := by
  obtain ⟨hrun, hclaimed, hmasks, herased, hinput⟩ := h
  have hop : it.opcode = op := hrun.2.2
  rw [State.onSym, onRunning_eq hrun, if_neg (by simp [hop, hclaimed, hmasks, herased]), hinput]
  rfl

theorem exec_onSym {i : Instr} {f : Item → List Byte → List Byte → List Byte → List Byte → State}
    (h : SymReady s it op b) (hexec : exec i s = .next (s.onSym it.id op f)) :
    exec i s = .next (f it (it.material it.key) (symAadOf it b) (symTextOf it b) (symTagOf it b)) := by
  rw [hexec, onSym_ready h]

/-- GCM_ENC with a counter value taken seals under the nonce that the value makes (R147, R181). -/
theorem exec_gcmEnc_taken {s' : State} {c : DWord} (h : SymReady s it 0x0101 b)
    (htaken : s.takeNonce it.key 1 false = .taken c s') :
    exec (.gcmEnc it.id) s = .next (s'.symDone it (gcmCrypt (it.material it.key) (gcmNonce it c) (symTextOf it b) ++
      (gcmTag (it.material it.key) (gcmNonce it c) (symAadOf it b)
        (gcmCrypt (it.material it.key) (gcmNonce it c) (symTextOf it b))).take it.symTag) (gcmNonce it c)) := by
  change execGcmEnc it.id s = _
  rw [execGcmEnc, onSym_ready h, htaken]
  rfl

/-- The state in which GCM_DEC fails: above 1 MiB the plaintext has been written and overwritten with zeros (R183). -/
def State.unopened (s : State) (it : Item) (pt : List Byte) : State :=
  if 2 ^ 20 < it.symLen then (s.writeOut it.id it.symDst pt).zeroOutputs it.id else s

theorem unopened_runs {pt : List Byte} (hrun : s.Runs it op) :
    ∃ w, (s.unopened it pt).Runs { it with written := w } op := by
  unfold State.unopened
  split
  · obtain ⟨w, hwritten⟩ := writeOut_runs (iova := it.symDst) (bytes := pt) hrun
    exact ⟨[], zeroOutputs_runs (it := { it with written := w }) hwritten⟩
  · exact ⟨it.written, hrun⟩

theorem exec_gcmDec_verified (h : SymReady s it 0x0102 b)
    (htag : (gcmTag (it.material it.key) (it.symIv.take 12) (symAadOf it b) (symTextOf it b)).take it.symTag =
      symTagOf it b) :
    exec (.gcmDec it.id) s =
      .next (s.symDone it (gcmCrypt (it.material it.key) (it.symIv.take 12) (symTextOf it b)) []) := by
  change execGcmDec it.id s = _
  rw [execGcmDec, onSym_ready h]
  exact congrArg _ (if_pos htag)

theorem exec_gcmDec_mismatch (h : SymReady s it 0x0102 b)
    (htag : (gcmTag (it.material it.key) (it.symIv.take 12) (symAadOf it b) (symTextOf it b)).take it.symTag ≠
      symTagOf it b) :
    exec (.gcmDec it.id) s = .next ((s.unopened it
      (gcmCrypt (it.material it.key) (it.symIv.take 12) (symTextOf it b))).symVerdict it false) := by
  change execGcmDec it.id s = _
  rw [execGcmDec, onSym_ready h]
  exact congrArg _ (if_neg htag)

end

end

/-- The first part of O27: each opcode writes what its mode gives, and completes. -/
theorem symmetricResultsAreWritten : SymmetricResultsAreWritten := by
  refine ⟨?ctrEnc, ?ctrDec, ?cbcEnc, ?cbcDec, ?cmacGen, ?xtsEnc, ?xtsDec, ?hash, ?hmacGen⟩ <;>
    exact fun _ _ _ h => ⟨_, exec_onSym h rfl, symDone_writes (runs_of_symReady h)⟩

/-- The second part of O27, by the verdict on the tag. -/
theorem macVerdicts : MacVerdicts := by
  refine ⟨?cmacVer, ?hmacVer⟩ <;>
    exact fun _ _ _ h => ⟨_, exec_onSym h rfl, symVerdict_decides (runs_of_symReady h) (by decide)⟩

/-- The third part of O27: sealing under the value taken, and opening by whether the tag is the expected one. -/
theorem gcmSealsAndOpens : GcmSealsAndOpens := by
  refine ⟨fun s s' it b c h htaken hitem => ?_, fun s it b h => ?_⟩
  · obtain ⟨-, hrunning⟩ := runs_of_symReady h
    exact ⟨_, exec_gcmEnc_taken h htaken, symDone_writes ⟨hitem, hrunning⟩⟩
  · by_cases htag : (gcmTag (it.material it.key) (it.symIv.take 12) (symAadOf it b) (symTextOf it b)).take it.symTag =
      symTagOf it b
    · exact ⟨_, exec_gcmDec_verified h htag, fun _ => symDone_writes (runs_of_symReady h), fun hne => absurd htag hne⟩
    · obtain ⟨w, hrun⟩ := unopened_runs (runs_of_symReady h)
        (pt := gcmCrypt (it.material it.key) (it.symIv.take 12) (symTextOf it b))
      obtain ⟨hended, -⟩ := symVerdict_false_ends hrun (by decide)
      refine ⟨_, exec_gcmDec_mismatch h htag, fun heq => absurd heq htag, fun _ => ⟨hended, fun hshort => ?_⟩⟩
      rw [State.unopened, if_neg (Nat.not_lt.mpr hshort)]
      rfl

/-- Settles O27 by its three parts. -/
theorem symmetricOpcodes : Obligations.SymmetricOpcodes :=
  ⟨symmetricResultsAreWritten, macVerdicts, gcmSealsAndOpens⟩

end Sys2Proof.Machine

/-! PROOFS. Seal epochs (R209 to R215): what a trace record and an enqueued item leave of the objects, the close of an
epoch at its boundary, its signed record, and its fetch. -/

namespace Sys2Proof.Machine

/-! ## What a host write, a trace record and an enqueued item leave -/

section
variable {s : State}

/-- A write to the host moves what the host sees alone. -/
theorem hostWrite_eq {fn iova : Nat} {bytes : List Byte} :
    ∃ host out, s.hostWrite fn iova bytes = { s with host := host, out := out } := by
  unfold State.hostWrite
  extract_lets t v
  split
  · exact ⟨s.host, _, rfl⟩
  · split
    · exact ⟨_, _, rfl⟩
    · exact ⟨s.host, _, rfl⟩

theorem pushTrace_eq {n : Nat} {rec : List Byte} :
    ∃ dsp host out, s.pushTrace n rec = { s with dsp := dsp, host := host, out := out } := by
  unfold State.pushTrace
  extract_lets fn base log2 cons r next
  split
  · exact ⟨_, s.host, s.out, rfl⟩
  · obtain ⟨_, _, hwrite⟩ := hostWrite_eq (fn := fn) (iova := base + 32 * r.prod) (bytes := rec)
      (s := { s with dsp := { s.dsp with traces := tabSet s.dsp.traces n { r with prod := next } } })
    exact ⟨_, _, _, hwrite⟩

/-- A trace record moves the dispatcher and what the host sees alone. -/
theorem trace_eq {event detail : Nat} {it : Item} {st : Status} :
    ∃ dsp host out, s.trace event detail it st = { s with dsp := dsp, host := host, out := out } := by
  unfold State.trace
  extract_lets core t
  have ht : ∃ dsp host out, t = { s with dsp := dsp, host := host, out := out } := by
    unfold t
    split
    · exact pushTrace_eq
    · exact ⟨s.dsp, s.host, s.out, rfl⟩
  obtain ⟨_, _, _, ht⟩ := ht
  split
  · obtain ⟨_, _, _, hpush⟩ := pushTrace_eq (s := t) (n := it.fn)
      (rec := traceRecord true t.uptimeNs event detail core it st)
    rw [hpush, ht]
    exact ⟨_, _, _, rfl⟩
  · exact ⟨_, _, _, ht⟩

theorem enqueue_eq {it : Item} {detail : Nat} :
    ∃ dsp host out, s.enqueue it detail = { s with dsp := dsp, host := host, out := out } := by
  unfold State.enqueue
  extract_lets general it' t dsp u
  split
  · obtain ⟨_, _, _, htrace⟩ := trace_eq (s := s.setItem { it with phase := .done, general := general })
      (event := 0x03) (detail := 0) (it := it) (st := it.outcome.status)
    exact ⟨_, _, _, htrace⟩
  · obtain ⟨_, _, _, htrace⟩ := trace_eq (s := u) (event := 0x01) (detail := detail) (it := it') (st := 0)
    exact ⟨_, _, _, htrace⟩

/-- An enqueued item is the only one that changes. -/
theorem enqueue_item_ne {it : Item} {detail id : Nat} (hid : id ≠ it.id) :
    (s.enqueue it detail).item id = s.item id := by
  unfold State.enqueue
  extract_lets general it' t dsp u
  split
  · rw [trace_item]
    exact setItem_item_ne hid
  · rw [trace_item]
    exact setItem_item_ne hid

@[simp] theorem enqueue_tenantObj {it : Item} {detail : Nat} {b : Byte} :
    (s.enqueue it detail).tenantObj b = s.tenantObj b := by
  obtain ⟨_, _, _, henqueue⟩ := enqueue_eq (s := s) (it := it) (detail := detail)
  rw [henqueue]
  rfl

end

/-! ## The tenants' objects -/

section
variable {s : State} {b c : Byte} {x : TenantObj}

@[simp] theorem setTenantObj_tenantObj_self : (s.setTenantObj b x).tenantObj b = some x := tabGet_tabSet_self

theorem setTenantObj_tenantObj_ne (hne : c ≠ b) : (s.setTenantObj b x).tenantObj c = s.tenantObj c :=
  tabGet_tabSet_ne fun heq => hne (BitVec.eq_of_toNat_eq heq)

end

/-! ## The close of an epoch (R209 to R213) -/

section
variable {s : State} {b : Byte} {x : TenantObj} {n : Nat}

/-- The open epoch of a tenant as it closes now. -/
def State.closingEpoch (s : State) (x : TenantObj) : ClosedEpoch :=
  { epoch := BitVec.ofNat 64 (ofLe x.epoch), slot := x.slot, count := x.leaves.length, firstTick := x.firstTick
    lastTick := s.sys.tick, root := merkleRoot x.leaves, prevRoot := x.prevRoot, item := s.dsp.nextItem, record := none }

/-- The tenant's objects once the open epoch has closed and the next one is open in slot `n`. -/
def State.nextEpoch (s : State) (x : TenantObj) (n : Nat) : TenantObj :=
  { x with
    number := x.number + 1, firstTick := s.sys.tick, slot := n, leaves := [], overdue := false
    prevRoot := merkleRoot x.leaves, waiting := x.waiting ++ [s.closingEpoch x] }

/-- The state in which a tenant's next epoch is open and its epoch item has a number. -/
def State.epochOpened (s : State) (b : Byte) (x : TenantObj) (n : Nat) : State :=
  let t := s.setTenantObj b (s.nextEpoch x n)
  { t with dsp := { t.dsp with nextItem := t.dsp.nextItem + 1 } }

theorem closeEpoch_free (hobj : s.tenantObj b = some x) (hslot : x.freeSlot = some n) :
    s.closeEpoch b = (s.epochOpened b x n).enqueue (s.epochItem b) 0x00 := by
  unfold State.closeEpoch
  rw [hobj]
  dsimp only
  rw [hslot]
  rfl

theorem closeEpoch_full (hobj : s.tenantObj b = some x) (hslot : x.freeSlot = none) :
    s.closeEpoch b = s.setTenantObj b { x with overdue := true } := by
  unfold State.closeEpoch
  rw [hobj]
  dsimp only
  rw [hslot]

theorem exec_epochBoundary_service (hobj : s.tenantObj b = some x) (hphase : s.sys.phase = .service) :
    exec (.epochBoundary b) s = .next
      (if x.leaves = [] then s.setTenantObj b { x with firstTick := s.sys.tick } else s.closeEpoch b) := by
  have hcloses : s.epochCloses = true := by rw [State.epochCloses, hphase]
  change execEpochBoundary b s = _
  rw [execEpochBoundary, hobj]
  dsimp only
  rw [if_neg (by simp [hcloses])]
  split <;> rfl

end

/-- The first part of O34: an empty epoch opens anew, one with leaves closes if a slot is free, and is overdue if not. -/
theorem epochBoundariesCloseEpochs : EpochBoundariesCloseEpochs := by
  refine ⟨fun s b x hobj hphase hempty => ?_, fun s b x n hobj hphase hleaves hslot => ?_,
    fun s b x hobj hphase hleaves hslot => ?_⟩
  · rw [exec_epochBoundary_service hobj hphase, if_pos hempty]
  · have hframe := enqueue_frame (s := s.epochOpened b x n) (it := s.epochItem b) (detail := 0x00)
    rw [exec_epochBoundary_service hobj hphase, if_neg hleaves, closeEpoch_free hobj hslot]
    refine ⟨_, _, rfl, ?_, enqueue_item (it := s.epochItem b) rfl, rfl, rfl, rfl, hframe.nextItem, fun c hc => ?_,
      hframe.regs, hframe.qps, hframe.cells⟩
    · rw [enqueue_tenantObj]
      exact setTenantObj_tenantObj_self
    · rw [enqueue_tenantObj]
      exact setTenantObj_tenantObj_ne hc
  · rw [exec_epochBoundary_service hobj hphase, if_neg hleaves, closeEpoch_full hobj hslot]

/-! ## The record of an epoch, its key and its fetch (R213 to R215) -/

section
variable {s : State} {it : Item} {x : TenantObj} {e : ClosedEpoch}

theorem exec_epochClose_keyless (hrun : s.Runs it 0) (hobj : s.tenantObj it.tenantByte = some x)
    (hwaiting : x.waiting.find? (·.item == it.id) = some e) (hkey : x.signKey = none) :
    exec (.epochClose it.id) s = .next ((s.storeEpoch it.tenantByte it.id
      (padTo 256 (s.epochHead it.tenantByte e 0 noHandle stOk))).complete it.id stOk []) := by
  change execEpochClose it.id s = _
  rw [execEpochClose, onRunning_eq hrun]
  simp [hobj, hwaiting, hkey]

/-- A key that its tenant may not use leaves the record unsigned, with the status of the check (R214). -/
theorem exec_epochClose_refused {h : Word} {st : Status} (hrun : s.Runs it 0)
    (hobj : s.tenantObj it.tenantByte = some x) (hwaiting : x.waiting.find? (·.item == it.id) = some e)
    (hkey : x.signKey = some h) (hcheck : s.checkHandle it.tenantByte h = some st) :
    exec (.epochClose it.id) s = .next ((s.storeEpoch it.tenantByte it.id
      (padTo 256 (s.epochHead it.tenantByte e 0 h st))).complete it.id stOk []) := by
  change execEpochClose it.id s = _
  rw [execEpochClose, onRunning_eq hrun]
  simp [hobj, hwaiting, hkey, hcheck]

theorem exec_epochClose_signed {h : Word} {k : KeyView} {sc ha : Nat} {head : List Byte} {r : List Byte × State}
    (hrun : s.Runs it 0) (hobj : s.tenantObj it.tenantByte = some x)
    (hwaiting : x.waiting.find? (·.item == it.id) = some e) (hkey : x.signKey = some h)
    (hcheck : s.checkHandle it.tenantByte h = none) (huse : s.useCheck h [useSign] [engPke] 0 = none)
    (hview : s.keyView h = some k) (hscheme : epochScheme (attrAlg k.attr) = some (sc, ha))
    (hhead : head = s.epochHead it.tenantByte e (attrAlg k.attr) h stOk)
    (hsigned : r = s.signWith sc ha (attrAlg k.attr) k.material (if ha = 0 then head else digest ha head)) :
    exec (.epochClose it.id) s =
      .next ((r.2.storeEpoch it.tenantByte it.id (padTo 256 (head ++ r.1))).complete it.id stOk []) := by
  subst hhead hsigned
  change execEpochClose it.id s = _
  rw [execEpochClose, onRunning_eq hrun]
  simp [hobj, hwaiting, hkey, hcheck, huse, hview, hscheme]

theorem exec_objEpochKey_cleared (hrun : s.Runs it 0x0203) (hzero : zeroRange it.desc 16 64 = true)
    (hobj : s.tenantObj it.tenantByte = some x) (hkey : it.key = noHandle) :
    exec (.objEpochKey it.id) s = .next ((s.setTenantObj it.tenantByte { x with signKey := none }).complete it.id stOk
      (okBody 0 [])) := by
  have hop : it.opcode = 0x0203 := hrun.2.2
  change execObjEpochKey it.id s = _
  rw [execObjEpochKey, onRunning_eq hrun, if_neg (not_not_intro hop), if_neg (by simp [hzero]), hobj]
  dsimp only
  rw [if_pos hkey]

theorem exec_objEpochKey_set {k : KeyView} (hrun : s.Runs it 0x0203) (hzero : zeroRange it.desc 16 64 = true)
    (hobj : s.tenantObj it.tenantByte = some x) (hkey : it.key ≠ noHandle)
    (huse : s.useCheck it.key [useSign] [engPke] 0 = none) (hview : s.keyView it.key = some k)
    (hscheme : (epochScheme (attrAlg k.attr)).isSome = true) :
    exec (.objEpochKey it.id) s = .next ((s.setTenantObj it.tenantByte { x with signKey := some it.key }).complete it.id
      stOk (okBody 0 [])) := by
  have hop : it.opcode = 0x0203 := hrun.2.2
  have hsigns : ¬ (epochScheme (((s.keyView it.key).map fun v => attrAlg v.attr).getD 0)).isNone = true := by
    rw [hview, Option.map_some, Option.getD_some, Option.isNone_iff_eq_none]
    exact Option.isSome_iff_ne_none.mp hscheme
  change execObjEpochKey it.id s = _
  rw [execObjEpochKey, onRunning_eq hrun, if_neg (not_not_intro hop), if_neg (by simp [hzero]), hobj]
  dsimp only
  rw [if_neg hkey, huse]
  dsimp only
  rw [if_neg hsigns]

theorem exec_objEpochFetch_oldest {rest : List ClosedEpoch} {rec : List Byte} (hrun : s.Runs it 0x0204)
    (hzero : zeroRange it.desc 28 64 = true) (halign : it.le 16 8 % 64 = 0)
    (hobj : s.tenantObj it.tenantByte = some x) (hwaiting : x.waiting = e :: rest) (hrecord : e.record = some rec)
    (hroom : 256 + 32 * e.count ≤ it.le 24 4) :
    exec (.objEpochFetch it.id) s = .next (((s.writeOut it.id (it.le 16 8) (rec ++ memRead s.mem.cells
      ((s.leafBase it.tenantByte).getD 0 + 2 ^ 25 * e.slot) (32 * e.count))).setTenantObj it.tenantByte
        { x with waiting := rest }).complete it.id stOk (okBody (256 + 32 * e.count) (leBytes 8 e.epoch.toNat))) := by
  have hop : it.opcode = 0x0204 := hrun.2.2
  change execObjEpochFetch it.id s = _
  rw [execObjEpochFetch, onRunning_eq hrun]
  dsimp only
  rw [if_neg (not_not_intro hop), if_neg (by simp [hzero]), if_neg (not_not_intro halign), hobj]
  dsimp only
  rw [hwaiting]
  dsimp only
  rw [hrecord]
  dsimp only
  rw [if_neg (Nat.not_lt.mpr hroom)]

theorem exec_objEpochFetch_none (hrun : s.Runs it 0x0204) (hzero : zeroRange it.desc 28 64 = true)
    (halign : it.le 16 8 % 64 = 0) (hobj : s.tenantObj it.tenantByte = some x) (hwaiting : x.waiting = []) :
    exec (.objEpochFetch it.id) s = .next (s.complete it.id stOk (okBody 0 [])) := by
  have hop : it.opcode = 0x0204 := hrun.2.2
  change execObjEpochFetch it.id s = _
  rw [execObjEpochFetch, onRunning_eq hrun]
  dsimp only
  rw [if_neg (not_not_intro hop), if_neg (by simp [hzero]), if_neg (not_not_intro halign), hobj]
  dsimp only
  rw [hwaiting]

end

/-- The second part of O34, opcode by opcode. -/
theorem epochRecordsAreSignedAndFetched : EpochRecordsAreSignedAndFetched :=
  ⟨fun _ _ _ _ => exec_epochClose_keyless, fun _ _ _ _ _ _ => exec_epochClose_refused,
    fun _ _ _ _ _ _ _ _ _ _ => exec_epochClose_signed, fun _ _ _ => exec_objEpochKey_cleared,
    fun _ _ _ _ => exec_objEpochKey_set, fun _ _ _ _ _ _ => exec_objEpochFetch_oldest,
    fun _ _ _ => exec_objEpochFetch_none⟩

/-- Settles O34 by its two parts. -/
theorem epochsCloseAndAreFetched : Obligations.EpochsCloseAndAreFetched :=
  ⟨epochBoundariesCloseEpochs, epochRecordsAreSignedAndFetched⟩

end Sys2Proof.Machine

/-! PROOFS. OBJ_SEAL (R191 to R205): the segments and stripes of a seal, what its packets leave of the device, its start
under a counter value, and its end with leaf and manifest. -/

namespace Sys2Proof.Machine

/-! ## Segments of an object (R193) -/

section
variable {g : Geometry}

/-- A segment is as long as SEG_LEN, or as what is left of the object. -/
theorem segSize_eq_min {i : Nat} (hlen : 0 < g.segLen) (hi : i < Geo.segCount g) :
    Geo.segSize g i = min g.segLen (g.objLen - i * g.segLen) := by
  unfold Geo.segSize
  unfold Geo.segCount at hi ⊢
  generalize hceil : (g.objLen + g.segLen - 1) / g.segLen = n at hi ⊢
  split
  · have hnext : i + 2 ≤ n := by omega
    rw [← hceil, Nat.le_div_iff_mul_le hlen, Nat.add_mul] at hnext
    omega
  · have hlast : max 1 n - 1 = i := by omega
    have hceil_lt : (g.objLen + g.segLen - 1) / g.segLen < i + 2 := by omega
    rw [Nat.div_lt_iff_lt_mul hlen, Nat.add_mul] at hceil_lt
    rw [hlast]
    omega

/-- The fields of a run that encrypting, striping and sending leave as they are. -/
structure SameSeal (r r' : SealRun) : Prop where
  item : r'.item = r.item
  params : r'.params = r.params
  ctr : r'.ctr = r.ctr
  objRoot : r'.objRoot = r.objRoot
  frgRoot : r'.frgRoot = r.frgRoot
  objKey : r'.objKey = r.objKey
  frgKey : r'.frgKey = r.frgKey
  manifest : r'.manifest = r.manifest

theorem SameSeal.refl {r : SealRun} : SameSeal r r := ⟨rfl, rfl, rfl, rfl, rfl, rfl, rfl, rfl⟩

theorem SameSeal.trans {r r' r'' : SealRun} (h : SameSeal r r') (k : SameSeal r' r'') : SameSeal r r'' :=
  ⟨k.item.trans h.item, k.params.trans h.params, k.ctr.trans h.ctr, k.objRoot.trans h.objRoot,
    k.frgRoot.trans h.frgRoot, k.objKey.trans h.objKey, k.frgKey.trans h.frgKey, k.manifest.trans h.manifest⟩

theorem sealSegments_same {f : Nat} {r : SealRun} : SameSeal r (sealSegments g f r) := by
  induction f generalizing r with
  | zero => exact .refl
  | succ f ih =>
    unfold sealSegments
    extract_lets n
    split
    · refine .trans ?_ ih
      exact ⟨rfl, rfl, rfl, rfl, rfl, rfl, rfl, rfl⟩
    · exact .refl

/-- With the whole rest of the object in, every segment is encrypted. -/
theorem sealSegments_segsDone {f : Nat} {r : SealRun} (hlen : 0 < g.segLen)
    (hfuel : r.segsDone + f = Geo.segCount g) (hdata : g.objLen - r.segsDone * g.segLen ≤ r.data.length) :
    (sealSegments g f r).segsDone = Geo.segCount g := by
  induction f generalizing r with
  | zero => exact hfuel
  | succ f ih =>
    have hleft : r.segsDone < Geo.segCount g := by omega
    have hsize := segSize_eq_min hlen hleft
    unfold sealSegments
    dsimp only
    rw [if_pos ⟨hleft, by omega⟩]
    refine ih ?_ ?_
    · dsimp only
      omega
    · dsimp only
      rw [List.length_drop, Nat.add_mul]
      omega

theorem sealStripes_same {f : Nat} {r : SealRun} : SameSeal r (sealStripes g f r) := by
  induction f generalizing r with
  | zero => exact .refl
  | succ f ih =>
    unfold sealStripes
    extract_lets u units all
    split
    · refine .trans ?_ ih
      exact ⟨rfl, rfl, rfl, rfl, rfl, rfl, rfl, rfl⟩
    · exact .refl

theorem sealStripes_segsDone {f : Nat} {r : SealRun} : (sealStripes g f r).segsDone = r.segsDone := by
  induction f generalizing r with
  | zero => rfl
  | succ f ih =>
    unfold sealStripes
    extract_lets u units all
    split
    · exact ih
    · rfl

end

/-! ## Packets of a seal (R221, R256) -/

/-- Two states that differ at most in the cipher fabric and the headworks. -/
def DatapathOnly (s t : State) : Prop := ∃ cfb hwk, t = { s with cfb := cfb, hwk := hwk }

section
variable {s t u : State}

theorem DatapathOnly.refl : DatapathOnly s s := ⟨s.cfb, s.hwk, rfl⟩

theorem DatapathOnly.trans (h : DatapathOnly s t) (k : DatapathOnly t u) : DatapathOnly s u := by
  obtain ⟨_, _, rfl⟩ := h
  obtain ⟨_, _, rfl⟩ := k
  exact ⟨_, _, rfl⟩

theorem chanSend_datapathOnly {c typ flags xid : Nat} {body : List Byte} {weir : Option Nat} :
    DatapathOnly s (s.chanSend c typ flags xid body weir) := by
  unfold State.chanSend
  split
  · exact .refl
  · split
    · exact .refl
    · exact ⟨s.cfb, _, rfl⟩

theorem openExchange_datapathOnly {c item : Nat} {kind : ExchangeKind} {weir : Option Nat} :
    DatapathOnly s (s.openExchange c kind item weir).2 := by
  unfold State.openExchange
  split
  · exact .refl
  · exact ⟨s.cfb, _, rfl⟩

theorem putExchange_datapathOnly {c item j : Nat} : DatapathOnly s (s.putExchange c item j).2 := by
  unfold State.putExchange
  split
  · exact .refl
  · exact openExchange_datapathOnly

theorem putRecords_datapathOnly {item c j total f sent : Nat} {objectId ctr str : List Byte}
    {tag : Option (List Byte)} :
    DatapathOnly s (State.putRecords item c j objectId ctr str total tag f sent s).1 := by
  induction f generalizing sent s with
  | zero => exact .refl
  | succ f ih =>
    have hsend {flags : Nat} {body : List Byte} : DatapathOnly s ((s.putExchange c item j).2.chanSend c ltFragPut flags
        (s.putExchange c item j).1 body none) := putExchange_datapathOnly.trans chanSend_datapathOnly
    unfold State.putRecords
    extract_lets chunk r first
    split
    · split
      · exact hsend.trans ih
      · exact .refl
    · split
      · exact .refl
      · split
        · exact .refl
        · exact hsend

/-- Handing over the records of a seal changes of its run only how much has been handed over. -/
theorem sealSend_keeps {g : Geometry} {r : SealRun} {close : Bool} : DatapathOnly s (s.sealSend g r close).1 ∧
    SameSeal r (s.sealSend g r close).2 ∧ (s.sealSend g r close).2.segsDone = r.segsDone := by
  refine List.foldlRecOn (motive := fun (p : State × SealRun) =>
    DatapathOnly s p.1 ∧ SameSeal r p.2 ∧ p.2.segsDone = r.segsDone) _ _ ⟨.refl, .refl, rfl⟩ ?_
  rintro p ⟨hstate, hsame, hsegs⟩ j -
  exact ⟨hstate.trans putRecords_datapathOnly, hsame.trans ⟨rfl, rfl, rfl, rfl, rfl, rfl, rfl, rfl⟩, hsegs⟩

end

/-! ## The start of a seal (R191, R203) -/

theorem gate_of_not_isNet {it : Item} (hnet : it.isNet = false) : it.gate = none := by
  unfold Item.isNet at hnet
  unfold Item.gate
  split
  · next h => simp [h] at hnet
  · rfl

section
variable {s s' : State} {it : Item} {b : List Byte} {o f : Word} {c : DWord}

/-- The run of a host seal under a counter value, before any data is in. -/
def State.newSeal (s : State) (it : Item) (b : List Byte) (o f : Word) (c : DWord) : SealRun :=
  let g := s.sealGeometry it.tenantByte b
  { item := it.id, gate := none, params := b, ctr := c, objRoot := o, frgRoot := f
    objKey := kdf (it.material o) (ascii "OBJ") (slice b 0 16 ++ leBytes 8 c.toNat) 256
    frgKey := kdf (it.material f) (ascii "FRG") (slice b 0 16 ++ leBytes 8 c.toNat) 256
    data := [], segsDone := 0, stream := [], stripesDone := 0
    strings := (List.range (g.k + g.m)).map fun j => fragHeader g j it.tenantByte (slice b 0 16) (leBytes 8 c.toNat)
    sent := List.replicate (g.k + g.m) 0, unacked := List.range (g.k + g.m), manifest := [] }

/-- The state in which a host seal holds its two keys. -/
def State.keyed (s : State) (it : Item) (r : SealRun) : State :=
  (({ s with vault := { s.vault with kdfCount := s.vault.kdfCount + 2 } }).setItem { it with stage := 1 }).setSeal r

theorem sealStart_taken (hnet : it.isNet = false) (htaken : s.takeNonce o 1 true = .taken c s') :
    s.sealStart it b o f = s'.keyed it (s'.newSeal it b o f c) := by
  unfold State.sealStart
  rw [htaken, gate_of_not_isNet hnet]
  rfl

/-- A run that is put is the run of its item. -/
theorem setSeal_find {r : SealRun} {id : Nat} (hid : r.item = id) :
    (s.setSeal r).obj.seals.find? (·.item == id) = some r := by
  subst hid
  have hothers : (s.obj.seals.filter (·.item != r.item)).find? (·.item == r.item) = none := by
    simp [List.find?_eq_none]
  rw [State.setSeal, List.find?_append, hothers]
  simp

theorem exec_objSeal_running {r : SealRun} (hready : ObjReady s it 0x0201)
    (hseal : s.obj.seals.find? (·.item == it.id) = some r) : exec (.objSeal it.id) s = .next (s.sealAdvance it r) := by
  obtain ⟨hrun, hclaimed, hmasks, herased⟩ := hready
  have hop : it.opcode = 0x0201 := hrun.2.2
  change execObjSeal it.id s = _
  rw [execObjSeal, onRunning_eq hrun, if_neg (by simp [hop, hclaimed, hmasks, herased]), hseal]

theorem exec_objSeal_taken (hready : ObjReady s it 0x0201) (hnet : it.isNet = false)
    (hnew : s.obj.seals.find? (·.item == it.id) = none) (hblock : it.sealBlock = some b)
    (ho : s.openRoot it.tenantByte 0x60 = some o) (hf : s.openRoot it.tenantByte 0x61 = some f)
    (htaken : s.takeNonce o 1 true = .taken c s') :
    exec (.objSeal it.id) s = .next ((s'.keyed it (s'.newSeal it b o f c)).sealAdvance { it with stage := 1 }
      (s'.newSeal it b o f c)) := by
  obtain ⟨hrun, hclaimed, hmasks, herased⟩ := hready
  obtain ⟨-, hrunning, hop⟩ := id hrun
  have hitem : (s'.keyed it (s'.newSeal it b o f c)).item it.id = some { it with stage := 1 } :=
    setItem_item_self (it := { it with stage := 1 })
  have hseal : (s'.keyed it (s'.newSeal it b o f c)).obj.seals.find? (·.item == it.id) = some (s'.newSeal it b o f c) :=
    setSeal_find rfl
  change execObjSeal it.id s = _
  rw [execObjSeal, onRunning_eq hrun, if_neg (by simp [hop, hclaimed, hmasks, herased]), hnew, hblock, ho, hf]
  dsimp only
  rw [sealStart_taken hnet htaken, hitem, hseal]
  exact congrArg _ (if_pos hrunning)

end

/-! ## A host seal with its data in (R192 to R195, R203) -/

section
variable {s : State} {it : Item} {r : SealRun} {d : List Byte}

/-- A host seal whose data is in encrypts all its segments, hands its fragments over and waits for their
acknowledgements. -/
theorem sealAdvance_data {g : Geometry} (hg : g = s.sealGeometry it.tenantByte r.params) (hnet : it.isNet = false)
    (hstage : it.stage ≠ 2) (ho : s.staleKey r.objRoot = false) (hf : s.staleKey r.frgRoot = false)
    (hopen : (placeChans r.params (g.k + g.m)).all s.chanOpen = true) (hsegs : r.segsDone = 0) (hdata : r.data = [])
    (hin : it.hostBytes (it.le 16 8) g.objLen = some d) (hlength : d.length = g.objLen) (hseglen : 0 < g.segLen) :
    ∃ t r', DatapathOnly s t ∧ SameSeal r r' ∧ r'.segsDone = Geo.segCount g ∧
      s.sealAdvance it r = ((t.setSeal r').setItem { it with stage := 2, bufs := [] }).yieldItem it.id .data := by
  subst hg
  have hinput : s.sealInput it r (s.sealGeometry it.tenantByte r.params) = some (d, s) := by
    unfold State.sealInput
    rw [if_neg (ne_true_of_eq_false hnet), if_pos ⟨hsegs, hdata⟩, hin]
    rfl
  unfold State.sealAdvance
  extract_lets g
  have hsealed : (sealStripes g (Geo.stripes g)
      (sealSegments g (Geo.segCount g) { r with data := r.data ++ d })).segsDone = Geo.segCount g := by
    refine sealStripes_segsDone.trans (sealSegments_segsDone hseglen ?_ ?_)
    · simp [hsegs]
    · simp [hsegs, hdata, hlength, g]
  rw [if_neg (by simp [ho, hf]), if_neg (by simpa using hopen), if_neg hstage, hinput]
  dsimp only
  rw [if_pos (by simp [hsealed, hnet])]
  refine ⟨_, _, .trans ?_ sealSend_keeps.1, .trans ?_ sealSend_keeps.2.1, sealSend_keeps.2.2.trans hsealed, rfl⟩
  · split
    · exact ⟨_, s.hwk, rfl⟩
    · exact .refl
  · refine .trans ?_ (sealSegments_same.trans sealStripes_same)
    exact ⟨rfl, rfl, rfl, rfl, rfl, rfl, rfl, rfl⟩

/-- What such a seal leaves: its item waits, its run stands with every segment done, and the rest is as it was. -/
theorem sealAdvance_waits {t : State} {r' : SealRun} (hid : r.item = it.id) (hpath : DatapathOnly s t)
    (hsame : SameSeal r r')
    (hadvance : s.sealAdvance it r = ((t.setSeal r').setItem { it with stage := 2, bufs := [] }).yieldItem it.id .data) :
    (s.sealAdvance it r).Waits it.id .data ∧ (s.sealAdvance it r).obj.seals.find? (·.item == it.id) = some r' ∧
      (s.sealAdvance it r).regs = s.regs ∧ (s.sealAdvance it r).qps = s.qps ∧ (s.sealAdvance it r).sys = s.sys ∧
      (s.sealAdvance it r).vault.records = s.vault.records := by
  have hframe := yieldItem_frame (s := (t.setSeal r').setItem { it with stage := 2, bufs := [] }) (id := it.id)
    (why := .data)
  obtain ⟨_, _, rfl⟩ := hpath
  rw [hadvance]
  refine ⟨yieldItem_waits (it := { it with stage := 2, bufs := [] }) setItem_item_self, ?_, hframe.regs,
    hframe.qps, hframe.sys, hframe.records⟩
  rw [hframe.seals]
  exact setSeal_find (hsame.item.trans hid)

end

/-- The first clause of O33's part on seals: a seal takes its counter value and waits for its acknowledgements. -/
theorem exec_objSeal_waits {s s' : State} {it : Item} {b d : List Byte} {o f : Word} {c : DWord}
    (hready : ObjReady s it 0x0201) (hnet : it.isNet = false) (hnew : s.obj.seals.find? (·.item == it.id) = none)
    (hblock : it.sealBlock = some b) (ho : s.openRoot it.tenantByte 0x60 = some o)
    (hf : s.openRoot it.tenantByte 0x61 = some f) (htaken : s.takeNonce o 1 true = .taken c s')
    (hostale : s'.staleKey o = false) (hfstale : s'.staleKey f = false)
    (hopen : (placeChans b ((byteAt b 32).toNat + (byteAt b 33).toNat)).all s'.chanOpen = true)
    (hin : it.hostBytes (it.le 16 8) (leAt b 16 8) = some d) (hlength : d.length = leAt b 16 8)
    (hseglen : 0 < (s'.sealGeometry it.tenantByte b).segLen) :
    ∃ t r, exec (.objSeal it.id) s = .next t ∧ t.Waits it.id .data ∧ t.obj.seals.find? (·.item == it.id) = some r ∧
      SameSeal (s'.newSeal it b o f c) r ∧ r.segsDone = Geo.segCount (s'.sealGeometry it.tenantByte b) ∧
      t.regs = s'.regs ∧ t.qps = s'.qps ∧ t.sys = s'.sys ∧ t.vault.records = s'.vault.records := by
  obtain ⟨u, r, hpath, hsame, hsegs, hadvance⟩ := sealAdvance_data (s := s'.keyed it (s'.newSeal it b o f c))
    (it := { it with stage := 1 }) (r := s'.newSeal it b o f c) (g := s'.sealGeometry it.tenantByte b) rfl hnet
    (by decide : 1 ≠ 2) hostale hfstale hopen rfl rfl hin hlength hseglen
  obtain ⟨hwaits, hrun, hkept⟩ := sealAdvance_waits (it := { it with stage := 1 }) rfl hpath hsame hadvance
  exact ⟨_, r, exec_objSeal_taken hready hnet hnew hblock ho hf htaken, hwaits, hrun, hsame, hsegs, hkept⟩

/-! ## The length of a MAC (R198) -/

theorem length_gfMul {x y : List Byte} : (gfMul x y).length = 16 := by
  rw [gfMul, beBytes, List.length_reverse, length_leBytes]

theorem length_ghash {h data : List Byte} : (ghash h data).length = 16 :=
  List.foldlRecOn (motive := fun (y : List Byte) => y.length = 16) _ _ List.length_replicate fun _ _ _ _ => length_gfMul

theorem length_gcmTag {key nonce aad ct : List Byte} : (gcmTag key nonce aad ct).length = 16 := by
  simp [gcmTag, xorBytes, length_ghash, aesBlock]

/-! ## The leaf (R211, R212) -/

section
variable {s : State} {b : Byte} {x : TenantObj} {man : List Byte}

/-- A close of an epoch leaves registers, queue pairs and the vault. -/
theorem closeEpoch_eq : ∃ dsp host out obj,
    s.closeEpoch b = { s with dsp := dsp, host := host, out := out, obj := obj } := by
  cases hobj : s.tenantObj b with
  | none =>
    unfold State.closeEpoch
    rw [hobj]
    exact ⟨_, _, _, _, rfl⟩
  | some x =>
    cases hslot : x.freeSlot with
    | none =>
      rw [closeEpoch_full hobj hslot]
      exact ⟨_, _, _, _, rfl⟩
    | some n =>
      obtain ⟨_, _, _, henqueue⟩ := enqueue_eq (s := s.epochOpened b x n) (it := s.epochItem b) (detail := 0x00)
      rw [closeEpoch_free hobj hslot, henqueue]
      exact ⟨_, _, _, _, rfl⟩

/-- A close of an epoch adds an item under the next number and changes no other. -/
theorem closeEpoch_item_ne {id : Nat} (hid : id ≠ s.dsp.nextItem) : (s.closeEpoch b).item id = s.item id := by
  cases hobj : s.tenantObj b with
  | none =>
    unfold State.closeEpoch
    rw [hobj]
  | some x =>
    cases hslot : x.freeSlot with
    | none => rw [closeEpoch_full hobj hslot]; rfl
    | some n => rw [closeEpoch_free hobj hslot]; exact enqueue_item_ne hid

/-- The state in which a leaf stands in the leaf store and in its epoch. -/
def State.withLeaf (s : State) (b : Byte) (x : TenantObj) (man : List Byte) : State :=
  (match s.leafBase b with
    | some base => s.memStore (base + 2 ^ 25 * x.slot + 32 * x.leaves.length) (leafHash man)
    | none => s).setTenantObj b { x with leaves := x.leaves ++ [leafHash man] }

theorem memStore_eq {a : Nat} {bytes : List Byte} : ∃ mem, s.memStore a bytes = { s with mem := mem } := ⟨_, rfl⟩

theorem withLeaf_eq : ∃ mem obj, s.withLeaf b x man = { s with mem := mem, obj := obj } := by
  unfold State.withLeaf
  split
  · next base _ =>
    obtain ⟨_, hstore⟩ := memStore_eq (s := s) (a := base + 2 ^ 25 * x.slot + 32 * x.leaves.length)
      (bytes := leafHash man)
    rw [hstore]
    exact ⟨_, _, rfl⟩
  · exact ⟨s.mem, _, rfl⟩

theorem appendLeaf_some (hobj : s.tenantObj b = some x) : s.appendLeaf b man =
    if x.leaves.length + 1 = 2 ^ 20 ∧ x.waiting.length < 7 then (s.withLeaf b x man).closeEpoch b
    else s.withLeaf b x man := by
  unfold State.appendLeaf
  rw [hobj]
  rfl

/-- Below 2^20 leaves the epoch stays open, with the leaf as its last. -/
theorem appendLeaf_leaves (hobj : s.tenantObj b = some x) (hroom : x.leaves.length + 1 < 2 ^ 20) :
    (s.appendLeaf b man).tenantObj b = some { x with leaves := x.leaves ++ [leafHash man] } := by
  have hopen : ¬ (x.leaves.length + 1 = 2 ^ 20 ∧ x.waiting.length < 7) := fun hfull => hroom.ne hfull.1
  rw [appendLeaf_some hobj, if_neg hopen]
  exact setTenantObj_tenantObj_self

/-- A leaf leaves registers, queue pairs, the vault and every item that there is. -/
theorem appendLeaf_keeps {id : Nat} (hobj : s.tenantObj b = some x) (hid : id ≠ s.dsp.nextItem) :
    (s.appendLeaf b man).item id = s.item id ∧ (s.appendLeaf b man).regs = s.regs ∧
      (s.appendLeaf b man).qps = s.qps ∧ (s.appendLeaf b man).vault = s.vault := by
  obtain ⟨_, _, hleaf⟩ := withLeaf_eq (s := s) (b := b) (x := x) (man := man)
  rw [appendLeaf_some hobj, hleaf]
  split
  · refine ⟨closeEpoch_item_ne hid, ?_⟩
    obtain ⟨_, _, _, _, hclose⟩ := closeEpoch_eq (s := { s with mem := _, obj := _ }) (b := b)
    rw [hclose]
    exact ⟨rfl, rfl, rfl⟩
  · exact ⟨rfl, rfl, rfl, rfl⟩

end

/-! ## The leaves of an epoch at an item's end (R218) -/

/-- A change that keeps a part of one entry of a table keeps that part of every entry. -/
theorem tabGet_tabModify_map {α β : Type} {t : Tab α} {j k : Nat} {f : α → α} {p : α → β} (hf : ∀ v, p (f v) = p v) :
    (tabGet (tabModify t k f) j).map p = (tabGet t j).map p := by
  unfold tabModify
  split
  · next v hv =>
    by_cases hj : j = k
    · subst hj
      rw [tabGet_tabSet_self, hv, Option.map_some, Option.map_some, hf]
    · rw [tabGet_tabSet_ne hj]
  · rfl

section
variable {s : State} {b : Byte}

theorem noteEnd_leaves {it : Item} {o : Outcome} :
    ((s.noteEnd it o).tenantObj b).map (·.leaves) = (s.tenantObj b).map (·.leaves) := by
  unfold State.noteEnd
  extract_lets ok pay nas obj spr t
  change (t.tenantObj b).map (·.leaves) = _
  unfold t
  split
  · exact tabGet_tabModify_map fun v => by cases ok <;> rfl
  · split <;> rfl

/-- An item's end counts seals and leaves the leaves. -/
theorem finish_leaves {id : Nat} {o : Outcome} :
    ((s.finish id o).tenantObj b).map (·.leaves) = (s.tenantObj b).map (·.leaves) := by
  unfold State.finish
  split
  · rfl
  · split
    · rfl
    · next it _ _ =>
      extract_lets o' u1 u2 u3 u4 it'
      obtain ⟨_, hfree⟩ := freeCore_eq (s := u1) (it := it)
      obtain ⟨_, _, _, _, _, hrelease⟩ := releaseClaim_eq (s := u3) (it := it)
      obtain ⟨_, _, _, htrace⟩ := trace_eq (s := u4.setItem it') (event := 0x03) (detail := 0) (it := it')
        (st := o'.status)
      have hobj : ((u4.setItem it').trace 0x03 0 it' o'.status).obj = u1.obj := by
        rw [htrace]
        change u4.obj = u1.obj
        unfold u4
        rw [hrelease]
        change u2.obj = u1.obj
        unfold u2
        rw [hfree]
      rw [State.tenantObj, hobj]
      exact noteEnd_leaves

theorem writeOut_tenantObj {id iova : Nat} {bytes : List Byte} :
    (s.writeOut id iova bytes).tenantObj b = s.tenantObj b := by
  unfold State.writeOut
  split
  · rfl
  · split
    · rfl
    · next it _ _ =>
      obtain ⟨_, _, hwrite⟩ := hostWrite_eq (s := s.setItem { it with
        written := it.written ++ [(BitVec.ofNat 64 iova, bytes.length)] }) (fn := it.fn) (iova := iova) (bytes := bytes)
      rw [hwrite]
      rfl

end

/-! ## The manifest, and the end of a seal (R197, R198, R203) -/

section
variable {s : State} {it : Item} {r : SealRun} {g : Geometry} {x : TenantObj}

/-- The manifest of a seal, with its MAC. -/
def State.sealManifest (s : State) (it : Item) (r : SealRun) (g : Geometry) (x : TenantObj) : List Byte :=
  let body := manBody g r.params (leBytes 8 r.ctr.toNat) it.tenantByte it.isNet r.objRoot r.frgRoot x.leaves.length
    x.epoch s.sys.serial ((List.range (g.k + g.m)).map fun j => gmac r.frgKey (segNonce j) (r.strings.getD j []))
  body ++ gmac r.objKey manNonce body

/-- The last 16 bytes of a manifest are the MAC over the others. -/
theorem sealManifest_mac {man : List Byte} (hman : man = s.sealManifest it r g x) :
    man = man.take (man.length - 16) ++ gmac r.objKey manNonce (man.take (man.length - 16)) := by
  rw [hman]
  unfold State.sealManifest
  extract_lets body
  have hbody : (body ++ gmac r.objKey manNonce body).take ((body ++ gmac r.objKey manNonce body).length - 16) =
      body := by
    rw [List.length_append, gmac, length_gcmTag, Nat.add_sub_cancel, List.take_left]
  rw [hbody]

theorem sealManifest_ne_nil : s.sealManifest it r g x ≠ [] := by
  unfold State.sealManifest
  refine List.append_ne_nil_of_right_ne_nil _ fun hnil => ?_
  have hlength := congrArg List.length hnil
  rw [gmac, length_gcmTag] at hlength
  exact absurd hlength (by decide)

/-- The state in which the leaf of a manifest is appended and the seal's keys are gone. -/
def State.manifested (s : State) (it : Item) (r : SealRun) (man : List Byte) : State :=
  (s.appendLeaf it.tenantByte man).setSeal { r with manifest := man, objKey := [], frgKey := [] }

theorem sealFinish_host {man : List Byte} (hman : man = s.sealManifest it r g x) (hnet : it.isNet = false)
    (hobj : s.tenantObj it.tenantByte = some x) : s.sealFinish it r g =
      ((s.manifested it r man).writeOut it.id (it.le 32 8) man).complete it.id stOk
        (okBody man.length (leBytes 8 r.ctr.toNat ++ leBytes 4 x.leaves.length)) := by
  rw [hman]
  unfold State.sealFinish
  rw [hobj]
  dsimp only
  rw [if_neg (ne_true_of_eq_false hnet)]
  rfl

theorem sealAdvance_acknowledged (hg : g = s.sealGeometry it.tenantByte r.params) (hstage : it.stage = 2)
    (ho : s.staleKey r.objRoot = false) (hf : s.staleKey r.frgRoot = false)
    (hopen : (placeChans r.params (g.k + g.m)).all s.chanOpen = true) (hacked : r.unacked = []) :
    s.sealAdvance it r = s.sealFinish it r g := by
  subst hg
  unfold State.sealAdvance
  extract_lets g
  rw [if_neg (by simp [ho, hf]), if_neg (by simpa using hopen), if_pos hstage, if_pos hacked]

/-- The second clause of O33's part on seals: the end of a host seal. -/
theorem sealFinish_ends {man : List Byte} (hman : man = s.sealManifest it r g x) (hrun : s.Runs it 0x0201)
    (hnet : it.isNet = false) (hid : it.id ≠ s.dsp.nextItem) (hobj : s.tenantObj it.tenantByte = some x) :
    (s.sealFinish it r g).Completed it.id stOk
      (okBody man.length (leBytes 8 r.ctr.toNat ++ leBytes 4 x.leaves.length)) ∧
    .host { fn := it.fn, iova := BitVec.ofNat 64 (it.le 32 8), bytes := man } ∈ (s.sealFinish it r g).out ∧
    (x.leaves.length + 1 < 2 ^ 20 →
      ((s.sealFinish it r g).tenantObj it.tenantByte).map (·.leaves) = some (x.leaves ++ [leafHash man])) ∧
    (s.sealFinish it r g).regs = s.regs ∧ (s.sealFinish it r g).qps = s.qps ∧
    (s.sealFinish it r g).vault.records = s.vault.records := by
  obtain ⟨hitem, hrunning⟩ := hrun
  obtain ⟨hkept, hregs, hqps, hvault⟩ := appendLeaf_keeps (man := man) hobj hid
  have hrun' : (s.manifested it r man).Runs it 0x0201 := ⟨hkept.trans hitem, hrunning⟩
  obtain ⟨w, hwritten⟩ := writeOut_runs (iova := it.le 32 8) (bytes := man) hrun'
  have hne : man ≠ [] := hman ▸ sealManifest_ne_nil
  have hframe := writeOut_frame.trans (complete_frame
    (s := (s.manifested it r man).writeOut it.id (it.le 32 8) man) (id := it.id) (st := stOk)
    (body := okBody man.length (leBytes 8 r.ctr.toNat ++ leBytes 4 x.leaves.length)))
  rw [sealFinish_host hman hnet hobj]
  refine ⟨complete_completed (it := { it with written := w }) hwritten (.inr rfl), finish_out ?_, fun hroom => ?_,
    hframe.regs.trans hregs, hframe.qps.trans hqps, hframe.records.trans (congrArg VaultState.records hvault)⟩
  · rw [writeOut_out hrun'.1 hne]
    exact List.mem_cons_self
  · refine finish_leaves.trans ?_
    rw [writeOut_tenantObj]
    change ((s.appendLeaf it.tenantByte man).tenantObj it.tenantByte).map (·.leaves) = _
    rw [appendLeaf_leaves hobj hroom]
    rfl

end

/-- The first part of O33: a seal starts under its counter value, and ends with its leaf and its manifest. -/
theorem sealsProduceAManifest : SealsProduceAManifest := by
  refine ⟨?_, ?_⟩
  · intro s s' it b d o f c hready hnet hnew hblock ho hf htaken _ hostale hfstale _ hopen hin hlength hseglen
    obtain ⟨t, r, hexec, hwaits, hrun, hsame, hsegs, hregs, hqps, hsys, hrecords⟩ := exec_objSeal_waits hready hnet hnew
      hblock ho hf htaken hostale hfstale hopen hin hlength (Nat.lt_of_lt_of_le (by decide) hseglen)
    exact ⟨t, r, hexec, hwaits, hrun, hsame.params, hsame.ctr, hsame.objRoot, hsame.frgRoot, hsame.objKey, hsame.frgKey,
      hsegs, hsame.manifest, hregs, hqps, hsys, hrecords⟩
  · intro s it r x hready hstage hnet hid hseal _ ho hf hobj hopen hacked
    have hexec := exec_objSeal_running hready hseal
    rw [sealAdvance_acknowledged rfl hstage ho hf hopen hacked] at hexec
    obtain ⟨hdone, hout, hleaves, hregs, hqps, hrecords⟩ := sealFinish_ends rfl hready.1 hnet hid hobj
    exact ⟨_, _, hexec, hdone, hout, sealManifest_mac rfl, hleaves, hregs, hqps, hrecords⟩

end Sys2Proof.Machine

/-! PROOFS. OBJ_OPEN (R206 to R208): the manifest's MAC, and the release of the segments whose tags verify. -/

namespace Sys2Proof.Machine

/-! ## The start of an open (R206) -/

section
variable {s : State} {it : Item} {man : List Byte} {r : OpenRun}

theorem exec_objOpen_new (hready : ObjReady s it 0x0202) (hnew : s.obj.opens.find? (·.item == it.id) = none)
    (hman : it.openManifest = some man) : exec (.objOpen it.id) s = .next (s.openStart it man) := by
  obtain ⟨hrun, hclaimed, hmasks, herased⟩ := hready
  have hop : it.opcode = 0x0202 := hrun.2.2
  change execObjOpen it.id s = _
  rw [execObjOpen, onRunning_eq hrun, if_neg (by simp [hop, hclaimed, hmasks, herased]), hnew, hman]

theorem exec_objOpen_running (hready : ObjReady s it 0x0202) (hopen : s.obj.opens.find? (·.item == it.id) = some r) :
    exec (.objOpen it.id) s =
      .next (State.openAdvance it (Geo.stripes (manGeometry r.manifest) + 1) s r) := by
  obtain ⟨hrun, hclaimed, hmasks, herased⟩ := hready
  have hop : it.opcode = 0x0202 := hrun.2.2
  change execObjOpen it.id s = _
  rw [execObjOpen, onRunning_eq hrun, if_neg (by simp [hop, hclaimed, hmasks, herased]), hopen]

/-- An open whose manifest has another MAC ends and has no run. -/
theorem openStart_mismatch (hmac : gmac (kdf (it.material (BitVec.ofNat 32 (leAt man 76 4))) (ascii "OBJ")
    (manObject man ++ manCtr man) 256) manNonce (man.take (man.length - 16)) ≠ man.drop (man.length - 16)) :
    s.openStart it man =
      ({ s with vault := { s.vault with kdfCount := s.vault.kdfCount + 1 } }).failItem it.id stTagMismatch := by
  unfold State.openStart
  exact if_neg hmac

end

/-! ## Segments released (R208) -/

section
variable {s : State} {it : Item} {r : OpenRun} {g : Geometry} {op : Nat}

/-- A host open writes a verified segment to its place in DST, and runs on. -/
theorem releaseSegment_keeps {i : Nat} {pt : List Byte} {w : List (DWord × Nat)}
    (hrun : s.Runs { it with written := w } op) (hgate : r.gate = none) :
    ∃ w', (s.releaseSegment it r g i pt).Runs { it with written := w' } op ∧
      ItemFrame s (s.releaseSegment it r g i pt) := by
  unfold State.releaseSegment
  rw [hgate]
  obtain ⟨w', hwritten⟩ := writeOut_runs (it := { it with written := w })
    (iova := it.le 40 8 + (i - it.le 32 4) * g.segLen) (bytes := pt) hrun
  exact ⟨w', hwritten, writeOut_frame⟩

/-- A host open that releases segments runs on, and leaves the rest of the device as it was. -/
theorem openSegments_keeps {f : Nat} {w : List (DWord × Nat)} (hrun : s.Runs { it with written := w } op)
    (hgate : r.gate = none) : ∃ w', (State.openSegments it g f (s, r)).1.Runs { it with written := w' } op ∧
      ItemFrame s (State.openSegments it g f (s, r)).1 := by
  induction f generalizing s r w with
  | zero => exact ⟨w, hrun, .refl⟩
  | succ f ih =>
    unfold State.openSegments
    extract_lets base off n ct aad
    split
    · split
      · obtain ⟨w1, hreleased, hframe⟩ := releaseSegment_keeps (g := g) (i := r.segNext)
          (pt := gcmCrypt r.objKey (segNonce r.segNext) ct) hrun hgate
        obtain ⟨w2, hrest, hrestFrame⟩ := ih (r := { r with segNext := r.segNext + 1, written := r.written + n })
          hreleased hgate
        exact ⟨w2, hrest, hframe.trans hrestFrame⟩
      · exact ⟨w, hrun, .refl⟩
    · exact ⟨w, hrun, .refl⟩

/-- How an open goes on once its segments have been released as far as they are in. -/
def State.openReleased (it : Item) (f : Nat) (p : State × OpenRun × Bool) : State :=
  if !p.2.2 then p.1.openFail it p.2.1 stTagMismatch
  else if p.2.1.segNext = p.2.1.segEnd then (p.1.setOpen p.2.1).complete it.id stOk p.2.1.body
  else State.openAdvance it f (p.1.setOpen p.2.1) p.2.1

/-- With every wanted unit in, the stripe is decoded and its segments are released. -/
theorem openAdvance_decoded {f : Nat} {want : List Nat} (hg : g = manGeometry r.manifest)
    (hwant : r.wanted g = some want) (hin : (want.all fun j => (r.units.map (·.1)).contains j) = true) :
    State.openAdvance it (f + 1) s r =
      State.openReleased it f (State.openSegments it g (Geo.segCount g) (s, r.decode g)) := by
  subst hg
  have htodo : (want.filter fun j => !(r.units.map (·.1)).contains j) = [] := by
    rw [List.filter_eq_nil_iff]
    intro j hj
    rw [List.all_eq_true.mp hin j hj]
    decide
  unfold State.openAdvance
  extract_lets g
  rw [hwant]
  exact if_pos htodo

theorem zeroOutputs_frame {id : Nat} : ItemFrame s (s.zeroOutputs id) := by
  unfold State.zeroOutputs
  split
  · exact .refl
  · exact (List.foldlRecOn (motive := ItemFrame s) _ _ .refl fun _ h _ _ => h.trans hostWrite_frame).trans setItem_frame

/-- A tag that differs ends a host open: what it wrote is overwritten, and RESULT is 0. -/
theorem openFail_ends {w : List (DWord × Nat)} {st : Status} (hrun : s.Runs { it with written := w } op)
    (hop : op ≠ 0x0201) (hnet : it.isNet = false) :
    (s.openFail it r st).Completed it.id st ({ r with written := 0 } : OpenRun).body ∧
      ItemFrame s (s.openFail it r st) := by
  unfold State.openFail
  rw [if_neg (ne_true_of_eq_false hnet)]
  exact ⟨complete_completed (it := { it with written := [] })
    (zeroOutputs_runs (it := { it with written := w }) hrun) (.inl hop),
    zeroOutputs_frame.trans complete_frame⟩

/-- Two vaults that agree but for their key caches. -/
theorem vault_eq_of_cache {v v' : VaultState} (h : { v' with cache := [] } = { v with cache := [] }) :
    v' = { v with cache := v'.cache } := by
  have hcached := congrArg (fun u : VaultState => { u with cache := v'.cache }) h
  exact hcached

end

/-- The second part of O33: the manifest's MAC is checked before the open begins, and a segment's tag before it is
released. -/
theorem opensReleaseVerifiedSegments : OpensReleaseVerifiedSegments := by
  refine ⟨fun s it man hready hnew hman => ⟨_, exec_objOpen_new hready hnew hman, fun hmac => ?_⟩, ?_⟩
  · rw [openStart_mismatch hmac]
    obtain ⟨hended, hframe⟩ := failItem_ends (st := stTagMismatch)
      (s := { s with vault := { s.vault with kdfCount := s.vault.kdfCount + 1 } }) hready.1 (by decide)
    exact ⟨hended, hframe.opens, hframe.regs, hframe.qps, hframe.cells⟩
  · intro s it r want p hready hnet hopen _ hgate hwant hin hp
    obtain ⟨w, hrun, hframe⟩ := openSegments_keeps (g := manGeometry r.manifest)
      (f := Geo.segCount (manGeometry r.manifest)) (r := r.decode (manGeometry r.manifest)) (w := it.written)
      hready.1 hgate
    rw [← hp] at hrun hframe
    refine ⟨_, exec_objOpen_running hready hopen, ?_⟩
    rw [openAdvance_decoded rfl hwant hin, ← hp, State.openReleased]
    cases hverified : p.2.2 with
    | false =>
      obtain ⟨hended, hfail⟩ := openFail_ends (r := p.2.1) (st := stTagMismatch) hrun (by decide) hnet
      have hkept := hframe.trans hfail
      exact ⟨fun h => absurd h (by decide), fun _ => hended, fun _ => ⟨hkept.regs, hkept.qps, hkept.cells,
        vault_eq_of_cache hkept.vault⟩⟩
    | true =>
      refine ⟨fun _ hlast => ?_, fun h => absurd h (by decide), fun hdone => ?_⟩
      · rw [if_neg (by decide), if_pos hlast]
        exact complete_completed (s := p.1.setOpen p.2.1) (it := { it with written := w }) hrun (.inr rfl)
      · have hlast : p.2.1.segNext = p.2.1.segEnd := hdone.resolve_right (by decide)
        have hkept := complete_frame (s := p.1.setOpen p.2.1) (id := it.id) (st := stOk) (body := p.2.1.body)
        rw [if_neg (by decide), if_pos hlast]
        exact ⟨hkept.regs.trans hframe.regs, hkept.qps.trans hframe.qps, hkept.cells.trans hframe.cells,
          vault_eq_of_cache (hkept.vault.trans hframe.vault)⟩

/-- Settles O33 by its two parts. That a host seal encrypts all its segments in one step (log entry 53), and that
OBJ_OPEN judges its missing fragments stripe by stripe (log entry 50), are choices of the model. -/
theorem objectsAreSealedAndOpened : Obligations.ObjectsAreSealedAndOpened :=
  ⟨sealsProduceAManifest, opensReleaseVerifiedSegments⟩

end Sys2Proof.Machine

/-! PROOFS. Ports (R242 to R246) and the injection ring (R269). -/

namespace Sys2Proof.Machine

/-! ## The configuration of a port (R243) -/

section
variable {s : State} {port sub : Nat} {v : Word}

/-- Where a write does not clear ENABLE, a port of the variant takes its new configuration and nothing else changes. -/
theorem writePortCfg_of_kept {new : Word} (hport : port < 4) (hvariant : s.sys.variant = .ky4200A → port < 2)
    (hnew : new = if (s.portCfg port).getLsbD 0 then
      (v &&& 0x0000_FF1F &&& 0xFFFF_FFF9) ||| (s.portCfg port &&& 0x0000_0006) else v &&& 0x0000_FF1F)
    (hkept : (s.portCfg port).getLsbD 0 = true → new.getLsbD 0 = true) :
    s.writePortCfg port v = s.setReg 0 (0x0010_0100 + 0x40 * port) new := by
  have hexists : (decide (4 ≤ port) || (s.sys.variant == .ky4200A && decide (2 ≤ port))) = false := by
    simp only [Bool.or_eq_false_iff, Bool.and_eq_false_imp, decide_eq_false_iff_not, beq_iff_eq]
    exact ⟨by omega, fun h => by have := hvariant h; omega⟩
  have hclears : ¬ ((s.portCfg port).getLsbD 0 && !new.getLsbD 0) = true := by simpa using hkept
  simp only [State.writePortCfg, hexists, ← hnew, if_neg hclears, Bool.false_eq_true, if_false]

theorem exec_portCfgWrite_served (hmmio : s.mmioOk 0 = true) :
    exec (.portCfgWrite port v) s = .next (s.writePortCfg port v) := by
  change execPortCfgWrite port v s = _
  rw [execPortCfgWrite, if_pos hmmio]

/-! ## Links and MACsec (R242, R245, R246) -/

theorem exec_ethLinkChange_present {up : Bool} (hon : s.serdesOn = true) (henabled : s.portEnabled port = true)
    (hsub : s.subExists port sub = true) :
    exec (.ethLinkChange port sub up) s = .next (s.modifySub port sub fun x => { x with link := up }) := by
  change execEthLinkChange port sub up s = _
  rw [execEthLinkChange, if_pos (by simp [hon, henabled, hsub])]

theorem exec_eapolMka_installs (hruns : s.mkaRuns port sub = true) (hready : s.ent.ready = true) :
    exec (.eapolMka port sub true) s = .next ((s.draw 32).2.modifySub port sub fun x =>
      { x with sak := some (s.draw 32).1, pn := 1, rekey := false }) := by
  change execEapolMka port sub true s = _
  rw [execEapolMka, if_pos (by simp [hruns, hready])]

theorem exec_sakRekeyThreshold_reached (hruns : s.mkaRuns port sub = true)
    (hpn : s.rekeyAt port ≤ (s.subPort port sub).pn) :
    exec (.sakRekeyThreshold port sub) s = .next (s.modifySub port sub fun x => { x with rekey := true }) := by
  change execSakRekeyThreshold port sub s = _
  rw [execSakRekeyThreshold, if_pos (by simp [hruns, hpn])]

end

/-- The first part of O36. That the device draws the SAK itself is the model's choice (log entry 55). -/
theorem portsTakeTheirConfiguration : PortsTakeTheirConfiguration := by
  refine ⟨fun s port v hmmio hport hvariant hoff => ?_, fun s port v hmmio hport hvariant hon hv => ?_,
    fun _ _ _ _ => exec_ethLinkChange_present, fun _ _ _ => exec_eapolMka_installs,
    fun _ _ _ => exec_sakRekeyThreshold_reached⟩
  · rw [exec_portCfgWrite_served hmmio, writePortCfg_of_kept hport hvariant (if_neg (by rw [hoff]; decide)).symm
      fun hon => absurd (hoff ▸ hon) (by decide)]
  · have hmask : v &&& 0x0000_FF1F &&& 0xFFFF_FFF9 = v &&& 0x0000_FF19 := by rw [BitVec.and_assoc]; rfl
    rw [exec_portCfgWrite_served hmmio, writePortCfg_of_kept hport hvariant (by rw [if_pos hon, hmask])]
    simp [hv]

/-! ## Injection (R269) -/

section
variable {s : State} {prod : Word} {slots : List InjectSlot}

@[simp] theorem setReg_sendsFrames {fn off : Nat} {v : Word} : (s.setReg fn off v).sendsFrames = s.sendsFrames := rfl

theorem exec_injectFrame_silent (hmmio : s.mmioOk 0 = true) (hsends : s.sendsFrames = false) :
    exec (.injectFrame prod slots) s = .next (s.setReg 0 0x0010_0A2C (prod &&& 0x0000_FFFF)) := by
  change Host.Outcome.next (s.injectFrames prod slots) = _
  simp [State.injectFrames, hmmio, hsends]

/-- The producer index is not the register that gives the ring its size. -/
theorem setReg_injProd_injSize {v : Word} : (s.setReg 0 0x0010_0A2C v).reg 0 0x0010_0A28 = s.reg 0 0x0010_0A28 :=
  tabGetD_tabSet_ne (by decide)

theorem exec_injectFrame_sends {n : Nat} (hmmio : s.mmioOk 0 = true) (hsends : s.sendsFrames = true)
    (hn : n = 2 ^ ((s.reg 0 0x0010_0A28).toNat % 32)) :
    exec (.injectFrame prod slots) s = .next ((slots.take
      (((prod &&& 0x0000_FFFF).toNat + n - s.hwk.injCons % n) % n)).foldl State.injectOne
        (s.setReg 0 0x0010_0A2C (prod &&& 0x0000_FFFF))) := by
  change Host.Outcome.next (s.injectFrames prod slots) = _
  simp only [State.injectFrames, hmmio, setReg_sendsFrames, hsends, setReg_injProd_injSize, ← hn, State.setReg_hwk,
    Bool.not_true, Bool.false_eq_true, if_false, if_true]

/-- A producer one slot past the consumer leaves one slot to send. -/
theorem slots_to_send_one {n cons : Nat} (hn : 1 < n) (hcons : cons < n) :
    ((cons + 1) % n + n - cons % n) % n = 1 := by
  rw [Nat.mod_eq_of_lt hcons]
  rcases Nat.lt_or_ge (cons + 1) n with hlt | hge
  · rw [Nat.mod_eq_of_lt hlt, show cons + 1 + n - cons = 1 + n by omega, Nat.add_mod_right, Nat.mod_eq_of_lt hn]
  · rw [show cons + 1 = n by omega, Nat.mod_self, show 0 + n - cons = 1 by omega, Nat.mod_eq_of_lt hn]

theorem injectOne_barred {x : InjectSlot} {a : List Byte} {p : BitVec 16} (hsrc : x.udpSrc = some (a, p))
    (hlocal : (s.hwk.chans.any fun c => c.2.isLocal a p) = true) :
    s.injectOne x = { s with hwk := { s.hwk with
      injCons := (s.hwk.injCons + 1) % 2 ^ ((s.reg 0 0x0010_0A28).toNat % 32), injLost := s.hwk.injLost + 1 } } := by
  simp only [State.injectOne, hsrc, hlocal, if_true]

end

/-- The second part of O36. -/
theorem injectionSendsItsSlots : InjectionSendsItsSlots := by
  refine ⟨fun _ _ _ => exec_injectFrame_silent, fun s prod x n hmmio hsends hn hone hcons hprod => ?_,
    fun s x a p hsrc hlocal => ⟨_, rfl, ?_⟩⟩
  · rw [exec_injectFrame_sends hmmio hsends hn, hprod, slots_to_send_one hone hcons]
    rfl
  · rw [injectOne_barred hsrc hlocal]
    exact ⟨rfl, rfl, rfl⟩

/-- Settles O36 by its two parts. -/
theorem portsAndInjection : Obligations.PortsAndInjection := ⟨portsTakeTheirConfiguration, injectionSendsItsSlots⟩

end Sys2Proof.Machine

/-! PROOFS. Channels: the rules of their table, sending and synchronising (R260, R262, R263), their commands (R259),
reset (R264, R265) and timers. -/

namespace Sys2Proof.Machine

/-! ## The table of channels -/

/-- An entry written twice is as it was written last. -/
theorem tabSet_tabSet_self {α : Type} {k : Nat} {v w : α} : ∀ {t : Tab α}, tabSet (tabSet t k v) k w = tabSet t k w
  | [] => by simp [tabSet]
  | (j, u) :: r => by
    rcases Nat.lt_trichotomy k j with hlt | rfl | hgt
    · simp [tabSet, hlt]
    · simp [tabSet]
    · have hne : k ≠ j := by omega
      simp [tabSet, Nat.not_lt_of_gt hgt, hne, tabSet_tabSet_self]

section
variable {s : State} {c d : Nat} {x y : Channel}

@[simp] theorem setChan_chan_self : (s.setChan c x).chan c = some x := tabGet_tabSet_self

theorem setChan_chan_ne (hne : d ≠ c) : (s.setChan c x).chan d = s.chan d := tabGet_tabSet_ne hne

theorem setChan_setChan : (s.setChan c x).setChan c y = s.setChan c y := by
  simp only [State.setChan, tabSet_tabSet_self]

end

/-! ## Sending (R187, R246, R262) -/

/-- Two states that differ at most in the headworks' ports and in what has left the device. -/
def PortsOnly (s t : State) : Prop := ∃ ports out, t = { s with hwk := { s.hwk with ports := ports }, out := out }

section
variable {s : State} {c : Nat} {x : Channel}

theorem portSend_portsOnly {port sub : Nat} {o : Output} : PortsOnly s (s.portSend port sub o) := by
  unfold State.portSend
  split
  · exact ⟨s.hwk.ports, s.out, rfl⟩
  · split
    · extract_lets z
      split
      · exact ⟨s.hwk.ports, s.out, rfl⟩
      · split
        · exact ⟨_, s.out, rfl⟩
        · exact ⟨_, _, rfl⟩
    · exact ⟨_, _, rfl⟩

/-- A packet that leaves a channel carries the acknowledgement that it owed. -/
theorem transmit_portsOnly {typ flags seq xid : Nat} {body : List Byte} (hchan : s.chan c = some x) :
    PortsOnly (s.setChan c { x with ackOwed := false }) (s.transmit c typ flags seq xid body) := by
  simp only [State.transmit, hchan]
  exact portSend_portsOnly

/-- A channel whose EPOCH value has not been synchronised before is synchronised at once (R260). -/
theorem synchronise_fresh (hchan : s.chan c = some x) (hticks : x.epochTicks = []) :
    PortsOnly (s.setChan c { x with state := .synchronising, quarantined := false, ackOwed := false
                                    epochTicks := [(x.epoch.toNat, s.sys.tick)] }) (s.synchronise c) := by
  have hsent := transmit_portsOnly (typ := ltPing) (flags := flSync) (seq := 0) (xid := 0)
    (body := zeros 8 ++ leBytes 8 s.uptimeNs) (setChan_chan_self (s := s) (c := c)
    (x := { x with state := .synchronising, quarantined := false, epochTicks := [(x.epoch.toNat, s.sys.tick)] }))
  rw [setChan_setChan] at hsent
  simp only [State.synchronise, hchan, hticks, tabGet_nil, Bool.false_eq_true, if_false]
  exact hsent

end

/-! ## Reset (R264) -/

/-- A channel reset ends nothing where the channel carries no exchange and no seal waits on it. -/
theorem endExchanges_of_unused {s : State} {c : Nat} {x : Channel} (hnone : x.exchanges = [])
    (hseals : ∀ r, r ∈ s.obj.seals → r.unacked ≠ [] → c ∉ r.channels) : s.endExchanges c x = s := by
  have hwaiting : (s.obj.seals.filter fun r => r.channels.contains c && r.unacked ≠ []) = [] := by
    rw [List.filter_eq_nil_iff]
    intro r hr
    have hunused := hseals r hr
    simp only [Bool.and_eq_true, List.contains_iff_mem, decide_eq_true_eq]
    exact fun ⟨hin, hunacked⟩ => hunused hunacked hin
  simp only [State.endExchanges, hwaiting, hnone, List.map_nil, List.foldl_nil]

/-- A channel under its next EPOCH, with nothing received, queued or sent (R264, R265). -/
def Channel.restarted (x : Channel) : Channel :=
  { x with
    state := .synchronising, epoch := x.epoch + 1, rxNext := 0, held := [], inbox := [], control := [], txNext := 0
    ackPeer := 0, winPeer := 256, unsent := [], sent := [], exchanges := [], ackOwed := false }

theorem resetChan_of_unused {s : State} {c : Nat} {x : Channel} (hchan : s.chan c = some x) (hnone : x.exchanges = [])
    (hseals : ∀ r, r ∈ s.obj.seals → r.unacked ≠ [] → c ∉ r.channels) : s.resetChan c =
      ({ s with hwk := { s.hwk with resets := s.hwk.resets + 1 } }.setChan c x.restarted).synchronise c := by
  simp only [State.resetChan, hchan]
  exact congrArg (State.synchronise · c) (endExchanges_of_unused hnone hseals)

/-! ## Channel commands (R259) -/

section
variable {s : State} {x : Channel}

theorem exec_chanRead_entry (hcmd : s.chanCmdOk = true) (hchan : s.chan s.chanSel = some x) :
    exec .chanRead s = .next { s.setChanData x.entry with
      hwk := { (s.setChanData x.entry).hwk with readDone := true, result := stOk } } := by
  change execChanRead s = _
  simp only [execChanRead, hcmd, hchan, if_true, Option.map_some, Option.getD_some]

/-- What OPEN makes of an entry under an EPOCH. -/
def openedChannel (entry : List Byte) (epoch : Byte) : Channel :=
  { entry := entry, state := .synchronising, quarantined := false, epoch := epoch, epochTicks := [], rxNext := 0
    held := [], inbox := [], control := [], txNext := 0, ackPeer := 0, winPeer := 256, unsent := [], sent := []
    exchanges := [], nextXid := 0, ackOwed := false }

/-- The state in which an OPEN is in progress and its channel is not yet synchronised. -/
def State.beginOpen (s : State) : State :=
  let t := (s.draw 1).2.setChan s.chanSel (openedChannel s.chanData (byteAt (s.draw 1).1 0))
  { t with hwk := { t.hwk with opening := some s.chanSel } }

theorem exec_chanOpen_refused (hcmd : s.chanCmdOk = true)
    (hbad : s.entryOk s.chanData = false ∨ s.chanSel = 0xFFFFFF ∨ (s.chan s.chanSel).isSome = true) :
    exec .chanOpen s = .next (s.chanResult stBadField) := by
  have hrefused : (!s.entryOk s.chanData || s.chanSel == 0xFFFFFF || (s.chan s.chanSel).isSome) = true := by
    simpa [or_assoc] using hbad
  change execChanOpen s = _
  simp only [execChanOpen, hcmd, hrefused, Bool.not_true, Bool.false_eq_true, if_false, if_true]

theorem exec_chanOpen_begins (hcmd : s.chanCmdOk = true) (hentry : s.entryOk s.chanData = true)
    (hsel : s.chanSel ≠ 0xFFFFFF) (hfree : s.chan s.chanSel = none)
    (hquota : (s.hwk.chans.filter fun p => p.2.tenant == byteAt s.chanData 0).length <
      ((s.tenantEntry (byteAt s.chanData 0)).map TenantEntry.channelQuota).getD 0)
    (hroom : s.hwk.chans.length < 65536) :
    exec .chanOpen s = .next (s.beginOpen.synchronise s.chanSel) := by
  have haccepted : (!s.entryOk s.chanData || s.chanSel == 0xFFFFFF || (s.chan s.chanSel).isSome) = false := by
    simp [hentry, hsel, hfree]
  change execChanOpen s = _
  simp only [execChanOpen, hcmd, haccepted, Bool.not_true, Bool.false_eq_true, if_false]
  rw [if_neg (not_or.mpr ⟨Nat.not_le.mpr hquota, Nat.not_le.mpr hroom⟩)]
  rfl

/-- An OPEN in progress leaves the other channels, the registers and the dispatcher. -/
theorem beginOpen_eq : ∃ ent fresh, s.beginOpen = { s with
    ent := ent, fresh := fresh
    hwk := { s.hwk with
      chans := tabSet s.hwk.chans s.chanSel (openedChannel s.chanData (byteAt (s.draw 1).1 0))
      opening := some s.chanSel } } := by
  obtain ⟨ent, fresh, hdraw⟩ := draw_eq (s := s) (n := 1)
  exact ⟨ent, fresh, by rw [State.beginOpen, hdraw]; rfl⟩

theorem exec_chanReset_served (hcmd : s.chanCmdOk = true) :
    exec .chanReset s = .next ((s.resetChan s.chanSel).chanResult stOk) := by
  change execChanReset s = _
  rw [execChanReset, if_pos hcmd]

theorem exec_chanClose_served (hcmd : s.chanCmdOk = true) :
    exec .chanClose s = .next ((s.closeChan s.chanSel).chanResult stOk) := by
  change execChanClose s = _
  rw [execChanClose, if_pos hcmd]

end

/-- The first part of O38. That RESET and CLOSE end with ST_OK on any channel, an inactive one too, is the model's
choice (log entry 58). -/
theorem channelCommandsTakeEffect : ChannelCommandsTakeEffect := by
  refine ⟨fun s x hcmd hchan => ⟨_, exec_chanRead_entry hcmd hchan, rfl⟩,
    fun s hcmd hentry hsel hfree hquota hroom => ?_, fun _ => exec_chanOpen_refused, fun _ => exec_chanReset_served,
    fun s hcmd => ⟨_, exec_chanClose_served hcmd, rfl, rfl, rfl, rfl⟩, fun _ _ _ => resetChan_of_unused⟩
  rw [exec_chanOpen_begins hcmd hentry hsel hfree hquota hroom]
  obtain ⟨ent, fresh, hbegin⟩ := beginOpen_eq (s := s)
  obtain ⟨ports, out, hsync⟩ := synchronise_fresh (s := s.beginOpen) (c := s.chanSel)
    (x := openedChannel s.chanData (byteAt (s.draw 1).1 0)) (hbegin ▸ tabGet_tabSet_self) rfl
  rw [hsync, hbegin]
  exact ⟨_, _, rfl, rfl, setChan_chan_self, rfl, rfl, rfl, rfl, rfl, rfl, rfl,
    fun d hd => (setChan_chan_ne hd).trans (tabGet_tabSet_ne hd), rfl, rfl⟩

/-! ## Channel timers (R260, R262, R263, R265, R267) -/

section
variable {s : State} {c : Nat} {x : Channel}

theorem exec_ackTimer_owed (hchan : s.chan c = some x) (howed : x.ackOwed = true) :
    exec (.ackTimer c) s = .next (s.transmitUnseq c ltCredit 0 []) := by
  change execAckTimer c s = _
  simp only [execAckTimer, hchan, howed, if_true]
  rfl

section
variable {p : TxPacket}

/-- The sequence number of a timer's word is that of the packet. -/
theorem find_sent_word (hseq : p.seq < 2 ^ 32) (hfind : x.sent.find? (·.seq == p.seq) = some p) :
    (x.sent.find? fun q => q.seq == (BitVec.ofNat 32 p.seq : Word).toNat) = some p := by
  rw [BitVec.toNat_ofNat, Nat.mod_eq_of_lt hseq, hfind]

theorem exec_retransmitTimeout_again (hchan : s.chan c = some x) (hseq : p.seq < 2 ^ 32)
    (hfind : x.sent.find? (·.seq == p.seq) = some p) (hcovered : p.covered = false) (hsends : p.sends < 9) :
    exec (.retransmitTimeout c (BitVec.ofNat 32 p.seq)) s = .next (({ s with
      hwk := { s.hwk with
        chans := tabSet s.hwk.chans c { x with
          sent := x.sent.map fun (q : TxPacket) => if q.seq = p.seq then { q with sends := q.sends + 1 } else q }
        retx := s.hwk.retx + 1 } }).transmit c p.typ (Nat.lor p.flags flRetx) p.seq p.xid p.body) := by
  change execRetransmitTimeout c _ s = _
  simp only [execRetransmitTimeout, hchan, find_sent_word hseq hfind, hcovered, Bool.false_eq_true, if_false]
  rw [if_neg (by omega)]
  rfl

theorem exec_retransmitTimeout_ninth (hchan : s.chan c = some x) (hseq : p.seq < 2 ^ 32)
    (hfind : x.sent.find? (·.seq == p.seq) = some p) (hcovered : p.covered = false) (hsends : 9 ≤ p.sends) :
    exec (.retransmitTimeout c (BitVec.ofNat 32 p.seq)) s = .next (s.resetChan c) := by
  change execRetransmitTimeout c _ s = _
  simp only [execRetransmitTimeout, hchan, find_sent_word hseq hfind, hcovered, Bool.false_eq_true, if_false,
    if_pos hsends]

end

theorem exec_zeroWindowProbe_closed (hchan : s.chan c = some x) (hopen : x.state = .opened) (hwindow : x.winPeer = 0) :
    exec (.zeroWindowProbe c) s = .next (s.transmitUnseq c ltPing flAckReq (zeros 8 ++ leBytes 8 s.uptimeNs)) := by
  change execZeroWindowProbe c s = _
  simp only [execZeroWindowProbe, hchan, hopen, hwindow, and_self, if_true]

theorem exec_zeroWindowTimeout_closed (hchan : s.chan c = some x) (hopen : x.state = .opened)
    (hwindow : x.winPeer = 0) : exec (.zeroWindowTimeout c) s = .next (s.resetChan c) := by
  change execZeroWindowTimeout c s = _
  simp only [execZeroWindowTimeout, hchan, hopen, hwindow, and_self, if_true]

theorem exec_syncPingTimer_due (hchan : s.chan c = some x) (hclosed : x.state ≠ .opened)
    (hfree : x.quarantined = false) :
    exec (.syncPingTimer c) s = .next (s.transmitUnseq c ltPing flSync (zeros 8 ++ leBytes 8 s.uptimeNs)) := by
  change execSyncPingTimer c s = _
  simp only [execSyncPingTimer, hchan]
  rw [if_pos ⟨hclosed, by rw [hfree]; rfl⟩]

/-- A command in progress on the channel ends with a result; one on another channel goes on (R259). -/
def State.endOpening (s : State) (c : Nat) (st : Status) : State :=
  if s.hwk.opening = some c then { s with hwk := { s.hwk with opening := none, result := st } } else s

theorem endOpening_eq {st : Status} : ∃ opening result, s.endOpening c st =
      { s with hwk := { s.hwk with opening := opening, result := result } } ∧
    (s.hwk.opening = some c → opening = none ∧ result = st) ∧
    (s.hwk.opening ≠ some c → opening = s.hwk.opening ∧ result = s.hwk.result) := by
  unfold State.endOpening
  split
  next hopening => exact ⟨_, _, rfl, fun _ => ⟨rfl, rfl⟩, fun h => absurd hopening h⟩
  next hother => exact ⟨s.hwk.opening, s.hwk.result, rfl, fun h => absurd h hother, fun _ => ⟨rfl, rfl⟩⟩

theorem exec_syncTimeout_unanswered (hchan : s.chan c = some x) (hsync : x.state = .synchronising)
    (hfree : x.quarantined = false) : exec (.syncTimeout c) s =
      .next ((s.setChan c { x with state := .unreachable }).endOpening c stPeerUnreachable) := by
  change execSyncTimeout c s = _
  simp only [execSyncTimeout, hchan]
  rw [if_pos ⟨hsync, by rw [hfree]; rfl⟩, State.endOpening]
  split <;> rfl

theorem exec_epochQuarantineEnd_quarantined (hchan : s.chan c = some x) (hquarantine : x.quarantined = true) :
    exec (.epochQuarantineEnd c) s = .next ((s.setChan c { x with
      quarantined := false, epochTicks := tabSet x.epochTicks x.epoch.toNat s.sys.tick }).transmitUnseq c ltPing flSync
        (zeros 8 ++ leBytes 8 s.uptimeNs)) := by
  change execEpochQuarantineEnd c s = _
  simp only [execEpochQuarantineEnd, hchan]
  rw [if_pos hquarantine]
  rfl

theorem exec_putackTimeout_overdue {xid : Word} (hchan : s.chan c = some x)
    (htagged : (x.exchanges.any fun e => e.mine && e.xid == xid.toNat && e.tagged) = true) :
    exec (.putackTimeout c xid) s = .next (s.resetChan c) := by
  change execPutackTimeout c xid s = _
  simp only [execPutackTimeout, hchan, htagged, if_true]

/-! ## The head of a channel's queue (R251, R263) -/

theorem useCredit_eq {id : Option Nat} {n : Nat} : ∃ dsp, (s.useCredit id n).2 = { s with dsp := dsp } := by
  unfold State.useCredit
  split
  · exact ⟨s.dsp, rfl⟩
  · exact ⟨_, rfl⟩

theorem foldl_chargeWeir_eq {n : Nat} {ws : List Weir} :
    ∃ weirs, ws.foldl (fun s w => s.chargeWeir w n) s = { s with hwk := { s.hwk with weirs := weirs } } := by
  induction ws generalizing s with
  | nil => exact ⟨s.hwk.weirs, rfl⟩
  | cons w ws ih =>
    obtain ⟨weirs, hrest⟩ := ih (s := s.chargeWeir w n)
    exact ⟨weirs, hrest⟩

/-- A head that may leave is the channel's newest packet on the way; it moves besides the dispatcher's credit, the weirs
and the port alone. -/
theorem sendHead_eq {p : TxPacket} {rest : List TxPacket} (hchan : s.chan c = some x) (hunsent : x.unsent = p :: rest)
    (hleaves : s.headMayLeave c x p = true) : ∃ dsp weirs, PortsOnly
      ({ s with dsp := dsp, hwk := { s.hwk with weirs := weirs } }.setChan c
        { x with unsent := rest, sent := x.sent ++ [{ p with sends := 1 }], ackOwed := false }) (s.sendHead c) := by
  obtain ⟨dsp, hcredit⟩ := useCredit_eq (s := s) (id := x.itemOf p) (n := s.wireBytes x p.body.length)
  obtain ⟨weirs, hcharge⟩ := foldl_chargeWeir_eq (s := { s with dsp := dsp })
    (n := (s.useCredit (x.itemOf p) (s.wireBytes x p.body.length)).1)
    (ws := ({ s with dsp := dsp } : State).weirsOf c p.weir)
  have hsent := transmit_portsOnly (typ := p.typ) (flags := p.flags) (seq := p.seq) (xid := p.xid) (body := p.body)
    (setChan_chan_self (s := { s with dsp := dsp, hwk := { s.hwk with weirs := weirs } }) (c := c)
    (x := { x with unsent := rest, sent := x.sent ++ [{ p with sends := 1 }] }))
  rw [setChan_setChan] at hsent
  simp only [State.sendHead, hchan, hunsent, hleaves, if_true, hcredit, hcharge]
  exact ⟨dsp, weirs, hsent⟩

end

/-- The second part of O38. -/
theorem channelTimersTakeEffect : ChannelTimersTakeEffect := by
  refine ⟨fun _ _ _ => exec_ackTimer_owed, fun _ _ _ _ => exec_retransmitTimeout_again,
    fun _ _ _ _ => exec_retransmitTimeout_ninth, fun _ _ _ hchan hopen hwindow =>
      ⟨exec_zeroWindowProbe_closed hchan hopen hwindow, exec_zeroWindowTimeout_closed hchan hopen hwindow⟩,
    fun _ _ _ => exec_syncPingTimer_due, fun s c x hchan hsync hfree => ?_,
    fun _ _ _ => exec_epochQuarantineEnd_quarantined, fun _ _ _ _ => exec_putackTimeout_overdue,
    fun s c x p rest hchan hunsent hleaves => ?_⟩
  · obtain ⟨opening, result, hend, hown, hother⟩ :=
      endOpening_eq (s := s.setChan c { x with state := .unreachable }) (c := c) (st := stPeerUnreachable)
    rw [exec_syncTimeout_unanswered hchan hsync hfree, hend]
    exact ⟨_, rfl, setChan_chan_self, fun d hd => setChan_chan_ne hd, hown, hother, rfl, rfl⟩
  · obtain ⟨dsp, weirs, ports, out, hsent⟩ := sendHead_eq hchan hunsent hleaves
    refine ⟨s.sendHead c, rfl, ?_⟩
    rw [hsent]
    exact ⟨setChan_chan_self, fun d hd => setChan_chan_ne hd, rfl, rfl, rfl, rfl⟩

/-- Settles O38 by its two parts. -/
theorem channelsTakeCommandsAndTimers : Obligations.ChannelsTakeCommandsAndTimers :=
  ⟨channelCommandsTakeEffect, channelTimersTakeEffect⟩

end Sys2Proof.Machine

/-! PROOFS. Control packets (R254, R260, R262), and the messages of exchanges (R254, R256, R266, R267). -/

namespace Sys2Proof.Machine

/-! ## Packets taken off a channel -/

section
variable {s t : State} {c typ : Nat} {x : Channel} {p : RxPacket}

theorem takeControl_front {rest : List RxPacket} (hchan : s.chan c = some x) (hfront : x.control = p :: rest)
    (htyp : p.typ = typ) : s.takeControl c typ = some (p, x, s.setChan c { x with control := rest }) := by
  simp only [State.takeControl, hchan, hfront, if_pos htyp]

/-- A packet that is taken off an inbox leaves its channel with a shorter inbox, and nothing else changes. -/
theorem takeInbox_eq (htake : s.takeInbox c typ = some (p, x, t)) :
    s.chan c = some x ∧ ∃ rest, t = s.setChan c { x with inbox := rest } := by
  unfold State.takeInbox at htake
  split at htake
  · cases htake
  next y hchan =>
    split at htake
    next q rest _ =>
      split at htake
      · cases htake
        exact ⟨hchan, rest, rfl⟩
      · cases htake
    · cases htake

end

/-! ## CREDIT and PING (R254, R260, R262) -/

section
variable {s : State} {c : Nat} {x : Channel} {p : RxPacket} {rest : List RxPacket}

theorem exec_credit_unasked (hchan : s.chan c = some x) (hfront : x.control = p :: rest) (htyp : p.typ = ltCredit)
    (hack : bit p.flags 3 = false) :
    exec (.credit c) s = .next (s.setChan c { x.acknowledge p.ack p.sack p.window with control := rest }) := by
  change execCredit c s = _
  simp only [execCredit, takeControl_front hchan hfront htyp, setChan_chan_self, setChan_setChan, hack,
    Bool.false_eq_true, if_false]
  rfl

theorem chanOpens_eq (hchan : s.chan c = some x) :
    s.chanOpens c = (s.setChan c { x with state := .opened }).endOpening c stOk := by
  simp only [State.chanOpens, hchan]
  rfl

theorem exec_ping_syncAnswer (hchan : s.chan c = some x) (hfront : x.control = p :: rest) (htyp : p.typ = ltPing)
    (hsync : bit p.flags 4 = true) (hreply : bit (beAt p.body 0 1) 0 = true) (hclosed : x.state ≠ .opened)
    (hfree : x.quarantined = false) (hepoch : p.epoch = x.epoch) :
    exec (.ping c) s = .next ((s.setChan c { x with control := rest, state := .opened }).endOpening c stOk) := by
  have hanswers : x.state ≠ .opened ∧ (!x.quarantined) = true ∧ p.epoch = x.epoch :=
    ⟨hclosed, by rw [hfree]; rfl, hepoch⟩
  change execPing c s = _
  simp only [execPing, takeControl_front hchan hfront htyp, hsync, hreply, if_true, if_pos hanswers,
    chanOpens_eq setChan_chan_self, setChan_setChan]

theorem exec_ping_syncRequest (hchan : s.chan c = some x) (hfront : x.control = p :: rest) (htyp : p.typ = ltPing)
    (hsync : bit p.flags 4 = true) (hreply : bit (beAt p.body 0 1) 0 = false) :
    exec (.ping c) s = .next ((s.setChan c { x with control := rest }).resetChan c) := by
  change execPing c s = _
  simp only [execPing, takeControl_front hchan hfront htyp, hsync, hreply, Bool.false_eq_true, if_true, if_false]

theorem exec_ping_echoed (hchan : s.chan c = some x) (hfront : x.control = p :: rest) (htyp : p.typ = ltPing)
    (hsync : bit p.flags 4 = false) (hreply : bit (beAt p.body 0 1) 0 = false) :
    exec (.ping c) s = .next (((s.setChan c { x with control := rest }).setChan c
      ({ x with control := rest }.acknowledge p.ack p.sack p.window)).transmitUnseq c ltPing 0
      ([1] ++ zeros 7 ++ padTo 8 (slice p.body 8 8))) := by
  change execPing c s = _
  simp only [execPing, takeControl_front hchan hfront htyp, hsync, hreply, Bool.false_eq_true, if_false,
    setChan_chan_self, Option.getD_some]

end

/-- The first part of O39. Where the acknowledgement fields and the PING's echo stand is R254. -/
theorem controlPacketsAreAnswered : ControlPacketsAreAnswered := by
  refine ⟨fun s c x p rest hchan hfront htyp hack => ?_,
    fun s c x p rest hchan hfront htyp hsync hreply hclosed hfree hepoch => ?_,
    fun _ _ _ _ _ => exec_ping_syncRequest, fun _ _ _ _ _ => exec_ping_echoed⟩
  · exact ⟨_, exec_credit_unasked hchan hfront htyp hack, setChan_chan_self, fun d hd => setChan_chan_ne hd,
      rfl, rfl, rfl⟩
  · obtain ⟨opening, result, hend, hown, -⟩ :=
      endOpening_eq (s := s.setChan c { x with control := rest, state := .opened }) (c := c) (st := stOk)
    rw [exec_ping_syncAnswer hchan hfront htyp hsync hreply hclosed hfree hepoch, hend]
    exact ⟨_, rfl, setChan_chan_self, hown, fun d hd => setChan_chan_ne hd, rfl, rfl, rfl⟩

/-! ## A gateway opens an exchange (R266) -/

/-- An item that serves a gateway's packet on a channel. -/
structure Item.Serves (it : Item) (c : Nat) (p : RxPacket) (opcode : Nat) : Prop where
  opcode_eq : it.opcode = opcode
  source : it.source = .headgate c
  tenant : it.tenant = some p.tenant
  cls : it.cls = p.cls
  scratch : it.scratch = p.body

section
variable {s t : State} {c opcode : Nat} {x y : Channel} {p : RxPacket} {kind : ExchangeKind} {desc : List Byte}

theorem netItem_serves : (s.netItem c p opcode desc).Serves c p opcode := by
  unfold State.netItem
  extract_lets it
  split <;> exact ⟨rfl, rfl, rfl, rfl, rfl⟩

theorem netItem_id : (s.netItem c p opcode desc).id = s.dsp.nextItem := by
  unfold State.netItem
  extract_lets it
  split <;> rfl

/-- An enqueued item is found under its number, in another phase. -/
theorem enqueue_found {it : Item} {detail : Nat} : ∃ phase general,
    (s.enqueue it detail).item it.id = some { it with phase := phase, general := general } := by
  rcases Bool.eq_false_or_eq_true it.failed with hfailed | hfailed
  · exact ⟨_, _, enqueue_failed_item hfailed⟩
  · exact ⟨_, _, enqueue_item hfailed⟩

/-- The exchange that a gateway's packet opens, served by an item. -/
def gatewayExchange (p : RxPacket) (kind : ExchangeKind) (item : Nat) : Exchange :=
  { xid := p.xid, mine := false, kind := kind, item := item, weir := p.weir, got := [], tagged := false }

/-- The stream of a first SUBMIT, before any of its data. -/
def submitStream (c : Nat) (p : RxPacket) (item : Nat) : SubmitStream :=
  { item := item, chan := c, xid := p.xid, received := 0, data := [], ended := bit p.flags 1 }

/-- The state in which a gateway's exchange is open on a channel and its item has a number. -/
def State.gatewayOpened (s : State) (c : Nat) (y : Channel) (p : RxPacket) (kind : ExchangeKind) (opcode : Nat) :
    State :=
  let t := s.setChan c { y with exchanges := y.exchanges ++ [gatewayExchange p kind s.dsp.nextItem] }
  let u := { t with dsp := { t.dsp with nextItem := t.dsp.nextItem + 1, consumed := t.dsp.consumed + 1 } }
  if opcode = 0x0201 then { u with obj := { u.obj with
    submits := u.obj.submits ++ [submitStream c p s.dsp.nextItem] } }
  else u

theorem gatewayOpened_submits :
    (s.gatewayOpened c y p kind 0x0201).obj.submits = s.obj.submits ++ [submitStream c p s.dsp.nextItem] := rfl

theorem openGateway_eq (hchan : s.chan c = some y) (hnew : (x.exchanges.all fun e => e.mine || e.xid != p.xid) = true)
    (hroom : (x.exchanges.filter fun e => !e.mine).length < 64) : s.openGateway c x p kind opcode desc =
      (s.gatewayOpened c y p kind opcode).enqueue (s.netItem c p opcode desc) 0x00 := by
  have hfresh : ((x.exchanges.filter fun e => !e.mine).any (·.xid == p.xid)) = false := by
    simp only [List.all_eq_true, Bool.or_eq_true, bne_iff_ne] at hnew
    simp only [List.any_filter, List.any_eq_false, Bool.and_eq_true, Bool.not_eq_true', beq_iff_eq, not_and]
    exact fun e he htheirs => (hnew e he).resolve_left (by simp [htheirs])
  simp only [State.openGateway, hfresh, Bool.false_eq_true, if_false, if_neg (Nat.not_le.mpr hroom), netItem_id, hchan]
  rfl

/-- What an open exchange and its enqueued item leave behind. -/
structure GatewayOpens (s t : State) (c : Nat) (y : Channel) (p : RxPacket) (kind : ExchangeKind) (opcode : Nat) :
    Prop where
  item : ∃ it, t.item s.dsp.nextItem = some it ∧ it.Serves c p opcode
  chan : t.chan c = some { y with exchanges := y.exchanges ++ [gatewayExchange p kind s.dsp.nextItem] }
  submits : t.obj.submits = (s.gatewayOpened c y p kind opcode).obj.submits
  nextItem : t.dsp.nextItem = s.dsp.nextItem + 1
  regs : t.regs = s.regs
  cells : t.mem.cells = s.mem.cells

theorem openGateway_opens (hchan : s.chan c = some y)
    (hnew : (x.exchanges.all fun e => e.mine || e.xid != p.xid) = true)
    (hroom : (x.exchanges.filter fun e => !e.mine).length < 64) :
    GatewayOpens s (s.openGateway c x p kind opcode desc) c y p kind opcode := by
  have hopened : (s.gatewayOpened c y p kind opcode).chan c = some { y with
        exchanges := y.exchanges ++ [gatewayExchange p kind s.dsp.nextItem] } ∧
      (s.gatewayOpened c y p kind opcode).dsp.nextItem = s.dsp.nextItem + 1 ∧
      (s.gatewayOpened c y p kind opcode).regs = s.regs ∧
      (s.gatewayOpened c y p kind opcode).mem = s.mem := by
    unfold State.gatewayOpened
    extract_lets t u
    split <;> exact ⟨setChan_chan_self, rfl, rfl, rfl⟩
  obtain ⟨hexchange, hnext, hregs, hmem⟩ := hopened
  rw [openGateway_eq hchan hnew hroom]
  have hframe := enqueue_frame (s := s.gatewayOpened c y p kind opcode) (it := s.netItem c p opcode desc)
    (detail := 0x00)
  obtain ⟨phase, general, hfound⟩ := enqueue_found (s := s.gatewayOpened c y p kind opcode)
    (it := s.netItem c p opcode desc) (detail := 0x00)
  obtain ⟨_, _, _, henqueue⟩ := enqueue_eq (s := s.gatewayOpened c y p kind opcode)
    (it := s.netItem c p opcode desc) (detail := 0x00)
  obtain ⟨hopcode, hsource, htenant, hcls, hscratch⟩ := netItem_serves (s := s) (c := c) (p := p) (opcode := opcode)
    (desc := desc)
  rw [netItem_id] at hfound
  exact {
    item := ⟨_, hfound, hopcode, hsource, htenant, hcls, hscratch⟩
    chan := (hframe.chan c).trans hexchange
    submits := by rw [henqueue]
    nextItem := hframe.nextItem.trans hnext
    regs := hframe.regs.trans hregs
    cells := hframe.cells.trans (congrArg MemState.cells hmem) }

/-! ## SUBMIT and RETRIEVE (R254, R266) -/

/-- No stream of an exchange that has just been opened by a packet without LAST has ended. -/
theorem find_ended_none {submits : List SubmitStream} {item : Nat} (hlast : bit p.flags 1 = false)
    (hother : (submits.all fun z => !(z.chan == c && z.xid == p.xid)) = true) :
    ((submits ++ [submitStream c p item]).find? fun z => z.chan == c && z.xid == p.xid && z.ended) = none := by
  simp only [List.all_eq_true, Bool.not_eq_true'] at hother
  simp only [List.find?_eq_none, List.mem_append, List.mem_singleton]
  rintro z (hz | rfl)
  · simp [hother z hz]
  · simp [submitStream, hlast]

theorem exec_submit_first (htake : s.takeInbox c ltSubmit = some (p, x, t)) (hfirst : bit p.flags 0 = true)
    (hlast : bit p.flags 1 = false) (hchan : t.chan c = some y)
    (hnew : (x.exchanges.all fun e => e.mine || e.xid != p.xid) = true)
    (hroom : (x.exchanges.filter fun e => !e.mine).length < 64)
    (hother : (t.obj.submits.all fun z => !(z.chan == c && z.xid == p.xid)) = true) :
    exec (.submit c) s = .next (t.openGateway c x p .submit 0x0201
      (leBytes 2 0x0201 ++ [0] ++ leBytes 1 p.cls ++ zeros 60)) := by
  change execSubmit c s = _
  simp only [execSubmit, htake, hfirst, if_true]
  rw [(openGateway_opens hchan hnew hroom).submits, gatewayOpened_submits, find_ended_none hlast hother]

theorem exec_submit_more {e : Exchange} {st : SubmitStream} (htake : s.takeInbox c ltSubmit = some (p, x, t))
    (hmore : bit p.flags 0 = false)
    (hexchange : x.exchanges.find? (fun e => e.xid == p.xid && !e.mine && e.kind == .submit) = some e)
    (hstream : t.obj.submits.find? (·.item == e.item) = some st) :
    exec (.submit c) s = .next (t.submitData c p st) := by
  change execSubmit c s = _
  simp only [execSubmit, htake, hmore, Bool.false_eq_true, if_false, hexchange, hstream]

/-- Data at the offset that a stream has reached, within the chunk and the object, joins the stream. -/
theorem submitData_joins {it : Item} {st : SubmitStream} (hitem : s.item st.item = some it) (hchan : s.chan c = some y)
    (hstage : it.stage ≠ 1) (hended : st.ended = false) (hoff : leAt p.body 0 8 = st.received)
    (hdata : p.body.drop 8 ≠ []) (hchunk : (p.body.drop 8).length ≤ y.chunk)
    (hfits : st.received + (p.body.drop 8).length ≤ leAt it.scratch 16 8)
    (hlast : bit p.flags 1 = true → st.received + (p.body.drop 8).length = leAt it.scratch 16 8) :
    s.submitData c p st = { s with obj := { s.obj with
      submits := s.obj.submits.map fun z => if z.item = st.item then
        { st with received := st.received + (p.body.drop 8).length, data := st.data ++ p.body.drop 8
                  ended := bit p.flags 1 } else z } } := by
  simp only [State.submitData, hitem, hchan, Option.map_some, Option.getD_some]
  rw [if_neg, if_neg hstage]
  rintro (h | h | h | h | ⟨h, hne⟩ | h)
  · exact h hoff
  · exact hdata h
  · exact Nat.not_lt.mpr hchunk h
  · exact Nat.not_lt.mpr hfits h
  · exact hne (hlast h)
  · rw [hended] at h
    cases h

theorem exec_retrieve_opens (htake : s.takeInbox c ltRetrieve = some (p, x, t)) :
    exec (.retrieve c) s = .next (t.openGateway c x p .retrieve 0x0202
      (leBytes 2 0x0202 ++ [0] ++ leBytes 1 p.cls ++ zeros 28 ++ padTo 8 (p.body.take 8) ++ zeros 24)) := by
  change execRetrieve c s = _
  simp only [execRetrieve, htake]

end

/-! ## The end of an exchange -/

section
variable {s t : State} {c : Nat} {x y : Channel} {p : RxPacket} {e : Exchange}

theorem closeExchange_eq {xid : Nat} {mine : Bool} : ∃ chans, s.closeExchange c xid mine =
    { s with hwk := { s.hwk with chans := chans } } := by
  unfold State.closeExchange
  split
  · exact ⟨s.hwk.chans, rfl⟩
  · exact ⟨_, rfl⟩

@[simp] theorem closeExchange_obj {xid : Nat} {mine : Bool} : (s.closeExchange c xid mine).obj = s.obj := by
  obtain ⟨_, hclose⟩ := closeExchange_eq (s := s) (c := c) (xid := xid) (mine := mine)
  rw [hclose]

theorem closeExchange_exchanges {xid : Nat} {mine : Bool} : ((s.closeExchange c xid mine).chan c).map (·.exchanges) =
    (s.chan c).map (fun y => y.exchanges.filter fun e => !(e.xid == xid && e.mine == mine)) := by
  unfold State.closeExchange
  split
  next hnone => rw [hnone]; rfl
  next z hchan => rw [hchan, setChan_chan_self]; rfl

/-! ## FRAG_PUT_ACK (R266) -/

theorem endWait_eq {id : Nat} : ∃ dsp, s.endWait id = { s with dsp := dsp } := by
  unfold State.endWait
  split
  · exact ⟨s.dsp, rfl⟩
  · split
    · exact ⟨_, rfl⟩
    · exact ⟨s.dsp, rfl⟩

/-- The state in which a fragment of an item is durable. -/
def State.settled (s : State) (item j : Nat) : State :=
  { s with obj := { s.obj with
    seals := s.obj.seals.map fun r => if r.item = item then { r with unacked := r.unacked.erase j } else r
    repairs := s.obj.repairs.map fun r => if r.item = item then { r with unacked := r.unacked.erase j } else r } }

theorem exec_fragPutAck_settles {j : Nat} (htake : s.takeInbox c ltFragPutAck = some (p, x, t))
    (hmine : x.mine p.xid = some e) (hput : e.kind = .put j) :
    ∃ dsp, exec (.fragPutAck c) s = .next { (t.closeExchange c p.xid true).settled e.item j with dsp := dsp } := by
  obtain ⟨dsp, hwait⟩ := endWait_eq (s := (t.closeExchange c p.xid true).settled e.item j) (id := e.item)
  change ∃ dsp, execFragPutAck c s = _
  simp only [execFragPutAck, htake, hmine, hput]
  split
  · exact ⟨dsp, congrArg Host.Outcome.next hwait⟩
  · exact ⟨(t.closeExchange c p.xid true).dsp, rfl⟩

/-! ## FRAG_DATA (R256) -/

/-- The state in which the exchange of the device with this XID has got these bytes. -/
def State.extendGot (s : State) (c xid : Nat) (y : Channel) (got : List Byte) : State :=
  s.setChan c { y with exchanges := y.exchanges.map fun z => if z.mine ∧ z.xid = xid then { z with got := got } else z }

section
variable {j off len : Nat} {r : OpenRun}

theorem exec_fragData_record (htake : s.takeInbox c ltFragData = some (p, x, t)) (hmine : x.mine p.xid = some e)
    (hget : e.kind = .get j off len) : exec (.fragData c) s = .next (t.fragDataRecord c p e j off len) := by
  change execFragData c s = _
  simp only [execFragData, htake, hmine, hget]

/-- A record of an open's fragment that follows the data so far and does not pass the end of its range: it ends the
range, breaks the stream off, or extends what the exchange has got. -/
theorem fragDataRecord_in_order (hchan : s.chan c = some y) (hopen : s.obj.opens.find? (·.item == e.item) = some r)
    (hnames : recordNames p.body r.manifest j = true) (hnext : 64 * (leAt p.body 24 5 % 2 ^ 35) = off + e.got.length)
    (hdata : (slice p.body 32 (64 * leAt p.body 29 2)).length = 64 * leAt p.body 29 2)
    (hfits : e.got.length + 64 * leAt p.body 29 2 ≤ len) : s.fragDataRecord c p e j off len =
      if e.got.length + 64 * leAt p.body 29 2 = len then
        (s.closeExchange c e.xid true).openData r j off (e.got ++ slice p.body 32 (64 * leAt p.body 29 2))
      else if bit p.flags 1 then (s.closeExchange c e.xid true).fragMissing e.item j
      else s.extendGot c e.xid y (e.got ++ slice p.body 32 (64 * leAt p.body 29 2)) := by
  have hordered : ¬ (64 * (leAt p.body 24 5 % 2 ^ 35) ≠ off + e.got.length ∨
      (slice p.body 32 (64 * leAt p.body 29 2)).length ≠ 64 * leAt p.body 29 2 ∨
      len < e.got.length + 64 * leAt p.body 29 2) := by
    rintro (h | h | h)
    · exact h hnext
    · exact h hdata
    · exact Nat.not_lt.mpr hfits h
  simp only [State.fragDataRecord, hopen, Option.map_some, Option.orElse_eq_orElse, Option.orElse_some,
    Option.getD_some, hnames, Bool.not_true, Bool.false_eq_true, if_false, if_neg hordered]
  simp only [List.length_append, hdata, closeExchange_obj, hopen, hchan]
  rfl

end

/-! ## NACK (R267) -/

theorem exec_nack_get {j off len : Nat} (htake : s.takeInbox c ltNack = some (p, x, t)) (hmine : x.mine p.xid = some e)
    (hget : e.kind = .get j off len) :
    exec (.nack c) s = .next ((t.closeExchange c p.xid true).fragMissing e.item j) := by
  change execNack c s = _
  simp only [execNack, htake, hmine, hget]

theorem exec_nack_put {j : Nat} (htake : s.takeInbox c ltNack = some (p, x, t)) (hmine : x.mine p.xid = some e)
    (hput : e.kind = .put j) : exec (.nack c) s = .next (t.resetChan c) := by
  change execNack c s = _
  simp only [execNack, htake, hmine, hput]

end

/-- The second part of O39. That SUBMIT data stand behind their offset is R254. -/
theorem exchangesTakeTheirMessages : ExchangesTakeTheirMessages := by
  refine ⟨?submitFirst, ?submitMore, ?retrieve, ?fragPutAck, ?fragDataPart, ?fragDataWhole, ?nack⟩
  case submitFirst =>
    intro s s' c x y p htake hfirst hlast hchan hnew hroom hother
    obtain ⟨-, rest, rfl⟩ := takeInbox_eq htake
    obtain ⟨⟨it, hitem, hopcode, hsource, htenant, hcls, hscratch⟩, hexchange, hsubmits, hnext, hregs, hcells⟩ :=
      openGateway_opens (kind := .submit) (opcode := 0x0201)
        (desc := leBytes 2 0x0201 ++ [0] ++ leBytes 1 p.cls ++ zeros 60) hchan hnew hroom
    exact ⟨_, it, exec_submit_first htake hfirst hlast hchan hnew hroom hother, hitem, hopcode, hsource, htenant, hcls,
      hscratch, hexchange, hsubmits.trans (by rw [gatewayOpened_submits, submitStream, hlast]; rfl), hnext, hregs,
      hcells⟩
  case submitMore =>
    intro s s' c x p e st it htake hmore hexchange hstream hitem hstage hended hoff hdata hchunk hfits hlast
    obtain ⟨-, rest, rfl⟩ := takeInbox_eq htake
    rw [exec_submit_more htake hmore hexchange hstream,
      submitData_joins (s := s.setChan c { x with inbox := rest }) hitem setChan_chan_self hstage hended hoff hdata
        hchunk hfits hlast]
  case retrieve =>
    intro s s' c x y p htake hchan hnew hroom
    obtain ⟨-, rest, rfl⟩ := takeInbox_eq htake
    obtain ⟨⟨it, hitem, hopcode, hsource, htenant, hcls, hscratch⟩, hexchange, hsubmits, hnext, hregs, -⟩ :=
      openGateway_opens (kind := .retrieve) (opcode := 0x0202)
        (desc := leBytes 2 0x0202 ++ [0] ++ leBytes 1 p.cls ++ zeros 28 ++ padTo 8 (p.body.take 8) ++ zeros 24)
        hchan hnew hroom
    exact ⟨_, it, exec_retrieve_opens htake, hitem, hopcode, hsource, htenant, hcls, hscratch, hexchange, hsubmits,
      hnext, hregs⟩
  case fragPutAck =>
    intro s s' c j x p e htake hmine hput
    obtain ⟨-, rest, rfl⟩ := takeInbox_eq htake
    obtain ⟨dsp, hexec⟩ := exec_fragPutAck_settles htake hmine hput
    have hexchanges := closeExchange_exchanges (s := s.setChan c { x with inbox := rest }) (c := c) (xid := p.xid)
      (mine := true)
    obtain ⟨chans, hclose⟩ := closeExchange_eq (s := s.setChan c { x with inbox := rest }) (c := c) (xid := p.xid)
      (mine := true)
    rw [hclose] at hexec hexchanges
    exact ⟨_, hexec, rfl, rfl, rfl, hexchanges, rfl, rfl⟩
  case fragDataPart =>
    intro s s' c j off len x y p e r htake hchan hmine hget hopen hnames hnext hdata hpart hmore
    obtain ⟨-, rest, rfl⟩ := takeInbox_eq htake
    rw [exec_fragData_record htake hmine hget,
      fragDataRecord_in_order hchan hopen hnames hnext hdata (Nat.le_of_lt hpart), if_neg (Nat.ne_of_lt hpart),
      if_neg (ne_true_of_eq_false hmore)]
    rfl
  case fragDataWhole =>
    intro s s' c j off len x p e r htake hmine hget hopen hnames hnext hdata hwhole
    obtain ⟨-, rest, rfl⟩ := takeInbox_eq htake
    rw [exec_fragData_record htake hmine hget,
      fragDataRecord_in_order setChan_chan_self hopen hnames hnext hdata (Nat.le_of_eq hwhole), if_pos hwhole]
  case nack =>
    intro s s' c x p e htake hmine
    exact ⟨fun j off len => exec_nack_get htake hmine, fun j => exec_nack_put htake hmine⟩

/-- Settles O39 by its two parts. -/
theorem channelMessagesTakeEffect : Obligations.ChannelMessagesTakeEffect :=
  ⟨controlPacketsAreAnswered, exchangesTakeTheirMessages⟩

end Sys2Proof.Machine

/-! PROOFS. Public-key items (R280 to R286, R293, R296): their validation windows, the jobs of their engines, and what
they deliver. -/

namespace Sys2Proof.Machine

section
variable {s t : State} {it : Item} {op : Nat} {w : PkWork}

/-! ## Works and the count of refusals in the frame of an item's end -/

theorem ItemFrame.work (h : ItemFrame s t) : t.pke.work = s.pke.work := by
  have hwork := congrArg PkeState.work h.pke
  exact hwork

theorem ItemFrame.valFail (h : ItemFrame s t) : t.pke.valFail = s.pke.valFail := by
  have hvalFail := congrArg PkeState.valFail h.pke
  exact hvalFail

/-! ## The windows of PK_SIGN, PK_VERIFY and PK_AGREE open (R285, R296) -/

theorem pkStart_opens {e f n : Nat} (hrun : s.Runs it op) (hclaimed : it.claimed = true) (hnew : s.workOf it.id = none)
    (hlengths : s.pkLengths it (s.keyAlg it.key) = none) (hcistern : it.claim.cistern = some (e, f, n)) :
    s.pkStart it.id op = s.openWindow it e := by
  have hop : it.opcode = op := hrun.2.2
  rw [State.pkStart, onRunning_eq hrun, if_neg (by simp [hop, hclaimed]), hnew]
  dsimp only
  rw [hlengths]
  dsimp only
  rw [hcistern]

theorem pkStart_resumed (hrun : s.Runs it op) (hclaimed : it.claimed = true) (hwork : s.workOf it.id = some w)
    (hcomplete : w.stage = .complete) : s.pkStart it.id op = s.pkDeliver it w := by
  have hop : it.opcode = op := hrun.2.2
  rw [State.pkStart, onRunning_eq hrun, if_neg (by simp [hop, hclaimed]), hwork]
  exact if_pos hcomplete

/-! ## Delivery (R295) -/

theorem pkDeliver_written (hstatus : w.status = stOk) (hop : it.opcode ≠ 0x0303) :
    s.pkDeliver it w = ((s.dropWork it.id).writeOut it.id (it.le 32 8) w.out).complete it.id stOk
      (leBytes 8 w.out.length ++ pkRest [] 0 w.engine w.jobs 0) := by
  simp only [State.pkDeliver, hstatus, hop, ne_eq, not_true_eq_false, if_false]

/-- A running item that writes output and completes with ST_OK: its record, its output on the way to the host, and the
rest of the device as it was. -/
theorem complete_writeOut_delivers {iova : Nat} {bytes body : List Byte} (hrun : s.Runs it op) :
    ((s.writeOut it.id iova bytes).complete it.id stOk body).Completed it.id stOk body ∧
    (bytes ≠ [] → .host { fn := it.fn, iova := BitVec.ofNat 64 iova, bytes := bytes } ∈
      ((s.writeOut it.id iova bytes).complete it.id stOk body).out) ∧
    ItemFrame s ((s.writeOut it.id iova bytes).complete it.id stOk body) := by
  obtain ⟨written, hwritten⟩ := writeOut_runs (iova := iova) (bytes := bytes) hrun
  refine ⟨complete_completed (it := { it with written := written }) hwritten (.inr rfl), fun hbytes => finish_out ?_,
    writeOut_frame.trans complete_frame⟩
  rw [writeOut_out hrun.1 hbytes]
  exact List.mem_cons_self

/-- The first part of O40. -/
theorem publicKeyItemsOpenTheirWindow : PublicKeyItemsOpenTheirWindow := by
  refine ⟨fun s it op e f n _ hrun hclaimed hnew hlengths hcistern => ?_,
    fun s it w hrun hclaimed hwork hcomplete hstatus => ?_⟩
  · have hopens := pkStart_opens hrun hclaimed hnew hlengths hcistern
    exact ⟨s.openWindow it e, fun hsign => congrArg Host.Outcome.next (hsign ▸ hopens),
      fun hverify => congrArg Host.Outcome.next (hverify ▸ hopens),
      fun hagree => congrArg Host.Outcome.next (hagree ▸ hopens), rfl⟩
  · have hop : it.opcode = 0x0301 := hrun.2.2
    have hdelivered := (pkStart_resumed hrun hclaimed hwork hcomplete).trans
      (pkDeliver_written hstatus (by rw [hop]; decide))
    obtain ⟨hended, hout, hframe⟩ := complete_writeOut_delivers (s := s.dropWork it.id) (iova := it.le 32 8)
      (bytes := w.out) (body := leBytes 8 w.out.length ++ pkRest [] 0 w.engine w.jobs 0) hrun
    exact ⟨_, congrArg Host.Outcome.next hdelivered, hended, hout, hframe.work, hframe.regs, hframe.qps, hframe.cells⟩

/-! ## The windows end (R285) -/

/-- An input that is refused ends its item and is counted in VAL_FAIL. -/
theorem refuseInput_ends {st : Status} (hrun : s.Runs it op) (hop : op ≠ 0x0201) :
    (s.refuseInput it.id st).Completed it.id st [] ∧ (s.refuseInput it.id st).pke.valFail = s.pke.valFail + 1 ∧
      (s.refuseInput it.id st).pke.work = s.pke.work.filter (·.item != it.id) ∧
      (s.refuseInput it.id st).regs = s.regs ∧ (s.refuseInput it.id st).qps = s.qps ∧
      (s.refuseInput it.id st).mem.cells = s.mem.cells := by
  obtain ⟨hended, hframe⟩ := failItem_ends (st := st) (s := { s.dropWork it.id with
    pke := { (s.dropWork it.id).pke with valFail := (s.dropWork it.id).pke.valFail + 1 } }) hrun hop
  exact ⟨hended, hframe.valFail, hframe.work, hframe.regs, hframe.qps, hframe.cells⟩

/-- How an import's window ends, with its material or with the status that refuses it (R154, R285). -/
def State.importWindowEnds (s : State) (it : Item) : Except Status (List Byte) → State
  | .error st => (s.dropWork it.id).failItem it.id st
  | .ok m => match importValid it.keySpec.alg (it.keySpec.format == 1) m with
    | some st => s.refuseInput it.id st
    | none => (s.dropWork it.id).finishImport it m

section
variable (hrun : s.Runs it op) (hwork : s.workOf it.id = some w) (hwindow : w.stage = .window)
include hrun hwork hwindow

section
variable {a b : List Byte} (hop : it.opcode ≠ 0x0502) (hinputs : s.pkInputs it (s.keyAlg it.key) = some (a, b))
include hop hinputs

theorem exec_pkValidationWindowEnd_starts {n : Nat}
    (hvalid : pkValidate it.opcode it.pkScheme (s.keyAlg it.key)
      (publicPart (s.keyAlg it.key) ((it.held it.key).any (·.pubOnly)) (it.material it.key)) a b = none)
    (hcycles : pkCycles it.opcode (s.keyAlg it.key) ((s.pkeEntry w.engine).any (·.fused)) = some n) :
    exec (.pkValidationWindowEnd it.id) s = .next ((s.pkResult it (s.keyAlg it.key) a b).2.2.startWork it
      { w with status := (s.pkResult it (s.keyAlg it.key) a b).1, out := (s.pkResult it (s.keyAlg it.key) a b).2.1,
               cycles := n } (pkLong it.opcode (s.keyAlg it.key))) := by
  change execPkValidationWindowEnd it.id s = _
  simp only [execPkValidationWindowEnd, onRunning_eq hrun, hwork, hwindow, hop, hinputs, hvalid, hcycles, ne_eq,
    not_true_eq_false, if_false]

theorem exec_pkValidationWindowEnd_refuses {st : Status}
    (hinvalid : pkValidate it.opcode it.pkScheme (s.keyAlg it.key)
      (publicPart (s.keyAlg it.key) ((it.held it.key).any (·.pubOnly)) (it.material it.key)) a b = some st) :
    exec (.pkValidationWindowEnd it.id) s = .next (s.refuseInput it.id st) := by
  change execPkValidationWindowEnd it.id s = _
  simp only [execPkValidationWindowEnd, onRunning_eq hrun, hwork, hwindow, hop, hinputs, hinvalid, ne_eq,
    not_true_eq_false, if_false]

end

theorem exec_pkValidationWindowEnd_import {blob : List Byte} (hop : it.opcode = 0x0502)
    (hblob : it.hostBytes (it.le 40 8) (it.le 32 4) = some blob) :
    exec (.pkValidationWindowEnd it.id) s = .next (s.importWindowEnds it (s.importMaterial it blob)) := by
  change execPkValidationWindowEnd it.id s = _
  simp only [execPkValidationWindowEnd, onRunning_eq hrun, hwork, hwindow, hop, hblob, ne_eq, not_true_eq_false,
    if_false, if_true]
  cases s.importMaterial it blob <;> rfl

end

/-- The second part of O40. -/
theorem validationWindowsEnd : ValidationWindowsEnd := by
  refine ⟨fun s it w a b r n hrun hop hwork hwindow hinputs hvalid hr hcycles => ?_,
    fun s it w a b st hrun hop hseal hwork hwindow hinputs hinvalid => ?_,
    fun s it w blob hrun hwork hwindow hblob => ?_⟩
  · rw [hr]
    exact exec_pkValidationWindowEnd_starts hrun hwork hwindow hop hinputs hvalid hcycles
  · exact ⟨_, exec_pkValidationWindowEnd_refuses hrun hwork hwindow hop hinputs hinvalid, refuseInput_ends hrun hseal⟩
  · refine ⟨_, exec_pkValidationWindowEnd_import hrun hwork hwindow hrun.2.2 hblob, fun st hmaterial => ?_,
      fun m st hmaterial hinvalid => ?_, fun m hmaterial hvalid => ?_⟩
    · rw [hmaterial]
      exact failItem_completed (s := s.dropWork it.id) hrun (.inl (by decide))
    · obtain ⟨hended, hcounted, -⟩ := refuseInput_ends (st := st) hrun (by decide)
      rw [hmaterial, State.importWindowEnds, hinvalid]
      exact ⟨hended, hcounted⟩
    · rw [hmaterial, State.importWindowEnds, hvalid]

/-! ## The jobs of an engine (R280 to R283), and its end check (R286) -/

@[simp] theorem modifyEngine_workOf {e id : Nat} {f : PkEngine → PkEngine} :
    (s.modifyEngine e f).workOf id = s.workOf id := rfl

section
variable {e : Nat} {k : PkEngine} {j : PkJob} (hengine : s.pke.engines[e]? = some k) (hjob : k.running = some j)
include hengine hjob

section
variable (hwork : s.workOf j.item = some w) (hitem : s.item j.item = some it)
include hwork hitem

theorem exec_pkJobComplete_long (hlong : j.long = true) : exec (.pkJobComplete e) s =
    .next (((jobDone s e j).setWork { w with jobs := w.jobs + 1, stage := .complete }).endWait it.id) := by
  change execPkJobComplete e s = _
  simp only [execPkJobComplete, hengine, Option.bind_some, hjob, modifyEngine_workOf, State.modifyEngine_item, hwork,
    hitem, hlong, if_true]
  rfl

section
variable (hshort : j.long = false) (hop : it.opcode ≠ 0x0304)
include hshort hop

theorem exec_pkJobComplete_more (hleft : j.cycles < w.cycles) : exec (.pkJobComplete e) s =
    .next (((jobDone s e j).setWork { w with jobs := w.jobs + 1, cycles := w.cycles - j.cycles }).queueJob e
      { item := it.id, long := false, cycles := min (w.cycles - j.cycles) 160000 }) := by
  change execPkJobComplete e s = _
  simp only [execPkJobComplete, hengine, Option.bind_some, hjob, modifyEngine_workOf, State.modifyEngine_item, hwork,
    hitem, hshort, Bool.false_eq_true, if_false, if_neg hop, if_pos (Nat.sub_ne_zero_of_lt hleft)]
  rfl

theorem exec_pkJobComplete_last (hdone : w.cycles ≤ j.cycles) : exec (.pkJobComplete e) s =
    .next ((jobDone s e j).pkDeliver it { w with jobs := w.jobs + 1 }) := by
  change execPkJobComplete e s = _
  simp only [execPkJobComplete, hengine, Option.bind_some, hjob, modifyEngine_workOf, State.modifyEngine_item, hwork,
    hitem, hshort, Bool.false_eq_true, if_false, if_neg hop, Nat.sub_eq_zero_of_le hdone, ne_eq, not_true_eq_false]
  rfl

end

end

theorem exec_pkYieldPoint_parks (hlong : j.long = true) (hwaiting : k.shortQ ≠ []) : exec (.pkYieldPoint e) s =
    .next (s.modifyEngine e fun k => PkEngine.pick
      { k with running := none, parked := some j, ahead := k.shortQ.map PkJob.item, parks := k.parks + 1 }) := by
  change execPkYieldPoint e s = _
  simp only [execPkYieldPoint, hengine, hjob, if_pos (And.intro hlong hwaiting)]

theorem exec_pkEndCheckFail_fails {kind : BitVec 4} (hfree : k.fenced = false) (hwhole : s.oddFused e = false)
    (hkept : s.pke.erased = false) (hitem : s.item j.item = some it) :
    exec (.pkEndCheckFail e kind) s = .next ({ (s.dropWork it.id).failItem it.id stFaultDetected with
      pke := { ((s.dropWork it.id).failItem it.id stFaultDetected).pke with
        faults := ((s.dropWork it.id).failItem it.id stFaultDetected).pke.faults + 1
        mmEngine := e
        mmKind := kind
        mmTenant := it.tenant.getD 0
        mmTick := ((s.dropWork it.id).failItem it.id stFaultDetected).sys.tick } }.raiseEvents
          [unitEvent 0x6 (40 + e) it.tenant]) := by
  have hruns : ¬ (k.fenced = true ∨ s.oddFused e = true ∨ s.pke.erased = true) := by simp [hfree, hwhole, hkept]
  change execPkEndCheckFail e kind s = _
  simp only [execPkEndCheckFail, hengine, if_neg hruns, hjob, Option.bind_some, hitem]

end

/-- The third part of O40. -/
theorem jobsCompleteAndYield : JobsCompleteAndYield :=
  ⟨fun _ _ _ _ _ _ hengine hjob hwork hitem _ => exec_pkJobComplete_long hengine hjob hwork hitem,
    fun _ _ _ _ _ _ => exec_pkJobComplete_more, fun _ _ _ _ _ _ => exec_pkJobComplete_last,
    fun _ _ _ _ => exec_pkYieldPoint_parks,
    fun _ _ _ _ _ _ hengine hfree hwhole hkept hjob => exec_pkEndCheckFail_fails hengine hjob hfree hwhole hkept⟩

end

/-- Settles O40 by its three parts. -/
theorem publicKeyWorkIsDone : Obligations.PublicKeyWorkIsDone :=
  ⟨publicKeyItemsOpenTheirWindow, validationWindowsEnd, jobsCompleteAndYield⟩

end Sys2Proof.Machine

/-! PROOFS. PK_PROGRAM in its window (R297 to R299), and PK_ABORT on an item table that files an item under another's
number (R289, R294). -/

namespace Sys2Proof.Machine

/-! ## PK_PROGRAM (R298, R299) -/

section
variable {s : State} {it : Item} {win : PkeWindow} {cs : List (Nat × ProgWord × Nat)}

@[simp] theorem memStore_pkeEntry {a e : Nat} {bytes : List Byte} : (s.memStore a bytes).pkeEntry e = s.pkeEntry e := rfl

@[simp] theorem dropWork_windowOf {id e : Nat} {b : Byte} : (s.dropWork id).windowOf b e = s.windowOf b e := rfl

@[simp] theorem dropWork_engineL {id e : Nat} : (s.dropWork id).engineL e = s.engineL e := rfl

@[simp] theorem dropWork_windowAddr {id : Nat} {win : PkeWindow} : (s.dropWork id).windowAddr win = s.windowAddr win := rfl

@[simp] theorem dropWork_windowBytes {id : Nat} {win : PkeWindow} :
    (s.dropWork id).windowBytes win = s.windowBytes win := rfl

section
variable {prog input : List Byte} (hrun : s.Runs it 0x0304) (hclaimed : it.claimed = true)
  (hnew : s.workOf it.id = none) (hwindow : s.windowOf it.tenantByte it.progEngine = some win)
  (hprog : it.hostBytes (it.le 24 8) (8 * it.progLen) = some prog)
  (hinput : it.hostBytes (it.le 32 8) (8 * s.engineL it.progEngine * it.progSlots) = some input)
include hrun hclaimed hnew hwindow hprog hinput

theorem exec_pkProgram_starts {n : Nat} (hkey : it.progKeyDst = 0xFFFF)
    (hparse : progParse (s.engineL it.progEngine) win.slotCount 0 (progWords prog) = .inl cs)
    (hcycles : n = (cs.map fun c => progCycles ((s.pkeEntry it.progEngine).any (·.fused)) c.2.1).sum)
    (hshort : n ≤ 160000) :
    exec (.pkProgram it.id) s = .next ((s.memStore (s.windowAddr win) (overlay (s.windowBytes win) 0 input)).startWork it
      { item := it.id, engine := it.progEngine, stage := .queued, status := stOk, out := prog, body := [], jobs := 0
        cycles := n } false) := by
  have hop : it.opcode = 0x0304 := hrun.2.2
  change execPkProgram it.id s = _
  rw [execPkProgram, onRunning_eq hrun, if_neg (by simp [hop, hclaimed]), hnew]
  simp only [hwindow, hprog, hinput, hkey, hparse, memStore_pkeEntry, ← hcycles, if_true,
    decide_eq_false (Nat.not_lt.mpr hshort), Bool.false_and, Bool.false_eq_true, if_false]

/-- A word that fails the check completes the item with its index; of the rest, the window's load touches device memory
alone. -/
theorem exec_pkProgram_badWord {i : Nat}
    (hparse : progParse (s.engineL it.progEngine) win.slotCount 0 (progWords prog) = .inr i) :
    ∃ mem, exec (.pkProgram it.id) s =
      .next (({ s with mem := mem } : State).complete it.id stBadField (progBody 0 0 i it.progEngine 0)) := by
  have hop : it.opcode = 0x0304 := hrun.2.2
  change ∃ mem, execPkProgram it.id s = _
  rw [execPkProgram, onRunning_eq hrun, if_neg (by simp [hop, hclaimed]), hnew]
  simp only [hwindow, hprog, hinput, hparse]
  exact ⟨_, rfl⟩

end

theorem exec_pkProgram_resumed {w : PkWork} (hrun : s.Runs it 0x0304) (hclaimed : it.claimed = true)
    (hwork : s.workOf it.id = some w) (hcomplete : w.stage = .complete) :
    exec (.pkProgram it.id) s = .next (s.progDeliver it w) := by
  have hop : it.opcode = 0x0304 := hrun.2.2
  change execPkProgram it.id s = _
  rw [execPkProgram, onRunning_eq hrun, if_neg (by simp [hop, hclaimed]), hwork]
  exact congrArg Host.Outcome.next (if_pos hcomplete)

theorem progDeliver_ran {w : PkWork} {out : List Byte} (hwindow : s.windowOf it.tenantByte it.progEngine = some win)
    (hparse : progParse (s.engineL it.progEngine) win.slotCount 0 (progWords w.out) = .inl cs)
    (hran : progRun (s.engineL it.progEngine) (s.windowBytes win) cs = (out, none)) :
    s.progDeliver it w = (((s.dropWork it.id).memStore (s.windowAddr win) out).writeOut it.id (it.le 48 8)
      (slice out (8 * s.engineL it.progEngine * it.progOutFirst) (8 * s.engineL it.progEngine * it.progOutCount))).complete
        it.id stOk (progBody (slice out (8 * s.engineL it.progEngine * it.progOutFirst)
          (8 * s.engineL it.progEngine * it.progOutCount)).length w.cycles 0xFFFFFFFF it.progEngine 1) := by
  simp only [State.progDeliver, dropWork_windowOf, dropWork_engineL, dropWork_windowBytes, dropWork_windowAddr, hwindow,
    hparse, hran]

/-- The first part of O41 holds. -/
theorem programsRunInTheirWindow : ProgramsRunInTheirWindow := by
  refine ⟨fun _ _ _ _ _ _ _ hrun hclaimed hnew hwindow hprog hinput =>
      exec_pkProgram_starts hrun hclaimed hnew hwindow hprog hinput,
    fun s it win prog input i hrun hclaimed hnew hwindow hprog hinput hparse => ?_,
    fun s it w win cs out hrun hclaimed hwork hcomplete hwindow hparse hran => ?_⟩
  · obtain ⟨mem, hexec⟩ := exec_pkProgram_badWord hrun hclaimed hnew hwindow hprog hinput hparse
    have hframe := complete_frame (s := { s with mem := mem }) (id := it.id) (st := stBadField)
      (body := progBody 0 0 i it.progEngine 0)
    exact ⟨_, hexec, complete_completed (s := { s with mem := mem }) hrun (.inl (by decide)), hframe.regs, hframe.qps,
      hframe.records, hframe.plan, hframe.sys⟩
  · rw [exec_pkProgram_resumed hrun hclaimed hwork hcomplete, progDeliver_ran hwindow hparse hran]

end

/-! ## PK_ABORT (R294) -/

/-- A PK_ABORT with the number 7 that runs on core 0. -/
def runningAbort : Item := { waitingItem with source := .queue 0 0 0, opcode := 0x0305, phase := .running 0 }

/-- A PK_SIGN of the same queue pair, with the number 3, that waits for its engine. -/
def olderSign : Item := { runningAbort with id := 3, opcode := 0x0301, phase := .yielded .engine }

/-- The item table files the PK_SIGN under 5, and under its number, 3, the abort. -/
def misfiledAbort : State :=
  { State.reset with
    dsp := { DspState.reset with items := [(3, runningAbort), (5, olderSign), (7, runningAbort)] } }

/-- The abort ends what the table files under the number of the PK_SIGN: itself. -/
theorem misfiledAbort_outcome : ∃ t, exec (.pkAbort 7) misfiledAbort = .next t ∧
    (t.item 7).map Item.outcome = some (outcome stAborted []) := ⟨_, rfl, rfl⟩

/-- Refutes O41: its second part does not ask that each item is filed under its own number, and where the number of a
matching item leads to the PK_ABORT, the PK_ABORT itself ends with ST_ABORTED. -/
theorem not_programsAndAborts : ¬ Obligations.ProgramsAndAborts := by
  rintro ⟨-, haborts⟩
  obtain ⟨t, hnext, ⟨it, hitem, -, houtcome⟩, -⟩ := haborts misfiledAbort runningAbort 1 ⟨rfl, rfl, rfl⟩ rfl
  obtain ⟨t', hnext', hself⟩ := misfiledAbort_outcome
  cases hnext.symm.trans hnext'
  rw [show t.item 7 = some it from hitem, Option.map_some, houtcome] at hself
  exact absurd hself (by decide)

end Sys2Proof.Machine

/-! PROOFS. Payment opcodes (R301 to R328): the end of a payment item and its counters, PIN blocks and verdicts, MACs
and cryptograms, and key blocks in and out. -/

namespace Sys2Proof.Machine

section
variable {s s' u : State} {it : Item} {op id : Nat} {st : Status} {body : List Byte}

/-! ## The counts of refusals in an item's end (R329) -/

/-- KSNREJ and KBREJ: the counts of refused KSNs and of refused key blocks. -/
def PayState.refusals (p : PayState) : Word × Word := (p.ksnRej, p.kbRej)

/-- The note of an item's end counts neither refusal. -/
theorem noteEnd_refusals {o : Outcome} : (s.noteEnd it o).pay.refusals = s.pay.refusals := by
  unfold State.noteEnd
  extract_lets ok pay nas obj spr t p done counted
  have hp : p = s.pay := by
    unfold p t
    split
    · rfl
    · split <;> rfl
  have hdone : done.refusals = p.refusals := by
    unfold done
    split <;> rfl
  have hcounted : counted.refusals = done.refusals := by
    unfold counted
    split <;> rfl
  rw [← hp, ← hdone, ← hcounted]

/-- Once its end is noted, an item's end leaves the payment counters. -/
theorem finish_pay {o : Outcome} : (s.finish id o).pay = s.pay ∨
    ∃ (it : Item) (ended : Outcome), (s.finish id o).pay = (s.noteEnd it ended).pay := by
  unfold State.finish
  split
  · exact .inl rfl
  · next it _ =>
    split
    · exact .inl rfl
    · extract_lets o' noted freed unlisted released it'
      obtain ⟨_, hfree⟩ := freeCore_eq (s := noted) (it := it)
      obtain ⟨_, _, _, _, _, hrelease⟩ := releaseClaim_eq (s := unlisted) (it := it)
      obtain ⟨_, _, _, htrace⟩ := trace_eq (s := released.setItem it') (event := 0x03) (detail := 0) (it := it')
        (st := o'.status)
      refine .inr ⟨it, o', ?_⟩
      calc ((released.setItem it').trace 0x03 0 it' o'.status).pay
          = released.pay := by rw [htrace]; rfl
        _ = freed.pay := by unfold released; rw [hrelease]; rfl
        _ = noted.pay := by unfold freed; rw [hfree]

theorem complete_refusals : (s.complete id st body).pay.refusals = s.pay.refusals := by
  obtain hself | ⟨_, _, hnoted⟩ := finish_pay (s := s) (id := id)
    (o := { status := st, origin1 := false, body := padTo 24 body })
  · rw [State.complete, hself]
  · rw [State.complete, hnoted, noteEnd_refusals]

/-! ## The end of a payment item -/

/-- A payment item completes after work that reached the cipher fabric alone. -/
theorem complete_payEnds (hrun : s.Runs it op) (hop : op ≠ 0x0201) (hwork : ∃ cfb, u = { s with cfb := cfb }) :
    PayEnds s (u.complete it.id st body) it st body := by
  obtain ⟨cfb, rfl⟩ := hwork
  have hframe := complete_frame (s := { s with cfb := cfb }) (id := it.id) (st := st) (body := body)
  exact ⟨complete_completed (s := { s with cfb := cfb }) hrun (.inl hop), hframe.regs, hframe.qps, hframe.cells,
    hframe.sys, hframe.plan, hframe.records, hframe.sessions⟩

/-- A verdict completes with ST_OK and a result, or with the status of a failure and none. -/
theorem verdict_payEnds {p : Prop} [Decidable p] (hrun : s.Runs it op) (hop : op ≠ 0x0201)
    (hwork : ∃ cfb, u = { s with cfb := cfb }) :
    PayEnds s (if p then u.complete it.id stOk body else u.payFail it st) it (if p then stOk else st)
      (if p then body else []) := by
  by_cases hp : p
  · simp only [if_pos hp]
    exact complete_payEnds hrun hop hwork
  · simp only [if_neg hp]
    exact complete_payEnds hrun hop hwork

theorem verdict_decides {p : Prop} [Decidable p] (hrun : s.Runs it op) (hop : op ≠ 0x0201)
    (hwork : ∃ cfb, u = { s with cfb := cfb }) :
    (p → PayEnds s (if p then u.complete it.id stOk body else u.payFail it st) it stOk body) ∧
    (¬ p → PayEnds s (if p then u.complete it.id stOk body else u.payFail it st) it st []) := by
  have hends := verdict_payEnds (p := p) (st := st) (body := body) hrun hop hwork
  exact ⟨fun hp => by simpa only [if_pos hp] using hends, fun hp => by simpa only [if_neg hp] using hends⟩

theorem payWork_eq {blocks : Nat} : ∃ cfb, s.payWork it blocks = { s with cfb := cfb } := countWork_eq

theorem countWork_payWork_eq {blocks more : Nat} :
    ∃ cfb, (s.payWork it blocks).countWork it more 0 = { s with cfb := cfb } := by
  obtain ⟨_, hwork⟩ := payWork_eq (s := s) (it := it) (blocks := blocks)
  rw [hwork]
  exact countWork_eq

/-- A refused KSN ends its item and is counted (R315). -/
theorem refuseKsn_ends (hrun : s.Runs it op) (hop : op ≠ 0x0201) :
    PayEnds s (s.refuseKsn it) it stInputRange [] ∧ (s.refuseKsn it).pay.ksnRej = s.pay.ksnRej + 1 := by
  have hcounted := complete_refusals (s := { s with pay := { s.pay with ksnRej := s.pay.ksnRej + 1 } }) (id := it.id)
    (st := stInputRange) (body := [])
  exact ⟨complete_payEnds (s := { s with pay := { s.pay with ksnRej := s.pay.ksnRej + 1 } }) hrun hop
    ⟨s.cfb, rfl⟩, congrArg Prod.fst hcounted⟩

/-! ## A payment item runs (R162, R168) -/

theorem onPay_eq {f : Item → State} (hrun : s.Runs it op) (hclaimed : it.claimed = true)
    (hmasks : s.maskWaits it = false) (herased : op ≤ 0x0405 → s.cfb.erased = false) :
    s.onPay it.id op f = f it := by
  have hop : it.opcode = op := hrun.2.2
  rw [State.onPay, onRunning_eq hrun, if_neg]
  simpa [hop, hclaimed, hmasks] using herased

theorem runs_of_payReady (h : PayReady s it op) : s.Runs it op := h.1

theorem onPay_ready {f : Item → State} (h : PayReady s it op) : s.onPay it.id op f = f it := by
  obtain ⟨hrun, hclaimed, hmasks, herased⟩ := h
  exact onPay_eq hrun hclaimed hmasks fun _ => herased

/-! ## PIN_TRANSLATE and PIN_VERIFY (R307 to R313) -/

section
variable {k params : List Byte} {pin : List Nat}

theorem exec_pinTranslate_refusedKsn (h : PayReady s it 0x0401) (hkey : it.payKey dukptPin = none) :
    exec (.pinTranslate it.id) s = .next (s.refuseKsn it) := by
  change execPinTranslate it.id s = _
  rw [execPinTranslate, onPay_ready h, hkey]

theorem exec_pinTranslate_badBlock (h : PayReady s it 0x0401) (hkey : it.payKey dukptPin = some k)
    (hblock : pinDigits it.srcFmt (pinField it.srcFmt k it.pinIn it.pan) = none) :
    exec (.pinTranslate it.id) s = .next ((s.payWork it (pinBlocks it.srcFmt)).payFail it stPinFormat) := by
  change execPinTranslate it.id s = _
  rw [execPinTranslate, onPay_ready h, hkey]
  dsimp only
  rw [hblock]

theorem exec_pinTranslate_enciphers (h : PayReady s it 0x0401) (hkey : it.payKey dukptPin = some k)
    (hblock : pinDigits it.srcFmt (pinField it.srcFmt k it.pinIn it.pan) = some pin) :
    exec (.pinTranslate it.id) s = .next
      (((s.payWork it (pinBlocks it.srcFmt)).countWork it (pinBlocks it.dstFmt) 0).complete it.id stOk
        (payBody it (pinEncipher it.dstFmt (it.material it.payKey2) (pinEncode it.dstFmt pin it.scratch) it.pan)
          (it.dstFmt != 4))) := by
  change execPinTranslate it.id s = _
  rw [execPinTranslate, onPay_ready h, hkey]
  dsimp only
  rw [hblock]

theorem exec_pinVerify_badBlock (h : PayReady s it 0x0402) (hparams : it.pinParams = some params)
    (hkey : it.payKey dukptPin = some k)
    (hblock : pinDigits it.srcFmt (pinField it.srcFmt k it.pinIn it.pan) = none) :
    exec (.pinVerify it.id) s = .next ((s.payWork it (pinBlocks it.srcFmt)).payFail it stPinFormat) := by
  change execPinVerify it.id s = _
  rw [execPinVerify, onPay_ready h, hparams]
  dsimp only
  rw [hkey]
  dsimp only
  rw [hblock]

/-- The end of PIN_VERIFY with the verdict that its method gives (R313). -/
def State.pinVerifyEnds (s : State) (it : Item) (verdict : Bool) : State :=
  if verdict then (s.countWork it 1 0).complete it.id stOk (payBody it [] false)
  else (s.countWork it 1 0).payFail it stVerifyFail

theorem exec_pinVerify_judges (h : PayReady s it 0x0402) (hparams : it.pinParams = some params)
    (hkey : it.payKey dukptPin = some k)
    (hblock : pinDigits it.srcFmt (pinField it.srcFmt k it.pinIn it.pan) = some pin) :
    exec (.pinVerify it.id) s =
      .next (((s.payWork it (pinBlocks it.srcFmt)).pinVerdict it params pin).2.pinVerifyEnds it
        ((s.payWork it (pinBlocks it.srcFmt)).pinVerdict it params pin).1) := by
  change execPinVerify it.id s = _
  rw [execPinVerify, onPay_ready h, hparams]
  dsimp only
  rw [hkey]
  dsimp only
  rw [hblock]
  rfl

theorem pinVerdict_ibm3624 (hmethod : it.byte 21 = 1) : s.pinVerdict it params pin =
    (ibm3624 (it.material it.payKey2) (slice params 16 8) (slice params 24 8) (slice params 32 6)
      (byteAt params 12).toNat pin, s) := by
  rw [State.pinVerdict, if_pos hmethod]

theorem pinVerdict_visaPvv (hmethod : it.byte 21 ≠ 1) (hfmt : it.srcFmt ≠ 1) : s.pinVerdict it params pin =
    (visaPvv (it.material it.payKey2) it.pan pin (byteAt params 13).toNat == nibbles (slice params 38 2), s) := by
  rw [State.pinVerdict, if_neg hmethod, if_neg hfmt]

theorem pinVerifyEnds_payEnds {blocks : Nat} {v : Bool} (hrun : s.Runs it op) (hop : op ≠ 0x0201) :
    PayEnds s ((s.payWork it blocks).pinVerifyEnds it v) it (if v then stOk else stVerifyFail)
      (if v then payBody it [] false else []) :=
  verdict_payEnds hrun hop countWork_payWork_eq

end

/-- The first part of O42: PIN_TRANSLATE and PIN_VERIFY by whether the incoming block holds a PIN, and the refused
KSN. -/
theorem pinOpcodes : PinOpcodes := by
  refine ⟨fun s it k h hkey => ?translate, fun s it k params h hparams hkey => ?verify, fun s it h hkey => ?refused⟩
  case translate =>
    cases hblock : pinDigits it.srcFmt (pinField it.srcFmt k it.pinIn it.pan) with
    | none =>
      exact ⟨_, exec_pinTranslate_badBlock h hkey hblock,
        fun _ => complete_payEnds (runs_of_payReady h) (by decide) payWork_eq, nofun⟩
    | some pin =>
      refine ⟨_, exec_pinTranslate_enciphers h hkey hblock, nofun, fun _ hpin => ?_⟩
      cases hpin
      exact complete_payEnds (runs_of_payReady h) (by decide) countWork_payWork_eq
  case verify =>
    cases hblock : pinDigits it.srcFmt (pinField it.srcFmt k it.pinIn it.pan) with
    | none =>
      exact ⟨_, exec_pinVerify_badBlock h hparams hkey hblock,
        fun _ => complete_payEnds (runs_of_payReady h) (by decide) payWork_eq, nofun, nofun⟩
    | some pin =>
      refine ⟨_, exec_pinVerify_judges h hparams hkey hblock, nofun, fun _ hpin hmethod => ?_,
        fun _ hpin hmethod hfmt => ?_⟩ <;> cases hpin
      · rw [pinVerdict_ibm3624 hmethod]
        exact pinVerifyEnds_payEnds (runs_of_payReady h) (by decide)
      · rw [pinVerdict_visaPvv hmethod hfmt]
        simpa only [beq_iff_eq] using pinVerifyEnds_payEnds (s := s) (it := it) (blocks := pinBlocks it.srcFmt)
          (v := visaPvv (it.material it.payKey2) it.pan pin (byteAt params 13).toNat == nibbles (slice params 38 2))
          (runs_of_payReady h) (by decide)
  case refused => exact ⟨_, exec_pinTranslate_refusedKsn h hkey, refuseKsn_ends (runs_of_payReady h) (by decide)⟩

/-! ## MAC_GEN, MAC_VER and ARQC_VERIFY (R316 to R319) -/

section
variable {msg k : List Byte}

theorem exec_macGen_keyed (h : PayReady s it 0x0403) (hmsg : it.macInput = some msg)
    (hkey : it.payKey dukptMacGen = some k) :
    exec (.macGen it.id) s = .next ((s.payWork it (msg.length / 8 + 1)).complete it.id stOk
      (payBody it (it.macOf k msg) (it.ksrc == 0 && it.tdesKey it.key))) := by
  change execMacGen it.id s = _
  rw [execMacGen, onPay_ready h, hmsg]
  dsimp only
  rw [hkey]

theorem exec_macVer_keyed (h : PayReady s it 0x0404) (hmsg : it.macInput = some msg)
    (hkey : it.payKey dukptMacVer = some k) :
    exec (.macVer it.id) s = .next (if it.macOf k msg = slice it.desc 32 (it.byte 18)
      then (s.payWork it (msg.length / 8 + 1)).complete it.id stOk (payBody it [] false)
      else (s.payWork it (msg.length / 8 + 1)).payFail it stTagMismatch) := by
  change execMacVer it.id s = _
  rw [execMacVer, onPay_ready h, hmsg]
  dsimp only
  rw [hkey]

/-- The ICC master key of an ARQC_VERIFY (R319). -/
def Item.iccMaster (it : Item) : List Byte :=
  iccKey (!it.tdesKey it.key) (it.material it.key) it.pan (nibbles (slice it.desc 17 1))

/-- The session key of an ARQC_VERIFY (R319). -/
def Item.arqcSession (it : Item) : List Byte := emvSession (!it.tdesKey it.key) it.iccMaster (slice it.desc 18 2)

theorem exec_arqcVerify_arrived (h : PayReady s it 0x0405) (hmsg : it.macInput = some msg) :
    exec (.arqcVerify it.id) s = .next (if emvMac (!it.tdesKey it.key) it.arqcSession msg = slice it.desc 32 8
      then (s.payWork it (msg.length / 8 + 8)).complete it.id stOk
        (payBody it (it.arpc (!it.tdesKey it.key) it.iccMaster it.arqcSession) (it.byte 16 != 0 && !!it.tdesKey it.key))
      else (s.payWork it (msg.length / 8 + 8)).payFail it stVerifyFail) := by
  change execArqcVerify it.id s = _
  rw [execArqcVerify, onPay_ready h, hmsg]
  rfl

end

/-- The second part of O42. -/
theorem macAndCryptogramOpcodes : MacAndCryptogramOpcodes := by
  refine ⟨fun s it msg k h hmsg hkey => ?_, fun s it msg k h hmsg hkey => ?_,
    fun s it data mk sk aes h hmsg haes hmk hsk => ?_⟩
  · exact ⟨_, exec_macGen_keyed h hmsg hkey, complete_payEnds (runs_of_payReady h) (by decide) payWork_eq⟩
  · exact ⟨_, exec_macVer_keyed h hmsg hkey, verdict_decides (runs_of_payReady h) (by decide) payWork_eq⟩
  · subst hsk hmk haes
    exact ⟨_, exec_arqcVerify_arrived h hmsg, verdict_decides (runs_of_payReady h) (by decide) payWork_eq⟩

/-! ## Key blocks (R320 to R325, R329) -/

section
variable {b pt : List Byte}

/-- A block refused at step 8 of R325 ends its item and is counted in KBREJ (R329). -/
theorem refuseBlock_ends (hrun : s.Runs it op) (hop : op ≠ 0x0201) :
    (s.refuseBlock it st).Completed it.id st [] ∧ (s.refuseBlock it st).pay.kbRej = s.pay.kbRej + 1 := by
  have hcounted := complete_refusals (s := { s with pay := { s.pay with kbRej := s.pay.kbRej + 1 } }) (id := it.id)
    (st := st) (body := [])
  exact ⟨complete_completed (s := { s with pay := { s.pay with kbRej := s.pay.kbRej + 1 } }) hrun (.inl hop),
    congrArg Prod.snd hcounted⟩

theorem kbImport_unopened (hopen : kbOpen (it.material it.key) b = none) :
    s.kbImport it b = s.refuseBlock it stTagMismatch := by
  rw [State.kbImport, hopen]

theorem kbImport_refused (hopen : kbOpen (it.material it.key) b = some pt) (hkey : kbKey b pt = .error st) :
    s.kbImport it b = s.refuseBlock it st := by
  rw [State.kbImport, hopen]
  dsimp only
  rw [hkey]

/-- A verified block whose key passes the checks of a new key creates it (R322, R324). -/
theorem kbImport_creates {use eng alg : Nat} {key : List Byte} {attr : DWord}
    (hopen : kbOpen (it.material it.key) b = some pt) (hkey : kbKey b pt = .ok (use, eng, alg, key))
    (hattr : attr = BitVec.ofNat 64 (eng + use * 2 ^ 8 + (if byteAt b 11 = 0x45 then 2 ^ 25 else 0)))
    (hspec : s.specCheck it.tenantByte (KeySpec.mk (it.byte 32) alg 0 0 attr (BitVec.ofNat 32 (it.le 36 4))) = none) :
    s.kbImport it b = s.createKey it (it.byte 32)
      { attr := finalAttr attr true false it.tenantByte alg, parent := noHandle, depth := 0
        noncePrefix := BitVec.ofNat 32 (it.le 36 4), material := key, pubOnly := false }
      (newKeyBody alg false key) := by
  rw [State.kbImport, hopen]
  dsimp only
  rw [hkey]
  dsimp only
  rw [← hattr, hspec]

theorem exec_keyblockImport_approved (hrun : s.Runs it 0x0406) (hclaimed : it.claimed = true)
    (hmasks : s.maskWaits it = false) (hblock : it.keyBlock = some b) (happroved : s.payApproval it 16 b = some s') :
    exec (.keyblockImport it.id) s = .next (s'.kbImport it b) := by
  change execKeyblockImport it.id s = _
  rw [execKeyblockImport, onPay_eq hrun hclaimed hmasks (absurd · (by decide)), hblock]
  dsimp only
  rw [happroved]

theorem exec_keyblockExport_sealed (hrun : s.Runs it 0x0407) (hclaimed : it.claimed = true)
    (hmasks : s.maskWaits it = false) (happroved : s.payApproval it 20 [] = some s')
    (hsealed : s'.kbExport it = .ok (b, u)) (hfits : b.length ≤ it.le 24 4) :
    exec (.keyblockExport it.id) s = .next ((u.writeOut it.id (it.le 40 8) b).complete it.id stOk
      (leBytes 8 b.length ++ zeros 15 ++ leBytes 1 (b2n (byteAt it.desc 32 == asciiB)))) := by
  change execKeyblockExport it.id s = _
  rw [execKeyblockExport, onPay_eq hrun hclaimed hmasks (absurd · (by decide)), happroved]
  dsimp only
  rw [hsealed]
  exact congrArg Host.Outcome.next (if_neg (Nat.not_lt.mpr hfits))

theorem exec_keyblockExport_unapproved (hrun : s.Runs it 0x0407) (hclaimed : it.claimed = true)
    (hmasks : s.maskWaits it = false) (hmissing : s.payApproval it 20 [] = none) :
    exec (.keyblockExport it.id) s = .next (s.payFail it stQuorumMissing) := by
  change execKeyblockExport it.id s = _
  rw [execKeyblockExport, onPay_eq hrun hclaimed hmasks (absurd · (by decide)), hmissing]

end

end

/-- Settles O42 by its two parts. The derivations of other standards and the truncation of the AES response cryptogram
(log entry 79), and the digits of a drawn fill (log entry 78), are choices of the model. -/
theorem pinMacAndCryptogramOpcodes : Obligations.PinMacAndCryptogramOpcodes :=
  ⟨pinOpcodes, macAndCryptogramOpcodes⟩

/-- Settles O43: an import by what its approved block holds, an export by its approval. Which refusals KBREJ counts
(log entry 81), and that a missing approval ends the item at once (log entry 82), are choices of the model. -/
theorem keyBlockOpcodes : Obligations.KeyBlockOpcodes := by
  refine ⟨fun s s' it b hrun hclaimed hmasks hblock happroved hitem => ?_,
    fun s s' s2 it b hrun hclaimed hmasks happroved hsealed hfits =>
      exec_keyblockExport_sealed hrun hclaimed hmasks happroved hsealed hfits,
    fun s it hrun hclaimed hmasks hmissing => ?_⟩
  · have hrun' : s'.Runs it 0x0406 := ⟨hitem, hrun.2⟩
    refine ⟨_, exec_keyblockImport_approved hrun hclaimed hmasks hblock happroved, fun hopen => ?_,
      fun pt st hopen hkey => ?_, fun pt use eng alg key attr hopen hkey hattr hspec =>
      kbImport_creates hopen hkey hattr hspec⟩
    · rw [kbImport_unopened hopen]
      exact refuseBlock_ends hrun' (by decide)
    · rw [kbImport_refused hopen hkey]
      exact refuseBlock_ends hrun' (by decide)
  · exact ⟨_, exec_keyblockExport_unapproved hrun hclaimed hmasks hmissing,
      failItem_ends (st := stQuorumMissing) hrun (by decide)⟩

end Sys2Proof.Machine

/-! PROOFS. The invariant: right after reset, for every command, and at every step (R337, R402, R424, R440). -/

namespace Sys2Proof.Machine

/-- Settles O55: device memory, the log, the pool and each of the six violation FIFOs are empty right after reset. -/
theorem resetMeetsTheInvariant : Obligations.ResetMeetsTheInvariant where
  memory := rfl
  logSeq := trivial
  logLen := Nat.zero_le _
  pool := Nat.zero_le _
  fifos q hq := by
    obtain rfl := List.eq_of_mem_replicate hq
    exact Nat.zero_le _
  slots := rfl

/-- Every command keeps the invariant, by the lemma of its meaning. -/
theorem exec_inv {c : Instr} {s : State} (hs : s.Inv) : InvR (exec c s) := by
  cases c with
  | powerStable => exact execPowerStable_inv hs
  | coldResetRelease => exact execColdResetRelease_inv hs
  | supplyLoss => exact execSupplyLoss_inv hs
  | perstFall => exact execPerstFall_inv hs
  | perstRise => exact execPerstRise_inv hs
  | glbSoftReset => exact execGlbSoftReset_inv hs
  | warmResetStoresDone => exact execWarmResetStoresDone_inv hs
  | resetHoldEnd => exact execResetHoldEnd_inv hs
  | pllLockLost => exact execPllLockLost_inv hs
  | mainPowerLost => exact execMainPowerLost_inv hs
  | holdUpStoresEnded => exact execHoldUpStoresEnded_inv hs
  | mainPowerRestored => exact execMainPowerRestored_inv hs
  | reserveSpent => exact execReserveSpent_inv hs
  | bootStart => exact execBootStart_inv hs
  | bootOtpWriteAdmitted => exact execBootOtpWriteAdmitted_inv hs
  | entStartupDone => exact execEntStartupDone_inv hs
  | bootResumeEntReady => exact execBootResumeEntReady_inv hs
  | memoryKeyLoad => exact execMemoryKeyLoad_inv hs
  | hbmInitSweepDone => exact execHbmInitSweepDone_inv hs
  | lcbRecGo => exact execLcbRecGo_inv hs
  | glbPlanGo => exact execGlbPlanGo_inv hs
  | planWaitTimeout => exact execPlanWaitTimeout_inv hs
  | planImageReadDone => exact execPlanImageReadDone_inv hs
  | mirrorEpochCompare => exact execMirrorEpochCompare_inv hs
  | qpEnable => exact execQpEnable_inv hs
  | qpDisable => exact execQpDisable_inv hs
  | sqDoorbell => exact execSqDoorbell_inv hs
  | pushWrite => exact execPushWrite_inv hs
  | cqDoorbell => exact execCqDoorbell_inv hs
  | descriptorConsume => exact execDescriptorConsume_inv hs
  | dispatch => exact execDispatch_inv hs
  | keyFillDone => exact execKeyFillDone_inv hs
  | itemResume => exact execItemResume_inv hs
  | coreWatchdog => exact execCoreWatchdog_inv hs
  | recordRelease => exact execRecordRelease_inv hs
  | coalTimeout => exact execCoalTimeout_inv hs
  | quiesce => exact execQuiesce_inv hs
  | resume => exact execResume_inv hs
  | planStage => exact execPlanStage_inv hs
  | planAmend => exact execPlanAmend_inv hs
  | amendDeadline => exact execAmendDeadline_inv hs
  | drainFramesElapsed => exact execDrainFramesElapsed_inv hs
  | unitScrubDone => exact execUnitScrubDone_inv hs
  | sluiceCheckDone => exact execSluiceCheckDone_inv hs
  | sluiceSwap => exact execSluiceSwap_inv hs
  | gcmEnc => exact execGcmEnc_inv hs
  | gcmDec => exact execGcmDec_inv hs
  | ctrEnc => exact execCtrEnc_inv hs
  | ctrDec => exact execCtrDec_inv hs
  | cbcEnc => exact execCbcEnc_inv hs
  | cbcDec => exact execCbcDec_inv hs
  | cmacGen => exact execCmacGen_inv hs
  | cmacVer => exact execCmacVer_inv hs
  | xtsEnc => exact execXtsEnc_inv hs
  | xtsDec => exact execXtsDec_inv hs
  | hash => exact execHash_inv hs
  | hmacGen => exact execHmacGen_inv hs
  | hmacVer => exact execHmacVer_inv hs
  | furrowMismatch => exact execFurrowMismatch_inv hs
  | maskReseedRequest => exact execMaskReseedRequest_inv hs
  | maskWaitStop => exact execMaskWaitStop_inv hs
  | maskSeedArrive => exact execMaskSeedArrive_inv hs
  | furrowReadmit => exact execFurrowReadmit_inv hs
  | hashLaneParityError => exact execHashLaneParityError_inv hs
  | hashLaneReadmit => exact execHashLaneReadmit_inv hs
  | objSeal => exact execObjSeal_inv hs
  | objOpen => exact execObjOpen_inv hs
  | objEpochKey => exact execObjEpochKey_inv hs
  | objEpochFetch => exact execObjEpochFetch_inv hs
  | epochBoundary => exact execEpochBoundary_inv hs
  | epochClose => exact execEpochClose_inv hs
  | sealIdleTimeout => exact execSealIdleTimeout_inv hs
  | verifyFragments => exact execVerifyFragments_inv hs
  | repair => exact execRepair_inv hs
  | spreadCheckFail => exact execSpreadCheckFail_inv hs
  | spreadUnitReadmit => exact execSpreadUnitReadmit_inv hs
  | fragGetTimeout => exact execFragGetTimeout_inv hs
  | ethFrameReceive => exact execEthFrameReceive_inv hs
  | ethLinkChange => exact execEthLinkChange_inv hs
  | eapolMka => exact execEapolMka_inv hs
  | sakRekeyThreshold => exact execSakRekeyThreshold_inv hs
  | submit => exact execSubmit_inv hs
  | retrieve => exact execRetrieve_inv hs
  | fragPutAck => exact execFragPutAck_inv hs
  | fragData => exact execFragData_inv hs
  | nack => exact execNack_inv hs
  | credit => exact execCredit_inv hs
  | ping => exact execPing_inv hs
  | ackTimer => exact execAckTimer_inv hs
  | retransmitTimeout => exact execRetransmitTimeout_inv hs
  | zeroWindowProbe => exact execZeroWindowProbe_inv hs
  | zeroWindowTimeout => exact execZeroWindowTimeout_inv hs
  | syncPingTimer => exact execSyncPingTimer_inv hs
  | syncTimeout => exact execSyncTimeout_inv hs
  | epochQuarantineEnd => exact execEpochQuarantineEnd_inv hs
  | putackTimeout => exact execPutackTimeout_inv hs
  | packetTransmit => exact execPacketTransmit_inv hs
  | chanRead => exact execChanRead_inv hs
  | chanOpen => exact execChanOpen_inv hs
  | chanReset => exact execChanReset_inv hs
  | chanClose => exact execChanClose_inv hs
  | portCfgWrite => exact execPortCfgWrite_inv hs
  | injectFrame => exact execInjectFrame_inv hs
  | pkSign => exact execPkSign_inv hs
  | pkVerify => exact execPkVerify_inv hs
  | pkAgree => exact execPkAgree_inv hs
  | pkProgram => exact execPkProgram_inv hs
  | pkAbort => exact execPkAbort_inv hs
  | pkValidationWindowEnd => exact execPkValidationWindowEnd_inv hs
  | pkYieldPoint => exact execPkYieldPoint_inv hs
  | pkJobComplete => exact execPkJobComplete_inv hs
  | pkEndCheckFail => exact execPkEndCheckFail_inv hs
  | pkEngineReadmit => exact execPkEngineReadmit_inv hs
  | pinTranslate => exact execPinTranslate_inv hs
  | pinVerify => exact execPinVerify_inv hs
  | macGen => exact execMacGen_inv hs
  | macVer => exact execMacVer_inv hs
  | arqcVerify => exact execArqcVerify_inv hs
  | keyblockImport => exact execKeyblockImport_inv hs
  | keyblockExport => exact execKeyblockExport_inv hs
  | keyGenerate => exact execKeyGenerate_inv hs
  | keyImport => exact execKeyImport_inv hs
  | keyExport => exact execKeyExport_inv hs
  | keyDerive => exact execKeyDerive_inv hs
  | keyRetire => exact execKeyRetire_inv hs
  | keyPurge => exact execKeyPurge_inv hs
  | keyFree => exact execKeyFree_inv hs
  | keyInfo => exact execKeyInfo_inv hs
  | keyPublic => exact execKeyPublic_inv hs
  | keyAttest => exact execKeyAttest_inv hs
  | keyDeviceCert => exact execKeyDeviceCert_inv hs
  | keyTemplate => exact execKeyTemplate_inv hs
  | revocationScanDone => exact execRevocationScanDone_inv hs
  | storeCommit => exact execStoreCommit_inv hs
  | goodBoot => exact execGoodBoot_inv hs
  | random => exact execRandom_inv hs
  | randomReseed => exact execRandomReseed_inv hs
  | entropyBlock => exact execEntropyBlock_inv hs
  | sourceRetest => exact execSourceRetest_inv hs
  | sourceRetestDone => exact execSourceRetestDone_inv hs
  | mainDrbgReseed => exact execMainDrbgReseed_inv hs
  | mainDrbgStop => exact execMainDrbgStop_inv hs
  | tenantReseedRequest => exact execTenantReseedRequest_inv hs
  | tenantReseed => exact execTenantReseed_inv hs
  | vfFlr => exact execVfFlr_inv hs
  | pfFlr => exact execPfFlr_inv hs
  | flrDone => exact execFlrDone_inv hs
  | dmaReadComplete => exact execDmaReadComplete_inv hs
  | pcieLinkTrain => exact execPcieLinkTrain_inv hs
  | ideKm => exact execIdeKm_inv hs
  | ideCheckFail => exact execIdeCheckFail_inv hs
  | lockInterface => exact execLockInterface_inv hs
  | startInterface => exact execStartInterface_inv hs
  | stopInterface => exact execStopInterface_inv hs
  | vfDirtyStart => exact execVfDirtyStart_inv hs
  | vfDirtySwap => exact execVfDirtySwap_inv hs
  | vfDirtyStop => exact execVfDirtyStop_inv hs
  | vfSuspend => exact execVfSuspend_inv hs
  | vfResume => exact execVfResume_inv hs
  | vfStateSave => exact execVfStateSave_inv hs
  | vfStateRestore => exact execVfStateRestore_inv hs
  | vfMigAck => exact execVfMigAck_inv hs
  | memPuSyncWrite => exact execMemPuSyncWrite_inv hs
  | memPuSyncRead => exact execMemPuSyncRead_inv hs
  | memViolPop => exact execMemViolPop_inv hs
  | allocationZeroed => exact execAllocationZeroed_inv hs
  | alarmRaise => exact execAlarmRaise_inv hs
  | zeroiseVerify => exact execZeroiseVerify_inv hs
  | bistRotation => exact execBistRotation_inv hs
  | bistTestDone => exact execBistTestDone_inv hs
  | reserveMeasure => exact execReserveMeasure_inv hs
  | senLogRead => exact execSenLogRead_inv hs
  | senBist => exact execSenBist_inv hs
  | senFence => exact execSenFence_inv hs
  | senReadmit => exact execSenReadmit_inv hs
  | senReserve => exact execSenReserve_inv hs
  | lcTransition => exact execLcTransition_inv hs
  | lcDebugOpen => exact execLcDebugOpen_inv hs
  | tokenOpenScopes => exact execTokenOpenScopes_inv hs
  | tokenVendorTransition => exact execTokenVendorTransition_inv hs
  | extest => exact execExtest_inv hs
  | idcode => exact execIdcode_inv hs
  | samplePreload => exact execSamplePreload_inv hs
  | dbgToken => exact execDbgToken_inv hs
  | dbgAccess => exact execDbgAccess_inv hs
  | bypass ir => exact execBypass_inv (_ir := ir) hs
  | cerOpen => exact execCerOpen_inv hs
  | cerCard => exact execCerCard_inv hs
  | cerClose => exact execCerClose_inv hs
  | cerApply => exact execCerApply_inv hs
  | ceremonyLimit => exact execCeremonyLimit_inv hs
  | cardInsert => exact execCardInsert_inv hs
  | cardRemove => exact execCardRemove_inv hs
  | cardResponse => exact execCardResponse_inv hs
  | cardWaitTimeout => exact execCardWaitTimeout_inv hs
  | cardClassRetry => exact execCardClassRetry_inv hs
  | cardOvercurrent => exact execCardOvercurrent_inv hs
  | approvalOpen => exact execApprovalOpen_inv hs
  | approvalSign => exact execApprovalSign_inv hs
  | rosterSet => exact execRosterSet_inv hs
  | approvalTimeout => exact execApprovalTimeout_inv hs
  | ringAssemble => exact execRingAssemble_inv hs
  | heartbeatTimer => exact execHeartbeatTimer_inv hs
  | heartbeat => exact execHeartbeat_inv hs
  | presenceTimeout => exact execPresenceTimeout_inv hs
  | token => exact execToken_inv hs
  | tokenLossTimeout => exact execTokenLossTimeout_inv hs
  | prepare => exact execPrepare_inv hs
  | commit => exact execCommit_inv hs
  | abort => exact execAbort_inv hs
  | prepareTimeout => exact execPrepareTimeout_inv hs
  | stagedDiscardTimeout => exact execStagedDiscardTimeout_inv hs
  | syncReq => exact execSyncReq_inv hs
  | syncData => exact execSyncData_inv hs
  | zeroizeFrame => exact execZeroizeFrame_inv hs
  | keyExchangeFrame => exact execKeyExchangeFrame_inv hs
  | ringPhyLock => exact execRingPhyLock_inv hs
  | culvertOpen => exact execCulvertOpen_inv hs
  | smbMode => exact execSmbMode_inv hs
  | smbLcs => exact execSmbLcs_inv hs
  | smbTemp => exact execSmbTemp_inv hs
  | smbTempLimit => exact execSmbTempLimit_inv hs
  | smbPower => exact execSmbPower_inv hs
  | smbVres => exact execSmbVres_inv hs
  | smbEuse => exact execSmbEuse_inv hs
  | smbAlarm => exact execSmbAlarm_inv hs
  | smbLogseq => exact execSmbLogseq_inv hs
  | smbIdent => exact execSmbIdent_inv hs
  | alertResponse => exact execAlertResponse_inv hs
  | registerWrite => exact execRegisterWrite_inv hs
  | quiesceTimeout => exact execQuiesceTimeout_inv hs
  | vfSuspendTimeout => exact execVfSuspendTimeout_inv hs
  | ringFormTimeout => exact execRingFormTimeout_inv hs
  | cisternPoolZeroed => exact execCisternPoolZeroed_inv hs
  | dirtyBitmapMerge => exact execDirtyBitmapMerge_inv hs
  | cardBusyDetect => exact execCardBusyDetect_inv hs
  | srIovVfEnable => exact execSrIovVfEnable_inv hs
  | spdmRequest => exact execSpdmRequest_inv hs
  | vddAonRise => exact execVddAonRise_inv hs
  | vddIoRise => exact execVddIoRise_inv hs

theorem idle_inv {s : State} (hs : s.Inv) : s.idle.Inv := by
  unfold State.idle
  split
  · exact inv_of hs rfl rfl rfl rfl rfl rfl
  · exact hs

theorem step_inv {s : State} (hs : s.Inv) : InvR (step s) := by
  unfold step
  split
  · exact idle_inv hs
  · exact exec_inv (inv_of hs rfl rfl rfl rfl rfl rfl)

/-- Settles O56: an idle step moves the tick alone, and a command keeps the invariant on the state with the queue's
rest. -/
theorem stepsKeepTheInvariant : Obligations.StepsKeepTheInvariant := by
  intro s t hs hstep
  have hkept := step_inv hs
  rw [hstep] at hkept
  exact hkept

end Sys2Proof.Machine

/-! PROOFS. The entropy unit (R332 to R343): its start-up, raw blocks and source tests, and the reseeds of the main DRBG
and of the tenants' generators. -/

namespace Sys2Proof.Machine

/-! ## Alarms leave ENT_READY (R416, R419, R420) -/

/-- Steps that each leave the entropy unit leave it together. -/
theorem foldl_ent {α : Type} {f : State → α → State} (hf : ∀ t a, (f t a).ent = t.ent) {l : List α} {s : State} :
    (l.foldl f s).ent = s.ent :=
  List.foldlRecOn l f (motive := fun t => t.ent = s.ent) rfl fun _ ht a _ => (hf _ a).trans ht

theorem returnUnit_ent {s : State} {c : UnitChange} : (s.returnUnit c).ent = s.ent := by
  unfold State.returnUnit
  extract_lets back scrubs t
  split <;> rfl

theorem endAmend_ent {s : State} {st : Status} {body : List Byte} : (s.endAmend st body).ent = s.ent := by
  unfold State.endAmend
  split
  · rfl
  · exact endWaitWith_frame.ent

theorem rollback_ent {s : State} {st : Status} : (s.rollback st).ent = s.ent := by
  unfold State.rollback
  split
  · rfl
  · next a _ =>
    have hreturned : (a.changes.foldl State.returnUnit s).ent = s.ent := foldl_ent fun _ _ => returnUnit_ent
    split
    · rfl
    · rfl
    · extract_lets t u
      split
      · exact hreturned
      · exact endAmend_ent.trans hreturned

theorem endHolders_ent {s : State} {p : Item → Bool} : (s.endHolders p).ent = s.ent :=
  foldl_ent fun _ _ => failItem_frame.ent

theorem eraseUnit_ent {s : State} {u : Nat} {counts : Bool} : (s.eraseUnit u counts).ent = s.ent := by
  unfold State.eraseUnit
  extract_lets one
  split
  · rfl
  · split <;> rfl

theorem noteLockOut_ent {s : State} {u : UnitNo} : (s.noteLockOut u).ent = s.ent := by
  unfold State.noteLockOut
  split <;> rfl

theorem fenceEngine_ent {s : State} {e : Nat} {counts : Bool} : (s.fenceEngine e counts).ent = s.ent := endHolders_ent

/-- Of all units only the entropy unit itself changes when it is fenced, and it stays as ready as it was (R336). -/
theorem fenceUnit_ready {s : State} {u : UnitNo} {counts : Bool} : (s.fenceUnit u counts).ent.ready = s.ent.ready := by
  unfold State.fenceUnit
  split
  · rfl
  split
  · extract_lets t1 t2 t3
    have h1 : t1.ent = s.ent := eraseUnit_ent
    have h2 : t2.ent = s.ent := endHolders_ent.trans h1
    have h3 : t3.ent = s.ent := by
      unfold t3
      split
      · exact rollback_ent.trans h2
      · exact h2
    split
    · rw [noteLockOut_ent, h3]
    · rw [h3]
  split
  · extract_lets t
    have ht : t.ent = s.ent := fenceEngine_ent
    split
    · rw [noteLockOut_ent, ht]
    · rw [ht]
  split
  · extract_lets c t
    rw [endHolders_ent]
    rfl
  split <;> rfl

theorem noteMode_ent {s t : State} : (s.noteMode t).ent = t.ent := by
  obtain ⟨sys, h, -, -⟩ := noteMode_eq (s := s) (t := t)
  rw [h]

/-- The erasures of a HALT leave ENT_READY (R346). -/
theorem enterAlarmHold_ready {s : State} : s.enterAlarmHold.ent.ready = s.ent.ready := by
  unfold State.enterAlarmHold
  extract_lets t u
  have ht : t.ent = s.ent := modeStatusAll_frame.ent
  rw [noteMode_ent]
  change t.ent.ready = _
  rw [ht]

theorem startZeroise_ent {s : State} : s.startZeroise.ent = s.ent := by
  unfold State.startZeroise State.sendRing
  split
  · split <;> rfl
  · rfl

theorem tearOtp_ent {s : State} {a : StoreAction} : (s.tearOtp a).ent = s.ent := by
  cases a <;> rfl

theorem abandonStores_ent {s : State} : s.abandonStores.ent = s.ent := foldl_ent fun _ _ => tearOtp_ent

theorem respond_ready {s : State} {before : Option Level} {l : Level} :
    (s.respond before l).ent.ready = s.ent.ready := by
  unfold State.respond
  extract_lets _ raised t
  have ht : t.ent = s.ent := by
    unfold t
    split
    · exact startZeroise_ent
    · rfl
  split
  · exact congrArg EntState.ready ht
  · exact congrArg EntState.ready ht
  · rw [abandonStores_ent, ht]
  · split
    · rw [enterAlarmHold_ready, ht]
    · rw [ht]

theorem appendLog_ent {s : State} {e : LogEntry} : (s.appendLog e).ent = s.ent := by
  unfold State.appendLog
  extract_lets t u
  split
  · split
    · rfl
    · rfl
    · rfl
    · exact sendVector_frame.ent
  · rfl

theorem logOne_ent {s : State} {e : LogEntry} : (s.logOne e).ent = s.ent := by
  unfold State.logOne
  extract_lets m soon noted _ counted
  split
  · rfl
  · have hcounted : counted.ent = s.ent := by
      unfold counted
      split <;> rfl
    exact appendLog_ent.trans hcounted

theorem requestWarm_ent {s : State} {c : WarmCause} : (s.requestWarm c).ent = s.ent := by
  unfold State.requestWarm
  split
  · rfl
  · rfl
  · rfl
  · split <;> rfl

theorem stewardAlarm_ent {s : State} : s.stewardAlarm.ent = s.ent := by
  unfold State.stewardAlarm
  extract_lets again t
  split
  · rfl
  · exact requestWarm_ent

/-- A tick without events changes nothing. -/
theorem raiseEvents_nil {s : State} : s.raiseEvents [] = s := by
  unfold State.raiseEvents
  split <;> rfl

/-- No alarm's response, fence or log entry makes the entropy unit ready or unready. -/
theorem raiseEvents_ready {s : State} {evs : List AlarmEv} : (s.raiseEvents evs).ent.ready = s.ent.ready := by
  unfold State.raiseEvents
  split
  · rfl
  extract_lets noted alarms before top wide hold entries answered logged told
  have hnoted : noted.ent = s.ent := foldl_ent (f := State.noteEvent) fun _ _ => rfl
  split
  · rw [hnoted]
  have hanswered : answered.ent.ready = s.ent.ready := by
    unfold answered
    split
    · split
      · rw [hnoted]
      · rw [respond_ready, hnoted]
    · refine List.foldlRecOn alarms _ (motive := fun (t : State) => t.ent.ready = s.ent.ready) (by rw [hnoted])
        fun t ht e _ => ?_
      split
      · exact fenceUnit_ready.trans ht
      · exact ht
  have hlogged : logged.ent.ready = s.ent.ready :=
    (congrArg EntState.ready (foldl_ent fun _ _ => logOne_ent)).trans hanswered
  have htold : told.ent.ready = s.ent.ready := by
    unfold told
    split
    · rw [stewardAlarm_ent, hlogged]
    · exact hlogged
  split
  · rw [noteMode_ent, htold]
  · exact htold

/-! ## Start-up (R340) -/

section
variable {s : State}

/-- A source after its start-up test, by its number: one that fails its first run is fenced unless it passes its
repeat. -/
def EntSource.started (first again : BitVec 32) (x : EntSource × Nat) : EntSource :=
  if first.getLsbD x.2 then { x.1 with healthy := true, fenced := false }
  else { x.1 with healthy := again.getLsbD x.2, fenced := !again.getLsbD x.2, fences := x.1.fences + 1 }

/-- The state in which the start-up tests of the sources have ended. -/
def State.sourcesStarted (s : State) (first again : BitVec 32) : State :=
  { s with ent := { s.ent with sources := s.ent.sources.zipIdx.map (EntSource.started first again) } }

/-- The start-up tests run: the device is in Boot, and they have not ended yet (R340). -/
structure State.StartsUp (s : State) : Prop where
  boot : s.sys.phase = .boot
  notReady : s.ent.ready = false
  noFault : s.ent.fault = false
  notTested : s.ent.awaitMtag = false
  notErased : s.ent.erased = false

theorem State.StartsUp.not_over (h : s.StartsUp) :
    ¬ (s.sys.phase ≠ .boot ∨ s.ent.ready = true ∨ s.ent.fault = true ∨ s.ent.awaitMtag = true ∨
      s.ent.erased = true) := by
  simp [h.boot, h.notReady, h.noFault, h.notTested, h.notErased]

/-- The events of the start-up tests: one of each source that failed its first run, and one of the unit where fewer than
16 sources are healthy. -/
def State.startEvents (s : State) (first : BitVec 32) : List AlarmEv :=
  (((List.range 32).filter fun i => !first.getLsbD i).map fun i => unitEvent 0x7 i none) ++
    (if decide (s.healthy < 16) then [unitEvent 0x7 32 none] else [])

/-- The state in which the start-up tests have ended and their events have been raised. -/
def State.startRaised (s : State) (first again : BitVec 32) : State :=
  (s.sourcesStarted first again).raiseEvents ((s.sourcesStarted first again).startEvents first)

theorem exec_entStartupDone_fault {first again : BitVec 32} (hstart : s.StartsUp) :
    exec (.entStartupDone first again false) s =
      .next { s.startRaised first again with
        ent := { (s.startRaised first again).ent with fault := true } } := by
  change execEntStartupDone first again false s = _
  unfold execEntStartupDone
  rw [if_neg hstart.not_over]
  exact if_pos (Or.inr rfl)

/-- A source that has passed its start-up test. -/
def EntSource.passed (x : EntSource) : EntSource := { x with healthy := true, fenced := false }

/-- The first 32 sources pass where every first run passes. -/
theorem map_started_allOnes {again : BitVec 32} {xs : List EntSource} (hlen : xs.length ≤ 32) :
    xs.zipIdx.map (EntSource.started (BitVec.allOnes 32) again) = xs.map EntSource.passed := by
  have hpassed : ∀ p ∈ xs.zipIdx, EntSource.started (BitVec.allOnes 32) again p = p.1.passed := by
    intro p hp
    have hnumber : p.2 < 32 := Nat.lt_of_lt_of_le (List.snd_lt_of_mem_zipIdx hp) hlen
    rw [EntSource.started, BitVec.getLsbD_allOnes, decide_eq_true hnumber, if_pos rfl]
    rfl
  calc xs.zipIdx.map (EntSource.started (BitVec.allOnes 32) again)
      = xs.zipIdx.map (EntSource.passed ∘ Prod.fst) := List.map_congr_left hpassed
    _ = xs.map EntSource.passed := by rw [← List.map_map, List.zipIdx_map_fst]

theorem sourcesStarted_healthy (hlen : s.ent.sources.length = 32) {again : BitVec 32} :
    (s.sourcesStarted (BitVec.allOnes 32) again).healthy = 32 := by
  change ((s.ent.sources.zipIdx.map (EntSource.started (BitVec.allOnes 32) again)).filter (·.healthy)).length = 32
  rw [map_started_allOnes hlen.le, List.filter_eq_self.mpr fun x hx => ?_, List.length_map, hlen]
  obtain ⟨y, -, rfl⟩ := List.mem_map.mp hx
  rfl

/-- 32 sources that all pass raise no event. -/
theorem startRaised_allPass (hlen : s.ent.sources.length = 32) {again : BitVec 32} :
    s.startRaised (BitVec.allOnes 32) again = s.sourcesStarted (BitVec.allOnes 32) again := by
  have hnone : (s.sourcesStarted (BitVec.allOnes 32) again).startEvents (BitVec.allOnes 32) = [] := by
    rw [State.startEvents, sourcesStarted_healthy hlen]
    rfl
  rw [State.startRaised, hnone, raiseEvents_nil]

/-- Two more start-up blocks are conditioned into an output of 48 bytes. -/
def startOutput (a : List (List Byte) × State) : List (List Byte) × State :=
  (a.1 ++ [(a.2.freeBytes 48).1], (a.2.freeBytes 48).2)

/-- Eight start-up blocks fill the pool, and the main DRBG waits for VLT_MTAG. -/
def State.startConditioned (s : State) : State :=
  let p := (List.range 4).foldl (fun a _ => startOutput a) ([], s)
  { p.2 with ent := { p.2.ent with pool := p.1, blkOk := p.2.ent.blkOk + 8, awaitMtag := true } }

theorem startConditioned_eq : ∃ pool fresh, pool.length = 4 ∧ s.startConditioned =
    { s with fresh := fresh, ent := { s.ent with pool := pool, blkOk := s.ent.blkOk + 8, awaitMtag := true } } :=
  ⟨_, _, rfl, rfl⟩

/-- Every source and every known answer passes before VLT_MTAG is loaded. -/
theorem exec_entStartupDone_passes (hstart : s.StartsUp) (hlen : s.ent.sources.length = 32)
    (hstage : s.lcb.stage ≠ 0x7) :
    exec (.entStartupDone (BitVec.allOnes 32) 0 true) s =
      .next (s.sourcesStarted (BitVec.allOnes 32) 0).startConditioned := by
  have hraised : s.startRaised (BitVec.allOnes 32) 0 = s.sourcesStarted (BitVec.allOnes 32) 0 :=
    startRaised_allPass hlen
  have henough : ¬ (decide ((s.sourcesStarted (BitVec.allOnes 32) 0).healthy < 16) = true ∨ (!true) = true) := by
    rw [sourcesStarted_healthy hlen]
    decide
  have hwaits : (s.startRaised (BitVec.allOnes 32) 0).lcb.stage ≠ 0x7 := by
    rw [hraised]
    exact hstage
  change execEntStartupDone _ 0 true s = _
  unfold execEntStartupDone
  rw [if_neg hstart.not_over]
  exact (if_neg henough).trans ((if_neg hwaits).trans
    (congrArg (fun t : State => Host.Outcome.next t.startConditioned) hraised))

end

/-! ## Raw blocks (R332 to R337) -/

section
variable {s : State} {n : Nat} {x : EntSource} {b : List Byte}

/-- A change of the entry at a place that is there sets it to the changed entry. -/
theorem modify_eq_set {α : Type} {f : α → α} {k : Nat} {a : α} {l : List α} (h : l[k]? = some a) :
    l.modify k f = l.set k (f a) := by
  rw [List.modify_eq_set_getElem?, h]
  rfl

theorem not_blockIgnored (hlen : b.length = 512) (hhealthy : x.healthy = true) (hready : s.ent.ready = true)
    (herased : s.ent.erased = false) :
    ¬ (b.length ≠ 512 ∨ (!x.healthy) = true ∨ (!s.ent.ready) = true ∨ s.ent.erased = true) := by
  simp [hlen, hhealthy, hready, herased]

/-- A change of one source that leaves it as healthy as it was leaves the number of healthy sources. -/
theorem healthy_of_modified {t : State} {f : EntSource → EntSource}
    (hsources : t.ent.sources = s.ent.sources.modify n f) (hf : ∀ y, (f y).healthy = y.healthy) :
    t.healthy = s.healthy := by
  rw [State.healthy, State.healthy, hsources]
  clear hsources
  generalize s.ent.sources = ys
  induction ys generalizing n with
  | nil => simp
  | cons y ys ih =>
    cases n with
    | zero =>
      simp only [List.modify_zero_cons, List.filter_cons, hf]
      split <;> rfl
    | succ n =>
      simp only [List.modify_succ_cons, List.filter_cons]
      split
      · exact congrArg (· + 1) ih
      · exact ih

/-- A block that passes both tests is conditioned into the pool, while the pool has room and the unit may fill it. -/
theorem exec_entropyBlock_joins (hsource : s.ent.sources[n]? = some x) (hlen : b.length = 512)
    (hhealthy : x.healthy = true) (hready : s.ent.ready = true) (herased : s.ent.erased = false)
    (hrct : (rctRun x.run b).1 = false) (hapt : aptFails b = false) (hroom : s.ent.pool.length < 4)
    (hfills : s.ent.fenced = false ∨ 16 ≤ s.healthy) :
    exec (.entropyBlock n b) s = .next { s with ent := { s.ent with
      sources := s.ent.sources.modify n fun y => { y with run := (rctRun x.run b).2 }
      blkOk := s.ent.blkOk + 1
      pool := s.ent.pool ++ [sha384 (b ++ [BitVec.ofNat 8 n])] } } := by
  have hpasses : ¬ ((rctRun x.run b).1 = true ∨ aptFails b = true) := by simp [hrct, hapt]
  change execEntropyBlock n b s = _
  unfold execEntropyBlock
  rw [hsource]
  refine (if_neg (not_blockIgnored hlen hhealthy hready herased)).trans ((if_neg hpasses).trans ?_)
  extract_lets tested _ counted
  have hmany : counted.healthy = s.healthy := healthy_of_modified rfl fun _ => rfl
  have hfillable : counted.ent.fenced = false ∨ 16 ≤ counted.healthy := by
    rw [hmany]
    exact hfills
  have hjoins : counted.ent.pool.length < 4 ∧ ((!counted.ent.fenced) = true ∨ 16 ≤ counted.healthy) :=
    ⟨hroom, hfillable.imp_left (congrArg (!·))⟩
  exact if_pos hjoins

/-- A source whose block has failed at a tick, with its earlier failures still kept. -/
def EntSource.failed (tick : Nat) (fails : List Nat) (x : EntSource) : EntSource :=
  { x with run := none, last := tick, fails := tick :: fails }

/-- One failure adds at most one to those that count toward the fence (R334). -/
theorem windowFails_counted {t : State} (hsource : s.ent.sources[n]? = some x)
    (hsources : t.ent.sources = s.ent.sources.modify n (EntSource.failed s.sys.tick (s.windowFails n))) :
    (t.windowFails n).length ≤ (s.windowFails n).length + 1 := by
  rw [State.windowFails, hsources, List.getElem?_modify_eq, hsource]
  exact List.length_filter_le _ _

/-- A block that fails the repetition count test below the count of the source's fence is counted, and the source keeps
its failure. -/
theorem exec_entropyBlock_counts (hsource : s.ent.sources[n]? = some x) (hlen : b.length = 512)
    (hhealthy : x.healthy = true) (hready : s.ent.ready = true) (herased : s.ent.erased = false)
    (hrct : (rctRun x.run b).1 = true) (hbelow : (s.windowFails n).length + 1 < s.senParam 0x7 n 3) :
    exec (.entropyBlock n b) s = .next { s with ent := { s.ent with
      sources := s.ent.sources.modify n (EntSource.failed s.sys.tick (s.windowFails n))
      blkFail := s.ent.blkFail + 1
      rctFail := s.ent.rctFail + 1
      aptFail := if aptFails b then s.ent.aptFail + 1 else s.ent.aptFail } } := by
  change execEntropyBlock n b s = _
  unfold execEntropyBlock
  rw [hsource]
  refine (if_neg (not_blockIgnored hlen hhealthy hready herased)).trans ((if_pos (Or.inl hrct)).trans ?_)
  extract_lets failed _ counted
  have hunfenced : (counted.windowFails n).length < counted.senParam 0x7 n 3 :=
    Nat.lt_of_le_of_lt (windowFails_counted hsource rfl) hbelow
  refine (if_neg (Nat.not_le.mpr hunfenced)).trans ?_
  unfold counted
  rw [if_pos hrct]
  rfl

end

/-! ## Source tests (R335) -/

section
variable {s : State} {n : Nat} {x : EntSource}

theorem exec_sourceRetest_starts (hsource : s.ent.sources[n]? = some x) (hfenced : x.fenced = true)
    (hlocked : x.locked = false) (htesting : x.testing = false) (herased : s.ent.erased = false) :
    exec (.sourceRetest n) s = .next (s.modifySource n fun x => { x with testing := true }) := by
  change execSourceRetest n s = _
  simp only [execSourceRetest, hsource, hfenced, hlocked, htesting, herased, Bool.not_false, and_self, if_true]

theorem exec_sourceRetestDone_passed (hsource : s.ent.sources[n]? = some x) (htesting : x.testing = true)
    (herased : s.ent.erased = false) :
    exec (.sourceRetestDone n true) s = .next (s.modifySource n fun x =>
      { x with testing := false, healthy := true, fenced := false, fails := [], run := none }) := by
  change execSourceRetestDone n true s = _
  simp only [execSourceRetestDone, hsource, htesting, herased, Bool.not_true, Bool.false_eq_true, or_self,
    if_false, if_true]

theorem exec_sourceRetestDone_failed (hsource : s.ent.sources[n]? = some x) (htesting : x.testing = true)
    (herased : s.ent.erased = false) :
    exec (.sourceRetestDone n false) s = .next (s.modifySource n fun x =>
      { x with testing := false, fences := x.fences + 1, locked := decide (3 ≤ x.fences + 1) }) := by
  change execSourceRetestDone n false s = _
  simp only [execSourceRetestDone, hsource, htesting, herased, Bool.not_true, Bool.false_eq_true, or_self, if_false]

end

/-! ## The main DRBG (R336, R338) -/

section
variable {s : State} {d : Drbg}

theorem reseedMain_eq {seed : List Byte} {rest : List (List Byte)} (hmain : s.ent.main = some d)
    (hpool : s.ent.pool = seed :: rest) : s.reseedMain = { s with ent := { s.ent with
      pool := rest
      main := some (d.reseed (padTo 48 seed) (zeros 48))
      mainServing := true
      mainReseeds := s.ent.mainReseeds + 1 } } := by
  simp only [State.reseedMain, hpool, hmain]

/-- The oldest pool entry reseeds the main DRBG, re-admits a fenced unit that has 16 healthy sources, and lets the key
fills that waited go on. -/
theorem exec_mainDrbgReseed_reseeds {seed : List Byte} {rest : List (List Byte)} (hmain : s.ent.main = some d)
    (hpool : s.ent.pool = seed :: rest) (herased : s.ent.erased = false) (hready : s.ent.ready = true)
    (hserves : s.ent.fenced = false ∨ 16 ≤ s.healthy) :
    ∃ sys, exec .mainDrbgReseed s = .next { s with
      sys := sys
      vault := { s.vault with fills := s.vault.fills.map fun f => { f with started := true } }
      ent := { s.ent with
        pool := rest
        main := some (d.reseed (padTo 48 seed) (zeros 48))
        mainServing := true
        mainReseeds := s.ent.mainReseeds + 1
        fenced := false } } := by
  have hable : ¬ (s.ent.main.isNone = true ∨ s.ent.pool = [] ∨ s.ent.erased = true ∨ (!s.ent.ready) = true) := by
    simp [hmain, hpool, herased, hready]
  change ∃ sys, execMainDrbgReseed s = _
  rw [execMainDrbgReseed, if_neg hable]
  cases hfenced : s.ent.fenced with
  | false =>
    refine ⟨s.sys, ?_⟩
    simp only [Bool.false_eq_true, if_false, reseedMain_eq hmain hpool, State.startFills, hfenced]
  | true =>
    have hmany : ¬ s.healthy < 16 := Nat.not_lt.mpr (hserves.resolve_left (by simp [hfenced]))
    obtain ⟨sys, hnoted, -, -⟩ := noteMode_eq (s := s)
      (t := { s.reseedMain with ent := { s.reseedMain.ent with fenced := false } })
    refine ⟨sys, ?_⟩
    rw [if_pos rfl, if_neg hmany]
    dsimp only
    rw [hnoted]
    simp only [reseedMain_eq hmain hpool, State.startFills]

theorem exec_mainDrbgStop_stops (hfenced : s.ent.fenced = true) (hcount : 2 ^ 20 ≤ s.mainSince) :
    exec .mainDrbgStop s = .next { s with ent := { s.ent with mainServing := false } } := by
  change execMainDrbgStop s = _
  rw [execMainDrbgStop, if_pos ⟨hfenced, hcount⟩]

end

/-! ## Tenants' generators (R343) -/

section
variable {s s' : State} {t : Byte} {d : TenantDrbg} {r : List Byte}

theorem exec_tenantReseedRequest_asks (hinst : s.tenantDrbg t = some d) (hcount : 2 ^ 23 ≤ d.drbg.since)
    (hasked : d.asked = false) :
    exec (.tenantReseedRequest t) s = .next (s.setTenantDrbg t { d with asked := true }) := by
  change execTenantReseedRequest t s = _
  simp only [execTenantReseedRequest, hinst, hcount, hasked, Bool.not_false, and_self, if_true]

theorem exec_tenantReseed_reseeds (hinst : s.tenantDrbg t = some d) (hasked : d.asked = true)
    (hfenced : s.ent.fenced = false) (hmain : s.mainServes = true) (hdraw : s.draw 48 = (r, s')) :
    exec (.tenantReseed t) s =
      .next (s'.setTenantDrbg t { d with drbg := d.drbg.reseed (padTo 48 r) (zeros 48), asked := false }) := by
  change execTenantReseed t s = _
  simp only [execTenantReseed, hinst, hasked, hfenced, hmain, hdraw, Bool.not_true, Bool.false_eq_true, or_self,
    if_false]

end

/-! ## The entropy unit and its generators (R332 to R343) -/

/-- The first part of O18. -/
theorem entropySourcesAndPool : EntropySourcesAndPool := by
  refine ⟨fun s hboot hready hfault htag herased hlen hstage => ?_, fun s hboot hready hfault htag herased => ?_,
    fun s n x b hsource hlen hhealthy hready herased hrct hapt hroom hfills => ?_,
    fun s n x b hsource hlen hhealthy hready herased hrct hbelow => ?_,
    fun _ _ _ => exec_sourceRetest_starts, fun _ _ _ => exec_sourceRetestDone_passed,
    fun _ _ _ => exec_sourceRetestDone_failed⟩
  · obtain ⟨pool, fresh, hpool, hconditioned⟩ :=
      startConditioned_eq (s := s.sourcesStarted (BitVec.allOnes 32) 0)
    refine ⟨_, exec_entStartupDone_passes ⟨hboot, hready, hfault, htag, herased⟩ hlen hstage, ?_⟩
    rw [hconditioned]
    refine ⟨rfl, hpool, rfl, ?_, hready, rfl, rfl, rfl⟩
    change ((s.ent.sources.zipIdx.map (EntSource.started (BitVec.allOnes 32) 0)).all _) = true
    rw [map_started_allOnes hlen.le, List.all_map]
    exact List.all_eq_true.mpr fun _ _ => rfl
  · exact ⟨_, exec_entStartupDone_fault ⟨hboot, hready, hfault, htag, herased⟩, rfl,
      raiseEvents_ready.trans hready⟩
  · refine ⟨_, exec_entropyBlock_joins hsource hlen hhealthy hready herased hrct hapt hroom hfills, ?_, rfl⟩
    rw [modify_eq_set hsource, modify_eq_set hsource]
  · refine ⟨_, exec_entropyBlock_counts hsource hlen hhealthy hready herased hrct hbelow, rfl, rfl, rfl, rfl, ?_,
      rfl⟩
    rw [List.getElem?_modify_eq, hsource]
    rfl

/-- The second part of O18. -/
theorem drbgReseeds : DrbgReseeds := by
  refine ⟨fun s d seed rest hmain hpool herased hready hserves => ?_, fun _ => exec_mainDrbgStop_stops,
    fun _ _ _ => exec_tenantReseedRequest_asks, fun _ _ _ _ _ => exec_tenantReseed_reseeds⟩
  obtain ⟨sys, hreseeded⟩ := exec_mainDrbgReseed_reseeds hmain hpool herased hready hserves
  exact ⟨_, hreseeded, rfl, rfl, rfl, rfl, rfl⟩

/-- Settles O18 by its two parts. -/
theorem entropyAndItsGenerators : Obligations.EntropyAndItsGenerators := ⟨entropySourcesAndPool, drbgReseeds⟩

end Sys2Proof.Machine

/-! PROOFS. Random opcodes (R344, R345, R347, R348): RANDOM and RANDOM_RESEED of a running item whose turn it is. -/

namespace Sys2Proof.Machine

section
variable {s s' : State} {it : Item} {d : TenantDrbg} {r : List Byte}

/-- The item is the first that waits for its tenant's generator, or none waits (R345). -/
def TenantDrbg.serves (d : TenantDrbg) (id : Nat) : Prop := d.waiting = [] ∨ d.waiting.head? = some id

theorem TenantDrbg.serves.not_queued {id : Nat} (h : d.serves id) : ¬ (d.waiting ≠ [] ∧ d.waiting.head? ≠ some id) :=
  fun ⟨hsome, hother⟩ => h.elim hsome hother

theorem exec_random_generates (hrun : s.Runs it 0x0601) (herased : s.ent.erased = false)
    (hinst : s.tenantDrbg it.tenantByte = some d) (hturn : d.serves it.id) (hpred : bit (it.byte 28) 0 = false)
    (hcount : d.drbg.since < 2 ^ 24) :
    exec (.random it.id) s = .next (
      ((s.randomServed it { d with drbg := (d.drbg.generate (it.le 24 4) it.addin).2 }).writeOut it.id (it.le 16 8)
        (d.drbg.generate (it.le 24 4) it.addin).1).complete it.id stOk (okBody (it.le 24 4)
          (randomRest (d.drbg.generate (it.le 24 4) it.addin).2.since (it.stage == 1) s.ent.fenced))) := by
  have hop : it.opcode = 0x0601 := hrun.2.2
  change execRandom it.id s = _
  rw [execRandom, onRunning_eq hrun]
  simp only [hop, herased, hinst, hpred, if_neg hturn.not_queued, Nat.not_le.mpr hcount, ne_eq, not_true_eq_false,
    Bool.false_eq_true, or_self, false_and, and_false, if_false, Bool.false_or]

theorem exec_random_predicts (hrun : s.Runs it 0x0601) (herased : s.ent.erased = false)
    (hinst : s.tenantDrbg it.tenantByte = some d) (hturn : d.serves it.id) (hpred : bit (it.byte 28) 0 = true)
    (hfresh : s.freshReseed = true) (hdraw : s.reseedMain.draw 48 = (r, s')) {e : Drbg}
    (he : e = d.drbg.reseed (padTo 48 r) (zeros 48)) :
    exec (.random it.id) s = .next (
      ((s'.randomServed it { d with drbg := (e.generate (it.le 24 4) it.addin).2 }).writeOut it.id (it.le 16 8)
        (e.generate (it.le 24 4) it.addin).1).complete it.id stOk (okBody (it.le 24 4)
          (randomRest (e.generate (it.le 24 4) it.addin).2.since true s.ent.fenced))) := by
  subst he
  have hop : it.opcode = 0x0601 := hrun.2.2
  change execRandom it.id s = _
  rw [execRandom, onRunning_eq hrun]
  simp only [hop, herased, hinst, hpred, hfresh, hdraw, if_neg hturn.not_queued, ne_eq, not_true_eq_false,
    Bool.false_eq_true, or_self, false_and, and_false, Bool.not_true, if_false, if_true, Bool.true_or]

theorem exec_randomReseed_reseeds (hrun : s.Runs it 0x0602) (herased : s.ent.erased = false)
    (hinst : s.tenantDrbg it.tenantByte = some d) (hturn : d.serves it.id) (hfresh : s.freshReseed = true)
    (hdraw : s.reseedMain.draw 48 = (r, s')) :
    exec (.randomReseed it.id) s = .next (
      (s'.randomServed it { d with drbg := d.drbg.reseed (padTo 48 r) it.addin, asked := false }).complete it.id stOk
        (okBody 0 (randomRest (d.drbg.reseed (padTo 48 r) it.addin).since true s.ent.fenced))) := by
  have hnow : ¬ ((d.waiting ≠ [] ∧ d.waiting.head? ≠ some it.id) ∨ (!s.freshReseed) = true) := by
    rw [hfresh]
    exact (·.elim hturn.not_queued Bool.noConfusion)
  have hop : it.opcode = 0x0602 := hrun.2.2
  change execRandomReseed it.id s = _
  rw [execRandomReseed, onRunning_eq hrun]
  simp only [hop, herased, hinst, hdraw, if_neg hnow, ne_eq, not_true_eq_false, Bool.false_eq_true, or_self, if_false]

end

/-- Settles O19: an item whose turn it is draws on its tenant's generator, after the two reseeds of R344 where
PREDICTION asks for them; RANDOM_RESEED makes the reseeds alone. -/
theorem randomOpcodes : Obligations.RandomOpcodes :=
  ⟨fun _ _ _ => exec_random_generates,
    fun _ _ _ _ _ _ hrun herased hinst hturn hpred hfresh hdraw he =>
      exec_random_predicts hrun herased hinst hturn hpred hfresh hdraw he,
    fun _ _ _ _ _ => exec_randomReseed_reseeds⟩

end Sys2Proof.Machine

/-! PROOFS. The command queue (R407), memory commands (R278, R381 to R405), and a debug write to memory that is not in its
canonical form. -/

namespace Sys2Proof.Machine

/-! ## The command queue -/

/-- Settles O52: a step matches the queue, and its front command is what it runs. -/
theorem stepRunsTheFrontCommand : Obligations.StepRunsTheFrontCommand := by
  intro s c rest hfront
  rw [step, hfront]

theorem step_of_idle {s : State} (hempty : s.pending = []) : step s = .next s.idle := by
  rw [step, hempty]

/-- Settles O53: an idle step is a tick while VDD_AON is up, and nothing otherwise. -/
theorem anIdleStepIsATick : Obligations.AnIdleStepIsATick := by
  refine ⟨?_, ?_⟩
  · intro s hempty hup
    rw [step_of_idle hempty, State.idle, if_pos hup]
  · intro s hempty hdown
    rw [step_of_idle hempty, State.idle, if_neg (ne_true_of_eq_false hdown)]

/-! ## Memory commands (R381, R382, R387, R396, R402, R405) -/

section
variable {s : State}

theorem exec_memoryKeyLoad_draws {s1 s2 : State} {a b : List Byte} (hserves : s.mainServes = true)
    (hnew : s.mem.keyLoaded = false) (ha : s.draw 32 = (a, s1)) (hb : s1.draw 32 = (b, s2)) :
    exec .memoryKeyLoad s = .next { s2 with mem := { s2.mem with
      keyLoaded := true, memKey := a ++ b, sweepDone := false, initMap := [] } } := by
  change execMemoryKeyLoad s = _
  rw [execMemoryKeyLoad, if_neg (by simp [hserves, hnew]), ha]
  simp only [hb]

theorem exec_hbmInitSweepDone_ends (hloaded : s.mem.keyLoaded = true) (hsweeps : s.mem.sweepDone = false) :
    exec .hbmInitSweepDone s = .next { s with mem := { s.mem with sweepDone := true, initMap := [] } } := by
  change execHbmInitSweepDone s = _
  rw [execHbmInitSweepDone, if_pos (by simp [hloaded, hsweeps])]

theorem sync_served {answer : Word} (hmmio : s.mmioOk 0 = true) : s.sync answer =
    { s with mem := { s.mem with syncs := s.mem.syncs + 1 }, out := .response answer :: s.out } := by
  rw [State.sync, if_neg (by simp [hmmio])]
  rfl

theorem exec_memViolPop_pops {g : Nat} {v : Word} {q : ViolFifo} (hmmio : s.mmioOk 0 = true)
    (hbit : v.getLsbD 0 = true) (hfifo : s.mem.fifos[g]? = some q) : exec (.memViolPop g v) s =
      .next { s with mem := { s.mem with fifos := s.mem.fifos.set g { q with records := q.records.drop 1 } } } := by
  change Host.Outcome.next (s.violPop g v) = _
  rw [State.violPop, if_neg (by simp [hmmio, hbit]), hfifo]

/-- The state in which a staging allocation has been zeroed and its place can be given again. -/
def State.zeroed (s : State) (a : StagingAlloc) (n : Nat) : State :=
  { s with mem := { s.mem with
      allocs := s.mem.allocs.filter (·.id != n)
      cells := memErase s.mem.cells (stagingBase + a.offset) (stagingBase + a.offset + a.size) } }

theorem exec_allocationZeroed_found {n : Nat} {a : StagingAlloc}
    (hfound : s.mem.allocs.find? (fun x => x.id == n && x.zeroing) = some a) :
    exec (.allocationZeroed n) s = .next ((s.zeroed a n).wakeLacking [.share]) := by
  change execAllocationZeroed n s = _
  rw [execAllocationZeroed, hfound]
  rfl

theorem exec_cisternPoolZeroed_listed {e first n : Nat} {k : PkEngine} (hengine : s.pke.engines[e]? = some k)
    (hlisted : k.zeroing.contains (first, n) = true) : exec (.cisternPoolZeroed e first n) s =
      .next ((s.modifyEngine e fun k => { k with zeroing := k.zeroing.erase (first, n) }).wakeLacking [.cistern]) := by
  change execCisternPoolZeroed e first n s = _
  rw [execCisternPoolZeroed, hengine]
  exact if_pos hlisted

end

/-- Settles O10, clause by clause: waking the items that lacked a resource reaches none of the parts named. -/
theorem memoryCommands : Obligations.MemoryCommands := by
  refine ⟨fun _ _ _ _ _ => exec_memoryKeyLoad_draws, fun _ => exec_hbmInitSweepDone_ends, ?_, ?_,
    fun _ _ _ _ => exec_memViolPop_pops, ?_, ?_⟩
  · exact fun s v hmmio => congrArg Host.Outcome.next (sync_served hmmio)
  · exact fun s hmmio => congrArg Host.Outcome.next (sync_served hmmio)
  · intro s n a hfound
    exact ⟨_, exec_allocationZeroed_found hfound, rfl, fun x hlow hhigh => memByte_memErase_in hlow hhigh,
      fun x hout => memByte_memErase_out hout, rfl, rfl, rfl⟩
  · intro s e first n k hengine hlisted
    exact ⟨_, exec_cisternPoolZeroed_listed hengine hlisted, rfl, rfl, rfl, rfl⟩

/-! ## A debug write (R455) to memory that is not in its canonical form -/

/-- A BLANK part in Boot whose memory lists an address before a lower one. -/
def unsortedMemory : State :=
  { State.reset with mem := { MemState.reset with cells := [(stagingBase + 1, 1), (stagingBase, 7)] } }

/-- A zero written to the lower address is dropped at the entry above it, so the old byte still reads. -/
theorem unsortedMemory_dbgWrite :
    ∃ t, exec (.dbgAccess { addr := stagingBase, kind := .write, len := 1 } [0]) unsortedMemory = .next t ∧
      memByte t.mem.cells stagingBase = 7 := ⟨_, rfl, by decide +kernel⟩

/-- Refutes O11: its first clause does not ask that the memory list is in its canonical form, and in a list out of order
a zero that is written leaves the byte that stood there. -/
theorem not_debugAccessIsGuarded : ¬ Obligations.DebugAccessIsGuarded := by
  rintro ⟨⟨hwrite, -⟩, -⟩
  obtain ⟨t, hnext, hreads, -⟩ := hwrite unsortedMemory stagingBase [0] (by decide +kernel) (by decide +kernel)
    (by decide +kernel) (by decide +kernel) (by decide +kernel) (by decide +kernel) (by decide +kernel)
  obtain ⟨t', hnext', hkept⟩ := unsortedMemory_dbgWrite
  cases hnext.symm.trans hnext'
  exact absurd ((hreads 0 (by decide)).symm.trans hkept) (by decide)

end Sys2Proof.Machine

/-! PROOFS. SEN_FENCE (R434) on an item table that files an item under another's number. -/

namespace Sys2Proof.Machine

/-- A SEN_FENCE of furrow 0, with the number 7, that runs on core 0. -/
def runningFence : Item := { waitingItem with source := .queue 0 0 0, opcode := 0x0762, phase := .running 0 }

/-- An item with the number 5 that waits with context 0 of furrow 0 in its claim. -/
def furrowHolder : Item :=
  { waitingItem with id := 5, opcode := 0x0101, phase := .yielded .engine
                     claim := { Claim.none with shares := [(0, 0)] } }

/-- The item table files a waiting item with the fence's number under 5, and the holder of the furrow under 9. -/
def misfiledHolder : State :=
  { State.reset with
    sys := { SysState.reset with phase := .service }
    dsp := { DspState.reset with items := [(5, waitingItem), (7, runningFence), (9, furrowHolder)] } }

theorem misfiledHolder_vendorDefaults : VendorDefaults misfiledHolder := ⟨rfl, rfl, rfl, rfl⟩

/-- No item with the fence's number holds a share. -/
theorem misfiledHolder_shares : ∀ j ∈ misfiledHolder.itemList, j.id = runningFence.id → j.claim.shares = [] := by
  decide +kernel

/-- The fence ends what the table files under the number of the holder, and so itself. -/
theorem misfiledHolder_outcome : ∃ t, exec (.senFence 7) misfiledHolder = .next t ∧
    (t.item 7).map (·.outcome.status) = some stNoResource := ⟨_, rfl, by decide +kernel⟩

/-- Refutes O26: its second clause does not ask that each item is filed under its own number, and where the number of a
holder of the unit leads to an item that bears the fence's number, the SEN_FENCE itself ends with ST_NO_RESOURCE. -/
theorem not_sentinelOpcodes : ¬ Obligations.SentinelOpcodes := by
  rintro ⟨-, hfence, -⟩
  obtain ⟨t, hnext, -, -, -, ⟨it, hitem, -, houtcome⟩, -⟩ := hfence misfiledHolder runningFence 0 ⟨rfl, rfl, rfl⟩
    misfiledHolder_vendorDefaults rfl (by decide +kernel) (by decide +kernel) (by decide) (by decide +kernel)
    misfiledHolder_shares (fun a hamend => by cases hamend)
  obtain ⟨t', hnext', hself⟩ := misfiledHolder_outcome
  cases hnext.symm.trans hnext'
  rw [show t.item 7 = some it from hitem, Option.map_some, houtcome] at hself
  exact absurd hself (by decide)

end Sys2Proof.Machine

/-! PROOFS. The TAP (R454, R455) and the sideband (R541, R542). -/

namespace Sys2Proof.Machine

section
variable {s : State} {b : Bool} {act : State → State}

/-! ## TAP instructions (R454) -/

theorem tap_accepted (hruns : s.tapRuns = true) (hok : b = true) : s.tap b act = act s := by
  rw [State.tap, if_neg (by simp [hruns]), if_pos hok]

/-- An instruction that is not accepted acts as BYPASS. -/
theorem tap_not_accepted (hruns : s.tapRuns = true) (hok : b = false) : s.tap b act = s.tapBypass := by
  rw [State.tap, if_neg (by simp [hruns]), if_neg (ne_true_of_eq_false hok)]

theorem exec_bypass_eq {ir : Byte} (hruns : s.tapRuns = true) : exec (.bypass ir) s = .next s.tapBypass :=
  congrArg Host.Outcome.next (tap_accepted hruns rfl)

/-! ## DBG_TOKEN (R453) -/

/-- A token of its full length keeps its bytes. -/
theorem padTo_of_length {n : Nat} {bytes : List Byte} (hlength : bytes.length = n) : padTo n bytes = bytes := by
  rw [← hlength, padTo_length_self]

theorem exec_dbgToken_eq {bytes : List Byte} (hlength : bytes.length = 257) (hruns : s.tapRuns = true)
    (hlcs : s.bootLcs ≠ lcScrapped) {r : Status × State}
    (hr : r = if bit (tokenScope bytes) 2 then
      (if s.tokenBusy then (stNoResource, s.endExtest) else s.endExtest.vendorToken bytes)
      else s.endExtest.presentToken bytes) :
    exec (.dbgToken bytes) s = .next (r.2.emit (.jtag (leBytes 2 r.1.toNat))) := by
  change Host.Outcome.next (s.tap _ _) = _
  rw [tap_accepted hruns (decide_eq_true hlcs), padTo_of_length hlength, hr]
  rfl

/-- The answer to a token that is presented to open its scopes. -/
theorem presentToken_emit {bytes : List Byte} :
    (s.presentToken bytes).2.emit (.jtag (leBytes 2 (s.presentToken bytes).1.toNat)) =
      match s.tokenCheck .scopes bytes with
      | some st => s.emit (.jtag (leBytes 2 st.toNat))
      | none => (s.openScopes bytes).emit (.jtag (leBytes 2 stOk.toNat)) := by
  rw [State.presentToken]
  cases s.tokenCheck .scopes bytes <;> rfl

theorem tapInstructions : TapInstructions := by
  refine ⟨?_, ?_, ?_, ?_, ?_, ?_, ?_, ?_⟩
  · exact fun s ir hruns => exec_bypass_eq hruns
  · exact fun s hruns => congrArg Host.Outcome.next (tap_accepted hruns rfl)
  · exact fun s levels hruns hlcs => ⟨_, congrArg Host.Outcome.next (tap_accepted hruns (decide_eq_true hlcs))⟩
  · exact fun s drive hruns hok => ⟨_, congrArg Host.Outcome.next (tap_accepted hruns hok)⟩
  · intro s drive hruns hok
    rw [exec_bypass_eq hruns]
    exact congrArg Host.Outcome.next (tap_not_accepted hruns hok)
  · intro s a data hruns hok
    rw [exec_bypass_eq hruns]
    exact congrArg Host.Outcome.next (tap_not_accepted hruns hok)
  · intro s bytes hlength hruns hlcs hscopes
    rw [exec_dbgToken_eq hlength hruns hlcs (if_neg (ne_true_of_eq_false hscopes)).symm]
    exact congrArg Host.Outcome.next presentToken_emit
  · intro s bytes hlength hruns hlcs hvendor hidle
    exact exec_dbgToken_eq hlength hruns hlcs
      ((if_pos hvendor).trans (if_neg (ne_true_of_eq_false hidle))).symm

/-! ## The sideband (R541, R542) -/

theorem smbAnswer_served {bytes : List Byte} (hserved : s.smbServed = true) :
    s.smbAnswer bytes = s.emit (.smbus bytes) := if_pos hserved

/-- POWER reads the package power outside Off and Hold-up. -/
theorem exec_smbPower_on {p : BitVec 16} (hserved : s.smbServed = true) (hoff : s.sys.phase ≠ .off)
    (hhold : s.sys.phase ≠ .holdUp) : exec (.smbPower p) s = .next (s.emit (.smbus (leBytes 2 p.toNat))) := by
  rw [← smbAnswer_served hserved]
  change execSmbPower p s = _
  rw [execSmbPower]
  split
  · contradiction
  · contradiction
  · rfl

theorem exec_smbPower_off {p : BitVec 16} (hserved : s.smbServed = true)
    (hoff : s.sys.phase = .off ∨ s.sys.phase = .holdUp) : exec (.smbPower p) s = .next (s.emit (.smbus [0, 0])) := by
  have hzero : leBytes 2 (0 : BitVec 16).toNat = [0, 0] := by decide
  rw [← smbAnswer_served hserved, ← hzero]
  change execSmbPower p s = _
  rcases hoff with hoff | hoff <;> rw [execSmbPower, hoff]

/-- The state in which an alert read has been answered and the alert released. -/
def State.alertAnswered (s : State) : State :=
  { s.emit (.smbus (leBytes 1 (2 * s.smbAddr))) with sys := { s.sys with alertSeen := s.alertConditions } }

theorem exec_alertResponse_low (hserved : s.smbServed = true) (hlow : s.alertLow = true) :
    exec .alertResponse s = .next s.alertAnswered := by
  change execAlertResponse s = _
  rw [execAlertResponse, if_pos hlow, smbAnswer_served hserved]
  rfl

/-- Every condition that holds is seen once the alert has been answered. -/
theorem alertAnswered_alertLow : s.alertAnswered.alertLow = false := by
  have hseen : (s.alertConditions.any fun c => !s.alertConditions.contains c) = false := by
    rw [List.any_eq_false]
    intro c hc
    simpa using hc
  change (s.smbServed && s.alertConditions.any fun c => !s.alertConditions.contains c) = false
  rw [hseen, Bool.and_false]

theorem sidebandAnswers : SidebandAnswers := by
  intro s hserved
  have hanswer {bytes : List Byte} := smbAnswer_served (bytes := bytes) hserved
  refine ⟨congrArg _ hanswer, congrArg _ hanswer, congrArg _ hanswer, congrArg _ hanswer, fun _ => exec_smbPower_on hserved,
    fun _ => exec_smbPower_off hserved, congrArg _ hanswer, congrArg _ hanswer, congrArg _ hanswer, congrArg _ hanswer,
    congrArg _ hanswer, fun hlow => ?_⟩
  exact ⟨_, exec_alertResponse_low hserved hlow, rfl, alertAnswered_alertLow, rfl⟩

end

/-- Settles O12: the TAP's instructions, then the sideband's commands. -/
theorem tapAndSidebandAnswer : Obligations.TapAndSidebandAnswer := ⟨tapInstructions, sidebandAnswers⟩

end Sys2Proof.Machine

/-! PROOFS. The ways into Reset (R521, R525, R527), its release (R418, R524, R529), and the requests of a warm reset
(R525). -/

namespace Sys2Proof.Machine

section
variable {s : State}

/-! ## Into Reset (R521, R525, R527) -/

/-- Every entry into Reset clears what a reset clears, whatever its cause. -/
theorem enterReset_wiped {cold link : Bool} {cause : BitVec 3} : WipedByReset s (s.enterReset cold link cause) :=
  ⟨rfl, rfl, rfl, rfl, rfl, rfl, rfl, rfl, rfl, rfl, rfl, rfl, rfl, rfl, rfl, rfl, rfl, rfl, rfl⟩

/-- A reset that keeps the link leaves it as it was. -/
theorem enterReset_linkUp {cold : Bool} {cause : BitVec 3} :
    (s.enterReset cold true cause).host.linkUp = s.host.linkUp := rfl

theorem enterReset_warmCount {link : Bool} {cause : BitVec 3} (hcount : s.sys.warmCount ≠ 0xFFFF) :
    (s.enterReset false link cause).sys.warmCount = s.sys.warmCount + 1 := if_neg hcount

theorem exec_powerStable_off (hoff : s.sys.phase = .off) (haon : s.sys.aonUp = true) (hio : s.sys.ioUp = true) :
    exec .powerStable s = .next { s.enterReset true false 0x0 with
      sys := { (s.enterReset true false 0x0).sys with railsOk := 0xFF, pwrfailN := true }
      sen := { (s.enterReset true false 0x0).sen with mainPower := true } } := by
  change execPowerStable s = _
  rw [execPowerStable, if_neg (by simp [hoff, haon, hio])]

theorem exec_warmResetStoresDone_ended {c : WarmCause} (hreq : s.sys.warmReq = some c)
    (hstores : s.vault.stores.any (·.admitted) = false) (hzero : s.zeroising = false) :
    exec .warmResetStoresDone s = .next (s.enterReset false (c != .perst) c.code) := by
  change execWarmResetStoresDone s = _
  rw [execWarmResetStoresDone, hreq]
  exact if_neg (by simp [hstores, hzero])

/-- Main power is back in Hold-up. -/
def State.powered (s : State) : State :=
  { s with sys := { s.sys with pwrfailN := true }, sen := { s.sen with mainPower := true } }

theorem exec_mainPowerRestored_holdUp (hphase : s.sys.phase = .holdUp) :
    exec .mainPowerRestored s = .next s.powered.leaveHoldUp := by
  change execMainPowerRestored s = _
  rw [execMainPowerRestored, if_neg (not_not_intro hphase)]
  rfl

theorem powered_leaveHoldUp_done (hphase : s.sys.phase = .holdUp) (hdone : s.sen.holdUpDone = true) :
    s.powered.leaveHoldUp = s.powered.enterReset true false 0x1 := if_pos ⟨hphase, hdone, rfl⟩

theorem powered_leaveHoldUp_busy (hbusy : s.sen.holdUpDone = false) : s.powered.leaveHoldUp = s.powered :=
  if_neg fun h => absurd (h.2.1.symm.trans hbusy) (by decide)

theorem resetClearsAndKeeps : ResetClearsAndKeeps := by
  refine ⟨?_, ?_, ?_, ?_⟩
  · intro s hoff haon hio
    exact ⟨_, exec_powerStable_off hoff haon hio, enterReset_wiped (cold := true) (link := false) (cause := 0x0), rfl, rfl,
      rfl⟩
  · intro s c hreq hstores hzero
    refine ⟨_, exec_warmResetStoresDone_ended hreq hstores hzero, enterReset_wiped, rfl, rfl, enterReset_warmCount, ?_⟩
    intro hcause
    rw [show (c != .perst) = true by simpa using hcause]
    exact enterReset_linkUp
  · intro s hphase hdone
    refine ⟨_, exec_mainPowerRestored_holdUp hphase, ?_⟩
    rw [powered_leaveHoldUp_done hphase hdone]
    exact ⟨enterReset_wiped, rfl⟩
  · intro s hphase hbusy
    rw [exec_mainPowerRestored_holdUp hphase, powered_leaveHoldUp_busy hbusy]
    rfl

/-! ## Out of Reset (R418, R524, R529) -/

/-- The state in which Boot has begun, before a carried response acts. -/
def State.bootBegun (s : State) : State :=
  { s with
    sys := { s.sys with
      phase := .boot
      prevMode := 0x1
      changes := 0
      resetTick := s.sys.tick
      cause := s.sys.nextCause
      deferred := s.sys.nextDeferred
      pllLock := true
      refSenref := false }
    sluice := { s.sluice with frameBase := s.sys.tick }
    sen := { s.sen with boots := s.sen.boots + 1, carried := none } }

theorem bootEntry_eq : s.bootEntry = if s.sen.carried.isSome then s.bootBegun.enterAlarmHold else s.bootBegun := rfl

theorem bootBegun_begins (hperst : s.sys.perstHigh = true) : BootBegun s s.bootBegun := by
  have hsys : { s.sys with perstHigh := true } = s.sys := by rw [← hperst]
  change s.bootBegun = State.bootBegun { s with sys := { s.sys with perstHigh := true } }
  rw [hsys]

theorem bootEntry_begins (hnone : s.sen.carried = none) (hperst : s.sys.perstHigh = true) : BootBegun s s.bootEntry := by
  rw [bootEntry_eq, hnone]
  exact bootBegun_begins hperst

/-- A HALT raises no entry in the Sentinel's own state, and leads to Alarm Hold (R416). -/
theorem enterAlarmHold_sen : s.enterAlarmHold.sen = s.sen ∧ s.enterAlarmHold.sys.phase = .alarmHold := by
  unfold State.enterAlarmHold
  extract_lets ended erased
  obtain ⟨sys, hnote, hphase, -⟩ := noteMode_eq (s := ended)
    (t := { erased with sys := { erased.sys with phase := .alarmHold, quiesce := false },
                        ring := { erased.ring with culvertOpen := false } })
  rw [hnote]
  refine ⟨?_, hphase⟩
  have hended : ended.sen = s.sen := modeStatusAll_frame.sen
  exact hended

theorem endReset_perstHigh (hperst : s.sys.perstHigh = true) : s.endReset = s.bootEntry := if_pos hperst

theorem endReset_perstLow (hperst : s.sys.perstHigh = false) :
    s.endReset = { s with sys := { s.sys with resetOver := true } } := if_neg (ne_true_of_eq_false hperst)

theorem exec_coldResetRelease_due (hphase : s.sys.phase = .reset) (hcause : s.sys.nextCause.toNat ≤ 1)
    (hheld : s.sys.resetOver = false) : exec .coldResetRelease s = .next s.endReset := if_pos ⟨hphase, hcause, by simp [hheld]⟩

theorem exec_resetHoldEnd_due (hphase : s.sys.phase = .reset) (hcause : 2 ≤ s.sys.nextCause.toNat)
    (hheld : s.sys.resetOver = false) : exec .resetHoldEnd s = .next s.endReset := if_pos ⟨hphase, hcause, by simp [hheld]⟩

theorem exec_perstRise_over (hphase : s.sys.phase = .reset) (hover : s.sys.resetOver = true) :
    exec .perstRise s = .next { s with sys := { s.sys with perstHigh := true } }.bootEntry := if_pos ⟨hphase, hover⟩

theorem resetIsReleased : ResetIsReleased := by
  refine ⟨?_, ?_, ?_, ?_, ?_⟩
  · intro s hphase hcause hheld hnone hperst
    refine ⟨_, exec_coldResetRelease_due hphase hcause hheld, ?_⟩
    rw [endReset_perstHigh hperst]
    exact bootEntry_begins hnone hperst
  · intro s hphase hcause hheld hnone hperst
    refine ⟨_, exec_resetHoldEnd_due hphase hcause hheld, ?_⟩
    rw [endReset_perstHigh hperst]
    exact bootEntry_begins hnone hperst
  · intro s hphase hover hnone
    exact ⟨_, exec_perstRise_over hphase hover,
      bootEntry_begins (s := { s with sys := { s.sys with perstHigh := true } }) hnone rfl⟩
  · intro s hphase hcause hheld hperst
    rw [exec_coldResetRelease_due hphase hcause hheld, endReset_perstLow hperst]
  · intro s l hphase hcause hheld hcarried hperst
    have hentry : s.bootEntry = s.bootBegun.enterAlarmHold := by rw [bootEntry_eq, hcarried]; rfl
    obtain ⟨hsen, halarm⟩ := enterAlarmHold_sen (s := s.bootBegun)
    refine ⟨_, exec_coldResetRelease_due hphase hcause hheld, ?_⟩
    rw [endReset_perstHigh hperst, hentry, hsen]
    exact ⟨halarm, rfl, rfl⟩

/-! ## Requests of a warm reset (R525) -/

/-- Outside Off, Reset and Hold-up the first request is noted, and closes the culvert; a later one is not. -/
theorem requestWarm_eq {c : WarmCause} (hoff : s.sys.phase ≠ .off) (hreset : s.sys.phase ≠ .reset)
    (hhold : s.sys.phase ≠ .holdUp) : s.requestWarm c =
      if s.sys.warmReq.isSome then s
      else { s with
        sys := { s.sys with warmReq := some c, nextDeferred := s.vault.stores.any (·.admitted) }
        ring := { s.ring with culvertOpen := false } } := by
  unfold State.requestWarm
  split
  · contradiction
  · contradiction
  · contradiction
  · rfl

/-- PERST# has fallen. -/
def State.perstFallen (s : State) : State := { s with sys := { s.sys with perstHigh := false } }

theorem exec_perstFall_eq (hoff : s.sys.phase ≠ .off) (hreset : s.sys.phase ≠ .reset) (hhold : s.sys.phase ≠ .holdUp) :
    exec .perstFall s = .next { s.perstFallen.requestWarm .perst with
      host := { (s.perstFallen.requestWarm .perst).host with linkUp := false }
      sys := { (s.perstFallen.requestWarm .perst).sys with warmReq := some .perst } } := by
  change execPerstFall s = _
  unfold execPerstFall
  extract_lets t
  split
  · contradiction
  · contradiction
  · contradiction
  · rfl

theorem exec_glbSoftReset_keyed {v : Word} (hmmio : s.mmioOk 0 = true) (hgo : v.getLsbD 0 = true)
    (hkey : v.toNat / 2 ^ 16 = 0xA55A) (hfirst : s.sen.steward2nd = false) :
    exec (.glbSoftReset v) s = .next (s.requestWarm .softReset) := by
  change Host.Outcome.next (s.softReset v) = _
  rw [State.softReset, if_neg (by rw [hkey]; simp [hmmio, hgo, hfirst])]

theorem exec_glbSoftReset_badKey {v : Word} (hkey : v.toNat / 2 ^ 16 ≠ 0xA55A) : exec (.glbSoftReset v) s = .next s := by
  change Host.Outcome.next (s.softReset v) = _
  rw [State.softReset, if_pos (.inr (.inr (.inl hkey)))]

theorem warmResetIsRequested : WarmResetIsRequested := by
  refine ⟨?_, ?_, fun _ _ => exec_glbSoftReset_badKey⟩
  · intro s hoff hreset hhold
    have hrequest := requestWarm_eq (s := s.perstFallen) (c := .perst) hoff hreset hhold
    refine ⟨_, exec_perstFall_eq hoff hreset hhold, ?_⟩
    rw [hrequest]
    cases hreq : s.sys.warmReq with
    | none =>
      rw [if_neg (by simp [State.perstFallen, hreq])]
      exact ⟨rfl, rfl, rfl, rfl, rfl, rfl, rfl, rfl, rfl⟩
    | some c =>
      rw [if_pos (by simp [State.perstFallen, hreq])]
      exact ⟨rfl, rfl, rfl, rfl, rfl, rfl, rfl, rfl, rfl⟩
  · intro s v hmmio hgo hkey hfirst hoff hreset hhold hnone
    rw [exec_glbSoftReset_keyed hmmio hgo hkey hfirst, requestWarm_eq hoff hreset hhold, if_neg (by simp [hnone])]

end

/-- Settles O14: into Reset, out of it, and the requests of a warm reset. -/
theorem resetsClearAndKeep : Obligations.ResetsClearAndKeep :=
  ⟨resetClearsAndKeeps, resetIsReleased, warmResetIsRequested⟩

end Sys2Proof.Machine

/-! PROOFS. Boot (R441, R445, R447): what its ROM leaves of the device, the invalid life-cycle record, the writes of a
pending slot, and the opening of the vault (R44, R123, R150). -/

namespace Sys2Proof.Machine

/-! ## Draws and seeds -/

/-- The seeds of a furrow move the DRBG and the furrows alone. -/
theorem seedGen_eq {s : State} {u : Nat} {b : Bool} :
    ∃ ent fresh cfb, s.seedGen u b = { s with ent := ent, fresh := fresh, cfb := cfb } := by
  obtain ⟨ent, fresh, hdraw⟩ := draw_eq (s := s) (n := 32)
  rw [State.seedGen, hdraw]
  exact ⟨ent, fresh, _, rfl⟩

/-! ## What the boot ROM leaves (R447) -/

/-- Device memory, the system's part, the registers, the key records and the verdict on the life-cycle record are as they
were. -/
structure BootKept (s t : State) : Prop where
  mem : t.mem = s.mem
  sys : t.sys = s.sys
  regs : t.regs = s.regs
  records : t.vault.records = s.vault.records
  invalid : t.lcb.invalid = s.lcb.invalid

section
variable {s t u : State}

theorem BootKept.refl : BootKept s s := ⟨rfl, rfl, rfl, rfl, rfl⟩

theorem BootKept.trans (h : BootKept s t) (k : BootKept t u) : BootKept s u :=
  ⟨k.mem.trans h.mem, k.sys.trans h.sys, k.regs.trans h.regs, k.records.trans h.records, k.invalid.trans h.invalid⟩

theorem startZeroise_bootKept : BootKept s s.startZeroise := by
  unfold State.startZeroise State.sendRing
  split
  · split <;> exact ⟨rfl, rfl, rfl, rfl, rfl⟩
  · exact ⟨rfl, rfl, rfl, rfl, rfl⟩

/-- `trans` with the later step first: the state between the two is the one that it speaks of. -/
theorem BootKept.after (k : BootKept t u) (h : BootKept s t) : BootKept s u := h.trans k

/-- The stores of Boot are not mirrored, so asking for one at most lists it or counts its refusal. -/
theorem askQuietly_bootKept {a : StoreAction} (hlocal : a.mirrored = false) : BootKept s (s.askQuietly a).1 := by
  unfold State.askQuietly State.askStore
  rw [if_neg (by simp [hlocal])]
  split <;> next heq =>
    split at heq
    · cases heq <;> exact ⟨rfl, rfl, rfl, rfl, rfl⟩
    · split at heq <;> cases heq <;> exact ⟨rfl, rfl, rfl, rfl, rfl⟩

theorem seedFurrow_bootKept {n : Nat} : BootKept s (s.seedFurrow n) := by
  obtain ⟨_, _, _, hfirst⟩ := seedGen_eq (s := s) (u := n) (b := false)
  obtain ⟨_, _, _, hsecond⟩ := seedGen_eq (s := s.seedGen n false) (u := n) (b := true)
  rw [State.seedFurrow, hsecond, hfirst]
  exact ⟨rfl, rfl, rfl, rfl, rfl⟩

theorem instantiateMain_bootKept : BootKept s s.instantiateMain := by
  unfold State.instantiateMain
  split
  · exact .refl
  · exact List.foldlRecOn (motive := BootKept s) _ _ ⟨rfl, rfl, rfl, rfl, rfl⟩
      fun _ ht _ _ => ht.trans seedFurrow_bootKept

theorem bootRun_bootKept {b : Bool} : BootKept s (s.bootRun b) := by
  unfold State.bootRun
  extract_lets t img m _ _ _ _ loaded
  have hloaded : BootKept s loaded := ⟨rfl, rfl, rfl, rfl, rfl⟩
  split
  · exact ⟨rfl, rfl, rfl, rfl, rfl⟩
  · split
    · exact hloaded.trans instantiateMain_bootKept
    · exact hloaded

theorem bootTries_bootKept {b again : Bool} : BootKept s (s.bootTries b again) := by
  unfold State.bootTries
  split
  · exact bootRun_bootKept
  · split
    · split
      · exact bootRun_bootKept
      · exact ⟨rfl, rfl, rfl, rfl, rfl⟩
    · exact (askQuietly_bootKept (by rfl)).after ⟨rfl, rfl, rfl, rfl, rfl⟩

theorem bootSelect_bootKept : BootKept s s.bootSelect := by
  unfold State.bootSelect
  extract_lets t
  have hstage : BootKept s t := ⟨rfl, rfl, rfl, rfl, rfl⟩
  split
  · exact ⟨rfl, rfl, rfl, rfl, rfl⟩
  · split
    · exact hstage.trans bootTries_bootKept
    · exact hstage.trans bootRun_bootKept

theorem bootRoot_bootKept : BootKept s s.bootRoot := by
  unfold State.bootRoot
  extract_lets t
  split
  · split
    · exact ⟨rfl, rfl, rfl, rfl, rfl⟩
    · exact bootSelect_bootKept.after ⟨rfl, rfl, rfl, rfl, rfl⟩
  · exact ⟨rfl, rfl, rfl, rfl, rfl⟩

theorem bootStop_bootKept : BootKept s s.bootStop := ⟨rfl, rfl, rfl, rfl, rfl⟩

theorem bootOn_bootKept : BootKept s s.bootOn := by
  unfold State.bootOn
  extract_lets t
  split
  · exact bootStop_bootKept.trans startZeroise_bootKept
  · split
    · exact bootStop_bootKept
    · exact bootRoot_bootKept

theorem bootWipe_bootKept : BootKept s s.bootWipe :=
  startZeroise_bootKept.after ⟨rfl, rfl, rfl, rfl, rfl⟩

theorem bootOtp_bootKept {a : StoreAction} (hlocal : a.mirrored = false) : BootKept s (s.bootOtp a) := by
  unfold State.bootOtp
  split
  · exact ⟨rfl, rfl, rfl, rfl, rfl⟩
  · exact (askQuietly_bootKept hlocal).after ⟨rfl, rfl, rfl, rfl, rfl⟩

/-- Whatever the record asks for, its resolution keeps what the boot ROM keeps (R445). -/
theorem bootResolve_bootKept : BootKept s s.bootResolve := by
  unfold State.bootResolve
  split
  · exact startZeroise_bootKept.after ⟨rfl, rfl, rfl, rfl, rfl⟩
  split
  · exact bootOn_bootKept
  split
  · exact bootOn_bootKept
  · next n x _ =>
    split
    · extract_lets _ torn
      have htorn : BootKept s torn := ⟨rfl, rfl, rfl, rfl, rfl⟩
      split
      · exact htorn.trans (bootOtp_bootKept rfl)
      · exact htorn.trans bootWipe_bootKept
    · split
      · exact bootOn_bootKept
      · exact bootOtp_bootKept rfl
    · split
      · exact bootWipe_bootKept
      · split <;> exact bootOtp_bootKept rfl
    · exact bootOn_bootKept
    · exact bootOn_bootKept

/-! ## The boot ROM (R447) -/

/-- The boot ROM has started: HBM serves, and the Steward's regions are locked. -/
def State.romStarted (s : State) : State :=
  { s with mem := { s.mem with hbm0Ok := true, hbm1Ok := true, stewardLocked := true } }

/-- The boot ROM has read the OTP. -/
def State.otpTaken (s : State) (puf : Bool) : State :=
  { s.romStarted with
    sys := { s.sys with otpRead := true }
    lcb := { s.lcb with stage := 0x3, invalid := s.recordInvalid, probeOk := puf } }

/-- A self-test of the ROM has failed. -/
def State.romFailed (s : State) : State := { s.romStarted with lcb := { s.lcb with romFail := true } }.bootStop

theorem exec_bootStart_eq {p : BootProbe} (hphase : s.sys.phase = .boot) (hstage : s.lcb.stage = 0x1)
    (hgoes : s.lcb.stopped = false) : exec (.bootStart p) s =
      .next (if p.romOk then (s.otpTaken p.pufOk).bootResolve else s.romFailed) := by
  change execBootStart p s = _
  rw [execBootStart, if_neg (by simp [hphase, hstage, hgoes])]
  cases p.romOk <;> rfl

theorem exec_bootStart_resolves {puf : Bool} (hphase : s.sys.phase = .boot) (hstage : s.lcb.stage = 0x1)
    (hgoes : s.lcb.stopped = false) :
    exec (.bootStart { romOk := true, pufOk := puf }) s = .next (s.otpTaken puf).bootResolve :=
  exec_bootStart_eq hphase hstage hgoes

/-! ## An invalid record (R441) -/

theorem mem_committedSlots {j b : Nat} {y : LcSlot} (hy : s.lcb.slots[j]? = some y) (hclass : y.class' = .committed b) :
    (j, b) ∈ s.committedSlots := by
  refine List.mem_filterMap.mpr ⟨(y, j), List.mem_zipIdx_iff_getElem?.mpr hy, ?_⟩
  simp only [hclass]

theorem recordInvalid_of_head (hhead : s.lcb.slots.head?.map LcSlot.class' ≠ some (.committed lcBlank)) :
    s.recordInvalid = true := by
  rw [State.recordInvalid, Bool.or_eq_true]
  left
  cases hslots : s.lcb.slots.head? with
  | none => rfl
  | some x =>
    rw [hslots] at hhead
    simpa using hhead

theorem recordInvalid_of_above {i j a b : Nat} {x y : LcSlot} (hij : i < j) (hx : s.lcb.slots[i]? = some x)
    (hy : s.lcb.slots[j]? = some y) (hpending : x.class' = .pending a) (hcommitted : y.class' = .committed b) :
    s.recordInvalid = true := by
  rw [State.recordInvalid, Bool.or_eq_true]
  right
  refine List.any_eq_true.mpr ⟨(x, i), List.mem_zipIdx_iff_getElem?.mpr hx, ?_⟩
  simp only [hpending]
  exact List.any_eq_true.mpr ⟨(j, b), mem_committedSlots hy hcommitted, decide_eq_true hij⟩

theorem readReg_lcbState : s.readReg 0 0x00A0_0000 = BitVec.ofNat 32 s.lcbState := rfl

/-- LCS of LCB_STATE reads SCRAPPED (R458). -/
theorem lcbState_lcs_of_invalid (hinvalid : s.lcb.invalid = true) : s.lcbState % 8 = 6 := by
  have hlcs : s.bootLcs = 6 := if_pos hinvalid
  simp only [State.lcbState, fields_cons, fields_nil, hlcs]
  omega

/-- INVALID of LCB_STATE reads 1 (R458). -/
theorem lcbState_invalid_of_invalid (hinvalid : s.lcb.invalid = true) : s.lcbState / 512 % 2 = 1 := by
  have hbit : b2n s.lcb.invalid = 1 := by rw [hinvalid]; rfl
  have htorn := b2n_lt_two (b := s.lcb.torn)
  simp only [State.lcbState, fields_cons, fields_nil, hbit]
  omega

/-- An invalid record shows as SCRAPPED and INVALID in LCB_STATE (R441, R458). -/
theorem readReg_lcbState_of_invalid (hinvalid : s.lcb.invalid = true) :
    (s.readReg 0 0x00A0_0000).extractLsb' 0 3 = 0x6 ∧ (s.readReg 0 0x00A0_0000).getLsbD 9 = true := by
  rw [readReg_lcbState]
  constructor
  · apply BitVec.eq_of_toNat_eq
    rw [BitVec.extractLsb'_toNat, BitVec.toNat_ofNat, Nat.shiftRight_zero,
      Nat.mod_mod_of_dvd _ (by decide : 2 ^ 3 ∣ 2 ^ 32)]
    exact lcbState_lcs_of_invalid hinvalid
  · exact getLsbD_eq_of_div_mod (by decide) (lcbState_invalid_of_invalid hinvalid)

end

/-- Settles O59: either form makes the record invalid, and the resolution keeps that verdict. -/
theorem invalidRecordBootsScrapped : Obligations.InvalidRecordBootsScrapped := by
  intro s puf hphase hstage hgoes hform
  have hinvalid : s.recordInvalid = true := by
    rcases hform with hhead | ⟨i, j, x, y, a, b, hij, hx, hy, hpending, hcommitted⟩
    · exact recordInvalid_of_head hhead
    · exact recordInvalid_of_above hij hx hy hpending hcommitted
  exact ⟨_, exec_bootStart_resolves hphase hstage hgoes,
    readReg_lcbState_of_invalid (bootResolve_bootKept.invalid.trans hinvalid)⟩

/-! ## The boot ROM's answers (R445, R447) -/

section
variable {s t u : State}

/-- A self-test that failed, and one that passed, both leave HBM served and the registers and records as they were. -/
theorem bootRomEnds {p : BootProbe} (hphase : s.sys.phase = .boot) (hstage : s.lcb.stage = 0x1)
    (hgoes : s.lcb.stopped = false) :
    ∃ t, exec (.bootStart p) s = .next t ∧ t.mem.hbm0Ok = true ∧ t.mem.hbm1Ok = true ∧ t.mem.stewardLocked = true ∧
      (p.romOk = false → t.lcb.romFail = true ∧ t.lcb.stopped = true ∧ t.sys = s.sys) ∧
      (p.romOk = true → t.sys.otpRead = true ∧ t.lcb.invalid = s.recordInvalid) ∧
      t.mem.cells = s.mem.cells ∧ t.regs = s.regs ∧ t.vault.records = s.vault.records := by
  refine ⟨_, exec_bootStart_eq hphase hstage hgoes, ?_⟩
  cases hrom : p.romOk with
  | false => exact ⟨rfl, rfl, rfl, fun _ => ⟨rfl, rfl, rfl⟩, fun h => by simp at h, rfl, rfl, rfl⟩
  | true =>
    have hkept : BootKept (s.otpTaken p.pufOk) (s.otpTaken p.pufOk).bootResolve := bootResolve_bootKept
    rw [if_pos rfl, hkept.mem, hkept.sys, hkept.regs, hkept.records, hkept.invalid]
    exact ⟨rfl, rfl, rfl, fun h => by simp at h, fun _ => ⟨rfl, rfl⟩, rfl, rfl, rfl⟩

/-- A record that stands at BLANK stops Boot at step 0x3 (R447). -/
theorem bootResolve_blank {n : Nat} {x : LcSlot} (hidle : s.sen.zstate ≠ .pending) (hvalid : s.lcb.invalid = false)
    (htop : s.topSlot = some (n, x)) (hclass : x.class' = .committed lcBlank) (hblank : s.lcs = lcBlank) :
    s.bootResolve = s.bootStop := by
  have hlcs : s.bootLcs = lcBlank := by rw [State.bootLcs, hvalid]; exact hblank
  have hon : s.bootOn = s.bootStop := by
    simp only [State.bootOn, hlcs]
    rfl
  rw [State.bootResolve, if_neg hidle, if_neg (by simp [hvalid])]
  simp only [htop, hclass]
  exact hon

theorem exec_bootStart_blank {puf : Bool} {n : Nat} {x : LcSlot} (hphase : s.sys.phase = .boot)
    (hstage : s.lcb.stage = 0x1) (hgoes : s.lcb.stopped = false) (hidle : s.sen.zstate ≠ .pending)
    (hvalid : s.recordInvalid = false) (htop : s.topSlot = some (n, x)) (hclass : x.class' = .committed lcBlank)
    (hblank : s.lcs = lcBlank) : exec (.bootStart { romOk := true, pufOk := puf }) s = .next { s with
      mem := { s.mem with hbm0Ok := true, hbm1Ok := true, stewardLocked := true }
      sys := { s.sys with otpRead := true }
      lcb := { s.lcb with stage := 0x3, invalid := false, probeOk := puf, stopped := true } } := by
  have hstop : (s.otpTaken puf).bootResolve = (s.otpTaken puf).bootStop :=
    bootResolve_blank hidle hvalid htop hclass hblank
  rw [exec_bootStart_resolves hphase hstage hgoes, hstop]
  simp only [State.bootStop, State.otpTaken, State.romStarted, hvalid]

/-- An OTP write of Boot that the reserve admits is listed as a store (R445). -/
theorem bootOtp_admitted {n : Nat} (hring : s.ring.member = false) (hopen : s.storesOpen = true)
    (hcover : s.reserveCovers 200 = true) :
    s.bootOtp (.otpCommit n) =
      { s with lcb := { s.lcb with waitOtp := false } }.addStore none (.otpCommit n) true false := by
  rw [State.bootOtp, if_neg (by simp [hopen, hcover]), State.askQuietly,
    askStore_admitted (s := { s with lcb := { s.lcb with waitOtp := false } }) (a := .otpCommit n) hring hopen hcover]

theorem exec_bootOtpWriteAdmitted_commit {n target : Nat} {x : LcSlot} (hwait : s.lcb.waitOtp = true)
    (hresolve : s.inResolve = true) (hidle : s.sen.zstate ≠ .pending) (hvalid : s.lcb.invalid = false)
    (htop : s.topSlot = some (n, x)) (hclass : x.class' = .pending target) (hwipes : wipes s.lcs target = false)
    (htarget : target ≠ lcScrapped) (hring : s.ring.member = false) (hopen : s.storesOpen = true)
    (hcover : s.reserveCovers 200 = true) : exec .bootOtpWriteAdmitted s =
      .next ({ s with lcb := { s.lcb with waitOtp := false } }.addStore none (.otpCommit n) true false) := by
  change execBootOtpWriteAdmitted s = _
  rw [execBootOtpWriteAdmitted, State.bootRecheck, if_pos hwait, State.bootContinue, if_pos hresolve,
    State.bootResolve, if_neg hidle, if_neg (by simp [hvalid])]
  simp only [htop, hclass, hwipes, htarget, Bool.false_and, Bool.false_eq_true, if_false, false_and]
  rw [bootOtp_admitted hring hopen hcover]

/-! ## The vault opens (R44, R123, R150) -/

theorem draw_parts {n : Nat} : (s.draw n).2.sys = s.sys ∧ (s.draw n).2.ring = s.ring ∧ (s.draw n).2.lcb = s.lcb ∧
    (s.draw n).2.vault = s.vault := by
  obtain ⟨_, _, h⟩ := draw_eq (s := s) (n := n)
  rw [h]
  exact ⟨rfl, rfl, rfl, rfl⟩

/-- The values drawn at each boot: of the vault, the session key alone is new. -/
theorem drawBootValues_parts : s.drawBootValues.sys = s.sys ∧ s.drawBootValues.ring.member = s.ring.member ∧
    s.drawBootValues.lcb = s.lcb ∧ s.drawBootValues.vault = { s.vault with sessionKey := (s.draw 32).1 } := by
  obtain ⟨hsys1, hring1, hlcb1, hvault1⟩ := draw_parts (s := s) (n := 32)
  obtain ⟨hsys2, hring2, hlcb2, hvault2⟩ := draw_parts (s := (s.draw 32).2) (n := 8)
  obtain ⟨hsys3, hring3, hlcb3, hvault3⟩ := draw_parts (s := ((s.draw 32).2.draw 8).2) (n := 32)
  obtain ⟨hsys4, hring4, hlcb4, hvault4⟩ := draw_parts (s := (((s.draw 32).2.draw 8).2.draw 32).2) (n := 32)
  simp only [State.drawBootValues, hsys4, hsys3, hsys2, hsys1, hring4, hring3, hring2, hring1, hlcb4, hlcb3, hlcb2,
    hlcb1, hvault4, hvault3, hvault2, hvault1, and_self]

/-- The vault has opened for this boot. -/
def State.vaultOpened (s : State) : State :=
  { s.drawBootValues with
    vault := { s.drawBootValues.vault with ready := true, dak := s.drawBootValues.deriveDak }
    lcb := { s.drawBootValues.lcb with stage := 0x8 } }

theorem vaultOpened_vault : s.vaultOpened.vault =
    { s.vault with sessionKey := (s.draw 32).1, ready := true, dak := s.deriveDak } := by
  obtain ⟨hsys, _, _, hvault⟩ := drawBootValues_parts (s := s)
  simp only [State.vaultOpened, State.deriveDak, hsys, hvault]

theorem exec_bootResumeEntReady_eq (hphase : s.sys.phase = .boot) (hstage : s.lcb.stage = 0x7)
    (hgoes : s.lcb.stopped = false) (hserves : s.mainServes = true) (hsalt : s.vault.salt.isSome = true)
    (hcarry : s.vault.carryOver = none) : exec .bootResumeEntReady s =
      .next (if s.lcs = lcDiagnostic then s.vaultOpened.enterPhase .diagnostic else s.vaultOpened.beginPlanLoad) := by
  have hresume : s.vaultOpened.resumePromotion = s.vaultOpened := by
    rw [State.resumePromotion, vaultOpened_vault, hcarry]
    rfl
  have hlcs : s.vaultOpened.lcs = s.lcs := by
    obtain ⟨_, _, hlcb, _⟩ := drawBootValues_parts (s := s)
    simp only [State.vaultOpened, hlcb]
    rfl
  change execBootResumeEntReady s = _
  rw [execBootResumeEntReady, if_neg (by simp [hphase, hstage, hgoes, hserves]), if_pos hsalt]
  change Host.Outcome.next (if s.vaultOpened.resumePromotion.lcs = lcDiagnostic
    then s.vaultOpened.resumePromotion.enterPhase .diagnostic else s.vaultOpened.resumePromotion.beginPlanLoad) = _
  rw [hresume, hlcs]

/-- What Boot has set of the vault: that it is open, the session table key and the DAK; and the key records. -/
def VaultState.bootKeys (v : VaultState) : Bool × List Byte × List Byte × Tab KeyRecord :=
  (v.ready, v.sessionKey, v.dak, v.records)

/-- What the setting of a plan keeps: the system's part, the ring, the boot's part and the vault's keys. -/
structure OpenedKept (s t : State) : Prop where
  sys : t.sys = s.sys
  ring : t.ring = s.ring
  lcb : t.lcb = s.lcb
  vault : t.vault.bootKeys = s.vault.bootKeys

theorem OpenedKept.refl : OpenedKept s s := ⟨rfl, rfl, rfl, rfl⟩

theorem OpenedKept.trans (h : OpenedKept s t) (k : OpenedKept t u) : OpenedKept s u :=
  ⟨k.sys.trans h.sys, k.ring.trans h.ring, k.lcb.trans h.lcb, k.vault.trans h.vault⟩

theorem OpenedKept.foldl {α : Type} {f : State → α → State} (hf : ∀ s a, OpenedKept s (f s a)) (as : List α) (s : State) :
    OpenedKept s (as.foldl f s) :=
  List.foldlRecOn (motive := OpenedKept s) as f .refl fun _ h a _ => h.trans (hf _ a)

theorem draw_openedKept {n : Nat} : OpenedKept s (s.draw n).2 := by
  obtain ⟨hsys, hring, hlcb, hvault⟩ := draw_parts (s := s) (n := n)
  exact ⟨hsys, hring, hlcb, by rw [hvault]⟩

theorem seedFurrow_openedKept {n : Nat} : OpenedKept s (s.seedFurrow n) := by
  obtain ⟨_, _, _, hfirst⟩ := seedGen_eq (s := s) (u := n) (b := false)
  obtain ⟨_, _, _, hsecond⟩ := seedGen_eq (s := s.seedGen n false) (u := n) (b := true)
  rw [State.seedFurrow, hsecond, hfirst]
  exact ⟨rfl, rfl, rfl, rfl⟩

theorem scrubAll_openedKept : OpenedKept s s.scrubAll := by
  unfold State.scrubAll
  extract_lets t
  have hzero : OpenedKept s t := .foldl (f := State.zeroCistern) (fun _ _ => ⟨rfl, rfl, rfl, rfl⟩) _ _
  split
  · exact hzero.trans (.foldl (fun _ _ => seedFurrow_openedKept) _ _)
  · exact hzero

theorem openTenant_openedKept {e : TenantEntry} : OpenedKept s (s.openTenant e) := by
  unfold State.openTenant
  split
  · exact .refl
  · exact draw_openedKept.trans ⟨rfl, rfl, rfl, rfl⟩

theorem instantiateTenant_openedKept {tenant : Byte} : OpenedKept s (s.instantiateTenant tenant) :=
  draw_openedKept.trans ⟨rfl, rfl, rfl, rfl⟩

theorem applyPlan_openedKept {p : Plan} {units : List SluUnit} {table : List (BitVec 16)} :
    OpenedKept s (s.applyPlan p units table) := by
  unfold State.applyPlan
  extract_lets t plan sluice dsp vault mem obj hwk u spr v opened
  have hscrub : OpenedKept s t := scrubAll_openedKept
  have hset : OpenedKept t v := ⟨rfl, rfl, rfl, rfl⟩
  have hopen : OpenedKept v opened := .foldl (fun _ _ => openTenant_openedKept) _ _
  exact ((hscrub.trans hset).trans hopen).trans (.foldl (fun _ _ => instantiateTenant_openedKept) _ _)

/-- Outside a ring, Plan Load ends in Service (R6). -/
theorem leavePlanLoad_service (hphase : s.sys.phase = .planLoad) (hresult : s.plan.result ≠ 0xF)
    (hring : s.ring.member = false) : s.leavePlanLoad = s.enterPhase .service := by
  rw [State.leavePlanLoad, if_neg (not_or.mpr ⟨not_not.mpr hphase, hresult⟩), if_neg (by simp [hring]),
    if_neg (by simp [State.behind, hring])]

/-- Another phase moves the system's part alone. -/
theorem enterPhase_eq {p : Phase} : ∃ sys, s.enterPhase p = { s with sys := sys } ∧ sys.variant = s.sys.variant ∧
    sys.phase = p := by
  unfold State.enterPhase State.noteMode
  split <;> exact ⟨_, rfl, rfl, rfl⟩

theorem ItemFrame.bootKeys (h : ItemFrame s t) : t.vault.bootKeys = s.vault.bootKeys := by
  have hkeys := congrArg VaultState.bootKeys h.vault
  exact hkeys

/-- What leaves Plan Load keeps the boot's part and the vault's keys, in Mirror Sync too. -/
theorem leavePlanLoad_opened : s.leavePlanLoad.lcb = s.lcb ∧
    s.leavePlanLoad.vault.bootKeys = s.vault.bootKeys := by
  have hphase : ∀ p, (s.enterPhase p).lcb = s.lcb ∧ (s.enterPhase p).vault = s.vault := fun p => by
    obtain ⟨_, h, _⟩ := enterPhase_eq (s := s) (p := p)
    rw [h]
    exact ⟨rfl, rfl⟩
  unfold State.leavePlanLoad
  split
  · exact ⟨rfl, rfl⟩
  split
  · exact ⟨rfl, rfl⟩
  split
  · have hitems := modeStatusAll_frame (s := s.enterPhase .mirrorSync) (st := stNotServing)
      (p := fun it => it.phase != .dropped && it.source != .internal)
    have hsync : ∀ u : State, u.requestSync.lcb = u.lcb ∧ u.requestSync.vault = u.vault := fun u => by
      unfold State.requestSync State.sendRing
      split
      · split <;> exact ⟨rfl, rfl⟩
      · exact ⟨rfl, rfl⟩
    obtain ⟨hlcb, hvault⟩ := hphase .mirrorSync
    rw [State.enterMirrorSync, (hsync _).1, (hsync _).2]
    exact ⟨hitems.lcb.trans hlcb, hitems.bootKeys.trans (congrArg VaultState.bootKeys hvault)⟩
  · rw [(hphase _).1, (hphase _).2]
    exact ⟨rfl, rfl⟩

theorem planLoadFails_opened {f : PlanFail} : (s.planLoadFails f).lcb = s.lcb ∧
    (s.planLoadFails f).vault.bootKeys = s.vault.bootKeys := by
  unfold State.planLoadFails
  extract_lets p failed
  have hset := applyPlan_openedKept (s := failed) (p := failed.emptyPlan) (units := planUnits []) (table := [])
  obtain ⟨hlcb, hkeys⟩ := leavePlanLoad_opened (s := failed.applyPlan failed.emptyPlan (planUnits []) [])
  exact ⟨hlcb.trans hset.lcb, hkeys.trans hset.vault⟩

/-- Outside a ring, the empty plan of a failed Plan Load leads to Service. -/
theorem planLoadFails_phase {f : PlanFail} (hphase : s.sys.phase = .planLoad) (hring : s.ring.member = false)
    (hcode : BitVec.ofNat 4 f.code ≠ 0xF) : (s.planLoadFails f).sys.phase = .service := by
  unfold State.planLoadFails
  extract_lets p failed
  have hset := applyPlan_openedKept (s := failed) (p := failed.emptyPlan) (units := planUnits []) (table := [])
  have hplan := applyPlan_applied (s := failed) (p := failed.emptyPlan) (units := planUnits []) (table := [])
  rw [leavePlanLoad_service (by rw [hset.sys]; exact hphase) (by rw [hplan.plan]; exact hcode)
    (by rw [hset.ring]; exact hring), enterPhase_phase]

/-- The empty plan depends on the variant alone (R44). -/
theorem emptyPlan_congr (hvariant : t.sys.variant = s.sys.variant) : t.emptyPlan = s.emptyPlan := by
  have hengines : t.enginePresent = s.enginePresent := by
    funext n
    simp only [State.enginePresent, hvariant]
  simp only [State.emptyPlan, hengines]

/-- Plan Load, as it begins and where it ends at once, keeps the boot's part and the vault's keys. -/
theorem beginPlanLoad_opened : s.beginPlanLoad.lcb = s.lcb ∧ s.beginPlanLoad.vault.bootKeys = s.vault.bootKeys := by
  obtain ⟨sys, heq, -, -⟩ := enterPhase_eq (s := s) (p := .planLoad)
  cases hrecord : s.vault.planRecord with
  | none =>
    simp only [State.beginPlanLoad, heq, hrecord]
    exact planLoadFails_opened
  | some d => simp only [State.beginPlanLoad, heq, hrecord, and_self]

theorem beginPlanLoad_waits (hrecord : s.vault.planRecord.isSome = true) :
    s.beginPlanLoad.sys.phase = .planLoad ∧ s.beginPlanLoad.plan.waiting = true := by
  obtain ⟨sys, heq, -, hphase⟩ := enterPhase_eq (s := s) (p := .planLoad)
  obtain ⟨d, hd⟩ := Option.isSome_iff_exists.mp hrecord
  simp only [State.beginPlanLoad, heq, hd, hphase, and_self]

/-- Without an installed-plan record the empty plan applies at once (R44). -/
theorem beginPlanLoad_empty (hrecord : s.vault.planRecord = none) (hring : s.ring.member = false) :
    s.beginPlanLoad.sys.phase = .service ∧ s.beginPlanLoad.plan.empty = true ∧
      s.beginPlanLoad.plan.running = s.emptyPlan ∧ s.beginPlanLoad.plan.result = 0x1 := by
  obtain ⟨sys, heq, hvariant, hphase⟩ := enterPhase_eq (s := s) (p := .planLoad)
  have hfails : s.beginPlanLoad = ({ s with sys := sys } : State).planLoadFails (planFail 0x1) := by
    simp only [State.beginPlanLoad, heq, hrecord]
  have hplan := (planLoadFails_applied (s := { s with sys := sys }) (f := planFail 0x1)).plan
  rw [hfails, hplan]
  exact ⟨planLoadFails_phase hphase hring (by decide), rfl, emptyPlan_congr hvariant, rfl⟩

end

theorem bootRomStarts : BootRomStarts :=
  ⟨fun _ _ hphase hstage hgoes => bootRomEnds hphase hstage hgoes,
    fun _ _ _ _ hphase hstage hgoes hidle hvalid htop hclass hblank =>
      exec_bootStart_blank hphase hstage hgoes hidle hvalid htop hclass hblank,
    fun _ _ _ _ hwait hresolve hidle hvalid htop hclass hwipes htarget hring hopen hcover =>
      exec_bootOtpWriteAdmitted_commit hwait hresolve hidle hvalid htop hclass hwipes htarget hring hopen hcover⟩

theorem bootOpensTheVault : BootOpensTheVault := by
  intro s hphase hstage hgoes hserves hsalt hcarry
  refine ⟨_, exec_bootResumeEntReady_eq hphase hstage hgoes hserves hsalt hcarry, ?_⟩
  obtain ⟨hsys, hring, -, -⟩ := drawBootValues_parts (s := s)
  have hvault := vaultOpened_vault (s := s)
  by_cases hlcs : s.lcs = lcDiagnostic
  · obtain ⟨sys, heq, -, hdiag⟩ := enterPhase_eq (s := s.vaultOpened) (p := .diagnostic)
    rw [if_pos hlcs, heq]
    dsimp only
    rw [hvault]
    exact ⟨rfl, rfl, rfl, rfl, rfl, fun _ => hdiag, fun h => absurd hlcs h, fun h => absurd hlcs h⟩
  · rw [if_neg hlcs]
    obtain ⟨hlcb, hkeys⟩ := beginPlanLoad_opened (s := s.vaultOpened)
    simp only [VaultState.bootKeys, hvault, Prod.mk.injEq] at hkeys
    obtain ⟨hready, hkey, hdak, hrecords⟩ := hkeys
    have hrecord : s.vaultOpened.vault.planRecord = s.vault.planRecord := by rw [hvault]
    refine ⟨by rw [hlcb]; rfl, hready, hkey, hdak, hrecords, fun h => absurd h hlcs, fun _ hsome => ?_,
      fun _ hnone hmember => ?_⟩
    · exact beginPlanLoad_waits (by rw [hrecord]; exact hsome)
    · rw [← emptyPlan_congr (s := s) (t := s.vaultOpened) (congrArg SysState.variant hsys)]
      exact beginPlanLoad_empty (hrecord.trans hnone) (hring.trans hmember)

/-- Settles O16: the boot ROM's answers, and the opening of the vault with what follows it. -/
theorem bootRunsToPlanLoad : Obligations.BootRunsToPlanLoad := ⟨bootRomStarts, bootOpensTheVault⟩

end Sys2Proof.Machine

/-! PROOFS. Stores commit (R121, R429), the reserve is measured (R428), a good boot is noted (R146, R450), and a
zeroisation is verified (R421). -/

namespace Sys2Proof.Machine

section
variable {s t : State}

/-! ## A committed store -/

/-- What a committed store writes nothing of: items, the list of stores, the mirror commit under way, device memory and the
host's registers. -/
structure StoreKept (s t : State) : Prop where
  dsp : t.dsp = s.dsp
  stores : t.vault.stores = s.vault.stores
  commit : t.ring.commit = s.ring.commit
  mem : t.mem = s.mem
  regs : t.regs = s.regs
  qps : t.qps = s.qps

theorem applyStore_kept {a : StoreAction} {own : Bool} : StoreKept s (s.applyStore a own) := by
  cases a with
  | retire h | purge h =>
    unfold State.applyStore
    dsimp only
    split <;> exact ⟨rfl, rfl, rfl, rfl, rfl, rfl⟩
  | _ => exact ⟨rfl, rfl, rfl, rfl, rfl, rfl⟩

theorem mirrorEnds_none {st : Store} (hcommit : s.ring.commit = none) : s.mirrorEnds st = s := by
  rw [State.mirrorEnds, hcommit]

/-- The item that waited for a store, other than a retirement, can be resumed with its outcome (R102). -/
theorem afterStore_item {st : Store} {it : Item} (hwaits : st.item = some it.id) (hkind : ∀ h, st.action ≠ .retire h)
    (hitem : s.item it.id = some it) (hstage : it.stage = 0xFE) : s.afterStore st = s.endWaitWith it.id it.outcome := by
  cases haction : st.action with
  | retire h => exact absurd haction (hkind h)
  | _ => simp only [State.afterStore, haction, hwaits, hitem, hstage, if_true]

/-- The state in which a store of the device's own has committed and is off the list. -/
def State.storeTaken (s : State) (st : Store) : State :=
  let t := s.applyStore st.action true
  { t with vault := { t.vault with stores := t.vault.stores.filter (·.id != st.id) } }

theorem exec_storeCommit_local {st : Store} (hfind : s.vault.stores.find? (·.id == st.id) = some st)
    (hadmitted : st.admitted = true) (hlocal : st.mirror = false) (hcommit : s.ring.commit = none) :
    exec (.storeCommit st.id) s = .next ((s.storeTaken st).afterStore st) := by
  change Host.Outcome.next (s.commitStore st.id) = _
  have hnone : (s.storeTaken st).ring.commit = none := applyStore_kept.commit.trans hcommit
  unfold State.commitStore
  rw [hfind]
  dsimp only
  rw [if_neg (by simp [hadmitted, hlocal])]
  change Host.Outcome.next (((s.storeTaken st).mirrorEnds st).afterStore st) = _
  rw [mirrorEnds_none hnone]

/-- The state in which an item's wait has ended with an outcome. -/
theorem endWaitWith_waits {it : Item} {why : WaitFor} {o : Outcome} (hitem : s.item it.id = some it)
    (hphase : it.phase = .yielded why) : it.id ∈ (s.endWaitWith it.id o).dsp.resumeQ := by
  unfold State.endWaitWith
  rw [hitem]
  dsimp only
  rw [hphase]
  exact List.mem_append_right _ (List.mem_singleton_self _)

theorem storeCommits : StoreCommits := by
  refine ⟨?_, ?_, ?_, ?_⟩
  · intro s st it hfind hadmitted hlocal hcommit hwaits hkind hitem hphase hstage
    have hkept := applyStore_kept (s := s) (a := st.action) (own := true)
    have htaken : (s.storeTaken st).item it.id = some it :=
      (congrArg (fun d : DspState => tabGet d.items it.id) hkept.dsp).trans hitem
    obtain ⟨dsp, heq⟩ := endWaitWith_yielded_eq (o := it.outcome) htaken hphase
    refine ⟨_, exec_storeCommit_local hfind hadmitted hlocal hcommit, ?_⟩
    rw [afterStore_item hwaits hkind htaken hstage]
    refine ⟨?_, endWaitWith_item htaken hphase, endWaitWith_waits htaken hphase, ?_⟩
    · rw [heq]
      exact congrArg (List.filter _) hkept.stores
    · rw [heq]
      exact ⟨rfl, rfl, rfl, hkept.mem, hkept.regs, hkept.qps⟩
  · exact fun s i r => tabGet_tabSet_self
  · intro s n w tag x hslot
    simp [State.applyStore, State.writeSlot, hslot]
  · intro s i c
    exact Eq.trans tabGetD_tabSet_self rfl

/-! ## The reserve and a good boot -/

theorem exec_reserveMeasure_eq {r : ReserveReading} (hmay : s.mayMeasure = true) (hretry : s.vault.retryRetire = [])
    (hotp : s.lcb.waitOtp = false) (htries : s.lcb.waitTries = false) : exec (.reserveMeasure r) s = .next { s with
      sen := { s.sen with vresMv := r.vresMv, capUf := r.capUf, esrMohm := r.esrMohm, measured := true } } := by
  have hmeasure : (s.measure r).bootRecheck = { s with
      sen := { s.sen with vresMv := r.vresMv, capUf := r.capUf, esrMohm := r.esrMohm, measured := true } } := by
    simp only [State.measure, State.retryRetirements, State.bootRecheck, hretry, hotp, List.foldl_nil,
      Bool.false_eq_true, if_false]
  change execReserveMeasure r s = _
  rw [execReserveMeasure, if_neg (by simp [hmay]), hmeasure]
  simp only [htries]

/-- A local store that the reserve admits is listed. -/
theorem askQuietly_admitted {a : StoreAction} (hlocal : a.mirrored = false) (hopen : s.storesOpen = true)
    (hcover : s.reserveCovers (storeBudget a) = true) : s.askQuietly a = (s.addStore none a true false, true) := by
  simp [State.askQuietly, State.askStore, hlocal, hopen, hcover]

/-- A listed store takes its budget from the reserve. -/
theorem addStore_reserveCovers {a : StoreAction} {n : Nat} (hcover : s.reserveCovers (storeBudget a + n) = true) :
    (s.addStore none a true false).reserveCovers n = true := by
  have hsum : ((s.addStore none a true false).vault.stores.map Store.held).sum =
      (s.vault.stores.map Store.held).sum + storeBudget a := by
    simp [State.addStore, Store.held]
  have hreserved : (s.addStore none a true false).reserved = s.reserved + storeBudget a := by
    calc (s.addStore none a true false).reserved
        = 20 + ((s.addStore none a true false).vault.stores.map Store.held).sum +
            (if s.ring.staged.isSome then mirrorBudget else 0) := rfl
      _ = s.reserved + storeBudget a := by
        rw [hsum, State.reserved]
        omega
  have huse : (s.addStore none a true false).eUse = s.eUse := rfl
  simp only [State.reserveCovers, decide_eq_true_eq] at hcover ⊢
  omega

theorem reserveCovers_of_le {m n : Nat} (hcover : s.reserveCovers n = true) (hle : m ≤ n) :
    s.reserveCovers m = true := by
  simp only [State.reserveCovers, decide_eq_true_eq] at hcover ⊢
  omega

/-- A good boot whose promotion has brought the device to `t`. -/
theorem exec_goodBoot_eq (hgood : s.goodBoot = true) (hpromote : (if s.vault.promoting then s else s.promoteNext) = t) :
    exec .goodBoot s = .next (
      let u := (t.askQuietly (.bootControl t.lcb.runSlot 0)).1
      if u.minSvn < u.lcb.runSvn then (u.askQuietly (.otpMinSvn u.lcb.runSvn)).1 else u) := by
  change execGoodBoot s = _
  rw [execGoodBoot, if_neg (by simp [hgood]), hpromote]

theorem exec_goodBoot_current (hgood : s.goodBoot = true)
    (hpromote : (if s.vault.promoting then s else s.promoteNext) = t) (hsvn : t.lcb.runSvn ≤ t.minSvn)
    (hopen : t.storesOpen = true) (hcover : t.reserveCovers 5 = true) :
    exec .goodBoot s = .next (t.addStore none (.bootControl t.lcb.runSlot 0) true false) := by
  rw [exec_goodBoot_eq hgood hpromote, askQuietly_admitted (a := .bootControl t.lcb.runSlot 0) rfl hopen hcover]
  exact congrArg Host.Outcome.next (if_neg (Nat.not_lt.mpr hsvn))

theorem exec_goodBoot_behind (hgood : s.goodBoot = true) (hpromoting : s.vault.promoting = true)
    (hsvn : s.minSvn < s.lcb.runSvn) (hopen : s.storesOpen = true) (hcover : s.reserveCovers 205 = true) :
    exec .goodBoot s = .next ((s.addStore none (.bootControl s.lcb.runSlot 0) true false).addStore none
      (.otpMinSvn s.lcb.runSvn) true false) := by
  have hsecond : (s.addStore none (.bootControl s.lcb.runSlot 0) true false).askQuietly (.otpMinSvn s.lcb.runSvn) = _ :=
    askQuietly_admitted rfl hopen (addStore_reserveCovers (a := .bootControl s.lcb.runSlot 0) hcover)
  rw [exec_goodBoot_eq hgood (if_pos hpromoting),
    askQuietly_admitted (a := .bootControl s.lcb.runSlot 0) rfl hopen
      (reserveCovers_of_le hcover (Nat.le_add_right 5 200))]
  refine congrArg Host.Outcome.next ((if_pos hsvn).trans ?_)
  exact congrArg Prod.fst hsecond

/-- With no bound key left to promote, the carry-over record is asked for (R146). -/
theorem promoteNext_last (hpromoting : s.vault.promoting = false) (hnone : s.toPromote = none)
    (hopen : s.storesOpen = true) (hcover : s.reserveCovers 5 = true) :
    s.promoteNext = s.addStore none (.carryOver none) true false := by
  simp only [State.promoteNext, hnone, askQuietly_admitted (a := .carryOver none) rfl hopen hcover, Option.isSome_none,
    Bool.and_false]
  rw [← hpromoting]
  rfl

/-! ## The verification of a zeroisation (R421) -/

theorem exec_zeroiseVerify_ok (hzero : s.zeroising = true) (hphase : s.sys.phase ≠ .boot) :
    exec (.zeroiseVerify true) s =
      .next { s with sen := { s.sen with zstate := .verified, zeroDone := true, zeroRepeat := false } } := by
  change execZeroiseVerify true s = _
  rw [execZeroiseVerify, if_neg (by simp [hzero]), if_pos rfl, State.bootContinue, if_neg]
  simp [State.inResolve, hphase]

theorem exec_zeroiseVerify_again (hzero : s.zeroising = true) (htries : s.sen.zeroTries < 3) :
    exec (.zeroiseVerify false) s = .next { s with sen := { s.sen with zeroTries := s.sen.zeroTries + 1 } } := by
  change execZeroiseVerify false s = _
  rw [execZeroiseVerify, if_neg (by simp [hzero]), if_neg Bool.false_ne_true, if_pos htries]

theorem exec_zeroiseVerify_fails (hzero : s.zeroising = true) (htries : 3 ≤ s.sen.zeroTries) :
    ∃ t, exec (.zeroiseVerify false) s = .next t ∧ t.zeroising = false ∧ t.sen.zeroRepeat = false := by
  change ∃ t, execZeroiseVerify false s = _ ∧ _
  rw [execZeroiseVerify, if_neg (by simp [hzero]), if_neg Bool.false_ne_true, if_neg (Nat.not_lt.mpr htries)]
  exact ⟨_, rfl, Bool.and_false _, rfl⟩

end

theorem reserveAndGoodBoot : ReserveAndGoodBoot := by
  refine ⟨?_, ?_, ?_, ?_, ?_, ?_, ?_⟩
  · exact fun s r hmay hretry hotp htries => exec_reserveMeasure_eq hmay hretry hotp htries
  · exact fun s hgood hpromoting hsvn hopen hcover => exec_goodBoot_current hgood (if_pos hpromoting) hsvn hopen hcover
  · exact fun s hgood hpromoting hsvn hopen hcover => exec_goodBoot_behind hgood hpromoting hsvn hopen hcover
  · intro s hgood hpromoting hnone hsvn hopen hcover
    have hlast := promoteNext_last hpromoting hnone hopen (reserveCovers_of_le hcover (by decide))
    exact exec_goodBoot_current hgood ((if_neg (ne_true_of_eq_false hpromoting)).trans hlast) hsvn hopen
      (addStore_reserveCovers (a := .carryOver none) hcover)
  · exact fun s hzero hphase => exec_zeroiseVerify_ok hzero hphase
  · exact fun s hzero htries => exec_zeroiseVerify_again hzero htries
  · exact fun s hzero htries => exec_zeroiseVerify_fails hzero htries

/-- Settles O17: the commit of a store, and what the reserve, a good boot and a zeroisation come to. -/
theorem storesCommit : Obligations.StoresCommit := ⟨storeCommits, reserveAndGoodBoot⟩

end Sys2Proof.Machine

/-! PROOFS. LC_TRANSITION (R442, R444, R456) and LC_DEBUG_OPEN (R452, R457). -/

namespace Sys2Proof.Machine

section
variable {s : State} {it : Item} {tok : List Byte} {a : StoreAction} {o : Outcome} {st : Status}

/-- A session whose store the reserve admits is consumed, and the item asks for its store (R478, R480). -/
theorem storeSession_of_ready (hready : StoreReady s a) :
    s.storeSession it.id a o = s.closeSession.storeFor it.id a o := by
  obtain ⟨-, -, hcovers⟩ := hready
  rw [State.storeSession, if_neg (by simp [hcovers])]

/-! ## LC_TRANSITION (R456) -/

/-- What is left of LC_TRANSITION once its checks and its token have passed: the session, and the record. -/
def State.lcConsumes (s : State) (it : Item) (target kind : Nat) (subject : List Byte) (tag : Word) : State :=
  match s.consumeAsk (BitVec.ofNat 32 (it.le 16 4)) kind subject with
  | .missing => s.failItem it.id stQuorumMissing
  | .waits => s.yieldItem it.id .quorum
  | .ready => s.recordSlot it target tag

theorem exec_lcTransition_direct (hrun : s.Runs it 0x0731) (hcheck : s.lcCheck it = none)
    (htarget : it.byte 20 ≠ lcDiagnostic) (hsession : it.le 16 4 = 0) :
    exec (.lcTransition it.id) s = .next (s.recordSlot it (it.byte 20) 0) := by
  have ⟨_, _, hop⟩ := hrun
  change execLcTransition it.id s = _
  rw [execLcTransition, onRunning_eq hrun]
  simp only [hop, hcheck, htarget, hsession, ne_eq, not_true_eq_false, if_false, if_true]

theorem exec_lcTransition_session (hrun : s.Runs it 0x0731) (hcheck : s.lcCheck it = none)
    (htarget : it.byte 20 ≠ lcDiagnostic) (hsession : it.le 16 4 ≠ 0) :
    exec (.lcTransition it.id) s = .next (s.lcConsumes it (it.byte 20) 0x04 (leBytes 1 (it.byte 20) ++ zeros 31) 0) := by
  have ⟨_, _, hop⟩ := hrun
  change execLcTransition it.id s = _
  rw [execLcTransition, onRunning_eq hrun]
  simp only [hop, hcheck, htarget, hsession, ne_eq, not_true_eq_false, if_false, lcSubject]
  rfl

theorem exec_lcTransition_refused (hrun : s.Runs it 0x0731) (hcheck : s.lcCheck it = none)
    (htarget : it.byte 20 = lcDiagnostic) (hbytes : it.hostBytes (it.le 24 8) 257 = some tok)
    (htoken : s.tokenCheck .reopen tok = some st) : exec (.lcTransition it.id) s = .next (s.failItem it.id st) := by
  have ⟨_, _, hop⟩ := hrun
  change execLcTransition it.id s = _
  rw [execLcTransition, onRunning_eq hrun]
  simp only [hop, hcheck, htarget, hbytes, htoken, ne_eq, not_true_eq_false, if_false, if_true]

theorem exec_lcTransition_token (hrun : s.Runs it 0x0731) (hcheck : s.lcCheck it = none)
    (htarget : it.byte 20 = lcDiagnostic) (hsession : it.le 16 4 ≠ 0)
    (hbytes : it.hostBytes (it.le 24 8) 257 = some tok) (htoken : s.tokenCheck .reopen tok = none) :
    exec (.lcTransition it.id) s =
      .next (s.lcConsumes it lcDiagnostic 0x05 ((sha384 (tok.take 160)).take 32) (tokenTag tok)) := by
  have ⟨_, _, hop⟩ := hrun
  change execLcTransition it.id s = _
  rw [execLcTransition, onRunning_eq hrun]
  simp only [hop, hcheck, htarget, hsession, hbytes, htoken, ne_eq, not_true_eq_false, if_false, if_true, lcSubject]
  rfl

/-- The outcome of LC_TRANSITION: the slot, and the tag of its token. -/
theorem recordSlot_direct {target : Nat} (hsession : it.le 16 4 = 0) :
    s.recordSlot it target 0 = s.storeFor it.id (.otpSlot s.nextSlot (codeword target) 0)
      (outcome stOk (leBytes 8 s.nextSlot ++ leBytes 4 0)) := if_pos hsession

theorem recordSlot_session {target : Nat} (hsession : it.le 16 4 ≠ 0)
    (hready : StoreReady s (.otpSlot s.nextSlot (codeword target) 0)) :
    s.recordSlot it target 0 = s.closeSession.storeFor it.id (.otpSlot s.nextSlot (codeword target) 0)
      (outcome stOk (leBytes 8 s.nextSlot ++ leBytes 4 0)) :=
  (if_neg hsession).trans (storeSession_of_ready hready)

/-! ## LC_DEBUG_OPEN (R457) -/

/-- An LC_DEBUG_OPEN whose fields pass presents its token. -/
theorem exec_lcDebugOpen_eq (hrun : s.Runs it 0x0732) (hlcs : s.bootLcs = lcDiagnostic)
    (hzero : zeroRange it.desc 24 64 = true) (halign : it.le 16 8 % 64 = 0)
    (hbytes : it.hostBytes (it.le 16 8) 257 = some tok) : exec (.lcDebugOpen it.id) s = .next (
      if (s.presentToken tok).1 = stOk then (s.presentToken tok).2.complete it.id stOk (okBody (tokenScope tok) [])
      else s.failItem it.id (s.presentToken tok).1) := by
  have ⟨_, _, hop⟩ := hrun
  change execLcDebugOpen it.id s = _
  rw [execLcDebugOpen, onRunning_eq hrun]
  simp only [hop, hlcs, hzero, halign, hbytes, ne_eq, not_true_eq_false, if_false, Bool.not_true, Bool.false_eq_true]

theorem presentToken_refused (htoken : s.tokenCheck .scopes tok = some st) : s.presentToken tok = (st, s) := by
  rw [State.presentToken, htoken]

theorem presentToken_opens (htoken : s.tokenCheck .scopes tok = none) : s.presentToken tok = (stOk, s.openScopes tok) := by
  rw [State.presentToken, htoken]

end

/-- Settles O32: each way through the checks ends in the record, the wait or the status that the text gives. -/
theorem lifeCycleOpcodes : Obligations.LifeCycleOpcodes := by
  refine ⟨?_, ?_, ?_, ?_⟩
  · intro s it a hrun hcheck htarget hsession ha hready
    have ⟨hitem, _, _⟩ := hrun
    subst ha
    rw [exec_lcTransition_direct hrun hcheck htarget hsession, recordSlot_direct hsession,
      storeFor_of_ready hitem hready]
  · intro s it a hrun hcheck htarget hsession hconsume ha hready
    subst ha
    rw [exec_lcTransition_session hrun hcheck htarget hsession, State.lcConsumes, hconsume]
    exact congrArg Host.Outcome.next (recordSlot_session hsession hready)
  · intro s it tok hrun hcheck htarget hsession hbytes
    have ⟨hitem, _, _⟩ := hrun
    cases htoken : s.tokenCheck .reopen tok with
    | some st =>
      refine ⟨_, exec_lcTransition_refused hrun hcheck htarget hbytes htoken, fun st' hst => ?_, fun h => by simp at h⟩
      cases hst
      exact failItem_ends hrun (by decide)
    | none =>
      refine ⟨_, exec_lcTransition_token hrun hcheck htarget hsession hbytes htoken, fun st' hst => by simp at hst,
        fun _ => ⟨fun hask => ?_, fun hask => ?_, fun hask => ?_⟩⟩ <;> rw [State.lcConsumes, hask]
      · exact failItem_ends hrun (by decide)
      · exact ⟨yieldItem_waits hitem, yieldItem_frame⟩
  · intro s it tok hrun hlcs hzero halign hbytes
    refine ⟨_, exec_lcDebugOpen_eq hrun hlcs hzero halign hbytes, fun st htoken hst => ?_, fun htoken => ?_⟩
    · rw [presentToken_refused htoken, if_neg hst]
      exact failItem_ends hrun (by decide)
    · rw [presentToken_opens htoken, if_pos rfl]
      have hkept := complete_frame (s := s.openScopes tok) (id := it.id) (st := stOk) (body := okBody (tokenScope tok) [])
      have hopened : (s.openScopes tok).Runs it 0x0732 := hrun
      refine ⟨complete_completed hopened (.inr rfl), ?_⟩
      dsimp only
      rw [hkept.lcb, hkept.regs, hkept.qps, hkept.cells, hkept.sys, hkept.records]
      exact ⟨rfl, rfl, rfl, rfl, rfl, rfl, rfl⟩

end Sys2Proof.Machine

/-! PROOFS. Ceremony sessions (R475, R477, R480): the closing of a session, the opcodes that open, close and apply one. -/

namespace Sys2Proof.Machine

section
variable {s t : State} {it : Item} {c : Ceremony} {d : List Byte}

/-! ## Items that still have an end before them -/

/-- An item stands under its own number and has not ended. -/
def State.Filed (s : State) (id : Nat) : Prop := ∃ x, s.item id = some x ∧ x.id = id ∧ x.phase ≠ .done

theorem Runs.filed {op : Nat} (hrun : s.Runs it op) : s.Filed it.id := ⟨it, hrun.1, rfl, running_not_done hrun.2.1⟩

/-- The end of another item's wait files that item anew, and no item's record is ready by it. -/
theorem endWait_filed {id other : Nat} (hfiled : s.Filed id) : (s.endWait other).Filed id := by
  unfold State.endWait
  split
  · exact hfiled
  · next y hy =>
    split
    · by_cases hid : y.id = id
      · exact ⟨{ y with phase := .resumable }, hid ▸ setItem_item_self, hid, by simp⟩
      · obtain ⟨x, hx, hown, hopen⟩ := hfiled
        exact ⟨x, (setItem_item_ne (it := { y with phase := .resumable }) (Ne.symm hid)).trans hx, hown, hopen⟩
    · exact hfiled

/-- An item that has not ended completes with ST_OK and the bytes given. -/
theorem complete_of_filed {id : Nat} {body : List Byte} (hfiled : s.Filed id) :
    (s.complete id stOk body).Completed id stOk body := by
  obtain ⟨x, hx, hown, hopen⟩ := hfiled
  subst hown
  exact ⟨_, complete_item hx hopen, rfl, endBody_eq (.inr rfl)⟩

/-- An item that stands under its own number can yield. -/
theorem yieldItem_of_filed {id : Nat} {why : WaitFor} (hfiled : s.Filed id) : (s.yieldItem id why).Waits id why := by
  obtain ⟨x, hx, hown, -⟩ := hfiled
  subst hown
  exact yieldItem_waits hx

/-! ## The closing of a session (R477) -/

theorem wakeQuorum_eq : ∃ dsp, s.wakeQuorum = { s with dsp := dsp } := foldl_dsp fun _ _ => endWait_eq

theorem wakeQuorum_filed {id : Nat} (hfiled : s.Filed id) : s.wakeQuorum.Filed id :=
  List.foldlRecOn (motive := (State.Filed · id)) _ _ hfiled fun _ h _ _ => endWait_filed h

/-- The ceremony part with its session closed. -/
def CtlState.sessionClosed (x : CtlState) : CtlState :=
  { x with session := x.session.map fun c => { c with isOpen := false } }

/-- Closing the session moves the mode's counters and the items that waited for a quorum, and nothing else. -/
theorem closeSession_eq : ∃ dsp sys, s.closeSession = { s with dsp := dsp, sys := sys, ctl := s.ctl.sessionClosed } ∧
    sys.phase = s.sys.phase := by
  obtain ⟨sys, hmode, hphase, -⟩ := noteMode_eq (s := s) (t := { s with ctl := s.ctl.sessionClosed })
  obtain ⟨dsp, hwake⟩ := wakeQuorum_eq (s := { s with sys := sys, ctl := s.ctl.sessionClosed })
  refine ⟨dsp, sys, ?_, hphase⟩
  change (s.noteMode { s with ctl := s.ctl.sessionClosed }).wakeQuorum = _
  rw [hmode, hwake]

theorem closeSession_filed {id : Nat} (hfiled : s.Filed id) : s.closeSession.Filed id := by
  obtain ⟨sys, hmode, -, -⟩ := noteMode_eq (s := s) (t := { s with ctl := s.ctl.sessionClosed })
  change (s.noteMode { s with ctl := s.ctl.sessionClosed }).wakeQuorum.Filed id
  rw [hmode]
  exact wakeQuorum_filed hfiled

theorem session_of_openSession {n : Word} (hopen : s.openSession n = some c) : s.ctl.session = some c := by
  unfold State.openSession at hopen
  split at hopen
  · next x hx =>
    split at hopen
    · exact hx.trans hopen
    · simp at hopen
  · simp at hopen

/-! ## CER_OPEN and CER_CLOSE (R475, R477) -/

/-- The state in which a session has been opened, before its item ends. -/
def State.sessionOpened (s : State) (c : Ceremony) : State :=
  { (s.draw 8).2 with ctl := { (s.draw 8).2.ctl with session := some c, nextSession := (s.draw 8).2.ctl.nextSession + 1 } }

theorem sessionOpened_eq : ∃ ent fresh, s.sessionOpened c =
    { s with ent := ent, fresh := fresh, ctl := { s.ctl with session := some c, nextSession := s.ctl.nextSession + 1 } } := by
  obtain ⟨ent, fresh, hdraw⟩ := draw_eq (s := s) (n := 8)
  refine ⟨ent, fresh, ?_⟩
  rw [State.sessionOpened, hdraw]

theorem exec_cerOpen_eq (hrun : s.Runs it 0x0720) (hlow : 1 ≤ it.byte 16) (hhigh : it.byte 16 ≤ 8)
    (haux : auxOk (it.byte 16) (it.byte 17) = true) (hlimit : it.le 18 2 ≤ 300)
    (hzero : zeroRange it.desc 20 24 = true) (hrest : zeroRange it.desc 56 64 = true) (hphase : s.sys.phase = .service)
    (hclosed : s.ceremonyOpen = false) (hroster : s.ctl.roster ≠ [] ∨ (it.byte 16 = 0x01 ∧ it.byte 17 = 0x01))
    (hc : c = { session := s.ctl.nextSession, kind := it.byte 16, aux := it.byte 17, subject := slice it.desc 24 32
                nonce := (s.draw 8).1, opened := s.sys.tick, limitS := if it.le 18 2 = 0 then 300 else it.le 18 2
                counted := [], passed := [], components := [], isOpen := true }) :
    exec (.cerOpen it.id) s = .next ((s.noteMode (s.sessionOpened c)).complete it.id stOk
      (leBytes 8 s.ctl.nextSession.toNat ++ (s.draw 8).1)) := by
  have ⟨_, _, hop⟩ := hrun
  obtain ⟨ent, fresh, hdraw⟩ := draw_eq (s := s) (n := 8)
  have hfields : ¬(it.byte 16 = 0 ∨ 8 < it.byte 16 ∨ (!auxOk (it.byte 16) (it.byte 17)) = true ∨ 300 < it.le 18 2 ∨
      (!zeroRange it.desc 20 24) = true ∨ (!zeroRange it.desc 56 64) = true) := by
    simp only [haux, hzero, hrest, Bool.not_true, Bool.false_eq_true, false_or, or_false]
    omega
  have hfirst : ¬(s.ctl.roster = [] ∧ ¬(it.byte 16 = 0x01 ∧ it.byte 17 = 0x01)) := by
    rintro ⟨hnone, hkind⟩
    exact hroster.elim (fun h => h hnone) hkind
  change execCerOpen it.id s = _
  rw [execCerOpen, onRunning_eq hrun]
  dsimp only
  rw [if_neg (not_not.mpr hop), if_neg hfields, if_neg (not_not.mpr hphase), if_neg (by simp [hclosed]), if_neg hfirst]
  subst hc
  simp only [State.sessionOpened, hdraw]

theorem exec_cerClose_open (hrun : s.Runs it 0x0722) (hzero : zeroRange it.desc 20 64 = true)
    (hopen : s.openSession it.cerSession = some c) :
    exec (.cerClose it.id) s = .next (s.closeSession.complete it.id stOk (leBytes 8 1)) := by
  have ⟨_, _, hop⟩ := hrun
  change execCerClose it.id s = _
  rw [execCerClose, onRunning_eq hrun]
  simp only [hop, hzero, hopen, ne_eq, not_true_eq_false, if_false, Bool.not_true, Bool.false_eq_true]

theorem exec_cerClose_none (hrun : s.Runs it 0x0722) (hzero : zeroRange it.desc 20 64 = true)
    (hnone : s.openSession it.cerSession = none) :
    exec (.cerClose it.id) s = .next (s.complete it.id stOk (leBytes 8 0)) := by
  have ⟨_, _, hop⟩ := hrun
  change execCerClose it.id s = _
  rw [execCerClose, onRunning_eq hrun]
  simp only [hop, hzero, hnone, ne_eq, not_true_eq_false, if_false, Bool.not_true, Bool.false_eq_true]

theorem exec_ceremonyLimit_eq (hsession : s.ctl.session = some c) (hopen : c.isOpen = true) :
    exec .ceremonyLimit s = .next s.closeSession := by
  change execCeremonyLimit s = _
  exact if_pos (by simp [State.ceremonyOpen, hsession, hopen])

/-! ## CER_APPLY (R480) -/

theorem exec_cerApply_session (hrun : s.Runs it 0x0723) (hzero : zeroRange it.desc 32 64 = true)
    (halign : it.le 24 8 % 64 = 0) (hbytes : it.hostBytes (it.le 24 8) (it.le 20 4) = some d) (hstage : it.stage = 0)
    (hopen : s.openSession it.cerSession = some c)
    (hkind : c.kind = 0x01 ∨ c.kind = 0x03 ∨ c.kind = 0x06 ∨ c.kind = 0x07) (hsubject : sha256 d = c.subject) :
    exec (.cerApply it.id) s = .next (if s.hasQuorum c then s.applySession it c d else s.yieldItem it.id .quorum) := by
  have ⟨_, _, hop⟩ := hrun
  have happlied : ¬((!([0x01, 0x03, 0x06, 0x07].contains c.kind)) = true ∨ sha256 d ≠ c.subject) := by
    rcases hkind with h | h | h | h <;> simp [h, hsubject]
  change execCerApply it.id s = _
  rw [execCerApply, onRunning_eq hrun]
  rw [if_neg (not_not.mpr hop), if_neg (by simp [hzero]), if_neg (not_not.mpr halign), hbytes]
  dsimp only
  rw [if_neg (by omega), hopen]
  exact congrArg Host.Outcome.next (if_neg happlied)

theorem exec_cerApply_done (hrun : s.Runs it 0x0723) (hzero : zeroRange it.desc 32 64 = true)
    (halign : it.le 24 8 % 64 = 0) (hbytes : it.hostBytes (it.le 24 8) (it.le 20 4) = some d) (hstage : it.stage = 3) :
    exec (.cerApply it.id) s = .next (s.complete it.id stOk (okBody 0 [])) := by
  have ⟨_, _, hop⟩ := hrun
  have hfirmware : s.firmwareStage it d = s.complete it.id stOk (okBody 0 []) := by
    rw [State.firmwareStage, if_neg (by omega), if_neg (by omega)]
  change execCerApply it.id s = _
  rw [execCerApply, onRunning_eq hrun]
  rw [if_neg (not_not.mpr hop), if_neg (by simp [hzero]), if_neg (not_not.mpr halign), hbytes]
  dsimp only
  rw [if_pos (by omega), hfirmware]

/-- A component's store, with its session's quorum, is asked for as the session is consumed (R481). -/
theorem applySession_component {a : StoreAction} (hkind : c.kind = 0x01) (hload : c.loadComponent d = .ok a)
    (hready : StoreReady s a) :
    s.applySession it c d = s.closeSession.storeFor it.id a (outcome stOk []) := by
  rw [State.applySession]
  rw [if_pos hkind, hload]
  exact storeSession_of_ready hready

theorem applySession_recovery (hkind : c.kind = 0x06) :
    s.applySession it c d = (s.closeSession.complete it.id stOk []).raiseEvents [kEvent 2 0xFFFF] := by
  rw [State.applySession]
  rw [if_neg (by omega), if_neg (by omega), if_pos hkind]

end

theorem ceremonySessionsOpenAndClose : CeremonySessionsOpenAndClose := by
  refine ⟨?_, ?_, ?_, ?_⟩
  · intro s it c hrun hlow hhigh haux hlimit hzero hrest hphase hclosed hroster hc
    refine ⟨_, exec_cerOpen_eq hrun hlow hhigh haux hlimit hzero hrest hphase hclosed hroster hc, ?_⟩
    obtain ⟨sys, hmode, hmodePhase, -⟩ := noteMode_eq (s := s) (t := s.sessionOpened c)
    obtain ⟨ent, fresh, hopened⟩ := sessionOpened_eq (s := s) (c := c)
    rw [hopened] at hmode hmodePhase
    rw [hopened, hmode]
    refine ⟨complete_completed (it := it) (op := 0x0720) hrun (.inr rfl), ?_⟩
    rw [complete_frame.ctl, complete_frame.regs, complete_frame.qps, complete_frame.cells, complete_frame.sys]
    exact ⟨rfl, rfl, rfl, rfl, rfl, rfl, hmodePhase.trans hphase⟩
  · intro s it c hrun hzero hopen
    refine ⟨_, exec_cerClose_open hrun hzero hopen, complete_of_filed (closeSession_filed (Runs.filed hrun)), ?_⟩
    obtain ⟨dsp, sys, hclose, -⟩ := closeSession_eq (s := s)
    rw [complete_frame.ctl, complete_frame.regs, complete_frame.qps, complete_frame.cells, hclose]
    refine ⟨?_, rfl, rfl, rfl, rfl⟩
    simp only [CtlState.sessionClosed, session_of_openSession hopen, Option.map_some]
  · exact fun s it hrun hzero hnone => exec_cerClose_none hrun hzero hnone
  · intro s c hsession hopen
    obtain ⟨dsp, sys, hclose, hphase⟩ := closeSession_eq (s := s)
    refine ⟨_, exec_ceremonyLimit_eq hsession hopen, ?_⟩
    rw [hclose]
    refine ⟨?_, rfl, rfl, rfl, rfl, hphase⟩
    simp only [CtlState.sessionClosed, hsession, Option.map_some]

theorem ceremoniesAreApplied : CeremoniesAreApplied := by
  refine ⟨?_, ?_, ?_, ?_⟩
  · intro s it d c a hrun hzero halign hbytes hstage hopen hkind hsubject hquorum hload hready
    rw [exec_cerApply_session hrun hzero halign hbytes hstage hopen (.inl hkind) hsubject, if_pos hquorum,
      applySession_component hkind hload hready]
  · intro s it d c hrun hzero halign hbytes hstage hopen hkind hsubject hquorum
    rw [exec_cerApply_session hrun hzero halign hbytes hstage hopen (.inr (.inr (.inl hkind))) hsubject, if_pos hquorum,
      applySession_recovery hkind]
  · intro s it d c hrun hzero halign hbytes hstage hopen hkind hsubject hquorum
    refine ⟨_, exec_cerApply_session hrun hzero halign hbytes hstage hopen hkind hsubject, ?_⟩
    rw [if_neg (ne_true_of_eq_false hquorum)]
    exact ⟨yieldItem_of_filed (Runs.filed hrun), yieldItem_frame⟩
  · intro s it d hrun hzero halign hbytes hstage
    exact ⟨_, exec_cerApply_done hrun hzero halign hbytes hstage, complete_completed hrun (.inr rfl), complete_frame⟩

/-- Settles O44: the session's opening and closing, and what a quorate session is applied to. -/
theorem ceremonySessionsAreKept : Obligations.CeremonySessionsAreKept :=
  ⟨ceremonySessionsOpenAndClose, ceremoniesAreApplied⟩

end Sys2Proof.Machine

/-! PROOFS. Tenant approvals (R324, R483, R484): a session opens, counts signatures and closes; the first roster. -/

namespace Sys2Proof.Machine

section
variable {s : State} {it : Item}

theorem noOfficers_of_remote (hremote : s.remoteOfficers it.tenantByte = true) : ¬s.noOfficers it = true := by
  simp [State.noOfficers, hremote]

/-! ## APPROVAL_OPEN (R483) -/

/-- The state in which a tenant's approval session has been opened, before its item ends. -/
def State.approvalOpened (s : State) (tenant : Byte) (subject : List Byte) (n : Nat) : State :=
  { (s.draw 8).2 with ctl := { s.ctl with
    approvals := s.ctl.approvals ++ [(tenant, Approval.mk (BitVec.ofNat 32 n) subject (s.draw 8).1 s.sys.tick [])]
    nextApproval := tabSet s.ctl.nextApproval tenant.toNat (n + 1) } }

theorem exec_approvalOpen_eq {r : TenantRoster} (hrun : s.Runs it 0x0510) (hzero : zeroRange it.desc 48 64 = true)
    (hremote : s.remoteOfficers it.tenantByte = true) (hroster : tabGet s.ctl.tenantRosters it.tenantByte.toNat = some r)
    (hroom : (s.ctl.approvals.filter (·.1 == it.tenantByte)).length < 16) :
    let n := tabGetD s.ctl.nextApproval it.tenantByte.toNat 1
    exec (.approvalOpen it.id) s = .next ((s.approvalOpened it.tenantByte (slice it.desc 16 32) n).complete it.id stOk
      (leBytes 8 n ++ (s.draw 8).1)) := by
  have ⟨_, _, hop⟩ := hrun
  obtain ⟨ent, fresh, hdraw⟩ := draw_eq (s := s) (n := 8)
  intro n
  change execApprovalOpen it.id s = _
  rw [execApprovalOpen, onRunning_eq hrun, if_neg (not_not.mpr hop), if_neg (by simp [hzero]),
    if_neg (noOfficers_of_remote hremote), if_neg (by simp [hroster]), if_neg (Nat.not_le.mpr hroom)]
  simp only [State.approvalOpened, hdraw, n]

/-! ## APPROVAL_SIGN (R484) -/

theorem exec_approvalSign_eq {sig : List Byte} {a : Approval} {r : TenantRoster} {k : KeyView}
    (hrun : s.Runs it 0x0511) (hzero : zeroRange it.desc 32 64 = true) (halign : it.le 24 8 % 8 = 0)
    (hremote : s.remoteOfficers it.tenantByte = true) (hbytes : it.hostBytes (it.le 24 8) 64 = some sig)
    (happroval : s.approvalOf it.tenantByte it.cerSession = some a)
    (hroster : tabGet s.ctl.tenantRosters it.tenantByte.toNat = some r) (hlisted : r.handles.contains it.key = true)
    (hhandle : s.checkHandle it.tenantByte it.key = none) (huse : s.useCheck it.key [useVerify] [engPke] 0 = none)
    (hview : s.keyView it.key = some k) : exec (.approvalSign it.id) s = .next (
      if officerSigOk (publicPart 0x20 k.pubOnly k.material) (s.challenge 0x10 0xFF it.tenantByte a.session a.nonce a.subject)
        (BitVec.ofNat 32 (it.le 20 4)) sig then s.approve it a r.m
      else s.failItem it.id stVerifyFail) := by
  have ⟨_, _, hop⟩ := hrun
  change execApprovalSign it.id s = _
  rw [execApprovalSign, onRunning_eq hrun, if_neg (not_not.mpr hop), if_neg (by simp [hzero]),
    if_neg (not_not.mpr halign), if_neg (noOfficers_of_remote hremote)]
  simp only [hbytes, happroval, hroster, hlisted, hhandle, huse, hview, Option.or_none, Bool.not_true,
    Bool.false_eq_true, if_false]

/-- The approvals with one more counted key of a session. -/
def CtlState.counts (x : CtlState) (tenant : Byte) (a : Approval) (key : Word) : CtlState :=
  { x with approvals := x.approvals.map fun y => if y.1 == tenant && y.2.session == a.session then
      (y.1, { a with counted := a.counted ++ [key] }) else y }

/-- A key that is not yet counted is counted. -/
theorem approve_new {a : Approval} {m : Nat} (hnew : a.counted.contains it.key = false) :
    s.approve it a m = ({ s with ctl := s.ctl.counts it.tenantByte a it.key } : State).complete it.id stOk
      (leBytes 8 (a.counted.length + 1) ++ leBytes 1 (b2n (decide (m ≤ a.counted.length + 1)))) := by
  simp only [State.approve, hnew, Bool.false_eq_true, if_false, List.length_append, List.length_cons, List.length_nil]
  rfl

/-! ## ROSTER_SET (R324) -/

theorem exec_rosterSet_first {list : List Byte} (hrun : s.Runs it 0x0512) (hlow : 2 ≤ it.byte 16)
    (hhigh : it.byte 16 ≤ 8) (hcount : it.byte 16 ≤ it.byte 17) (hmost : it.byte 17 ≤ 8)
    (hzero : zeroRange it.desc 18 20 = true) (hrest : zeroRange it.desc 32 64 = true)
    (hremote : s.remoteOfficers it.tenantByte = true)
    (hfirst : tabGet s.ctl.tenantRosters it.tenantByte.toNat = none) (happroval : it.le 20 4 = 0)
    (hbytes : it.hostBytes (it.le 24 8) (4 * it.byte 17) = some list)
    (hhandles : ((chunks 4 list).map fun b => BitVec.ofNat 32 (ofLe b)).findSome? (s.officerHandle it.tenantByte) = none)
    (hquota : s.quotaLeft it.tenantByte 1 = true) : exec (.rosterSet it.id) s = .next (s.storeFor it.id
      (.tenantRoster it.tenantByte (it.byte 16) ((chunks 4 list).map fun b => BitVec.ofNat 32 (ofLe b)))
      (outcome stOk [])) := by
  have ⟨_, _, hop⟩ := hrun
  have hfields : ¬(it.byte 16 < 2 ∨ 8 < it.byte 16 ∨ it.byte 17 < it.byte 16 ∨ 8 < it.byte 17 ∨
      (!zeroRange it.desc 18 20) = true ∨ (!zeroRange it.desc 32 64) = true ∨
      ((tabGet s.ctl.tenantRosters it.tenantByte.toNat).isNone = true ∧ BitVec.ofNat 32 (it.le 20 4) ≠ 0)) := by
    simp only [hzero, hrest, happroval, Bool.not_true, Bool.false_eq_true, false_or, ne_eq]
    simp
    omega
  change execRosterSet it.id s = _
  rw [execRosterSet, onRunning_eq hrun, if_neg (not_not.mpr hop), if_neg hfields,
    if_neg (noOfficers_of_remote hremote)]
  simp only [hbytes, hhandles, hfirst, hquota, Option.isNone_none, if_true, Bool.not_true, Bool.false_eq_true, if_false]
  rfl

end

/-- Settles O47: each opcode's way through its checks, with what it leaves of the approvals. -/
theorem approvalOpcodes : Obligations.ApprovalOpcodes := by
  refine ⟨?_, ?_, ?_, ?_⟩
  · intro s it r n hrun hzero hremote hroster hroom hn
    obtain ⟨ent, fresh, hdraw⟩ := draw_eq (s := s) (n := 8)
    refine ⟨_, exec_approvalOpen_eq hrun hzero hremote hroster hroom, ?_⟩
    rw [← hn, State.approvalOpened, hdraw]
    refine ⟨complete_completed (it := it) (op := 0x0510) hrun (.inr rfl), ?_⟩
    rw [complete_frame.ctl, complete_frame.regs, complete_frame.qps, complete_frame.cells]
    exact ⟨rfl, tabGet_tabSet_self, rfl, rfl, rfl, rfl⟩
  · intro s it sig a r k hrun hzero halign hremote hbytes happroval hroster hlisted hhandle huse hview hnew
    refine ⟨_, exec_approvalSign_eq hrun hzero halign hremote hbytes happroval hroster hlisted hhandle huse hview,
      fun hgood => ?_, fun hbad => ?_⟩
    · rw [if_pos hgood, approve_new hnew]
      refine ⟨complete_completed (it := it) (op := 0x0511) hrun (.inr rfl), ?_⟩
      rw [complete_frame.ctl]
      rfl
    · rw [if_neg (ne_true_of_eq_false hbad)]
      exact failItem_ends hrun (by decide)
  · intro s it list a hrun hlow hhigh hcount hmost hzero hrest hremote hfirst happroval hbytes hhandles hquota ha hready
    have ⟨hitem, _, _⟩ := hrun
    subst ha
    rw [exec_rosterSet_first hrun hlow hhigh hcount hmost hzero hrest hremote hfirst happroval hbytes hhandles hquota,
      storeFor_of_ready hitem hready]
  · exact fun s b n => rfl

end Sys2Proof.Machine

/-! PROOFS. The cluster ring (R489, R490, R498 to R501): presence, the token, Mirror Sync, and the propagation of
ZEROIZE. -/

namespace Sys2Proof.Machine

section
variable {s t u : State} {f : RingFrame} {kind : Nat}

/-! ## Frames that arrive, and frames that leave (R489, R496) -/

/-- A frame of its type, with a tag that verifies, is handled. -/
theorem receive_eq {act : State → State} (hcomes : FrameComes s f kind) : s.receive kind f act = act s := by
  obtain ⟨hopen, hmember, hkind, htag⟩ := hcomes
  simp [State.receive, hopen, hmember, hkind, htag]

theorem receive_badTag {act : State → State} (hopen : s.ring.culvertOpen = true) (hmember : s.ring.member = true)
    (hkind : f.kind = kind) (htag : f.tagOk = false) :
    s.receive kind f act = { s with ring := { s.ring with badFrame := s.ring.badFrame + 1 } } := by
  simp [State.receive, hopen, hmember, hkind, htag]

theorem not_own (hforeign : f.origin ≠ s.ring.position) : ¬s.own f = true := by
  simp [State.own, hforeign]

/-- Another member's frame leaves with HOPS one higher. -/
theorem relayRing_eq (hforeign : f.origin ≠ s.ring.position) :
    s.relayRing f = s.emit (.ring (s.ringWire { f with hops := f.hops + 1 })) := if_neg hforeign

/-- The frame that this member originates next. -/
def State.ownFrame (s : State) (kind : Nat) (epoch : DWord) (body : List Byte) : RingFrame :=
  { kind := kind, origin := s.ring.position, hops := 0, refused := false, epoch := epoch, counter := s.ring.counter
    tagOk := true, generation := s.ring.generation, salt := s.ring.bootSalt, body := body }

theorem sendRing_eq {epoch : DWord} {body : List Byte} (hopen : s.ring.culvertOpen = true) :
    s.sendRing kind epoch body = { s with
      out := .ring (s.ringWire (s.ownFrame kind epoch body)) :: s.out
      ring := { s.ring with counter := s.ring.counter + 1 } } := if_neg (by simp [hopen])

/-! ## Presence (R489, R490) -/

theorem exec_culvertOpen_eq (hmember : s.ring.member = true) (hlocked : s.ring.locked = true)
    (hmode : s.culvertMode = true) (hclosed : s.ring.culvertOpen = false) : exec .culvertOpen s =
      .next { s with ring := { s.ring with culvertOpen := true, lastToken := s.sys.tick } } := by
  change execCulvertOpen s = _
  rw [execCulvertOpen, if_pos (by simp [hmember, hlocked, hmode, hclosed])]

theorem exec_heartbeatTimer_eq (hmember : s.ring.member = true) :
    exec .heartbeatTimer s = .next (s.sendRing rfHeartbeat s.ring.epoch s.ring.bootSalt) := if_pos hmember

theorem length_ringHeader : (ringHeader f).length = 24 := by
  simp only [ringHeader, List.length_append, length_leBytes]

/-- The wire form of a HEARTBEAT begins with its header. -/
theorem ringWire_heartbeat (hkind : f.kind = rfHeartbeat) : (s.ringWire f).take 24 = ringHeader f := by
  rw [State.ringWire]
  dsimp only
  rw [if_neg (by rw [hkind]; decide), if_pos hkind, List.append_assoc, ← length_ringHeader (f := f), List.take_left']
  rfl

/-- The member has noted a HEARTBEAT. -/
def State.heard (s : State) (f : RingFrame) : State :=
  { s with ring := { s.ring with
    peers := tabSet s.ring.peers f.origin { lastBeat := s.sys.tick, salt := f.salt, epoch := f.epoch }
    top := if s.ring.top.toNat < f.epoch.toNat then f.epoch else s.ring.top } }

/-- A HEARTBEAT that names no higher epoch than the member's is noted and relayed. -/
theorem exec_heartbeat_current (hcomes : FrameComes s f 0x01) (hforeign : f.origin ≠ s.ring.position)
    (hphase : s.sys.phase = .service) (hepoch : f.epoch.toNat ≤ s.ring.epoch.toNat)
    (htop : s.ring.top.toNat ≤ s.ring.epoch.toNat) :
    exec (.heartbeat f) s = .next ((s.heard f).relayRing f) := by
  have hbehind : (s.heard f).behind = false := by
    simp only [State.behind, State.heard, Bool.and_eq_false_imp]
    intro _
    split
    · exact decide_eq_false (Nat.not_lt.mpr hepoch)
    · exact decide_eq_false (Nat.not_lt.mpr htop)
  have hserving : ¬((s.heard f).relayRing f).syncing = true := by
    rw [relayRing_eq (s := s.heard f) hforeign]
    simp [State.syncing, State.emit, State.heard, hphase]
  have hcurrent : ((s.heard f).relayRing f).maySync = (s.heard f).relayRing f := by
    rw [relayRing_eq (s := s.heard f) hforeign]
    exact if_neg fun h => absurd h.2.2 (ne_true_of_eq_false hbehind)
  change Host.Outcome.next (s.receive rfHeartbeat f _) = _
  rw [receive_eq hcomes, if_neg (not_own hforeign)]
  exact congrArg Host.Outcome.next ((if_neg hserving).trans hcurrent)

theorem exec_presenceTimeout_eq {p : Nat} (hphase : s.sys.phase ≠ .mirrorSync) : exec (.presenceTimeout p) s =
    .next { s with ring := { s.ring with peers := tabErase s.ring.peers p } } := by
  change execPresenceTimeout p s = _
  rw [execPresenceTimeout]
  exact if_neg (by simp [State.syncing, hphase])

/-! ## The token (R498, R499) -/

/-- The member has seen a token of a generation. -/
def State.tokenSeen (s : State) (generation : Word) : State :=
  { s with ring := { s.ring with lastToken := s.sys.tick, generation := generation } }

theorem exec_token_relayed (hcomes : FrameComes s f 0x02) (hforeign : f.origin ≠ s.ring.position)
    (hgeneration : s.ring.generation.toNat ≤ f.generation.toNat) (hnone : s.mirrorWaiting = []) :
    exec (.token f) s = .next ((s.tokenSeen f.generation).relayRing f) := by
  change Host.Outcome.next (s.receive rfToken f _) = _
  rw [receive_eq hcomes, if_neg (Nat.not_lt.mpr hgeneration)]
  exact congrArg Host.Outcome.next (if_pos ⟨(Bool.not_eq_true' _).mpr (eq_false_of_ne_true (not_own hforeign)), .inr (.inl hnone)⟩)

theorem exec_token_old (hcomes : FrameComes s f 0x02) (hgeneration : f.generation.toNat < s.ring.generation.toNat) :
    exec (.token f) s = .next s := by
  change Host.Outcome.next (s.receive rfToken f _) = _
  rw [receive_eq hcomes, if_pos hgeneration]

/-- The member holds the token of a generation. -/
def State.tokenHeld (s : State) (epoch : DWord) (generation : Word) : State :=
  { s with ring := { s.ring with token := true, tokenEpoch := epoch, generation := generation } }

/-- With nothing to commit, a token that is taken is passed on. -/
theorem takeToken_passes {epoch : DWord} {generation : Word} (hopen : s.ring.culvertOpen = true)
    (hnone : s.mirrorWaiting = []) (hidle : s.ring.commit = none) : s.takeToken epoch generation =
      { s with
        out := .ring ((s.tokenHeld epoch generation).ringWire
          ((s.tokenHeld epoch generation).ownFrame rfToken epoch (leBytes 4 generation.toNat))) :: s.out
        ring := { s.ring with
          token := false, tokenEpoch := epoch, generation := generation, counter := s.ring.counter + 1
          lastToken := s.sys.tick } } := by
  have hgo : (s.tokenHeld epoch generation).mirrorGo = s.tokenHeld epoch generation := by
    have hwaiting : (s.tokenHeld epoch generation).mirrorWaiting = [] := hnone
    rw [State.mirrorGo, hwaiting]
    rfl
  change (s.tokenHeld epoch generation).mirrorGo.passToken = _
  rw [hgo, State.passToken, if_pos (by simp [State.tokenHeld, hidle])]
  dsimp only
  rw [sendRing_eq (s := s.tokenHeld epoch generation) hopen]
  rfl

theorem exec_tokenLossTimeout_lowest (hmember : s.ring.member = true) (hopen : s.ring.culvertOpen = true)
    (hheld : s.ring.token = false) (hphase : s.sys.phase ≠ .mirrorSync)
    (hlowest : ∀ p, p < s.ring.position → s.ringPresent p = false) : exec .tokenLossTimeout s =
      .next (s.takeToken (if s.ring.top.toNat < s.ring.epoch.toNat then s.ring.epoch else s.ring.top)
        (s.ring.generation + 1)) := by
  have hnone : (List.range s.ring.position).any s.ringPresent = false := by
    rw [List.any_eq_false]
    exact fun p hp => ne_true_of_eq_false (hlowest p (List.mem_range.mp hp))
  change execTokenLossTimeout s = _
  rw [execTokenLossTimeout, if_pos (by simp [hmember, hopen, hheld, State.syncing, hphase, hnone])]

end

theorem presenceIsKept : PresenceIsKept := by
  refine ⟨fun s b => rfl, ?_, ?_, ?_, ?_, ?_⟩
  · exact fun s hmember hlocked hmode hclosed => exec_culvertOpen_eq hmember hlocked hmode hclosed
  · intro s hmember hopen
    refine ⟨_, _, exec_heartbeatTimer_eq hmember, sendRing_eq hopen, ?_⟩
    rw [ringWire_heartbeat rfl]
    rfl
  · intro s f hcomes hforeign hphase hepoch htop
    refine ⟨_, exec_heartbeat_current hcomes hforeign hphase hepoch htop, ?_⟩
    rw [relayRing_eq (s := s.heard f) hforeign]
    exact ⟨rfl, rfl, rfl, rfl, rfl, rfl, rfl⟩
  · exact fun s f hopen hmember hkind htag => congrArg Host.Outcome.next (receive_badTag hopen hmember hkind htag)
  · exact fun s p hphase => exec_presenceTimeout_eq hphase

theorem theTokenIsPassedOn : TheTokenIsPassedOn := by
  refine ⟨?_, ?_, ?_⟩
  · intro s f hcomes hforeign hgeneration hnone
    refine ⟨_, exec_token_relayed hcomes hforeign hgeneration hnone, ?_⟩
    rw [relayRing_eq (s := s.tokenSeen f.generation) hforeign]
    exact ⟨rfl, rfl, rfl, rfl, rfl, rfl, rfl⟩
  · exact fun s f hcomes hgeneration => exec_token_old hcomes hgeneration
  · intro s hmember hopen hheld hphase hlowest hnone hidle
    refine ⟨_, exec_tokenLossTimeout_lowest hmember hopen hheld hphase hlowest, ?_⟩
    rw [takeToken_passes hopen hnone hidle]
    exact ⟨rfl, rfl, rfl, rfl, rfl, rfl, rfl⟩

/-- Settles O48: presence, and the course of the token. -/
theorem presenceAndToken : Obligations.PresenceAndToken := ⟨presenceIsKept, theTokenIsPassedOn⟩

end Sys2Proof.Machine

/-! PROOFS. Mirror Sync and the propagation of ZEROIZE (R500, R501). -/

namespace Sys2Proof.Machine

section
variable {s t u : State} {f : RingFrame}

/-! ## The mirrored state (R497, R500) -/

/-- What the application of another member's state leaves as it was, but for the ring's highest epoch, which does not
rise. -/
structure MirrorKept (s t : State) : Prop where
  regs : t.regs = s.regs
  qps : t.qps = s.qps
  top : t.ring.top.toNat ≤ s.ring.top.toNat

theorem MirrorKept.refl : MirrorKept s s := ⟨rfl, rfl, le_rfl⟩

theorem MirrorKept.trans (h : MirrorKept s t) (k : MirrorKept t u) : MirrorKept s u :=
  ⟨k.regs.trans h.regs, k.qps.trans h.qps, k.top.trans h.top⟩

/-- A record's store moves the highest epoch only where it makes or ends a membership, which sets it to 0. -/
theorem applyStore_mirrorKept {a : StoreAction} {own : Bool} : MirrorKept s (s.applyStore a own) := by
  cases a with
  | retire h | purge h =>
    unfold State.applyStore
    dsimp only
    split <;> exact ⟨rfl, rfl, le_rfl⟩
  | ringKey | ringLeave => exact ⟨rfl, rfl, Nat.zero_le _⟩
  | _ => exact ⟨rfl, rfl, le_rfl⟩

theorem applyMirror_kept {body : List Byte} : MirrorKept s (s.applyMirror body) := by
  unfold State.applyMirror
  extract_lets ps acts keeps keepsT gone goneT scanned old vault ctl erased
  have hscan : MirrorKept s scanned :=
    List.foldlRecOn (motive := MirrorKept s) _ _ .refl fun _ h _ _ => h.trans ⟨rfl, rfl, le_rfl⟩
  have herase : MirrorKept s erased := hscan.trans ⟨rfl, rfl, le_rfl⟩
  have happly : MirrorKept s (acts.foldl (fun s a => s.applyStore a false) erased) :=
    List.foldlRecOn (motive := MirrorKept s) _ _ herase fun _ h _ _ => h.trans applyStore_mirrorKept
  exact happly.trans ⟨rfl, rfl, le_rfl⟩

/-! ## SYNC_REQ and SYNC_DATA (R500) -/

theorem exec_syncReq_answers (hcomes : FrameComes s f 0x06) (hforeign : f.origin ≠ s.ring.position)
    (hphase : s.sys.phase ≠ .mirrorSync) (hnamed : (byteAt f.body 0).toNat = s.ring.position) :
    exec (.syncReq f) s =
      .next ((s.relayRing f).sendRing 0x07 s.ring.epoch (leBytes 1 f.origin ++ s.mirrorWire)) := by
  have hidle : (!s.syncing) = true := by simp [State.syncing, hphase]
  change Host.Outcome.next (s.receive rfSyncReq f _) = _
  rw [receive_eq hcomes, if_neg (not_own hforeign), relayRing_eq hforeign]
  exact congrArg Host.Outcome.next (if_pos ⟨hnamed, hidle⟩)

/-- The state in which the mirrored state of the member that was asked has been applied, and its epoch. -/
def State.mirrored (s : State) (f : RingFrame) : State :=
  let t := s.applyMirror (f.body.drop 1)
  { t with ring := { t.ring with epoch := f.epoch, syncFrom := none } }

/-- SYNC_DATA from the member that was asked is taken as far as the reserve admits it. -/
theorem exec_syncData_eq (hcomes : FrameComes s f 0x07) (hforeign : f.origin ≠ s.ring.position)
    (hphase : s.sys.phase = .mirrorSync) (hnamed : (byteAt f.body 0).toNat = s.ring.position)
    (hasked : s.ring.syncFrom = some f.origin) (hopen : s.storesOpen = true) : exec (.syncData f) s = .next (
      if s.reserveCovers 5 then
        if ((s.relayRing f).mirrored f).behind then ((s.relayRing f).mirrored f).requestSync
        else ((s.relayRing f).mirrored f).enterPhase .service
      else { (s.relayRing f).countRefusal with ring := { s.ring with syncFrom := none } }) := by
  have htaken : ¬((!s.syncing) = true ∨ (byteAt f.body 0).toNat ≠ s.ring.position ∨
      s.ring.syncFrom ≠ some f.origin) := by
    simp [State.syncing, hphase, hnamed, hasked]
  have hstores : ¬(!s.storesOpen) = true := by simp [hopen]
  change Host.Outcome.next (s.receive rfSyncData f _) = _
  rw [receive_eq hcomes, if_neg (not_own hforeign), relayRing_eq hforeign]
  refine congrArg Host.Outcome.next ((if_neg htaken).trans ((if_neg hstores).trans ?_))
  cases hcover : s.reserveCovers 5 with
  | true => exact if_neg (by simp [show (s.emit _).reserveCovers 5 = true from hcover])
  | false => exact if_pos (by simp [show (s.emit _).reserveCovers 5 = false from hcover])

/-- A member whose epoch has come up to the ring's highest is behind no longer. -/
theorem mirrored_behind (htop : s.ring.top.toNat ≤ f.epoch.toNat) : (s.mirrored f).behind = false := by
  have hkept : MirrorKept s (s.applyMirror (f.body.drop 1)) := applyMirror_kept
  have hlow : decide (f.epoch.toNat < (s.applyMirror (f.body.drop 1)).ring.top.toNat) = false :=
    decide_eq_false (Nat.not_lt.mpr (hkept.top.trans htop))
  exact (congrArg (_ && ·) hlow).trans (Bool.and_false _)

/-! ## ZEROIZE (R501) -/

theorem exec_zeroizeFrame_relays (hcomes : FrameComes s f 0x08) (hforeign : f.origin ≠ s.ring.position)
    (hprop : s.ring.zprop = false) : exec (.zeroizeFrame f) s = .next (s.relayRing f) := by
  change Host.Outcome.next (s.receive rfZeroize f _) = _
  rw [receive_eq hcomes, if_neg (not_own hforeign), relayRing_eq hforeign]
  exact congrArg Host.Outcome.next (if_pos ((Bool.not_eq_true' _).mpr hprop))

theorem exec_zeroizeFrame_raises (hcomes : FrameComes s f 0x08) (hforeign : f.origin ≠ s.ring.position)
    (hprop : s.ring.zprop = true) : exec (.zeroizeFrame f) s =
      .next ({ s.relayRing f with ring := { (s.relayRing f).ring with
        zSeen := true, zOrigin := BitVec.ofNat 4 f.origin, zSent := true } }.raiseEvents [kEvent 2 0xFFFF]) := by
  have hpropagates : ¬(!s.ring.zprop) = true := by simp [hprop]
  change Host.Outcome.next (s.receive rfZeroize f _) = _
  rw [receive_eq hcomes, if_neg (not_own hforeign), relayRing_eq hforeign]
  exact congrArg Host.Outcome.next (if_neg hpropagates)

end

theorem mirrorSyncBringsTheState : MirrorSyncBringsTheState := by
  refine ⟨?_, ?_, ?_⟩
  · exact fun s f hcomes hforeign hphase hnamed => ⟨_, exec_syncReq_answers hcomes hforeign hphase hnamed, rfl⟩
  · intro s f hcomes hforeign hphase hnamed hasked hopen hcover htop
    refine ⟨_, exec_syncData_eq hcomes hforeign hphase hnamed hasked hopen, ?_⟩
    have hkept : MirrorKept (s.relayRing f) ((s.relayRing f).applyMirror (f.body.drop 1)) := applyMirror_kept
    have hcurrent : ((s.relayRing f).mirrored f).behind = false :=
      mirrored_behind (by rw [relayRing_eq hforeign]; exact htop)
    have hrelayed : (s.relayRing f).regs = s.regs ∧ (s.relayRing f).qps = s.qps := by
      rw [relayRing_eq hforeign]
      exact ⟨rfl, rfl⟩
    obtain ⟨hregs, hqps⟩ := hrelayed
    obtain ⟨sys, hphase', -, hservice⟩ := enterPhase_eq (s := (s.relayRing f).mirrored f) (p := .service)
    rw [if_pos hcover, if_neg (ne_true_of_eq_false hcurrent), hphase']
    exact ⟨rfl, rfl, hservice, rfl, rfl, rfl, hkept.regs.trans hregs, hkept.qps.trans hqps⟩
  · intro s f hcomes hforeign hphase hnamed hasked hopen hcover
    refine ⟨_, exec_syncData_eq hcomes hforeign hphase hnamed hasked hopen, ?_⟩
    rw [if_neg (ne_true_of_eq_false hcover), relayRing_eq hforeign]
    exact ⟨rfl, rfl, rfl, rfl, rfl⟩

theorem zeroizeFramesPropagate : ZeroizeFramesPropagate :=
  ⟨fun _ _ hcomes hforeign hprop => exec_zeroizeFrame_relays hcomes hforeign hprop,
    fun _ _ hcomes hforeign hprop => exec_zeroizeFrame_raises hcomes hforeign hprop⟩

/-- Settles O50: Mirror Sync, and the frames that propagate a zeroisation. -/
theorem mirrorSyncAndZeroize : Obligations.MirrorSyncAndZeroize := ⟨mirrorSyncBringsTheState, zeroizeFramesPropagate⟩

end Sys2Proof.Machine

/-! PROOFS. The forming and the leaving of a ring (R492 to R494). -/

namespace Sys2Proof.Machine

section
variable {s t u : State} {it : Item} {d : List Byte} {f : RingForm}

theorem noteMode_serial : (s.noteMode t).sys.serial = t.sys.serial := by
  unfold State.noteMode
  split <;> rfl

theorem closeSession_serial : s.closeSession.sys.serial = s.sys.serial := by
  have hwake : ∀ u : State, u.wakeQuorum.sys = u.sys := fun u => by
    obtain ⟨dsp, h⟩ := wakeQuorum_eq (s := u)
    rw [h]
  exact (congrArg SysState.serial (hwake _)).trans noteMode_serial

/-! ## The key exchange (R494) -/

/-- What the frames and the draws of an exchange leave as it was. -/
structure FormKept (s t : State) : Prop where
  dsp : t.dsp = s.dsp
  ctl : t.ctl = s.ctl
  regs : t.regs = s.regs
  qps : t.qps = s.qps
  form : t.ring.form = s.ring.form
  member : t.ring.member = s.ring.member

theorem FormKept.refl : FormKept s s := ⟨rfl, rfl, rfl, rfl, rfl, rfl⟩

theorem FormKept.trans (h : FormKept s t) (k : FormKept t u) : FormKept s u :=
  ⟨k.dsp.trans h.dsp, k.ctl.trans h.ctl, k.regs.trans h.regs, k.qps.trans h.qps, k.form.trans h.form,
    k.member.trans h.member⟩

theorem draw_formKept {n : Nat} : FormKept s (s.draw n).2 := by
  obtain ⟨_, _, h⟩ := draw_eq (s := s) (n := n)
  rw [h]
  exact ⟨rfl, rfl, rfl, rfl, rfl, rfl⟩

theorem deviceReport_formKept {tenant : Byte} {challenge : List Byte} :
    FormKept s (s.deviceReport tenant challenge).2 := draw_formKept

theorem sendForm_formKept {kind position dest : Nat} {payload : List Byte} :
    FormKept s (s.sendForm kind position dest payload) := ⟨rfl, rfl, rfl, rfl, rfl, rfl⟩

/-- An exchange that begins is noted with its descriptor, and its item waits for it. -/
theorem startForm_begins (hfiled : s.Filed it.id) : ∃ f, (s.startForm it d).Waits it.id .ring ∧
    (s.startForm it d).ring.form = some f ∧ f.item = it.id ∧ f.desc = d ∧ f.serials = descSerials d ∧
    f.position = (descSerials d).idxOf s.sys.serial ∧ f.passed = [] ∧
    (s.startForm it d).ring.member = s.ring.member ∧ (s.startForm it d).ctl = s.ctl ∧
    (s.startForm it d).regs = s.regs ∧ (s.startForm it d).qps = s.qps := by
  unfold State.startForm
  extract_lets ss pos e priv k pub f source ring begun dest shared r
  have hdrawn : FormKept s k.2 := by
    have hfirst : FormKept s e.2 := draw_formKept
    by_cases hpos : pos = 0
    · simp only [k, if_pos hpos]
      exact hfirst.trans draw_formKept
    · simp only [k, if_neg hpos]
      exact hfirst
  have hyield : ItemFrame { k.2 with ring := { k.2.ring with form := some f } } begun := yieldItem_frame
  have hwaits : begun.Waits it.id .ring := by
    obtain ⟨x, hx, hown, hopen⟩ := hfiled
    exact yieldItem_of_filed ⟨x, (congrArg (fun y : DspState => tabGet y.items it.id) hdrawn.dsp).trans hx, hown, hopen⟩
  have hsent : FormKept begun (r.2.sendForm rfReport pos dest (r.1 ++ r.2.certChain)) :=
    (sendForm_formKept.trans deviceReport_formKept).trans sendForm_formKept
  obtain ⟨x, hx, hphase⟩ := hwaits
  refine ⟨f, ⟨x, (congrArg (fun y : DspState => tabGet y.items it.id) hsent.dsp).trans hx, hphase⟩, ?_, rfl, rfl, rfl,
    rfl, rfl, ?_, ?_, ?_, ?_⟩
  · exact hsent.form.trans (congrArg RingState.form hyield.ring)
  · exact (hsent.member.trans (congrArg RingState.member hyield.ring)).trans hdrawn.member
  · exact (hsent.ctl.trans hyield.ctl).trans hdrawn.ctl
  · exact (hsent.regs.trans hyield.regs).trans hdrawn.regs
  · exact (hsent.qps.trans hyield.qps).trans hdrawn.qps

/-! ## RING_ASSEMBLE (R492, R493) -/

/-- A session that is ready to be consumed is there. -/
theorem session_of_consumeAsk {n : Word} {kind : Nat} {subject : List Byte}
    (hask : s.consumeAsk n kind subject = .ready) : ∃ c, s.ctl.session = some c := by
  cases hsession : s.ctl.session with
  | some c => exact ⟨c, rfl⟩
  | none =>
    have hnone : s.sessionFor n kind subject = none := by rw [State.sessionFor, hsession]
    rw [State.consumeAsk, hnone] at hask
    simp at hask

theorem exec_ringAssemble_ready (hrun : s.Runs it 0x0740) (hzero : zeroRange it.desc 32 64 = true)
    (hlow : 24 ≤ it.le 20 4) (hhigh : it.le 20 4 ≤ 144) (hbytes : it.hostBytes (it.le 24 8) (it.le 20 4) = some d)
    (hdesc : s.descOk d = true) (halign : it.le 24 8 % 64 = 0)
    (hask : s.consumeAsk (BitVec.ofNat 32 (it.le 16 4)) 0x08 (sha256 d) = .ready) (hlcs : s.lcs = lcDeployed) :
    exec (.ringAssemble it.id) s = .next (
      if byteAt d 6 = 1 then s.storeSession it.id .ringLeave (outcome stOk []) else s.closeSession.startForm it d) := by
  have ⟨_, _, hop⟩ := hrun
  have hfields : ¬((!zeroRange it.desc 32 64) = true ∨ it.le 20 4 < 24 ∨ 144 < it.le 20 4) := by
    simp only [hzero, Bool.not_true, Bool.false_eq_true, false_or]
    omega
  change execRingAssemble it.id s = _
  rw [execRingAssemble, onRunning_eq hrun]
  dsimp only
  rw [if_neg (not_not.mpr hop), if_neg hfields]
  simp only [hbytes, hdesc, halign, hask, hlcs, ne_eq, not_true_eq_false, if_false, Bool.not_true, Bool.false_eq_true]
  rfl

/-! ## The end of an exchange -/

theorem exec_ringFormTimeout_eq (hform : s.ring.form = some f) :
    exec (.ringFormTimeout f.item) s = .next (s.formFails f stPeerUnreachable) := by
  change execRingFormTimeout f.item s = _
  rw [execRingFormTimeout, hform]
  exact if_pos rfl

/-- A key-exchange frame that names this device's position is its own to handle. -/
theorem exec_keyExchangeFrame_named {x : RingFrame} (hform : s.ring.form = some f) (hkind : x.kind = 0x09)
    (htag : x.tagOk = true) (hforeign : x.origin ≠ f.position) (hnamed : (byteAt x.body 0).toNat = f.position) :
    exec (.keyExchangeFrame x) s = .next (s.formFrame f x) := by
  have htaken : ¬(x.kind < rfKeyShare ∨ rfRingKey < x.kind ∨ (!x.tagOk) = true) := by
    simp only [hkind, htag]
    decide
  change execKeyExchangeFrame x s = _
  rw [execKeyExchangeFrame, if_neg htaken]
  simp only [hform, hforeign, hnamed, if_false, if_true, true_or]

/-- A key share of position 0 that another position receives: a valid point is kept, any other ends the exchange. -/
theorem formFrame_share {x : RingFrame} (hkind : x.kind = 0x09) (hfirst : x.origin = 0) (hposition : f.position ≠ 0) :
    s.formFrame f x = if pointValid 0x21 (x.body.drop 1)
      then { s with ring := { s.ring with form := some { f with peerKeys := tabSet f.peerKeys 0 (x.body.drop 1) } } }
      else s.formFails f stAccessDenied := by
  rw [State.formFrame]
  dsimp only
  rw [if_neg (by simp [hposition, hfirst]), if_pos hkind, hfirst]

end

/-- Settles O51: the assembly of a ring, the leaving of one, and the ends of an exchange. -/
theorem ringsAreFormed : Obligations.RingsAreFormed := by
  refine ⟨?_, ?_, ?_, ?_⟩
  · intro s it d hrun hzero hlow hhigh hbytes hdesc halign hask hlcs hmany
    obtain ⟨f, hwaits, hform, hitem, hdescOf, hserials, hposition, hpassed, hmember, hctl, hregs, hqps⟩ :=
      startForm_begins (d := d) (closeSession_filed (Runs.filed hrun))
    obtain ⟨dsp, sys, hclose, -⟩ := closeSession_eq (s := s)
    obtain ⟨c, hsession⟩ := session_of_consumeAsk hask
    refine ⟨_, f, exec_ringAssemble_ready hrun hzero hlow hhigh hbytes hdesc halign hask hlcs, ?_⟩
    rw [if_neg hmany, hmember, hctl, hregs, hqps]
    rw [closeSession_serial] at hposition
    refine ⟨hwaits, hform, hitem, hdescOf, hserials, hposition, hpassed, ?_, ?_, ?_, ?_⟩
    · rw [hclose]
    · rw [hclose]
      simp only [CtlState.sessionClosed, hsession, Option.map_some]
    · rw [hclose]
    · rw [hclose]
  · intro s it d hrun hzero hlow hhigh hbytes hdesc halign hask hlcs hone hready
    rw [exec_ringAssemble_ready hrun hzero hlow hhigh hbytes hdesc halign hask hlcs, if_pos hone,
      storeSession_of_ready hready]
  · intro s f it hform hitem hid hphase
    have hended : s.formFails f stPeerUnreachable = ({ s with ring := { s.ring with form := none } } : State).endWaitWith
        it.id (outcome stPeerUnreachable []) := by
      rw [hid]
      rfl
    have hstands : ({ s with ring := { s.ring with form := none } } : State).item it.id = some it := hid ▸ hitem
    obtain ⟨dsp, heq⟩ := endWaitWith_yielded_eq (o := outcome stPeerUnreachable []) hstands hphase
    refine ⟨_, exec_ringFormTimeout_eq hform, ?_⟩
    rw [hended]
    refine ⟨?_, endWaitWith_item hstands hphase, ?_⟩
    · rw [heq]
    · rw [heq]
      exact ⟨rfl, rfl, rfl⟩
  · intro s f x hform hkind htag hforeign hnamed hfirst hposition
    rw [exec_keyExchangeFrame_named hform hkind htag hforeign hnamed, formFrame_share hkind hfirst hposition]
    exact ⟨fun hvalid => congrArg Host.Outcome.next (if_pos hvalid),
      fun hbad => congrArg Host.Outcome.next (if_neg (ne_true_of_eq_false hbad))⟩

end Sys2Proof.Machine

/-! PROOFS. The host port (R353 to R362): function resets, the link, IDE streams and TDISP interface states. -/

namespace Sys2Proof.Machine

section
variable {s t u : State} {it : Item} {n fn qp : Nat}

/-! ## What the end of a function's items leaves of the functions (R358) -/

/-- The host port apart from its VFs and the PF's pending interrupts. -/
def HostState.core (h : HostState) : HostState := { h with vfs := [], pfPba := [] }

/-- The system's part, the plan, device memory, and the host port apart from its functions are as they were. -/
structure PortKept (s t : State) : Prop where
  sys : t.sys = s.sys
  plan : t.plan = s.plan
  cells : t.mem.cells = s.mem.cells
  core : t.host.core = s.host.core

/-- Every register and every VF's suspension are as they were too. -/
structure FunctionsKept (s t : State) : Prop extends PortKept s t where
  regs : t.regs = s.regs
  suspended : ∀ n, (t.vf n).suspended = (s.vf n).suspended

theorem PortKept.refl : PortKept s s := ⟨rfl, rfl, rfl, rfl⟩

theorem PortKept.trans (h : PortKept s t) (k : PortKept t u) : PortKept s u :=
  ⟨k.sys.trans h.sys, k.plan.trans h.plan, k.cells.trans h.cells, k.core.trans h.core⟩

theorem FunctionsKept.refl : FunctionsKept s s := ⟨.refl, rfl, fun _ => rfl⟩

theorem FunctionsKept.trans (h : FunctionsKept s t) (k : FunctionsKept t u) : FunctionsKept s u :=
  ⟨h.toPortKept.trans k.toPortKept, k.regs.trans h.regs, fun n => (k.suspended n).trans (h.suspended n)⟩

theorem FunctionsKept.foldl {α : Type} {f : State → α → State} (hf : ∀ t a, FunctionsKept t (f t a)) (as : List α)
    (s : State) : FunctionsKept s (as.foldl f s) :=
  List.foldlRecOn (motive := FunctionsKept s) _ _ .refl fun _ ht _ _ => ht.trans (hf _ _)

/-- An item's frame, with the VFs as they were, keeps the functions. -/
theorem FunctionsKept.of_frame (h : ItemFrame s t) (hsuspended : ∀ n, (t.vf n).suspended = (s.vf n).suspended) :
    FunctionsKept s t :=
  ⟨⟨h.sys, h.plan, h.cells, h.host⟩, h.regs, hsuspended⟩

/-- Steps that leave the system, the plan, memory, the registers and the host port keep the functions. -/
theorem FunctionsKept.of_eq (hsys : t.sys = s.sys) (hplan : t.plan = s.plan) (hcells : t.mem.cells = s.mem.cells)
    (hregs : t.regs = s.regs) (hhost : t.host = s.host) : FunctionsKept s t :=
  ⟨⟨hsys, hplan, hcells, congrArg HostState.core hhost⟩, hregs,
    fun n => congrArg (fun h : HostState => (tabGetD h.vfs n Vf.fresh).suspended) hhost⟩

theorem vf_setVf_self {v : Vf} : (s.setVf n v).vf n = v := tabGetD_tabSet_self

theorem vf_setVf_ne {k : Nat} {v : Vf} (h : k ≠ n) : (s.setVf n v).vf k = s.vf k := tabGetD_tabSet_ne h

/-- A VF that keeps its suspension. -/
theorem setVf_functionsKept {v : Vf} (hsuspended : v.suspended = (s.vf n).suspended) :
    FunctionsKept s (s.setVf n v) := by
  refine ⟨⟨rfl, rfl, rfl, rfl⟩, rfl, fun k => ?_⟩
  by_cases hk : k = n
  · rw [hk, vf_setVf_self, hsuspended]
  · rw [vf_setVf_ne hk]

/-! ### Interrupts, host writes and trace records -/

theorem sendVector_functionsKept {v : Nat} : FunctionsKept s (s.sendVector fn v) := by
  unfold State.sendVector
  split
  · exact .refl
  split
  · split
    · exact ⟨⟨rfl, rfl, rfl, rfl⟩, rfl, fun _ => rfl⟩
    · exact .of_eq rfl rfl rfl rfl rfl
  · extract_lets x
    split
    · exact setVf_functionsKept rfl
    · exact .of_eq rfl rfl rfl rfl rfl

theorem hostWrite_functionsKept {iova : Nat} {bytes : List Byte} : FunctionsKept s (s.hostWrite fn iova bytes) := by
  unfold State.hostWrite
  extract_lets t v
  have hemit : FunctionsKept s t := .of_eq rfl rfl rfl rfl rfl
  split
  · exact hemit
  · split
    · exact hemit.trans (setVf_functionsKept rfl)
    · exact hemit

theorem pushTrace_functionsKept {bytes : List Byte} : FunctionsKept s (s.pushTrace n bytes) := by
  unfold State.pushTrace
  extract_lets fn base log2 cons r next
  split
  · exact .of_eq rfl rfl rfl rfl rfl
  · have hring : FunctionsKept s
        { s with dsp := { s.dsp with traces := tabSet s.dsp.traces n { r with prod := next } } } :=
      .of_eq rfl rfl rfl rfl rfl
    exact hring.trans hostWrite_functionsKept

theorem trace_functionsKept {event detail : Nat} {st : Status} : FunctionsKept s (s.trace event detail it st) := by
  unfold State.trace
  extract_lets core t
  have hfirst : FunctionsKept s t := by
    unfold t
    split
    · exact pushTrace_functionsKept
    · exact .refl
  split
  · exact hfirst.trans pushTrace_functionsKept
  · exact hfirst

theorem setItem_functionsKept : FunctionsKept s (s.setItem it) := .of_eq rfl rfl rfl rfl rfl

/-! ### Items end, leave the device, and let others go on -/

theorem freeCore_functionsKept : FunctionsKept s (s.freeCore it) := by
  obtain ⟨_, h⟩ := freeCore_eq (s := s) (it := it)
  rw [h]
  exact .of_eq rfl rfl rfl rfl rfl

theorem releaseClaim_functionsKept : FunctionsKept s (s.releaseClaim it) := by
  refine .of_frame releaseClaim_frame fun n => ?_
  obtain ⟨_, _, _, _, _, h⟩ := releaseClaim_eq (s := s) (it := it)
  rw [h]
  rfl

theorem finish_functionsKept {id : Nat} {o : Outcome} : FunctionsKept s (s.finish id o) := by
  unfold State.finish
  split
  · exact .refl
  · next it _ =>
    split
    · exact .refl
    · extract_lets o' noted freed unlisted released it'
      have hnote : FunctionsKept s noted := by
        obtain ⟨_, _, _, h⟩ := noteEnd_eq (s := s) (it := it) (o := o')
        simp only [noted, h]
        exact .of_eq rfl rfl rfl rfl rfl
      have hfree : FunctionsKept noted freed := freeCore_functionsKept
      have hunlist : FunctionsKept freed unlisted := .of_eq rfl rfl rfl rfl rfl
      have hrelease : FunctionsKept unlisted released := releaseClaim_functionsKept
      exact (((hnote.trans hfree).trans hunlist).trans hrelease).trans
        (setItem_functionsKept.trans trace_functionsKept)

theorem removeItem_functionsKept {id : Nat} : FunctionsKept s (s.removeItem id) := .of_eq rfl rfl rfl rfl rfl

theorem enqueue_functionsKept {detail : Nat} : FunctionsKept s (s.enqueue it detail) := by
  unfold State.enqueue
  extract_lets general it' t dsp u
  split
  · exact setItem_functionsKept.trans trace_functionsKept
  · have hlisted : FunctionsKept s u := .of_eq rfl rfl rfl rfl rfl
    exact hlisted.trans trace_functionsKept

theorem freeHeadEntry_functionsKept {id : Nat} : FunctionsKept s (s.freeHeadEntry id) := by
  unfold State.freeHeadEntry
  split
  · split
    · exact setItem_functionsKept
    · exact .refl
  · exact .refl

theorem unparkOne_functionsKept {id : Nat} : FunctionsKept s (s.unparkOne id) := by
  unfold State.unparkOne
  split
  · split
    · exact enqueue_functionsKept
    · exact .refl
  · exact .refl

theorem endWaitWith_functionsKept {id : Nat} {o : Outcome} : FunctionsKept s (s.endWaitWith id o) := by
  unfold State.endWaitWith
  split
  · exact .refl
  · split
    · exact .of_eq rfl rfl rfl rfl rfl
    · exact finish_functionsKept

theorem wakeQuiesce_functionsKept : FunctionsKept s s.wakeQuiesce := by
  unfold State.wakeQuiesce
  split
  · refine .foldl (fun t id => ?_) _ _
    split
    · split
      · exact endWaitWith_functionsKept
      · exact .refl
    · exact .refl
  · exact .refl

theorem wakeSuspend_functionsKept : FunctionsKept s s.wakeSuspend := by
  refine .foldl (fun t id => ?_) _ _
  split
  · split
    · exact endWaitWith_functionsKept
    · exact .refl
  · exact .refl

theorem afterRelease_functionsKept : FunctionsKept s s.afterRelease := by
  have hunpark : FunctionsKept s s.unpark :=
    (FunctionsKept.foldl (fun _ _ => freeHeadEntry_functionsKept) _ _).trans
      (.foldl (fun _ _ => unparkOne_functionsKept) _ _)
  exact (hunpark.trans wakeQuiesce_functionsKept).trans wakeSuspend_functionsKept

/-! ### Records leave in flow order (R106, R109) -/

theorem setQp_functionsKept {q : Qp} : FunctionsKept s (s.setQp fn qp q) := .of_eq rfl rfl rfl rfl rfl

theorem countRecord_functionsKept : FunctionsKept s (s.countRecord fn qp it) := by
  unfold State.countRecord
  split
  · extract_lets q limit
    split
    · exact setQp_functionsKept.trans sendVector_functionsKept
    · exact setQp_functionsKept
  · exact .refl

/-- The end of a swap touches its VF's dirty log alone. -/
theorem closeSwap_functionsKept : FunctionsKept s (s.closeSwap it).1 := by
  unfold State.closeSwap
  split
  · extract_lets n v
    split
    · exact .refl
    · next d _ =>
      split
      · exact setVf_functionsKept rfl
      · have hmerge : FunctionsKept s (s.mergeDirty d) := .foldl (fun _ _ => hostWrite_functionsKept) _ _
        exact hmerge.trans (setVf_functionsKept rfl)
  · exact .refl

theorem closeExchange_functionsKept {c xid : Nat} {mine : Bool} : FunctionsKept s (s.closeExchange c xid mine) := by
  unfold State.closeExchange
  split <;> exact .of_eq rfl rfl rfl rfl rfl

theorem chanSend_functionsKept {c typ flags xid : Nat} {body : List Byte} {weir : Option Nat} :
    FunctionsKept s (s.chanSend c typ flags xid body weir) := by
  obtain ⟨_, _, h⟩ := chanSend_datapathOnly (s := s) (c := c) (typ := typ) (flags := flags) (xid := xid) (body := body)
    (weir := weir)
  rw [h]
  exact .of_eq rfl rfl rfl rfl rfl

theorem answerGateway_functionsKept {c : Nat} : FunctionsKept s (s.answerGateway c it) := by
  unfold State.answerGateway
  split
  · exact .refl
  · exact chanSend_functionsKept.trans closeExchange_functionsKept

theorem writeRecord_functionsKept : FunctionsKept s (s.writeRecord it true) := by
  have hclose : FunctionsKept s (s.closeSwap it).1 := closeSwap_functionsKept
  unfold State.writeRecord
  rcases hswap : s.closeSwap it with ⟨closed, it'⟩
  rw [hswap] at hclose
  dsimp only
  refine FunctionsKept.trans (FunctionsKept.trans (hclose.trans ?_) trace_functionsKept) removeItem_functionsKept
  split
  · split
    · exact setQp_functionsKept
    · rw [if_pos rfl]
      exact (hostWrite_functionsKept.trans setQp_functionsKept).trans countRecord_functionsKept
  · exact answerGateway_functionsKept
  · exact .refl

theorem releaseFlow_functionsKept {f : Nat} : ∀ {fuel : Nat} {s : State}, FunctionsKept s (State.releaseFlow true f fuel s)
  | 0, _ => .refl
  | fuel + 1, s => by
    unfold State.releaseFlow
    split
    · exact .refl
    · next it _ =>
      extract_lets fl left
      have hleft : FunctionsKept s left := by
        unfold left
        split
        · exact trace_functionsKept.trans removeItem_functionsKept
        · exact writeRecord_functionsKept
      have hnext : FunctionsKept left (left.setFlow f { fl with headSeq := fl.headSeq + 1 }) := .of_eq rfl rfl rfl rfl rfl
      exact (hleft.trans hnext).trans releaseFlow_functionsKept

theorem discardItem_functionsKept : FunctionsKept s (s.discardItem it) := by
  unfold State.discardItem
  extract_lets freed unlisted released pke dropped
  have hfree : FunctionsKept s freed := freeCore_functionsKept
  have hunlist : FunctionsKept freed unlisted := .of_eq rfl rfl rfl rfl rfl
  have hrelease : FunctionsKept unlisted released := releaseClaim_functionsKept
  have hreleased : FunctionsKept s released := (hfree.trans hunlist).trans hrelease
  have hdropped : FunctionsKept released dropped := by
    unfold dropped
    split
    · exact .of_eq rfl rfl rfl rfl rfl
    · exact .refl
  split
  · exact (hreleased.trans hdropped).trans setItem_functionsKept
  · exact ((hreleased.trans hdropped).trans trace_functionsKept).trans removeItem_functionsKept

theorem discardItems_functionsKept : FunctionsKept s (s.discardItems fn) := by
  unfold State.discardItems
  extract_lets mine discarded flows
  have hdiscarded : FunctionsKept s discarded := .foldl (fun _ _ => discardItem_functionsKept) _ _
  exact (hdiscarded.trans (.foldl (fun _ _ => releaseFlow_functionsKept) _ _)).trans afterRelease_functionsKept

end

end Sys2Proof.Machine

/-! PROOFS. Function-level resets (R358, R359), and the states of the link, IDE streams and TDISP interfaces
(R353, R354, R360 to R362). -/

namespace Sys2Proof.Machine

/-! ## Tables that lose the entries of a function -/

section
variable {α : Type} {p : Nat × α → Bool} {k : Nat}

/-- A table keeps what it holds of a number whose entries pass. -/
theorem tabGet_filter_pass (hp : ∀ v, p (k, v) = true) : ∀ {t : Tab α}, tabGet (t.filter p) k = tabGet t k
  | [] => rfl
  | (j, v) :: r => by
    by_cases hj : j = k
    · subst hj
      rw [List.filter_cons_of_pos (hp v), tabGet, tabGet, if_pos rfl, if_pos rfl]
    · have hrest : tabGet (r.filter p) k = tabGet r k := tabGet_filter_pass hp
      rw [tabGet, if_neg hj, ← hrest]
      cases hv : p (j, v) with
      | true => rw [List.filter_cons_of_pos hv, tabGet, if_neg hj]
      | false => rw [List.filter_cons_of_neg (ne_true_of_eq_false hv)]

/-- A table holds nothing more of a number whose entries fail. -/
theorem tabGet_filter_fail (hp : ∀ v, p (k, v) = false) : ∀ {t : Tab α}, tabGet (t.filter p) k = none
  | [] => rfl
  | (j, v) :: r => by
    have hrest : tabGet (r.filter p) k = none := tabGet_filter_fail hp
    cases hv : p (j, v) with
    | true =>
      have hj : j ≠ k := fun h => by simp [h, hp v] at hv
      rw [List.filter_cons_of_pos hv, tabGet, if_neg hj, hrest]
    | false => rw [List.filter_cons_of_neg (ne_true_of_eq_false hv), hrest]

end

section
variable {s t u : State} {n fn : Nat}

theorem regKey_div {off : Nat} (hoff : off < 2 ^ 26) : regKey fn off / 67108864 = fn := by
  rw [regKey]
  omega

theorem qpKey_div {q : Nat} (hq : q < 16) : qpKey fn q / 16 = fn := by
  rw [qpKey]
  omega

theorem clearRegs_reg_vf {off : Nat} (hvf : n ≠ 0) (hoff : off < 2 ^ 26) : (s.clearRegs n).reg n off = regReset n off := by
  have hnone : tabGet (s.clearRegs n).regs (regKey n off) = none :=
    tabGet_filter_fail fun v => by simp [hvf, regKey_div hoff]
  rw [State.reg, tabGetD, hnone]
  rfl

theorem clearRegs_reg_ne {off : Nat} (hvf : n ≠ 0) (hfn : fn ≠ n) (hoff : off < 2 ^ 26) :
    (s.clearRegs n).reg fn off = s.reg fn off := by
  have hkept : tabGet (s.clearRegs n).regs (regKey fn off) = tabGet s.regs (regKey fn off) :=
    tabGet_filter_pass fun v => by simp [hvf, regKey_div hoff, hfn]
  rw [State.reg, tabGetD, hkept]
  rfl

theorem clearRegs_reg_pf {off : Nat} (hlow : 0x0028_0000 ≤ off) (hhigh : off < 0x002A_0000) :
    (s.clearRegs 0).reg 0 off = regReset 0 off := by
  have hnone : tabGet (s.clearRegs 0).regs (regKey 0 off) = none :=
    tabGet_filter_fail fun v => by simp [regKey, hlow, hhigh]
  rw [State.reg, tabGetD, hnone]
  rfl

/-- The queue pairs of a function are back at reset. -/
def State.clearQps (s : State) (n : Nat) : State := { s with qps := s.qps.filter fun p => p.1 / 16 ≠ n }

theorem clearQps_qp {q : Nat} (hq : q < 16) : (s.clearQps n).qp n q = Qp.idle := by
  have hnone : tabGet (s.clearQps n).qps (qpKey n q) = none :=
    tabGet_filter_fail fun v => by simp [qpKey_div hq]
  rw [State.qp, tabGetD, hnone]
  rfl

/-! ## The reset of a VF (R358) -/

/-- The end of a suspension's wait moves the dispatcher alone. -/
theorem wakeSuspend_eq : ∃ dsp, s.wakeSuspend = { s with dsp := dsp } := by
  refine foldl_dsp fun t id => ?_
  split
  · next it hitem =>
    split
    · next hwaits =>
      unfold State.endWaitWith
      rw [hitem]
      dsimp only
      rw [hwaits.1]
      exact ⟨_, rfl⟩
    · exact ⟨t.dsp, rfl⟩
  · exact ⟨t.dsp, rfl⟩

/-- A function's items have ended: those of the PF that move its state, and its own. -/
def State.flrDrops (s : State) (n : Nat) : State :=
  let aborts := s.itemList.filter fun it => (it.opcode == 0x0755 || it.opcode == 0x0756) && it.isPf && it.le 16 2 == n &&
    (it.isRunning || it.isYielded)
  (aborts.foldl (fun s it => s.failItem it.id stAborted) s).discardItems n

/-- A VF after its reset. -/
def Vf.wiped (v : Vf) : Vf :=
  { v with
    stale := false
    outcome := 0
    pba := []
    flrBusy := true
    tdi := if v.tdi = .configLocked ∨ v.tdi = .run then .error else v.tdi }

theorem Vf.wiped_suspended {v : Vf} : v.wiped.suspended = v.suspended := rfl

/-- A VF's queue pairs, registers and trace ring are back at reset, and it is wiped. -/
def State.flrWipes (s : State) (n : Nat) : State :=
  { ((s.clearQps n).clearRegs n).setVf n (s.vf n).wiped with
    dsp := { s.dsp with traces := tabErase s.dsp.traces n } }

theorem flrVf_eq : s.flrVf n = ((s.flrDrops n).flrWipes n).wakeSuspend := by
  unfold State.flrVf
  extract_lets aborts failed dropped
  have hdropped : s.flrDrops n = dropped := rfl
  rw [hdropped]
  clear_value dropped
  rfl

theorem flrDrops_kept : FunctionsKept s (s.flrDrops n) := by
  unfold State.flrDrops
  extract_lets aborts
  have haborts : FunctionsKept s (aborts.foldl (fun s it => s.failItem it.id stAborted) s) :=
    .foldl (fun _ _ => finish_functionsKept) _ _
  exact haborts.trans discardItems_functionsKept

theorem flrWipes_portKept : PortKept s (s.flrWipes n) := ⟨rfl, rfl, rfl, rfl⟩

theorem flrVf_portKept : PortKept s (s.flrVf n) := by
  rw [flrVf_eq]
  exact (flrDrops_kept.toPortKept.trans flrWipes_portKept).trans wakeSuspend_functionsKept.toPortKept

theorem flrWipes_vf : (s.flrWipes n).vf n = (s.vf n).wiped := vf_setVf_self (s := (s.clearQps n).clearRegs n)

theorem flrWipes_qp {q : Nat} (hq : q < 16) : (s.flrWipes n).qp n q = Qp.idle := clearQps_qp hq

theorem flrWipes_reg {off : Nat} (hvf : n ≠ 0) (hoff : off < 2 ^ 26) : (s.flrWipes n).reg n off = regReset n off :=
  clearRegs_reg_vf (s := s.clearQps n) hvf hoff

theorem flrWipes_reg_ne {off : Nat} (hvf : n ≠ 0) (hfn : fn ≠ n) (hoff : off < 2 ^ 26) :
    (s.flrWipes n).reg fn off = s.reg fn off := clearRegs_reg_ne (s := s.clearQps n) hvf hfn hoff

/-- The end of a suspension's wait touches no function. -/
theorem wakeSuspend_functions : s.wakeSuspend.vf = s.vf ∧ s.wakeSuspend.qp = s.qp ∧ s.wakeSuspend.reg = s.reg := by
  obtain ⟨dsp, h⟩ := wakeSuspend_eq (s := s)
  rw [h]
  exact ⟨rfl, rfl, rfl⟩

theorem reg_of_kept (h : FunctionsKept s t) : t.reg = s.reg := by
  funext fn off
  rw [State.reg, h.regs]
  rfl

theorem countFlr_functions : s.countFlr.vf = s.vf ∧ s.countFlr.qp = s.qp ∧ s.countFlr.reg = s.reg :=
  ⟨rfl, rfl, rfl⟩

theorem countFlr_flrs : s.countFlr.host.flrs = s.host.flrs + 1 := rfl

theorem countFlr_cells : s.countFlr.mem.cells = s.mem.cells := rfl

theorem countFlr_sys : s.countFlr.sys = s.sys := rfl

theorem exec_vfFlr_eq (hvf : n ≠ 0) (hexists : s.fnExists n = true) :
    exec (.vfFlr n) s = .next (s.flrVf n).countFlr := if_neg (by simp [hvf, hexists])

theorem PortKept.flrs (h : PortKept s t) : t.host.flrs = s.host.flrs := by
  have hflrs := congrArg HostState.flrs h.core
  exact hflrs

theorem vfReset {vf : Nat} (hvf : vf ≠ 0) (hexists : s.fnExists vf = true) : ∃ t, exec (.vfFlr vf) s = .next t ∧
    t.host.flrs = s.host.flrs + 1 ∧ (t.vf vf).flrBusy = true ∧ (t.vf vf).stale = false ∧ (t.vf vf).outcome = 0 ∧
    (t.vf vf).pba = [] ∧ (t.vf vf).suspended = (s.vf vf).suspended ∧ (∀ q, q < 16 → t.qp vf q = Qp.idle) ∧
    (∀ off, off < 2 ^ 26 → t.reg vf off = regReset vf off) ∧
    (∀ f off, f ≠ vf → off < 2 ^ 26 → t.reg f off = s.reg f off) ∧ t.mem.cells = s.mem.cells ∧ t.sys = s.sys := by
  have hdrops : FunctionsKept s (s.flrDrops vf) := flrDrops_kept
  have hport : PortKept s (s.flrVf vf) := flrVf_portKept
  obtain ⟨hvfs, hqps, hregs⟩ := wakeSuspend_functions (s := (s.flrDrops vf).flrWipes vf)
  obtain ⟨hvfs', hqps', hregs'⟩ := countFlr_functions (s := s.flrVf vf)
  refine ⟨_, exec_vfFlr_eq hvf hexists, ?_⟩
  rw [hvfs', hqps', hregs', countFlr_flrs, countFlr_cells, countFlr_sys, hport.flrs, hport.cells, hport.sys, flrVf_eq,
    hvfs, hqps, hregs, flrWipes_vf, Vf.wiped_suspended, hdrops.suspended]
  refine ⟨rfl, rfl, rfl, rfl, rfl, rfl, fun q hq => flrWipes_qp hq, fun off hoff => flrWipes_reg hvf hoff,
    fun f off hf hoff => ?_, rfl, rfl⟩
  rw [flrWipes_reg_ne hvf hf hoff, reg_of_kept hdrops]

/-! ## The reset of the PF (R359) -/

theorem flrAllVfs_portKept : PortKept s s.flrAllVfs := by
  unfold State.flrAllVfs
  split
  · exact List.foldlRecOn (motive := PortKept s) _ _ .refl fun _ ht _ _ => ht.trans flrVf_portKept
  · exact .refl

/-- Once its items have ended, the PF's card steps, queue pairs, registers, pending interrupts and VF Enable are
cleared. -/
def State.pfWipes (s : State) : State :=
  { (((s.dropSteps stAborted).clearQps 0).clearRegs 0) with
    host := { s.host with pfPba := [], pfFlrBusy := true, vfEnable := false, flrs := s.host.flrs + 1 } }

theorem exec_pfFlr_eq : exec .pfFlr s = .next (s.flrAllVfs.discardItems 0).pfWipes := by
  change execPfFlr s = _
  unfold execPfFlr State.flrPf
  generalize s.flrAllVfs.discardItems 0 = ended
  rfl

theorem pfWipes_qp {q : Nat} (hq : q < 16) : s.pfWipes.qp 0 q = Qp.idle := clearQps_qp (s := s.dropSteps stAborted) hq

theorem pfWipes_reg {off : Nat} (hlow : 0x0028_0000 ≤ off) (hhigh : off < 0x002A_0000) :
    s.pfWipes.reg 0 off = regReset 0 off :=
  clearRegs_reg_pf (s := (s.dropSteps stAborted).clearQps 0) hlow hhigh

theorem pfWipes_parts : s.pfWipes.host.vfEnable = false ∧ s.pfWipes.host.pfFlrBusy = true ∧ s.pfWipes.host.pfPba = [] ∧
    s.pfWipes.host.flrs = s.host.flrs + 1 ∧ s.pfWipes.mem.cells = s.mem.cells ∧ s.pfWipes.sys = s.sys :=
  ⟨rfl, rfl, rfl, rfl, rfl, rfl⟩

theorem pfReset : ∃ t, exec .pfFlr s = .next t ∧ t.host.vfEnable = false ∧ t.host.pfFlrBusy = true ∧ t.host.pfPba = [] ∧
    t.host.flrs = s.host.flrs + 1 ∧ (∀ q, q < 16 → t.qp 0 q = Qp.idle) ∧
    (∀ off, 0x0028_0000 ≤ off → off < 0x002A_0000 → t.reg 0 off = regReset 0 off) ∧ t.mem.cells = s.mem.cells ∧
    t.sys = s.sys := by
  have hends : PortKept s (s.flrAllVfs.discardItems 0) :=
    flrAllVfs_portKept.trans discardItems_functionsKept.toPortKept
  obtain ⟨henable, hbusy, hpba, hflrs, hcells, hsys⟩ := pfWipes_parts (s := s.flrAllVfs.discardItems 0)
  refine ⟨_, exec_pfFlr_eq, henable, hbusy, hpba, ?_, fun q hq => pfWipes_qp hq,
    fun off hlow hhigh => pfWipes_reg hlow hhigh, hcells.trans hends.cells, hsys.trans hends.sys⟩
  rw [hflrs, hends.flrs]

/-! ## The end of a reset -/

theorem exec_flrDone_vf (hfn : fn ≠ 0) (hbusy : (s.vf fn).flrBusy = true) :
    exec (.flrDone fn) s = .next (s.setVf fn { s.vf fn with flrBusy := false }) :=
  (if_neg hfn).trans (if_pos hbusy)

/-- Once the PF's reset ends, no VF is busy with a reset of its own. -/
theorem exec_flrDone_pf (hbusy : s.host.pfFlrBusy = true) : ∃ t, exec (.flrDone 0) s = .next t ∧
    t.host.pfFlrBusy = false ∧ (∀ n, (t.vf n).flrBusy = false) ∧ t.regs = s.regs ∧ t.qps = s.qps ∧ t.dsp = s.dsp := by
  refine ⟨_, rfl, rfl, fun n => ?_, rfl, rfl, rfl⟩
  have hget := tabGet_map (t := s.host.vfs) (k := n)
    (f := fun p => (p.1, { p.2 with flrBusy := p.2.flrBusy && !s.host.pfFlrBusy })) fun _ => rfl
  rw [State.vf, tabGetD, hget]
  cases tabGet s.host.vfs n with
  | none => rfl
  | some v => simp [hbusy]

/-! ## The link, IDE streams and interfaces (R353, R360 to R362) -/

theorem exec_pcieLinkTrain_up {speed : BitVec 4} {width : BitVec 6} {flit : Bool} (hoff : s.sys.phase ≠ .off)
    (hhold : s.sys.phase ≠ .holdUp) (hspeed : speed = 4 ∨ speed = 5 ∨ speed = 6)
    (hwidth : width = 4 ∨ width = 8 ∨ width = 16) : exec (.pcieLinkTrain speed width flit) s =
      .next { s with host := { s.host with
        linkUp := true, linkSpeed := speed, linkWidth := width, linkFlit := flit } } := by
  have hup : ((speed == 4 || speed == 5 || speed == 6) && (width == 4 || width == 8 || width == 16)) = true := by
    simp only [Bool.and_eq_true, Bool.or_eq_true, beq_iff_eq, or_assoc]
    exact ⟨hspeed, hwidth⟩
  change execPcieLinkTrain speed width flit s = _
  rw [execPcieLinkTrain, if_neg (by simp [hoff, hhold])]
  simp only [hup, if_true, Bool.true_and]

theorem exec_srIovVfEnable_on (hoff : s.host.vfEnable = false) (hn : n ≤ 1023) : exec (.srIovVfEnable true n) s =
    .next { s with host := { s.host with vfEnable := true, numVfs := n } } := by
  change execSrIovVfEnable true n s = _
  simp only [execSrIovVfEnable, if_true, hoff, Bool.false_eq_true, if_false, Nat.min_eq_left hn]

theorem session_not_closed (hsession : s.host.spdmSession = true) : ¬(!s.host.spdmSession) = true := by
  simp [hsession]

theorem exec_ideKm_keyProg {st rid : Nat} (hsession : s.host.spdmSession = true) (hst : st ≤ 16) :
    exec (.ideKm (.keyProg st rid)) s = .next { s with host := { s.host with
      ideKeysSet := s.host.ideKeysSet.insert st, ideRid := tabSet s.host.ideRid st rid } } :=
  (if_neg (session_not_closed hsession)).trans (if_neg (Nat.not_lt.mpr hst))

theorem exec_ideKm_keySetGo {st : Nat} (hsession : s.host.spdmSession = true)
    (hkeys : s.host.ideKeysSet.contains st = true) : exec (.ideKm (.keySetGo st)) s =
      .next { s with host := { s.host with ideSecure := s.host.ideSecure.insert st } } :=
  (if_neg (session_not_closed hsession)).trans (if_pos hkeys)

theorem exec_ideKm_keySetStop {st : Nat} (hsession : s.host.spdmSession = true) :
    exec (.ideKm (.keySetStop st)) s = .next { s with host := { s.host with
      ideSecure := s.host.ideSecure.erase st, ideKeysSet := s.host.ideKeysSet.erase st } } :=
  if_neg (session_not_closed hsession)

/-- A TLP that failed its IDE check has been counted, and its stream is Insecure. -/
def State.ideFailed (s : State) (stream : Nat) : State :=
  { s with host := { s.host with
    ideFail := s.host.ideFail + 1
    aerInternal := s.host.aerInternal + 1
    ideSecure := s.host.ideSecure.erase stream } }

theorem setVf_portKept {v : Vf} : PortKept s (s.setVf n v) := ⟨rfl, rfl, rfl, rfl⟩

theorem PortKept.ide (h : PortKept s t) : t.host.ideFail = s.host.ideFail ∧ t.host.aerInternal = s.host.aerInternal ∧
    t.host.ideSecure = s.host.ideSecure := by
  have hfail := congrArg HostState.ideFail h.core
  have haer := congrArg HostState.aerInternal h.core
  have hsecure := congrArg HostState.ideSecure h.core
  exact ⟨hfail, haer, hsecure⟩

theorem exec_ideCheckFail_unbound {stream : Nat} (hunbound : 16 ≤ stream ∨ tabGet s.host.ideRid stream = none) :
    exec (.ideCheckFail stream) s = .next (s.ideFailed stream) := by
  have hnone : (if stream < 16 then tabGet s.host.ideRid stream else none) = none := by
    rcases hunbound with hlink | hfree
    · exact if_neg (Nat.not_lt.mpr hlink)
    · rw [hfree, ite_self]
  change execIdeCheckFail stream s = _
  rw [execIdeCheckFail]
  simp only [hnone]
  rfl

/-- A bound TDI that is locked or runs moves to ERROR as a reset clears it (R361). -/
theorem exec_ideCheckFail_bound {stream : Nat} (hstream : stream < 16) (hbound : tabGet s.host.ideRid stream = some n)
    (hvf : n ≠ 0) (htdi : (s.vf n).tdi = .configLocked ∨ (s.vf n).tdi = .run) : exec (.ideCheckFail stream) s =
      .next (((s.ideFailed stream).flrVf n).setVf n
        { ((s.ideFailed stream).flrVf n).vf n with tdi := .error, flrBusy := false }) := by
  change execIdeCheckFail stream s = _
  rw [execIdeCheckFail]
  simp only [State.ideFailed, hstream, hbound, if_true]
  rw [if_pos ⟨hvf, htdi⟩]

theorem exec_lockInterface_eq (hvf : n ≠ 0) (hexists : s.fnExists n = true) (htdi : (s.vf n).tdi = .configUnlocked)
    (htenant : (s.vfTenant n).isSome = true) (hcovers : s.streamCovers n = true)
    (hidle : ∀ q, q < 16 → (s.qp n q).enabled = false ∧ (s.qp n q).draining = false)
    (hrunning : (s.vf n).suspended = false) (hdirty : (s.vf n).dirty = none) :
    exec (.lockInterface n) s = .next (s.setVf n { s.vf n with tdi := .configLocked }) := by
  have hqps : ((List.range 16).all fun q => !(s.qp n q).enabled && !(s.qp n q).draining) = true := by
    refine List.all_eq_true.mpr fun q hq => ?_
    obtain ⟨henabled, hdraining⟩ := hidle q (List.mem_range.mp hq)
    simp [henabled, hdraining]
  change execLockInterface n s = _
  exact if_pos ⟨hvf, hexists, htdi, htenant, hcovers, hqps, by simp [hrunning], by simp [hdirty]⟩

end

theorem functionResetsClearTheFunction : FunctionResetsClearTheFunction :=
  ⟨fun _ _ hvf hexists => vfReset hvf hexists, fun _ => pfReset, fun _ _ hfn hbusy => exec_flrDone_vf hfn hbusy,
    fun _ hbusy => exec_flrDone_pf hbusy⟩

theorem linkAndInterfaceStates : LinkAndInterfaceStates := by
  refine ⟨?_, ?_, ?_, ?_, ?_, ?_, ?_, ?_, ?_, ?_, ?_⟩
  · exact fun s speed width flit hoff hhold hspeed hwidth => exec_pcieLinkTrain_up hoff hhold hspeed hwidth
  · exact fun s n hoff hn => exec_srIovVfEnable_on hoff hn
  · exact fun s b => rfl
  · exact fun s st rid hsession hst => exec_ideKm_keyProg hsession hst
  · exact fun s st hsession hkeys => exec_ideKm_keySetGo hsession hkeys
  · exact fun s st hsession => exec_ideKm_keySetStop hsession
  · exact fun s st hunbound => exec_ideCheckFail_unbound hunbound
  · intro s st n hst hbound hvf htdi
    have hport : PortKept (s.ideFailed st) (((s.ideFailed st).flrVf n).setVf n
        { ((s.ideFailed st).flrVf n).vf n with tdi := .error, flrBusy := false }) :=
      flrVf_portKept.trans setVf_portKept
    obtain ⟨hfail, haer, hsecure⟩ := hport.ide
    refine ⟨_, exec_ideCheckFail_bound hst hbound hvf htdi, ?_⟩
    rw [vf_setVf_self]
    exact ⟨rfl, hfail, haer, hsecure, hport.cells, hport.sys, hport.plan⟩
  · exact fun s vf hvf hexists htdi htenant hcovers hidle hrunning hdirty =>
      exec_lockInterface_eq hvf hexists htdi htenant hcovers hidle hrunning hdirty
  · exact fun s vf htdi => if_pos htdi
  · exact fun s vf htdi => if_neg htdi

/-- Settles O7: function resets, and the states of the link, the streams and the interfaces. -/
theorem hostPortStates : Obligations.HostPortStates := ⟨functionResetsClearTheFunction, linkAndInterfaceStates⟩

end Sys2Proof.Machine
